-- ==== Sys2Proof/Word.lean ====
section
/-! DEFINITION. The words of the machine: bytes, 64-bit registers, and sparse tables keyed by a number. -/

namespace Sys2Proof

/-- A byte, the smallest unit the memory map addresses. -/
abbrev Byte := BitVec 8

/-- A 64-bit register or manifest word. -/
abbrev W64 := BitVec 64

/-- A sparse table keyed by a number; an unlisted key stands at the table's default. -/
abbrev Tab (α : Type) := List (Nat × α)

end Sys2Proof
end

