-- ==== Sys2Proof/Machine/Items.lean ====
section
/-! DEFINITION. What comes with a command from outside: messages, flits, frames, error patterns and the parties that
write the Ledger. -/

namespace Sys2Proof.Machine

/-- Who sends a Ledger request (R365): the mailbox, or a port station by its address. -/
inductive Party where
  | mailbox
  | port (station : BitVec 48)
deriving DecidableEq, Repr

/-- A 16-byte slot: its 128 bits and its poison bit (R298, R301). -/
structure LSlot where
  bits : Nat
  poison : Bool
deriving DecidableEq, Repr

/-- A message (R312): header fields and its data units with their poison. -/
structure Msg where
  dest : Nat
  src : Nat
  addr : Nat
  tag : Nat
  lenM1 : Nat
  op : Nat
  ctx : Nat
  hops : Nat
  resp : Nat
  atom : Nat
  resv : Nat
  data : List (List Byte × Bool)
deriving DecidableEq, Repr

/-- A received flit (R298): its header, trailer and slots as sent, and whether its CRC was good and no codeword under it
was uncorrectable (R295, R299). -/
structure LFlit where
  kind : Nat
  seq : Nat
  ack : Nat
  creditBulk : Nat
  creditSb : Nat
  fmt : Nat
  /-- the reserved bits of header and trailer, together -/
  resv : Nat
  sbMap : BitVec 15
  fillMap : BitVec 15
  poisonMap : BitVec 15
  slots : List Nat
  good : Bool
  /-- an uncorrectable codeword overlapped it (R295) -/
  fecBad : Bool
  /-- symbols that the decoder corrected under it (R294) -/
  fecSyms : Nat
deriving DecidableEq, Repr

/-- An error met when a memory unit is read: for each wrong symbol or byte of the stored 70 bytes (check bytes 0 to 5,
then data), its number and the bits that differ (R265, R266). -/
abbrev UnitErr := List (Nat × Byte)

end Sys2Proof.Machine
end

