-- ==== Sys2Proof/Syntax.lean ====
section
/-! DEFINITION. The commands the block takes: one constructor per row of spec/opcode_table.json, in the table's order. -/

namespace Sys2Proof

open Sys2Proof.Machine in
/-- One command: a register write, a protocol item, an event of a timer, sensor or unit, or a step of the block's own
sequencers. -/
inductive Instr where
  /-- CORE_START (R120). A CORE.START write with GO = 1 judges the start conditions and either starts an idle chain, resumes a halted chain from CORE.NEXT_PTR, or sets START_ERR. -/
  | coreStart (core : Fin 24) (ctx : Fin 16) (clr : Bool)
  /-- CLR_ERR (R120). A CORE.START write with CLR_ERR = 1 clears the START_ERR bit of the named context. -/
  | clrErr (core : Fin 24) (ctx : Fin 16)
  /-- CORE_ABORT (R141). A CORE.ABORT write with REQ = 1 requests an abort of a context's chain and sets RESULT to PENDING; writes with REQ = 0, or while PENDING, are ignored. -/
  | coreAbort (core : Fin 24) (ctx : Fin 16)
  /-- ABORT_LATCH (R141). The abort request latches after the register synchroniser, is judged against the chain's state in that cycle, and stops the chain under R142 with one recorded outcome. -/
  | abortLatch (core : Fin 24)
  /-- REGISTER_WRITE (R119). A write to a core or host-port register that has no row of its own takes effect under that register's rules, for example being ignored while a chain is active or being deferred to the next START. -/
  | registerWrite (offset : Nat) (wide : Bool) (value : W64) (poisoned : Bool)
  /-- MANIFEST_FETCH_DONE (R522). The fetch of a manifest's lines completes; the drover judges the fetch, runs the validation checks of R127, clamps value fields, and then reserves a record slot or waits for one. -/
  | manifestFetchDone (core : Fin 24)
  /-- RECORD_SLOT_RESERVE (R136). A drover that was waiting for a free record slot reserves one once CORE.RECORD_TAIL has advanced far enough, and increments CORE.RECORD_HEAD. -/
  | recordSlotReserve (core : Fin 24)
  /-- OUTRIDER_PREFETCH (R148). The Outrider advances down the chain and stages MOVE source reads and CONVOY broadcast operands into the staging region, following BRANCH predictions. -/
  | outriderPrefetch (core : Fin 24)
  /-- MATRIX (R162). A MATRIX manifest enters the run slot and streams rows through the arrays, writing rounded outputs, exchange-word partials, or Cistern adds. -/
  | matrix (core : Fin 24)
  /-- CONVOY_MAC (R190). A CONVOY MAC contracts the selected bank rows with the broadcast vector on the near-bank units and returns the results. -/
  | convoyMac (core : Fin 24)
  /-- CONVOY_ADD (R190). A CONVOY ADD adds the broadcast vector elementwise into the bank rows in place. -/
  | convoyAdd (core : Fin 24)
  /-- CONVOY_MAX (R190). A CONVOY MAX replaces each bank-row element with the maximum of that element and the broadcast element, in place. -/
  | convoyMax (core : Fin 24)
  /-- CONVOY_CMP (R167). A CONVOY CMP counts, for each row, the elements where the weight exceeds the broadcast element. -/
  | convoyCmp (core : Fin 24)
  /-- CONVERT (R169). A VECTOR CONVERT writes d = a in the destination format. -/
  | convert (core : Fin 24)
  /-- VECTOR_ADD (R169). A VECTOR ADD writes a + b. -/
  | vectorAdd (core : Fin 24)
  /-- VECTOR_SUB (R169). A VECTOR SUB writes a − b. -/
  | vectorSub (core : Fin 24)
  /-- VECTOR_MUL (R169). A VECTOR MUL writes a × b. -/
  | vectorMul (core : Fin 24)
  /-- VECTOR_MAX (R169). A VECTOR MAX writes max(a, b), with +0 taken as greater than −0. -/
  | vectorMax (core : Fin 24)
  /-- VECTOR_MIN (R169). A VECTOR MIN writes min(a, b). -/
  | vectorMin (core : Fin 24)
  /-- AXPB (R169). A VECTOR AXPB writes the fused value a × imm0 + imm1, rounded once. -/
  | axpb (core : Fin 24)
  /-- FUNC (R170). A VECTOR FUNC evaluates the special function selected by func on each element. -/
  | funcOp (core : Fin 24)
  /-- RMSNORM (R247). A VECTOR RMSNORM normalises each vector by the reciprocal square root of its mean square plus ε, and applies the optional gain. -/
  | rmsnorm (core : Fin 24)
  /-- LAYERNORM (R248). A VECTOR LAYERNORM subtracts the mean, divides by the standard deviation, and applies the optional gain. -/
  | layernorm (core : Fin 24)
  /-- ROPE (R250). A VECTOR ROPE rotates element pairs by position-dependent angles. -/
  | rope (core : Fin 24)
  /-- ROUTE_TOP2 (R169). A VECTOR ROUTE_TOP2 writes a router word naming the indices of the two largest elements. -/
  | routeTop2 (core : Fin 24)
  /-- AMAX (R169). A VECTOR AMAX writes max |a| as a single FP32 value. -/
  | amax (core : Fin 24)
  /-- SCORE (R165). A SCORE manifest forms attention scores, with the optional bias, mask and causal replacement. -/
  | score (core : Fin 24)
  /-- SOFTMAX (R245). A SOFTMAX manifest normalises each row in place and optionally writes the row statistics. -/
  | softmax (core : Fin 24)
  /-- KV_APPEND (R220). A KV_APPEND manifest quantises incoming key or value vectors and writes their elements and scales into the cache. -/
  | kvAppend (core : Fin 24)
  /-- MOVE (R173). A plain MOVE copies units from source to destination with bits unchanged, carrying poison marks. -/
  | move (core : Fin 24)
  /-- TRANSPOSING_MOVE (R174). A MOVE with transpose = 1 reads source rows and writes the transposed tile into the Waystation. -/
  | transposingMove (core : Fin 24)
  /-- SEND (R175). An EXCHANGE SEND moves units to the ring stop a given number of hops downstream. -/
  | send (core : Fin 24)
  /-- CIRCULATE (R175). An EXCHANGE CIRCULATE delivers units to every other active stop of the tier. -/
  | circulate (core : Fin 24)
  /-- COMBINE (R176). An EXCHANGE COMBINE adds the children of a named plan node in tree order, and rounds the root into D when final = 1. -/
  | combine (core : Fin 24)
  /-- GATHER (R324). An EXCHANGE COLLECTIVE GATHER collects every member's unit on every member. -/
  | gather (core : Fin 24)
  /-- BROADCAST (R324). An EXCHANGE COLLECTIVE BROADCAST delivers rank 0's unit to every member. -/
  | broadcast (core : Fin 24)
  /-- REDUCE_CHILDREN (R326). An EXCHANGE COLLECTIVE REDUCE_CHILDREN forms the nodes of the reduction tree across devices and delivers the root's children to every member. -/
  | reduceChildren (core : Fin 24)
  /-- GRADIENT_FOLD (R177). A GRADIENT_FOLD flushes Cistern tiles to a destination, optionally accumulating into it and clearing the tiles at commit. -/
  | gradientFold (core : Fin 24)
  /-- BARRIER (R477). A SYNC BARRIER arrives at its barrier group and waits until every effective member has arrived. -/
  | barrier (core : Fin 24)
  /-- WAIT (R473). A SYNC WAIT waits until its flag is set, then clears the flag and commits. -/
  | waitFlag (core : Fin 24)
  /-- SIGNAL (R474). A SYNC SIGNAL sets a flag at its commit, locally or on a remote device through FLAG_SET. -/
  | signal (core : Fin 24)
  /-- XBARRIER (R479). A SYNC XBARRIER completes the local barrier and then the cross-device round through rank 0. -/
  | xbarrier (core : Fin 24)
  /-- TABLE_LOAD (R180). A TABLE_LOAD writes the shadow copy of a table and swaps it in at commit. -/
  | tableLoad (core : Fin 24)
  /-- BRANCH (R145). A BRANCH reads the router word, chooses its target or the default path, and updates the Outrider's prediction and counters. -/
  | branch (core : Fin 24)
  /-- CHECKPOINT (R502). A CHECKPOINT writes a dump of the selected core, context, flag, Waystation and Cistern state. -/
  | checkpoint (core : Fin 24)
  /-- MANIFEST_COMMIT (R140). Once every write of a manifest has been acknowledged (and mirrored where required), the drover fixes its status, writes the record, sets its done flag, merges and closes amax records, and follows the next pointer. -/
  | manifestCommit (core : Fin 24)
  /-- DRAIN_LIMIT_EXPIRY (R144). Manifests of a disabling core that have not committed by the drain limit are stopped and end DRAINED_ABORT. -/
  | drainLimitExpiry (core : Fin 24)
  /-- SEGMENT_ARRIVE (R191). A broadcast segment is wholly in a bank group's operand-buffer half, and the NBUs may start stepping on it. -/
  | segmentArrive (lq : Fin 96) (group : Fin 128)
  /-- CONVOY_STEP_END (R193). A convoy step ends at STEP_MAX or at the end of its work, and the step boundary runs: hand-off, any forced refresh, and service of held accesses. -/
  | convoyStepEnd (lq : Fin 96)
  /-- STEP_GRANT (R204). A step waiting at its boundary is granted by the tier's activity budget, in ready order, and begins. -/
  | stepGrant (tier : Fin 6)
  /-- BANK_ACCESS (R197). An access by a requester to a bank unit is served at once, or is held to the bank's next step boundary if the bank is stepping. -/
  | bankAccess (unit : Nat) (source : Nat) (data : Option (List (Option Byte))) (poison : Bool) (err : UnitErr)
  /-- REFRESH_DUE (R202). A layer quadrant's refresh interval timer ticks; the owed count rises, and an idle layer quadrant refreshes at once. -/
  | refreshDue (lq : Fin 96)
  /-- SCRUB_UNIT (R275). The memory scrubber judges the next unit, writes back or poisons it, and posts reload requests. -/
  | scrubUnit (lq : Fin 96) (err : UnitErr)
  /-- SRAM_SCRUB (R278). An SRAM scrubber checks and mends a block of the Waystation, Cistern, tables or Bazaar. -/
  | sramScrub (store : Nat) (block : Nat) (err : List (Nat × BitVec 16)) (rErr : BitVec 16) (cErr : BitVec 16)
  /-- BUCKET_LEAK (R447). A leaky bucket's level falls by one at its leak interval. -/
  | bucketLeak (cls : Fin 8) (inst : Nat)
  /-- SPARING_COPY_DONE (R284). A sparing copy finishes, and the mapping switches to the spare at the next step boundary. -/
  | sparingCopyDone (bank : Fin 196608)
  /-- REPAIR_MAP_WRITE (R285). A field repair is written into the repair map in the serial flash, within 1 s of the repair. -/
  | repairMapWrite (bank : Fin 196608)
  /-- TRACT_MODE_WRITE (R187). An owner write to a tract mode object changes OPEN bits, or is rejected while a conversion is pending. -/
  | tractModeWrite (party : Party) (column : Fin 24) (sub : Fin 24) (value : W64)
  /-- TRACT_CONVERSION_START (R188). A tract's conversion begins once no uncommitted manifest touches the tract. -/
  | tractConversionStart (column : Fin 24) (tract : Fin 1536)
  /-- TRACT_CONVERSION_DONE (R188). A tract's conversion completes, and the tract takes its new mode. -/
  | tractConversionDone (column : Fin 24) (tract : Fin 1536)
  /-- BAZAAR_CORE_READ (R111). A core read reaches a Bazaar bank and joins or opens a merge window, or is served alone. -/
  | bazaarCoreRead (core : Fin 24) (line : Nat) (set : BitVec 24)
  /-- BAZAAR_WINDOW_CLOSE (R112). A Bazaar merge window closes when its set has joined, when 64 fabric cycles have passed, or when a write arrives; the line is read once and broadcast. -/
  | bazaarWindowClose (line : Nat)
  /-- BAZAAR_ACCESS (R111). A non-core Bazaar read or write is served in arrival order, and a write closes any open window on its line first. -/
  | bazaarAccess (addr : Nat) (data : Option (List Byte)) (poison : Bool)
  /-- RING_INJECT (R116). A ring stop holding the needed credits injects a 256-byte transfer onto the Caravan ring. -/
  | ringInject (core : Fin 24)
  /-- RING_TRANSFER_ARRIVE (R116). A ring transfer reaches a stop and is delivered, forwarded, or returned to its sender for an absent stop. -/
  | ringTransferArrive (core : Fin 24)
  /-- CISTERN_OWNER_WRITE (R255). An owner write to the Cistern ownership object changes VALID or CONTEXT for later validations. -/
  | cisternOwnerWrite (party : Party) (core : Fin 24) (value : BitVec 32)
  /-- CISTERN_CLEAR_START (R255). Once no manifest validated under the old ownership remains uncommitted, the Cistern clear begins and CLEARING is set. -/
  | cisternClearStart (core : Fin 24)
  /-- CISTERN_CLEAR_DONE (R255). The Cistern clear completes, CLEARING falls, and waiting manifests proceed. -/
  | cisternClearDone (core : Fin 24)
  /-- FLIT_SEND (R302). A link forms and sends its next flit, placing sideband slots ahead of bulk slots within its credits, or sends IDLE. -/
  | flitSend (link : Fin 32)
  /-- PAYLOAD (R304). A received PAYLOAD flit is accepted if its CRC is good and its SEQ is in order; otherwise it is discarded and a NAK is sent. -/
  | payload (link : Fin 32) (flit : LFlit)
  /-- IDLE (R298). A received IDLE flit returns credits and acknowledgements. -/
  | idle (link : Fin 32) (flit : LFlit)
  /-- NAK (R304). A received NAK makes the sender replay every unacknowledged flit after the named point. -/
  | nak (link : Fin 32) (flit : LFlit)
  /-- RETRAIN_REQ (R305). A received RETRAIN_REQ sends the link into RETRAIN with reason PARTNER. -/
  | retrainReq (link : Fin 32) (flit : LFlit)
  /-- REPLAY_TIMEOUT (R304). REPLAY_TIMEOUT expires at a sender, which replays from its oldest unacknowledged flit, or at a receiver, which resends its NAK. -/
  | replayTimeout (link : Fin 32) (sender : Bool)
  /-- LANE_SIGNAL_LOSS (R305). Loss of signal or clock lock on an active lane for 1 µs sends the link into RETRAIN with reason SIGNAL. -/
  | laneSignalLoss (link : Fin 32)
  /-- LINK_DETECT (R292). The partner's training frames are seen on at least two lanes, and the link leaves DETECT for training. -/
  | linkDetect (link : Fin 32)
  /-- LINK_TRAIN_PHASE_END (R293). A training phase completes or reaches its limit; the link proceeds, repeats, falls back to two lanes, or goes to FAILED. -/
  | linkTrainPhaseEnd (link : Fin 32) (lanes : BitVec 4) (ok : Bool)
  /-- LINK_NEGOTIATE (R308). The NEGOTIATE exchange selects the common version and last accepted SEQs, or sends the link to FAILED. -/
  | linkNegotiate (link : Fin 32) (versions : BitVec 16) (partnerId : BitVec 16) (partnerLink : BitVec 5) (partnerSerial : W64) (lastSeq : BitVec 12) (fresh : Bool)
  /-- LINK_HOLD_EXPIRY (R307). LINK_HOLD expires without a return to ACTIVE; the link is down, and its unacknowledged slots are reported lost. -/
  | linkHoldExpiry (link : Fin 32)
  /-- LINK_DRAIN_EXPIRY (R307). The drain limit of a disabled or switched-off link expires, and the remaining flits are reported lost. -/
  | linkDrainExpiry (link : Fin 32)
  /-- RETRAIN (R310). An owner write of RETRAIN = 1 retrains the link now, with reason COMMAND. -/
  | retrain (party : Party) (link : Fin 32)
  /-- LINK_ENABLE (R310). An owner write of ENABLE disables a link after its drain, or re-enables it. -/
  | linkEnable (party : Party) (link : Fin 32) (enable : Bool)
  /-- READ (R314). A received fabric READ is served within a remote window and answered with READ_DATA, or denied, or forwarded. -/
  | read (link : Fin 32) (msg : Msg)
  /-- READ_DATA (R313). A received READ_DATA completes an outstanding read. -/
  | readData (link : Fin 32) (msg : Msg)
  /-- WRITE (R314). A received fabric WRITE is applied within a remote window and answered with WRITE_ACK once it is visible. -/
  | write (link : Fin 32) (msg : Msg)
  /-- WRITE_ACK (R314). A received WRITE_ACK completes an outstanding write. -/
  | writeAck (link : Fin 32) (msg : Msg)
  /-- FETCH_ADD (R322). A received ATOMIC FETCH_ADD adds modulo 2^64 as a held read-modify-write and returns the old value. -/
  | fetchAdd (link : Fin 32) (msg : Msg)
  /-- SWAP (R322). A received ATOMIC SWAP replaces an 8-byte field and returns the old value. -/
  | swap (link : Fin 32) (msg : Msg)
  /-- CAS64 (R322). A received ATOMIC CAS64 compares and swaps an 8-byte field and returns the old value. -/
  | cas64 (link : Fin 32) (msg : Msg)
  /-- MAX_U32 (R322). A received ATOMIC MAX_U32 takes the unsigned maximum of a 4-byte field. -/
  | maxU32 (link : Fin 32) (msg : Msg)
  /-- ADD_SAT_U32 (R322). A received ATOMIC ADD_SAT_U32 adds with saturation into a 4-byte field. -/
  | addSatU32 (link : Fin 32) (msg : Msg)
  /-- OR32 (R322). A received ATOMIC OR32 ORs into a 4-byte field. -/
  | or32 (link : Fin 32) (msg : Msg)
  /-- ATOMIC_DATA (R313). A received ATOMIC_DATA completes an outstanding atomic with the old value. -/
  | atomicData (link : Fin 32) (msg : Msg)
  /-- FLAG_SET (R474). A received FLAG_SET sets the named flag if its block is permitted and returns a response. -/
  | flagSet (link : Fin 32) (msg : Msg)
  /-- BARRIER_ARRIVE (R479). Rank 0 receives a BARRIER_ARRIVE and, once it holds all arrivals, releases the cross-device barrier. -/
  | barrierArrive (link : Fin 32) (msg : Msg)
  /-- BARRIER_RELEASE (R479). A received BARRIER_RELEASE of the current GEN releases the local members of an XBARRIER. -/
  | barrierRelease (link : Fin 32) (msg : Msg)
  /-- HEARTBEAT (R328). A received mirror HEARTBEAT on a bundle link keeps the partner known to be alive. -/
  | heartbeat (link : Fin 32) (msg : Msg)
  /-- COLL_READY (R325). A received COLL_READY allows the sender to send COLL_DATA to that receiver. -/
  | collReady (link : Fin 32) (msg : Msg)
  /-- COLL_DATA (R325). A received COLL_DATA is placed according to its COLL_ID, GROUP, rank and index, or combined into a tree node. -/
  | collData (link : Fin 32) (msg : Msg)
  /-- MIRROR_DELTA (R330). The secondary receives a delta part and applies parts strictly in MSEQ order, holding early arrivals and discarding duplicates. -/
  | mirrorDelta (link : Fin 32) (msg : Msg)
  /-- MIRROR_ACK (R331). A received MIRROR_ACK advances ACKED and releases commits waiting on the mirror. -/
  | mirrorAck (link : Fin 32) (msg : Msg)
  /-- TAKEOVER_NOTICE (R335). An old primary receiving TAKEOVER_NOTICE aborts its mirrored chains and sets ROLE to none. -/
  | takeoverNotice (link : Fin 32) (msg : Msg)
  /-- REQUEST_TIMEOUT (R320). An outstanding request with no response within REQUEST_TIMEOUT completes LOST. -/
  | requestTimeout (tag : Fin 4096)
  /-- TAG_RELEASE (R320). A tag that completed LOST becomes free for issue again after a further REQUEST_TIMEOUT. -/
  | tagRelease (tag : Fin 4096)
  /-- COLL_TIMEOUT (R327). A collective missing expected messages at COLL_TIMEOUT ends TARGET_RESET. -/
  | collTimeout (core : Fin 24)
  /-- XTIMEOUT (R480). An XBARRIER that has not released within XTIMEOUT ends TARGET_RESET on every local member, and GEN advances. -/
  | xtimeout (group : Fin 16)
  /-- HEARTBEAT_SEND (R328). Every 100 µs, a mirrored device sends a HEARTBEAT on each active bundle link. -/
  | heartbeatSend
  /-- PARTNER_LOST (R328). No HEARTBEAT arrives on any bundle link for 1 ms; PARTNER_LOST is set and the mirror interrupt is raised. -/
  | partnerLost
  /-- MIRROR_LAG (R331). A delta has waited 100 µs for acknowledgement, and the pair state becomes LAGGING. -/
  | mirrorLag
  /-- SOLO_TIMEOUT (R332). LAGGING lasts SOLO_TIMEOUT; the primary enters SOLO, commits pending manifests, and stops sending deltas. -/
  | soloTimeout
  /-- END_PAIR (R332). A primary's END_PAIR command enters SOLO at once and sets ROLE to none. -/
  | endPair (party : Party)
  /-- RESYNC (R333). A primary's RESYNC command begins a full copy of the mirror ranges and sets SYNCING. -/
  | resync (party : Party)
  /-- TAKEOVER (R335). A secondary's TAKEOVER command stops accepting deltas, applies those up to the gap, and becomes primary within 2 ms. -/
  | takeover (party : Party)
  /-- HOST_BAR2_READ (R344). A host read through BAR2 is mapped to a local address and served, or completes with Completer Abort. -/
  | hostBar2Read (offset : Nat) (length : Nat)
  /-- HOST_BAR2_WRITE (R344). A host write through BAR2 is mapped and applied, merged, or discarded and logged. -/
  | hostBar2Write (offset : Nat) (data : List Byte) (poisoned : Bool)
  /-- HOST_ATOMIC (R351). A PCIe AtomicOp to memory or the Bazaar is performed, or completes with EP set when the unit is poisoned. -/
  | hostAtomic (offset : Nat) (op : Fin 3) (wide : Bool) (operand : W64) (compare : W64)
  /-- FUNCTION_LEVEL_RESET (R354). A Function Level Reset aborts every chain and resets the host-port state, leaving memory and the Ledger intact. -/
  | functionLevelReset
  /-- PERST (R442). Assertion of PERST# resets the host port only, or the whole device, according to PERST_SCOPE. -/
  | perst
  /-- MBOX_SUBMIT (R371). A MBOX.SUBMIT write with GO = 1 queues the request PDU, or sets OVERRUN if the mailbox is busy. -/
  | mboxSubmit
  /-- MBOX_CLEAR (R370). A MBOX.CTRL write with CLR = 1 clears DONE and OVERRUN. -/
  | mboxClear (irqEn : Bool)
  /-- LAP_FRAME_RECEIVE (R373). A management-port frame is received and its PDU is queued, answered from the kept replies, or discarded. -/
  | lapFrameReceive (dest : BitVec 48) (source : BitVec 48) (lap : Bool) (tagged : Bool) (fcsOk : Bool) (content : List Byte) (stale : Bool)
  /-- LEDGER_READ (R369). A queued READ PDU is served, and its reply is formed. -/
  | ledgerRead
  /-- LEDGER_WRITE (R359). A queued WRITE PDU judges and applies each field in order, optionally all-or-nothing, and forms the write report. -/
  | ledgerWrite
  /-- DESCRIBE (R356). A queued DESCRIBE PDU returns the descriptor of each named subindex. -/
  | describe
  /-- DISCOVER (R375). A DISCOVER broadcast is answered within 20 ms with identity, grade, device ID and port settings. -/
  | discover
  /-- TRAY_REPORT (R376). A TRAY_REPORT is accepted if its source, sequence and node match, updates the coolant readings and limits, and may raise or clear coolant causes. -/
  | trayReport (source : BitVec 48) (word : W64) (entries : List W64)
  /-- FAILSAFE_REPEAT (R377). Every 10 ms, for up to 10 s, an unacknowledged FAILSAFE is repeated with the most serious cause present. -/
  | failsafeRepeat
  /-- FAILSAFE_ACK (R377). A FAILSAFE_ACK echoing the current word ends the repetition. -/
  | failsafeAck (word : W64)
  /-- CLAIM (R366). A CLAIM grants or renews Ledger ownership, or is rejected with reason STATE. -/
  | claim (party : Party)
  /-- RELEASE (R366). The owner's RELEASE ends ownership. -/
  | release (party : Party)
  /-- LEASE_EXPIRY (R366). The owner's lease runs out, ownership ends, and the expiry is logged. -/
  | leaseExpiry
  /-- SAVE (R367). SAVE copies every persistent object for writing into flash. -/
  | save (party : Party)
  /-- FORGET (R367). FORGET erases every saved value at the next save slot. -/
  | forget (party : Party)
  /-- SAVE_DONE (R367). A save or erase finishes or fails; BUSY clears, and SAVES or FAILED are updated. -/
  | saveDone (ok : Bool)
  /-- MGMT_SETTINGS_APPLY (R372). A write to the management-port settings takes effect 100 ms after its reply. -/
  | mgmtSettingsApply
  /-- FAULT_LOG_CLEAR (R462). The owner's CLEAR empties the fault log. -/
  | faultLogClear (party : Party)
  /-- MEMORY_LOG_CLEAR (R280). The owner's CLEAR empties a memory-layer log and zeroes LOST. -/
  | memoryLogClear (party : Party) (layer : Fin 24)
  /-- FAULT_LOG_PERSIST (R462). A fault-log entry is written into the serial flash within its deadline. -/
  | faultLogPersist (sub : Fin 240)
  /-- LEDGER_FLAG_SET (R475). The owner sets a core flag through object 0x8061. -/
  | ledgerFlagSet (party : Party) (core : Fin 24) (flag : Fin 1024)
  /-- LEDGER_FLAG_CLEAR (R475). The owner clears a core flag through object 0x8061. -/
  | ledgerFlagClear (party : Party) (core : Fin 24) (flag : Fin 1024)
  /-- CONTEXT_OPEN (R464). An OPEN bit changing from 0 to 1 opens a context on a core, resetting its registers and tables, or is rejected. -/
  | contextOpen (party : Party) (core : Fin 24) (ctx : Fin 16)
  /-- CONTEXT_CLOSE (R464). An OPEN bit changing from 1 to 0 closes a context on a core: its chain drains, parked manifests end DRAINED_ABORT, and the Cistern is released. -/
  | contextClose (party : Party) (core : Fin 24) (ctx : Fin 16)
  /-- QUANTUM_EXPIRY (R469). The current context's quantum expires; a waiting SYNC is parked, and a switch is due. -/
  | quantumExpiry (core : Fin 24)
  /-- CONTEXT_SWITCH (R470). With both slots empty after the quantum, the drover saves the outgoing context, loads the next ready one, and discards staged lines. -/
  | contextSwitch (core : Fin 24)
  /-- PARKED_RESUME (R471). A parked context's wait condition is met, and it becomes eligible to resume. -/
  | parkedResume (core : Fin 24)
  /-- FENCE (R455). The owner's FENCE fences a core with cause OWNER, draining it under R456. -/
  | fence (party : Party) (core : Fin 24)
  /-- UNFENCE (R457). The owner's UNFENCE is judged against the recorded cause and, if accepted, turns the core's domain on. -/
  | unfence (party : Party) (core : Fin 24)
  /-- DOMAIN_ON (R391). A REQUEST = ON write begins turning a power domain on, or is held, or is rejected. -/
  | domainOn (party : Party) (dom : Fin 38)
  /-- DOMAIN_OFF (R391). A REQUEST = OFF write begins turning a power domain off, or is held, or is rejected. -/
  | domainOff (party : Party) (dom : Fin 38)
  /-- DOMAIN_TRANSITION_DONE (R392). A domain's turn-off or turn-on completes, and held requests are acted on. -/
  | domainTransitionDone (dom : Fin 38)
  /-- CAP_PERIOD (R397). Every 50 µs, the capping controller computes modelled power and raises, lowers or holds the common states under the cap and the excursion rules. -/
  | capPeriod (power : BitVec 16) (next : BitVec 16)
  /-- PSTATE_CHANGE_DONE (R394). A PLL retune for a performance-state change completes, and the new clock and voltage are in force. -/
  | pstateChangeDone (unit : Fin 30)
  /-- FEED_OUT_OF_RANGE (R382). A feed out of range for 20 µs is judged not good, and its bank disconnects. -/
  | feedOutOfRange (feed : Fin 2)
  /-- FEED_RESTORE (R382). A feed that has been within range for 100 ms continuously returns to service. -/
  | feedRestore (feed : Fin 2)
  /-- PWR_ALERT_ASSERT (R400). PWR_ALERT_N is asserted, and the forced floor is entered through hard-wired logic. -/
  | pwrAlertAssert (causes : BitVec 5)
  /-- PWR_ALERT_RELEASE (R400). PWR_ALERT_N is released, and the 1 ms floor hold begins. -/
  | pwrAlertRelease
  /-- FLOOR_HOLD_END (R400). The floor hold ends 1 ms after the alert's release, and the controller resumes from P7. -/
  | floorHoldEnd
  /-- PWR_ALERT_LONG (R400). An assertion that lasts 100 ms makes the thermal watch processor send FAILSAFE with cause 0x05. -/
  | pwrAlertLong
  /-- PHASE_FAULT (R386). A regulator phase is judged failed, and its cluster steps down its ladder. -/
  | phaseFault (pos : Fin 31) (cluster : Fin 70)
  /-- CURRENT_LIMIT_TRIP (R386). A regulator phase trips its current limit, feeding that phase's bucket. -/
  | currentLimitTrip (pos : Fin 31) (cluster : Fin 70) (phase : Fin 9)
  /-- SENSE_EVENT (R390). An excess remote-sense drop held for 1 ms counts one sense event in the cluster's bucket. -/
  | senseEvent (pos : Fin 31) (cluster : Fin 70)
  /-- SENSOR_SAMPLE (R408). Every 100 µs, the thermal watch processor samples every sensor, judges pairs and regions, and applies floors and trips. -/
  | sensorSample (first : Bool) (readings : List (Nat × Nat × Option (BitVec 16) × Option (BitVec 16)))
  /-- THERMAL_TICK (R411). Every 1 ms, each region's state ceiling or activity budget is throttled or released by one step. -/
  | thermalTick
  /-- TRAY_SILENCE_TIMEOUT (R414). No accepted report, or no valid flow, for 50 ms raises cause 3 and enters the forced floor. -/
  | traySilenceTimeout
  /-- COOLANT_RELEASE (R414). Every coolant cause has met its release condition for 1 s; the device floor ends and capping resumes from P7. -/
  | coolantRelease
  /-- MISSING_EDGE (R428). A missing-edge detector declares a clock source lost, and the PLLs on that source go to safe states or switch automatically. -/
  | missingEdge (src : Fin 3)
  /-- CLOCK_JUDGE_WINDOW (R427). A judgement window of a source or PLL ends; its count updates the STABLE or LOST judgement, and waiting clocks resume. -/
  | clockJudgeWindow (clock : Fin 38) (within : Bool)
  /-- SRC_REQ (R429). An owner write of SRC_REQ switches a PLL's source through a safe point and a relock, or is refused. -/
  | srcReq (party : Party) (pll : Fin 36) (src : Bool)
  /-- TWP_OSC_LOSS (R434). Loss of the thermal watch oscillator stops every clock, puts the banks into self-refresh, and asserts THERM_TRIP_N. -/
  | twpOscLoss
  /-- HELD_DOMAIN_TIMEOUT (R432). A BAR2 request crossing a domain held for 1 ms completes with Completer Abort. -/
  | heldDomainTimeout
  /-- RESET_CORE (R441). An owner request for a core reset is judged and scheduled. -/
  | resetCore (party : Party) (target : BitVec 8)
  /-- RESET_TIER (R441). An owner request for a tier reset, optionally full-layer, is judged and scheduled. -/
  | resetTier (party : Party) (target : BitVec 8) (fullLayer : Bool)
  /-- RESET_PARTITION (R441). An owner request for a partition reset is judged and scheduled. -/
  | resetPartition (party : Party) (target : BitVec 8)
  /-- RESET_DEVICE (R441). An owner request for a device reset is judged and scheduled. -/
  | resetDevice (party : Party)
  /-- RESET_BEGIN (R439). A requested reset begins after its reply has been sent; the affected cores enter DISABLING and work drains. -/
  | resetBegin
  /-- SPINE_QUIESCE_END (R440). The 50 µs quiesce of a full-layer reset ends; open transfers are absorbed with TARGET_RESET, and reset is asserted. -/
  | spineQuiesceEnd (absorbed : BitVec 32)
  /-- RESET_RELEASE (R440). The reset pulse ends; spine stages return, held transfers are granted, and PLLs relock. -/
  | resetRelease
  /-- POWER_ON (R443). Power is applied, and bring-up starts from the always-on rail. -/
  | powerOn
  /-- BRINGUP_STAGE_END (R443). A bring-up stage completes or fails, and STAGE advances or becomes 0xFF. -/
  | bringupStageEnd (ok : Bool) (bad : BitVec 24) (cold : BitVec 6)
  /-- MC_HEARTBEAT (R459). The management controller's heartbeat reaches the thermal watch processor. -/
  | mcHeartbeat
  /-- MC_TIMEOUT (R459). No heartbeat arrives within MC_TIMEOUT; the thermal watch processor takes both Ledger paths and acts as ACTION directs. -/
  | mcTimeout
  /-- RESTART_LIMIT (R459). No heartbeat arrives within RESTART_LIMIT of a restart; a watchdog reset is performed. -/
  | restartLimit
  /-- BOND_TEST_PERIOD (R450). The bond self-test period expires, and an in-service pass begins. -/
  | bondTestPeriod
  /-- RUN (R454). The owner's RUN starts a bond self-test pass, or is rejected while one runs. -/
  | runTest (party : Party)
  /-- LANE_TEST_DONE (R450). A lane's PRBS test ends, and its traffic returns to the lane or stays on the spare, with mapping-out or fencing if no spare remains. -/
  | laneTestDone (core : Fin 24) (segment : Fin 6) (crossing : Fin 28) (lane : BitVec 12) (ok : Bool) (last : Bool)
  /-- TOLL_INTEGRATE (R404). Every 1 ms, the Toll meter integrates modelled power into device, context and unattributed energy. -/
  | tollIntegrate (contexts : List W64) (unattributed : W64)
  /-- REQUEST (R486). The owner's attestation REQUEST starts forming a signed report of the current state. -/
  | attestRequest (party : Party)
  /-- ATTEST_REPORT_READY (R486). The attestation report is complete, and READY is set. -/
  | attestReportReady
  /-- BEGIN (R494). BEGIN opens an update session with a new session key pair and nonce. -/
  | beginUpdate (party : Party) (proc : Fin 4)
  /-- APPLY (R495). APPLY verifies a package and writes the new image into the inactive slot. -/
  | applyPackage (party : Party)
  /-- APPLY_DONE (R495). APPLY finishes, and the session goes to APPLIED or FAILED. -/
  | applyDone (sigOk : Bool) (tagOk : Bool) (digestOk : Bool)
  /-- ACTIVATE (R496). ACTIVATE starts the processor from the new slot, and the session goes to PENDING. -/
  | activate (party : Party)
  /-- START_FAIL_TIMEOUT (R496). A pending image gives no heartbeat or ready signal in time, and it reverts with START_FAILED. -/
  | startFailTimeout
  /-- CONFIRM (R497). CONFIRM raises the rollback floor, blows revocation fuses, and ends the session. -/
  | confirm (party : Party)
  /-- REVERT (R494). REVERT restarts the processor from its old slot and sets FELL_BACK. -/
  | revert (party : Party)
  /-- CANCEL (R494). CANCEL erases the session key and invalidates the inactive slot. -/
  | cancel (party : Party)
  /-- CHUNK (R494). A CHUNK write stores 64 bytes of a package in flash staging and advances CHUNK_OFFSET. -/
  | chunk (party : Party) (data : BitVec 512)
  /-- CONFIRM_LIMIT_EXPIRY (R496). A pending image that is unconfirmed at CONFIRM_LIMIT reverts with CONFIRM_EXPIRED. -/
  | confirmLimitExpiry
  /-- ALIGN_LOSS (R305). A link receiver misses two marker pairs in a row, loses alignment, and enters RETRAIN with reason ALIGN. -/
  | alignLoss (link : Fin 32)
  /-- FLIT_PROTOCOL_ERROR (R300). A flit with a good CRC but an unknown TYPE or FMT, or a non-zero reserved bit, is discarded, NAKed and counted, and a retrain with reason PROTOCOL is requested. -/
  | flitProtocolError (link : Fin 32) (flit : LFlit)
  /-- MESSAGE_PROTOCOL_ERROR (R313). A fabric message with a reserved OP or a non-zero reserved bit is discarded, counted in 0x6520.01, and its link of arrival retrains with reason PROTOCOL. -/
  | messageProtocolError (link : Fin 32) (msg : Msg)
  /-- FLAG_SET_RETURN (R474). The FLAG_SET header returned with its RESP reaches the signalling device, and the waiting remote SIGNAL commits, or ends TARGET_RESET on a RESP other than OK. -/
  | flagSetReturn (link : Fin 32) (msg : Msg)
  /-- PERST_RELEASE (R443). PERST# is released, and the PCIe block starts and trains once REF100 is stable, meeting the readiness rule of R352. -/
  | perstRelease
  /-- LTC_TIMEOUT (R459). The management controller receives no heartbeat from the link training controller within the timeout, restarts it, and its links enter RETRAIN with reason COMMAND. -/
  | ltcTimeout
  /-- HOLD_UP_EXPIRY (R384). The 20 ms hold-up of the thermal watch supply runs out after both feeds are lost, and the module becomes unpowered. -/
  | holdUpExpiry
  /-- REFRESH_DONE (R202). A refresh of a layer quadrant that is not stepping completes after 96 bank cycles, and the accesses that waited for it are served. -/
  | refreshDone (lq : Fin 96)
deriving DecidableEq, Repr

end Sys2Proof
end

