-- ==== Sys2Proof/Decode.lean ====
section
/-! DEFINITION. The command a word spells. No row of spec/opcode_table.json gives bits: the commands of this block are
register writes, protocol items and events, and no word spells one. -/

namespace Sys2Proof

/-- The command that `nbits` bits `w` spell by the table's bits: none, since no row gives any. -/
def decodeTableWord (_nbits _w : Nat) : Option Instr := none

end Sys2Proof
end

