-- ==== Sys2Proof/Config.lean ====
section
/-! DEFINITION. What an implementation fixes and the spec does not state: opaque constants, free values. No proof can
see a value of any of them. -/

namespace Sys2Proof.Config

/-- FP32 pattern of coefficient `k` of segment `seg` of the built-in table of function code `table` (R231: the manual
gives no coefficient). -/
opaque builtinCoef (table seg k : Nat) : BitVec 32

/-- A free value: value number `n` drawn in this run, of `w` bits (contents the spec calls undefined). -/
opaque freeValue (n : Nat) (w : Nat) : BitVec w

/-- Byte `i` of the identity public key of the part with this serial number (22 R485: generated inside the part). -/
opaque identityByte (serial : BitVec 64) (i : Nat) : BitVec 8

/-- Index of the manufacturing key that signed the part's certificate, and byte `i` of that signature (22 R485). -/
opaque mfgKeyIndex (serial : BitVec 64) : BitVec 32
opaque certByte (serial : BitVec 64) (i : Nat) : BitVec 8

/-- Byte `i` of SHAKE256 of a message (22 R483). -/
opaque shakeByte (message : List (BitVec 8)) (i : Nat) : BitVec 8

/-- Byte `i` of the identity key's signature over a message, for a purpose: 0 "GN24 attest", 1 "GN24 kem" (22 R483). -/
opaque signByte (serial : BitVec 64) (purpose : Nat) (message : List (BitVec 8)) (i : Nat) : BitVec 8

/-- Byte `i` of the SESSION_NONCE, and of the encapsulation key, of a part's `n`-th update session (22 R494). -/
opaque sessionNonceByte (serial : BitVec 64) (n i : Nat) : BitVec 8
opaque sessionKeyByte (serial : BitVec 64) (n i : Nat) : BitVec 8

/-- Digest of the image that processor `proc` of the part was made with (22 R487, R495). -/
opaque madeDigest (serial : BitVec 64) (proc : Nat) : BitVec 256

end Sys2Proof.Config
end

