-- ==== Sys2Proof/Machine/Bits.lean ====
section
/-! DEFINITION. Bit fields of numbers, bytes of numbers, saturating counts, and reads and writes of sparse tables. -/

namespace Sys2Proof.Machine

/-- The `w` bits of `v` from bit `lo`. -/
def bitsAt (v lo w : Nat) : Nat := v / 2 ^ lo % 2 ^ w

/-- `v` with the `w` bits from bit `lo` set to `x`. -/
def putBits (v lo w x : Nat) : Nat :=
  v - bitsAt v lo w * 2 ^ lo + x % 2 ^ w * 2 ^ lo

/-- Bits `hi` down to `lo` of `v`, as the manual writes a field. -/
def fld (v hi lo : Nat) : Nat := bitsAt v lo (hi + 1 - lo)

/-- `v` with bits `hi` down to `lo` set to `x`. -/
def setFld (v hi lo x : Nat) : Nat := putBits v lo (hi + 1 - lo) x

/-- Bit `i` of `v`. -/
def bit (v i : Nat) : Bool := v.testBit i

/-- `v` with bit `i` set to `b`. -/
def setBit (v i : Nat) (b : Bool) : Nat := setFld v i i b.toNat

/-- `v + n`, held at the greatest number of `w` bits. -/
def satAdd (w v n : Nat) : Nat := min (v + n) (2 ^ w - 1)

/-- `v` with the saturating count in bits `hi` to `lo` raised by `n`. -/
def satFld (v hi lo n : Nat) : Nat := setFld v hi lo (satAdd (hi + 1 - lo) (fld v hi lo) n)

/-- `v` with the count in bits `hi` to `lo` raised by `n`, modulo its width. -/
def wrapFld (v hi lo n : Nat) : Nat := setFld v hi lo (fld v hi lo + n)

/-- `n` bytes of `v`, least significant first. -/
def bytesOf (v : Nat) : Nat → List Byte
  | 0 => []
  | n + 1 => BitVec.ofNat 8 v :: bytesOf (v / 256) n

/-- The number that bytes spell, least significant first. -/
def natOf : List Byte → Nat
  | [] => 0
  | b :: bs => b.toNat + 256 * natOf bs

/-- A signed number of `w` bits. -/
def toSigned (w v : Nat) : Int := if v % 2 ^ w < 2 ^ (w - 1) then (v % 2 ^ w : Nat) else (v % 2 ^ w : Nat) - (2 ^ w : Nat)

/-- The `w`-bit pattern of an integer. -/
def ofSigned (w : Nat) (i : Int) : Nat := (i % (2 ^ w : Nat)).toNat

/-- Bits 0 to `w - 1` of `v` that are set, rising. -/
def bitsSet (v w : Nat) : List Nat := (List.range w).filter fun i => v.testBit i

/-- The entry of a key, where listed. -/
def Tab.find? {α : Type} (t : Tab α) (k : Nat) : Option α :=
  match t with
  | [] => none
  | (k', v) :: r => if k' = k then some v else Tab.find? r k

/-- The entry of a key, or the table's default. -/
def Tab.get {α : Type} (t : Tab α) (d : α) (k : Nat) : α := (Tab.find? t k).getD d

/-- The table with the entry of a key replaced; keys stay rising. -/
def Tab.put {α : Type} (t : Tab α) (k : Nat) (v : α) : Tab α :=
  match t with
  | [] => [(k, v)]
  | (k', v') :: r =>
    if k' = k then (k, v) :: r
    else if k < k' then (k, v) :: (k', v') :: r
    else (k', v') :: Tab.put r k v

/-- The table without a key. -/
def Tab.erase {α : Type} (t : Tab α) (k : Nat) : Tab α := t.filter fun e => e.1 != k

/-- The table with the entry of a key changed by `f`. -/
def Tab.modify {α : Type} (t : Tab α) (d : α) (k : Nat) (f : α → α) : Tab α := Tab.put t k (f (Tab.get t d k))

/-- The list with `x` added once. -/
def addOnce {α : Type} [BEq α] (l : List α) (x : α) : List α := if l.contains x then l else l ++ [x]

end Sys2Proof.Machine
end

