-- ==== Sys2Proof/Machine/Num.lean ====
section
/-! DEFINITION. Exact values and the element formats: fractions, the twelve element formats and the two block
scales (02_number_formats.md R28 to R46), and the rounding of one exact value into one element (R51, R52, R68,
R72 to R74, R76, R79). -/

namespace Sys2Proof.Machine

/-! ## Exact fractions -/

/-- An exact rational number: `num / den` with `den` positive, in lowest terms when built by `Frac.of`. -/
structure Frac where
  num : Int
  den : Nat
deriving DecidableEq, Repr

/-- The fraction `n / d` in lowest terms (0 when `d` is 0). -/
def Frac.of (n : Int) (d : Nat) : Frac :=
  let g := Nat.gcd n.natAbs d
  if d = 0 then ⟨0, 1⟩ else ⟨n / (g : Int), d / g⟩

def Frac.zero : Frac := ⟨0, 1⟩
def Frac.one : Frac := ⟨1, 1⟩
def Frac.ofInt (n : Int) : Frac := ⟨n, 1⟩
def Frac.ofNat (n : Nat) : Frac := ⟨(n : Int), 1⟩
def Frac.neg (a : Frac) : Frac := ⟨-a.num, a.den⟩
def Frac.abs (a : Frac) : Frac := ⟨(a.num.natAbs : Int), a.den⟩
def Frac.add (a b : Frac) : Frac := Frac.of (a.num * b.den + b.num * a.den) (a.den * b.den)
def Frac.sub (a b : Frac) : Frac := Frac.add a (Frac.neg b)
def Frac.mul (a b : Frac) : Frac := Frac.of (a.num * b.num) (a.den * b.den)
/-- Exact quotient; 0 where the divisor is 0 (every caller divides by a non-zero value). -/
def Frac.div (a b : Frac) : Frac :=
  if b.num < 0 then Frac.of (-(a.num * b.den)) (a.den * b.num.natAbs)
  else Frac.of (a.num * b.den) (a.den * b.num.natAbs)
def Frac.isZero (a : Frac) : Bool := a.num == 0
def Frac.isNeg (a : Frac) : Bool := a.num < 0
def Frac.le (a b : Frac) : Bool := a.num * b.den ≤ b.num * a.den
def Frac.lt (a b : Frac) : Bool := a.num * b.den < b.num * a.den
def Frac.eq (a b : Frac) : Bool := a.num * b.den == b.num * a.den
def Frac.max (a b : Frac) : Frac := if Frac.lt a b then b else a
def Frac.floor (a : Frac) : Int := a.num / (a.den : Int)
/-- `2 ^ k` for a signed exponent. -/
def Frac.pow2 (k : Int) : Frac :=
  if k < 0 then ⟨1, 2 ^ (-k).toNat⟩ else ⟨((2 ^ k.toNat : Nat) : Int), 1⟩
/-- `a × 2 ^ k`. -/
def Frac.shift (a : Frac) (k : Int) : Frac := Frac.mul a (Frac.pow2 k)

/-- `⌊log₂ a⌋` of a positive fraction. -/
def Frac.log2 (a : Frac) : Int :=
  let k : Int := (Nat.log2 a.num.natAbs : Int) - (Nat.log2 a.den : Int)
  if Frac.lt a (Frac.pow2 k) then k - 1 else k

/-! ## Values -/

/-- A decoded number (R31, R34, R76). A finite value keeps the sign of a zero; a NaN keeps its sign and, where its
source format carries one, its mantissa field aligned at the top of 23 bits. -/
inductive Val where
  | fin (neg : Bool) (mag : Frac)
  | inf (neg : Bool)
  | nan (neg : Bool) (payload : Option Nat)
deriving DecidableEq, Repr

/-- A decoded element and its poison mark (R53, R77). -/
structure Elem where
  val : Val
  poison : Bool
deriving DecidableEq, Repr

def Val.zero : Val := .fin false Frac.zero
def Val.ofFrac (a : Frac) : Val := .fin a.isNeg a.abs
/-- The canonical NaN with sign 0 (R75). -/
def Val.cnan : Val := .nan false none
def Val.isNaN : Val → Bool
  | .nan _ _ => true
  | _ => false
def Val.isInf : Val → Bool
  | .inf _ => true
  | _ => false
def Val.isZero : Val → Bool
  | .fin _ m => m.isZero
  | _ => false
def Val.sign : Val → Bool
  | .fin n _ => n
  | .inf n => n
  | .nan n _ => n
/-- The signed exact value of a finite number; 0 of anything else. -/
def Val.frac : Val → Frac
  | .fin n m => if n then m.neg else m
  | _ => Frac.zero
def Val.neg : Val → Val
  | .fin n m => .fin (!n) m
  | .inf n => .inf (!n)
  | .nan n p => .nan (!n) p
def Val.abs : Val → Val
  | .fin _ m => .fin false m
  | .inf _ => .inf false
  | .nan _ p => .nan false p
/-- Exact product; 0 × ∞ is the canonical NaN (R75). The first NaN operand supplies the payload (R76). -/
def Val.mul (a b : Val) : Val :=
  match a, b with
  | .nan n p, _ => .nan n p
  | _, .nan n p => .nan n p
  | .inf n, v => if v.isZero then .cnan else .inf (n != v.sign)
  | v, .inf n => if v.isZero then .cnan else .inf (n != v.sign)
  | .fin n m, .fin n' m' => .fin (n != n') (Frac.mul m m')
/-- Exact sum; ∞ − ∞ is the canonical NaN (R75). An exact zero sum of opposite signs is +0 (round to nearest). -/
def Val.add (a b : Val) : Val :=
  match a, b with
  | .nan n p, _ => .nan n p
  | _, .nan n p => .nan n p
  | .inf n, .inf n' => if n == n' then .inf n else .cnan
  | .inf n, _ => .inf n
  | _, .inf n => .inf n
  | .fin n m, .fin n' m' =>
    if m.isZero && m'.isZero then .fin (n && n') Frac.zero
    else
      let s := Frac.add (Val.fin n m).frac (Val.fin n' m').frac
      .fin s.isNeg s.abs
/-- Order of two non-NaN values, +0 and −0 equal. -/
def Val.lt (a b : Val) : Bool :=
  match a, b with
  | .nan _ _, _ => false
  | _, .nan _ _ => false
  | .inf n, .inf n' => n && !n'
  | .inf n, _ => n
  | _, .inf n => !n
  | .fin n m, .fin n' m' => Frac.lt (Val.fin n m).frac (Val.fin n' m').frac

/-! ## Formats -/

/-- ELEM of a format byte (R28). -/
inductive ElemFmt where
  | fp32 | bf16 | fp16 | e4m3 | e5m2 | e3m2 | e2m3 | e2m1 | int8 | int4 | d2 | t16
deriving DecidableEq, Repr

/-- SCALE of a format byte (R28). -/
inductive ScaleFmt where
  | none | e8m0 | e5m3
deriving DecidableEq, Repr

/-- A format byte that R28 and R30 permit. -/
structure Fmt where
  elem : ElemFmt
  scale : ScaleFmt
  block : Nat
deriving DecidableEq, Repr

def ElemFmt.ofCode : Nat → Option ElemFmt
  | 0 => some .fp32 | 1 => some .bf16 | 2 => some .fp16 | 3 => some .e4m3 | 4 => some .e5m2
  | 5 => some .e3m2 | 6 => some .e2m3 | 7 => some .e2m1 | 8 => some .int8 | 9 => some .int4
  | 10 => some .d2 | 11 => some .t16 | _ => Option.none

/-- R30: which element formats take no scale, must take one, or may. -/
def ElemFmt.scaleOk (e : ElemFmt) (s : ScaleFmt) : Bool :=
  match e with
  | .fp32 | .bf16 | .fp16 => s == .none
  | .e4m3 | .e5m2 | .int8 | .int4 => true
  | .e3m2 | .e2m3 | .e2m1 | .d2 | .t16 => s != .none

/-- Decodes a format byte; `none` where R28 or R30 does not allow it (R29). -/
def Fmt.ofByte (b : Nat) : Option Fmt :=
  let blk := b / 64 % 4
  let sc := b / 16 % 4
  match ElemFmt.ofCode (b % 16) with
  | Option.none => Option.none
  | some e =>
    let s? : Option ScaleFmt := match sc with
      | 0 => some .none | 1 => some .e8m0 | 2 => some .e5m3 | _ => Option.none
    match s? with
    | Option.none => Option.none
    | some s =>
      if blk = 3 then Option.none
      else if s == .none && blk != 0 then Option.none
      else if e.scaleOk s then some ⟨e, s, 16 * 2 ^ blk⟩ else Option.none

def Fmt.scaled (f : Fmt) : Bool := f.scale != .none

/-- The fields of a floating format (R32): exponent bits, mantissa bits, bias, largest finite code. -/
structure FloatPar where
  e : Nat
  m : Nat
  bias : Nat
  maxCode : Nat
  hasInf : Bool
  hasNaN : Bool
deriving DecidableEq, Repr

/-- R32 and R33. -/
def ElemFmt.float? : ElemFmt → Option FloatPar
  | .fp32 => some ⟨8, 23, 127, 0x7F7FFFFF, true, true⟩
  | .bf16 => some ⟨8, 7, 127, 0x7F7F, true, true⟩
  | .fp16 => some ⟨5, 10, 15, 0x7BFF, true, true⟩
  | .e4m3 => some ⟨4, 3, 7, 0x7E, false, true⟩
  | .e5m2 => some ⟨5, 2, 15, 0x7B, true, true⟩
  | .e3m2 => some ⟨3, 2, 3, 0x1F, false, false⟩
  | .e2m3 => some ⟨2, 3, 1, 0x1F, false, false⟩
  | .e2m1 => some ⟨2, 1, 1, 0x7, false, false⟩
  | _ => Option.none

/-- Bits of one element; T1.6 counts its digits apart (R38). -/
def ElemFmt.bits : ElemFmt → Nat
  | .fp32 => 32 | .bf16 => 16 | .fp16 => 16 | .e4m3 => 8 | .e5m2 => 8 | .e3m2 => 6 | .e2m3 => 6
  | .e2m1 => 4 | .int8 => 8 | .int4 => 4 | .d2 => 2 | .t16 => 8

/-- Bytes of a group and elements in it (R40). -/
def ElemFmt.group : ElemFmt → Nat × Nat
  | .fp32 => (4, 1) | .bf16 => (2, 1) | .fp16 => (2, 1) | .e4m3 => (1, 1) | .e5m2 => (1, 1)
  | .e3m2 => (3, 4) | .e2m3 => (3, 4) | .e2m1 => (1, 2) | .int8 => (1, 1) | .int4 => (1, 2)
  | .d2 => (1, 4) | .t16 => (1, 5)

/-- Bytes of one block of `n` elements (R39, R40). -/
def ElemFmt.blockBytes (e : ElemFmt) (n : Nat) : Nat :=
  let g := e.group
  (n + g.2 - 1) / g.2 * g.1

/-- sb(L): blocks, and so bytes of the scale plane (R159). -/
def Fmt.sb (f : Fmt) (l : Nat) : Nat := (l + f.block - 1) / f.block

/-- eb(L): bytes of the element plane, the last block at its full size (R42, R159). -/
def Fmt.eb (f : Fmt) (l : Nat) : Nat :=
  if f.scaled then f.sb l * f.elem.blockBytes f.block else f.elem.blockBytes l

/-- Decodes a floating pattern (R31 to R34). -/
def FloatPar.decode (p : FloatPar) (code : Nat) : Val :=
  let neg := code / 2 ^ (p.e + p.m) % 2 == 1
  let ex := code / 2 ^ p.m % 2 ^ p.e
  let man := code % 2 ^ p.m
  let low := code % 2 ^ (p.e + p.m)
  if p.maxCode < low then
    if p.hasInf && man == 0 then .inf neg
    else .nan neg (if p.hasInf then some (man * 2 ^ (23 - p.m)) else Option.none)
  else if ex = 0 then .fin neg (Frac.shift (Frac.ofNat man) (1 - (p.bias : Int) - p.m))
  else .fin neg (Frac.shift (Frac.ofNat (man + 2 ^ p.m)) ((ex : Int) - p.bias - p.m))

/-- Two's complement of `w` bits. -/
def signedOf (w code : Nat) : Int :=
  let c := code % 2 ^ w
  if c < 2 ^ (w - 1) then (c : Int) else (c : Int) - ((2 ^ w : Nat) : Int)

/-- Decodes one element with its block scale set aside (R31, R35, R37, R38). `e8m0` chooses INT8's unit (R35). A T1.6
code here is one trit digit. -/
def ElemFmt.decode (f : ElemFmt) (e8m0 : Bool) (code : Nat) : Val :=
  match f.float? with
  | some p => p.decode code
  | Option.none =>
    match f with
    | .int8 =>
      let n := signedOf 8 code
      Val.ofFrac (Frac.shift (Frac.ofInt n) (if e8m0 then -6 else 0))
    | .int4 => Val.ofFrac (Frac.ofInt (signedOf 4 code))
    | .d2 => Val.ofFrac (Frac.of (2 * ((code % 4 : Nat) : Int) - 3) 2)
    | _ => Val.ofFrac (Frac.ofInt (((code % 3 : Nat) : Int) - 1))

/-- A decoded block scale (R43, R44). `bad` marks a reserved pattern, which counts a format exception. -/
inductive ScaleVal where
  | one
  | nan (bad : Bool)
  | zero
  | pos (v : Frac)
deriving DecidableEq, Repr

def ScaleFmt.decode (s : ScaleFmt) (b : Nat) : ScaleVal :=
  match s with
  | .none => .one
  | .e8m0 => if b % 256 = 255 then .nan false else .pos (Frac.pow2 ((b % 256 : Nat) - 127))
  | .e5m3 =>
    let c := b % 256
    if c = 255 then .nan false
    else if 0xF8 ≤ c then .nan true
    else if c = 0 then .zero
    else if c < 8 then .pos (Frac.shift (Frac.ofNat c) (-17))
    else .pos (Frac.shift (Frac.ofNat (8 + c % 8)) ((c / 8 : Nat) - 15 - 3))

/-- An element under its block scale, exactly (R45). -/
def Val.scaleBy (v : Val) (s : ScaleVal) : Val :=
  match s with
  | .one => v
  | .nan _ => .cnan
  | .zero => .zero
  | .pos q =>
    match v with
    | .fin n m => .fin n (Frac.mul m q)
    | w => w

/-! ## Rounding into a format -/

/-- MODE of `round_ctl` (R67). -/
inductive RMode where
  | nearest | zero | up | down | odd | stoch
deriving DecidableEq, Repr

def RMode.ofCode : Nat → Option RMode
  | 0 => some .nearest | 1 => some .zero | 2 => some .up | 3 => some .down | 4 => some .odd
  | 5 => some .stoch | _ => none

/-- How an output is rounded (R67): the mode and OVF (`sat` = saturating). -/
structure RCtl where
  mode : RMode
  sat : Bool
deriving DecidableEq, Repr

/-- Rounds the non-negative quotient `q` (a value over its grid step) to an integer, for a value of sign `neg`
(R68, R72); `r` is the random word of R71. -/
def roundInt (mode : RMode) (neg : Bool) (r : Nat) (q : Frac) : Nat :=
  let n := q.floor.toNat
  let rest := Frac.sub q (Frac.ofNat n)
  if rest.isZero then n
  else match mode with
    | .nearest =>
      let h : Frac := ⟨1, 2⟩
      if Frac.lt rest h then n else if Frac.lt h rest then n + 1 else n + n % 2
    | .zero => n
    | .up => if neg then n else n + 1
    | .down => if neg then n + 1 else n
    | .odd => if n % 2 = 0 then n + 1 else n
    | .stoch =>
      let d32 := (Frac.shift rest 32).floor.toNat
      if 2 ^ 32 ≤ d32 + r % 2 ^ 32 then n + 1 else n

/-- The rounded magnitude of `mag` on the grid of a floating format, with an unbounded exponent (R73). -/
def FloatPar.roundMag (p : FloatPar) (mode : RMode) (neg : Bool) (r : Nat) (mag : Frac) : Frac :=
  if mag.isZero then mag
  else
    let emin : Int := 1 - p.bias
    let e0 := mag.log2
    let e := if e0 < emin then emin else e0
    let step := e - p.m
    Frac.shift (Frac.ofNat (roundInt mode neg r (Frac.shift mag (-step)))) step

/-- The largest finite magnitude of a floating format (R32). -/
def FloatPar.maxMag (p : FloatPar) : Frac :=
  match p.decode p.maxCode with
  | .fin _ m => m
  | _ => Frac.zero

/-- The code of a magnitude that lies on the grid and within range, without its sign bit. -/
def FloatPar.codeMag (p : FloatPar) (mag : Frac) : Nat :=
  if mag.isZero then 0
  else
    let emin : Int := 1 - p.bias
    let e0 := mag.log2
    let e := if e0 < emin then emin else e0
    let sig := (Frac.shift mag (p.m - e)).floor.toNat
    if sig < 2 ^ p.m then sig else (e + p.bias).toNat * 2 ^ p.m + (sig - 2 ^ p.m)

def FloatPar.signBit (p : FloatPar) (neg : Bool) : Nat := if neg then 2 ^ (p.e + p.m) else 0

/-- The canonical NaN of a floating format (R32), without its sign bit; 0 where the format has none. -/
def ElemFmt.canonNaN : ElemFmt → Nat
  | .fp32 => 0x7FC00000 | .bf16 => 0x7FC0 | .fp16 => 0x7E00 | .e4m3 => 0x7F | .e5m2 => 0x7E | _ => 0

/-- The NaN written for a NaN source (R76): the payload survives only into FP32, BF16 and FP16. -/
def ElemFmt.nanCode (f : ElemFmt) (neg : Bool) (payload : Option Nat) : Nat :=
  match f.float? with
  | Option.none => 0
  | some p =>
    let body := match f, payload with
      | .fp32, some x | .bf16, some x | .fp16, some x =>
        let man := (x / 2 ^ (23 - p.m)) ||| 2 ^ (p.m - 1)
        (2 ^ p.e - 1) * 2 ^ p.m + man % 2 ^ p.m
      | _, _ => f.canonNaN
    body + p.signBit neg

/-- The infinity of a format that has one, with its sign. -/
def FloatPar.infCode (p : FloatPar) (neg : Bool) : Nat := (2 ^ p.e - 1) * 2 ^ p.m + p.signBit neg

/-- Largest magnitude `F` of a format for overflow and scale choice (R36, R82). INT8 under E8M0 counts in 2⁻⁶. -/
def ElemFmt.top (f : ElemFmt) (e8m0 : Bool) : Frac :=
  match f.float? with
  | some p => p.maxMag
  | Option.none =>
    match f with
    | .int8 => Frac.shift (Frac.ofNat 127) (if e8m0 then -6 else 0)
    | .int4 => Frac.ofNat 7
    | .d2 => ⟨3, 2⟩
    | _ => Frac.one

/-- The zero pattern of a format (R79): all-zero bits, or trit digit 1. -/
def ElemFmt.zeroCode : ElemFmt → Nat
  | .t16 => 1
  | _ => 0

/-- One element written: its code, whether it overflowed (R73) or was clipped (R85), and whether it counts a format
exception. -/
structure ElemOut where
  code : Nat
  clip : Bool := false
  exc : Bool := false
deriving DecidableEq, Repr

/-- The code of an overflowing value in non-saturating mode (R73). `away` = the rounding moved it away from zero. -/
def overflowCode (f : ElemFmt) (p : FloatPar) (mode : RMode) (neg away : Bool) : Nat :=
  let big := p.maxCode + p.signBit neg
  let tooBig := if p.hasInf then p.infCode neg else f.canonNaN + p.signBit neg
  if !p.hasNaN then big
  else match mode with
    | .nearest => tooBig
    | .zero => big
    | .up => if neg then big else tooBig
    | .down => if neg then tooBig else big
    | .odd => big
    | .stoch => if away then tooBig else big

/-- Rounds the quotient into a D2 code (R52). -/
def roundD2 (mode : RMode) (r : Nat) (neg : Bool) (mag : Frac) : Nat :=
  let half : Frac := ⟨1, 2⟩
  let top : Frac := ⟨3, 2⟩
  let q := if neg then mag.neg else mag
  if Frac.le top mag then (if neg then 0 else 3)
  else match mode with
    | .nearest =>
      if Frac.le q ⟨-1, 1⟩ then 0 else if Frac.lt q Frac.zero then 1
      else if Frac.le q Frac.one then 2 else 3
    | .up => if Frac.le q half.neg then 1 else if Frac.le q half then 2 else 3
    | .down => if Frac.lt q half.neg then 0 else if Frac.lt q half then 1 else 2
    | .zero => if neg then 1 else 2
    | .odd =>
      if Frac.eq q half then 2 else if Frac.lt q half then 1 else 3
    | .stoch =>
      if Frac.lt mag half then
        let d32 := (Frac.shift (Frac.add q half) 32).floor.toNat
        if 2 ^ 32 ≤ d32 + r % 2 ^ 32 then 2 else 1
      else
        let d32 := (Frac.shift (Frac.sub mag half) 32).floor.toNat
        let out := 2 ^ 32 ≤ d32 + r % 2 ^ 32
        if neg then (if out then 0 else 1) else (if out then 3 else 2)

/-- Rounds the quotient into a T1.6 trit digit (R52). -/
def roundT16 (mode : RMode) (r : Nat) (neg : Bool) (mag : Frac) : Nat :=
  let side := if neg then 0 else 2
  if Frac.le Frac.one mag then side
  else if mag.isZero then 1
  else match mode with
    | .nearest => if Frac.le mag ⟨1, 2⟩ then 1 else side
    | .zero => 1
    | .up => if neg then 1 else 2
    | .down => if neg then 0 else 1
    | .odd => side
    | .stoch => if 2 ^ 32 ≤ (Frac.shift mag 32).floor.toNat + r % 2 ^ 32 then side else 1

/-- Two's-complement code of a small integer of sign `neg` and magnitude `n`. -/
def intCode (w : Nat) (neg : Bool) (n : Nat) : Nat :=
  if neg && n != 0 then 2 ^ w - n else n

/-- Rounds one finite quotient into an element (R68, R72 to R74, R36, R52). `floorClip` = the block's scale came from the
floor rule, whose clip R85 defines. -/
def roundFinite (f : ElemFmt) (e8m0 : Bool) (c : RCtl) (floorClip : Bool) (r : Nat) (neg : Bool) (mag : Frac) : ElemOut :=
  let clipped := floorClip && Frac.lt (f.top e8m0) mag
  match f.float? with
  | some p =>
    if clipped then ⟨p.maxCode + p.signBit neg, true, false⟩
    else
      let m := p.roundMag c.mode neg r mag
      if Frac.lt p.maxMag m then
        if c.sat then ⟨p.maxCode + p.signBit neg, true, false⟩
        else ⟨overflowCode f p c.mode neg (Frac.lt mag m), true, true⟩
      else ⟨p.codeMag m + p.signBit neg, false, false⟩
  | Option.none =>
    match f with
    | .d2 => ⟨roundD2 c.mode r neg mag, clipped, false⟩
    | .t16 => ⟨roundT16 c.mode r neg mag, clipped, false⟩
    | _ =>
      let w := if f == .int8 then 8 else 4
      let lim := if f == .int8 then 127 else 7
      let q := Frac.shift mag (if f == .int8 && e8m0 then 6 else 0)
      if clipped then ⟨intCode w neg lim, true, false⟩
      else
        let n := roundInt c.mode neg r q
        if lim < n then ⟨intCode w neg lim, true, !c.sat⟩ else ⟨intCode w neg n, false, false⟩

/-- Largest finite FP32 magnitude. -/
def maxF32 : Frac := Frac.shift (Frac.ofNat (2 ^ 24 - 1)) 104

/-- Writes one value into an element of a format that has NaN, or of an unscaled integer format (columns 1, 2 and 4 of
R51, R76): the quotient `q` is the value over its scales. -/
def writeElem (f : ElemFmt) (e8m0 : Bool) (c : RCtl) (floorClip : Bool) (r : Nat) (q : Val) : ElemOut :=
  match q with
  | .fin neg mag => roundFinite f e8m0 c floorClip r neg mag
  | .nan neg pl =>
    match f.float? with
    | some _ => ⟨f.nanCode neg pl, false, false⟩
    | Option.none => ⟨0, false, true⟩
  | .inf neg =>
    match f.float? with
    | some p =>
      if c.sat then ⟨p.maxCode + p.signBit neg, false, false⟩
      else if p.hasInf then ⟨p.infCode neg, false, false⟩
      else ⟨f.canonNaN + p.signBit neg, false, false⟩
    | Option.none =>
      ⟨intCode f.bits neg (if f == .int8 then 127 else 7), false, !c.sat⟩

/-- Has the format NaN codes of its own (R28)? -/
def ElemFmt.hasNaN (f : ElemFmt) : Bool :=
  match f.float? with
  | some p => p.hasNaN
  | Option.none => false

/-- The bits of a poisoned element (R79): the canonical NaN in an unscaled format that has one, else the zero pattern. -/
def Fmt.poisonCode (f : Fmt) : Nat :=
  if !f.scaled && f.elem.hasNaN then f.elem.canonNaN else f.elem.zeroCode

/-! ## binary32 and binary64 -/

def parF32 : FloatPar := ⟨8, 23, 127, 0x7F7FFFFF, true, true⟩
def parF64 : FloatPar := ⟨11, 52, 1023, 0x7FEFFFFFFFFFFFFF, true, true⟩

/-- Rounds to a binary format with infinities, to nearest even, as the vector unit and the Cistern do (R69, R256). -/
def FloatPar.roundVal (p : FloatPar) (v : Val) : Val :=
  match v with
  | .fin n m =>
    let m' := p.roundMag .nearest n 0 m
    if Frac.lt p.maxMag m' then .inf n else .fin n m'
  | w => w

/-- Rounds an exact value to binary32, nearest even (R69). -/
def Val.toF32 (v : Val) : Val := parF32.roundVal v

/-- The binary32 pattern of a value that binary32 holds; a NaN as R76 writes it. -/
def Val.bits32 (v : Val) : Nat :=
  match v with
  | .fin n m => parF32.codeMag m + parF32.signBit n
  | .inf n => parF32.infCode n
  | .nan n p => ElemFmt.fp32.nanCode n p

def ofBits32 (b : Nat) : Val := parF32.decode (b % 2 ^ 32)

/-- The binary64 pattern of a value that binary64 holds; every NaN is 0x7FF8_0000_0000_0000 (R256). -/
def Val.bits64 (v : Val) : Nat :=
  match v with
  | .fin n m => parF64.codeMag m + parF64.signBit n
  | .inf n => parF64.infCode n
  | .nan _ _ => 0x7FF8000000000000

def ofBits64 (b : Nat) : Val :=
  let v := parF64.decode (b % 2 ^ 64)
  match v with
  | .nan _ _ => .cnan
  | w => w

/-- Rounds a positive value toward +∞ to binary32 (R91, R92); past the largest finite FP32, that value. -/
def ceilF32 (m : Frac) : Frac :=
  let u := parF32.roundMag .up false 0 m
  if Frac.lt maxF32 u then maxF32 else u

/-! ## The stochastic-rounding generator (R71) -/

/-- mix of R71, modulo 2⁶⁴. -/
def mix64 (x : W64) : W64 :=
  let a := (x ^^^ (x >>> 30)) * 0xBF58476D1CE4E5B9#64
  let b := (a ^^^ (a >>> 27)) * 0x94D049BB133111EB#64
  b ^^^ (b >>> 31)

/-- draw of R71: the 32-bit random word of output element `e`. -/
def drawWord (keyHi keyLo : W64) (e : Nat) : Nat :=
  let x := mix64 (keyLo ^^^ (BitVec.ofNat 64 e * 0x9E3779B97F4A7C15#64))
  let y := mix64 (x ^^^ keyHi)
  (y >>> 32).toNat

end Sys2Proof.Machine
end

