-- ==== Sys2Proof/Machine/Accum.lean ====
section
/-! DEFINITION. Operand planes, the long accumulator, exchange words, contractions and reduction plans
(02_number_formats.md R38 to R45; 03_accumulation_rounding.md R54 to R66, R77). -/

namespace Sys2Proof.Machine

/-! ## Reading operand planes -/

/-- A byte reader: the byte at an address and the poison mark of the line that holds it. -/
abbrev Rd := Nat → Byte × Bool

/-- Little-endian value of the `n` bytes at `a`, and whether any of them is poisoned. -/
def Rd.le (rd : Rd) (a : Nat) : Nat → Nat × Bool
  | 0 => (0, false)
  | n + 1 =>
    let b := rd a
    let rest := Rd.le rd (a + 1) n
    (b.1.toNat + 256 * rest.1, b.2 || rest.2)

/-- The code of element `i` of an element plane at `base`, and its poison (R40 to R42). A T1.6 byte above 0xF2 poisons its
five elements (R38). -/
def readCode (rd : Rd) (f : Fmt) (base i : Nat) : Nat × Bool :=
  let j := if f.scaled then i % f.block else i
  let start := if f.scaled then base + i / f.block * f.elem.blockBytes f.block else base
  let g := f.elem.group
  let at0 := start + j / g.2 * g.1
  let k := j % g.2
  match f.elem with
  | .t16 =>
    let b := rd at0
    (b.1.toNat / 3 ^ k % 3, b.2 || 0xF2 < b.1.toNat)
  | e =>
    let w := e.bits
    let lo := w * k / 8
    let hi := (w * k + w - 1) / 8
    let x := Rd.le rd (at0 + lo) (hi - lo + 1)
    (x.1 / 2 ^ (w * k - 8 * lo) % 2 ^ w, x.2)

/-- An element as read: its value with the block scale set aside, its value under the scale, and its poison. -/
structure XElem where
  raw : Val
  val : Val
  poison : Bool
deriving DecidableEq, Repr

/-- The block scale of block `k` and its poison. -/
def readScale (rd : Rd) (f : Fmt) (sbase k : Nat) : ScaleVal × Bool :=
  if f.scaled then
    let b := rd (sbase + k)
    (f.scale.decode b.1.toNat, b.2)
  else (.one, false)

/-- Element `i` of an operand (R45, R77: a poisoned scale poisons its whole block). -/
def readElem (rd : Rd) (f : Fmt) (base sbase i : Nat) : XElem :=
  let c := readCode rd f base i
  let s := readScale rd f sbase (i / f.block)
  let raw := f.elem.decode (f.scale == .e8m0) c.1
  ⟨raw, raw.scaleBy s.1, c.2 || s.2⟩

/-- The first `l` elements of an operand. Pad elements are not read (R42). -/
def readOperand (rd : Rd) (f : Fmt) (base sbase l : Nat) : List XElem :=
  (List.range l).map (readElem rd f base sbase)

/-- Scales of an operand of `l` elements that hold a reserved E5M3 pattern: each counts a format exception (R44). -/
def badScales (rd : Rd) (f : Fmt) (sbase l : Nat) : Nat :=
  if f.scaled then
    ((List.range (f.sb l)).filter fun k => readScale rd f sbase k == (.nan true, false)).length
  else 0

/-! ## The long accumulator (R59, R60) -/

/-- The value of an LA. No LA holds −0 (R60), so a finite one is a signed fraction. -/
inductive LAVal where
  | fin (v : Frac)
  | inf (neg : Bool)
  | nan
deriving DecidableEq, Repr

/-- An LA with its sticky poison (R77) and the informative INEXACT of its exchange word (R61). -/
structure LA where
  val : LAVal
  poison : Bool := false
  inexact : Bool := false
deriving DecidableEq, Repr

/-- Every slice's LA starts at +0 (R60). -/
def LA.start : LA := ⟨.fin Frac.zero, false, false⟩

/-- The LA format: 104 significand bits, smallest normal exponent −510 (R59). -/
def parLA : FloatPar := ⟨10, 103, 511, 0, true, true⟩

/-- The largest finite LA (R59). -/
def maxLA : Frac := Frac.shift (Frac.ofNat (2 ^ 104 - 1)) 408

/-- Rounds an exact sum to the LA format, to nearest even; beyond the largest finite LA it is ±∞ (R60). -/
def roundLA (v : Frac) : LAVal × Bool :=
  let m := parLA.roundMag .nearest v.isNeg 0 v.abs
  if Frac.lt maxLA m then (.inf v.isNeg, true)
  else (.fin (if v.isNeg then m.neg else m), !(Frac.eq m v.abs))

/-- Sum of two LA values, rounded once, and whether it rounded (R60, R75). -/
def LAVal.add (a b : LAVal) : LAVal × Bool :=
  match a, b with
  | .nan, _ => (.nan, false)
  | _, .nan => (.nan, false)
  | .inf n, .inf n' => if n == n' then (.inf n, false) else (.nan, false)
  | .inf n, _ => (.inf n, false)
  | _, .inf n => (.inf n, false)
  | .fin x, .fin y => roundLA (Frac.add x y)

/-- A fold or a combine (R60). Poison is sticky (R77); what a poisoned LA holds beside the mark is never read. -/
def LA.add (a b : LA) : LA :=
  if a.poison || b.poison then ⟨.fin Frac.zero, true, a.inexact || b.inexact⟩
  else
    let r := LAVal.add a.val b.val
    ⟨r.1, false, a.inexact || b.inexact || r.2⟩

/-- An exact value as the operand of a fold. -/
def Val.toLAVal : Val → LAVal
  | .fin n m => .fin (if n then m.neg else m)
  | .inf n => .inf n
  | .nan _ _ => .nan

/-- The value of an LA as an exact value; a NaN is the canonical one (R75). -/
def LAVal.toVal : LAVal → Val
  | .fin v => Val.ofFrac v
  | .inf n => .inf n
  | .nan => .cnan

def LA.foldVal (a : LA) (v : Val) (poison : Bool) : LA :=
  LA.add a ⟨v.toLAVal, poison, false⟩

/-! ## Exchange words (R61) -/

/-- The 128-bit exchange word of an LA. -/
def LA.toWord (a : LA) : Nat :=
  let low : Nat := 0x100 + (if a.inexact then 1 else 0)
  if a.poison then 2 ^ 127 + low
  else match a.val with
    | .nan => 1023 * 2 ^ 116 + 2 ^ 103 * 2 ^ 12 + low
    | .inf n => (if n then 2 ^ 126 else 0) + 1023 * 2 ^ 116 + low
    | .fin v =>
      let body := parLA.codeMag v.abs
      -- codeMag packs a hidden bit; the LA keeps it (R59)
      let ex := body / 2 ^ 103
      let sig : Nat := body % 2 ^ 103 + (if ex = 0 then 0 else 2 ^ 103)
      (if v.isNeg then 2 ^ 126 else 0) + ex * 2 ^ 116 + sig * 2 ^ 12 + low

/-- Reads an exchange word; `bad` marks a word that counts a format exception (R61). -/
def LA.ofWord (w : Nat) : LA × Bool :=
  let inexact := w % 2 == 1
  let ex : Nat := w / 2 ^ 116 % 1024
  let sig := w / 2 ^ 12 % 2 ^ 104
  let neg := w / 2 ^ 126 % 2 == 1
  let poison := w / 2 ^ 127 % 2 == 1
  let bad := w / 2 ^ 8 % 16 != 1 || w / 2 % 128 != 0 ||
    (!poison && 1 ≤ ex && ex ≤ 1022 && sig < 2 ^ 103)
  if bad || poison then (⟨.fin Frac.zero, true, inexact⟩, bad)
  else if ex = 1023 then (⟨if sig = 0 then .inf neg else .nan, false, inexact⟩, false)
  else
    let e : Int := if ex = 0 then -510 else Int.ofNat ex - 511
    let m := Frac.shift (Frac.ofNat sig) (e - 103)
    (⟨.fin (if neg then m.neg else m), false, inexact⟩, false)

/-- Reads the exchange word at an address; a poisoned line poisons it (R77). -/
def readWord (rd : Rd) (a : Nat) : LA × Bool :=
  let x := Rd.le rd a 16
  if x.2 then (⟨.fin Frac.zero, true, false⟩, false) else LA.ofWord x.1

/-! ## Reduction plans (R62 to R64) -/

inductive TreeKind where
  | linear | pairwise | quaternary
deriving DecidableEq, Repr

/-- `reduction_plan`: the tree and the K-split factor S. -/
structure Plan where
  tree : TreeKind
  s : Nat
deriving DecidableEq, Repr

/-- R62, R65: `none` where TREE or KSPLIT_LOG2 is reserved (reserved bits are judged apart). -/
def Plan.ofWord (w : Nat) : Option Plan :=
  let k := w % 32
  if 16 < k then none
  else match w / 256 % 4 with
    | 0 => some ⟨.linear, 2 ^ k⟩
    | 1 => some ⟨.pairwise, 2 ^ k⟩
    | 2 => some ⟨.quaternary, 2 ^ k⟩
    | _ => none

/-- ((a + b) + c) + d: the children of a node in the order R64 adds them. -/
def combineList : List LA → LA
  | [] => LA.start
  | a :: rest => rest.foldl LA.add a

def pairUp : List LA → List LA
  | a :: b :: rest => LA.add a b :: pairUp rest
  | l => l

def quadUp : List LA → List LA
  | a :: b :: c :: d :: rest => LA.add (LA.add (LA.add a b) c) d :: quadUp rest
  | [a, b] => [LA.add a b]
  | l => l

def levels (up : List LA → List LA) : Nat → List LA → List LA
  | 0, l => l
  | n + 1, l => levels up n (up l)

/-- Combines the S partials under the plan's tree (R64). -/
def combineTree (p : Plan) (ps : List LA) : LA :=
  match p.tree with
  | .linear => combineList ps
  | .pairwise => combineList (levels pairUp 16 ps)
  | .quaternary => combineList (levels quadUp 16 ps)

/-- The children of the quaternary node of width `w` among groups of current width `cur`, `count` values at this level. -/
def quadChildren (w : Nat) : Nat → Nat → Nat → Option Nat
  | 0, _, _ => none
  | fuel + 1, cur, count =>
    if count < 2 then none
    else
      let g := if count = 2 then 2 else 4
      if cur * g = w then some g else quadChildren w fuel (cur * g) (count / g)

/-- The children, as slice ranges, of the node `lo…hi` of a plan's tree; `none` where the range is no node (R64, R176). -/
def planChildren (p : Plan) (lo hi : Nat) : Option (List (Nat × Nat)) :=
  if hi < lo || p.s ≤ hi then none
  else
    let w := hi - lo + 1
    match p.tree with
    | .linear => if lo = 0 && 1 ≤ hi then some [(0, hi - 1), (hi, hi)] else none
    | .pairwise =>
      if 2 ≤ w && 2 ^ Nat.log2 w = w && lo % w = 0 then
        some [(lo, lo + w / 2 - 1), (lo + w / 2, hi)]
      else none
    | .quaternary =>
      match quadChildren w 20 1 p.s with
      | some g =>
        if lo % w = 0 then
          some ((List.range g).map fun i => (lo + i * (w / g), lo + (i + 1) * (w / g) - 1))
        else none
      | none => none

/-! ## Contractions (R55 to R58, R63) -/

/-- BF16, FP16 and FP32 take the 16-bit path (R58). -/
def ElemFmt.wide (e : ElemFmt) : Bool :=
  match e with
  | .fp32 | .bf16 | .fp16 => true
  | _ => false

/-- The slicing unit of a pair (R57). -/
def unitSize (a b : Fmt) : Nat :=
  match a.scaled, b.scaled with
  | true, true => min a.block b.block
  | true, false => a.block
  | false, true => b.block
  | false, false => 64

/-- The magnitude at which a pair of the two-band pairings splits (R56). -/
def bandEdge (a b : ElemFmt) : Option Frac :=
  match a, b with
  | .e5m2, .e5m2 => some Frac.one
  | .e5m2, .e4m3 => some ⟨128, 1⟩
  | .e4m3, .e5m2 => some ⟨128, 1⟩
  | _, _ => none

/-- Folds one block of a pair of narrow formats (R55 to R57). -/
def foldBlock (a b : ElemFmt) (ps : List (XElem × XElem)) (la : LA) : LA :=
  if ps.any fun p => p.1.poison || p.2.poison then LA.add la ⟨.fin Frac.zero, true, false⟩
  else
    let prods := ps.map fun p => Val.mul p.1.val p.2.val
    if prods.any Val.isNaN || (prods.contains (.inf false) && prods.contains (.inf true)) then
      LA.foldVal la .cnan false
    else if prods.contains (.inf false) then LA.foldVal la (.inf false) false
    else if prods.contains (.inf true) then LA.foldVal la (.inf true) false
    else match bandEdge a b with
      | none => LA.foldVal la (Val.ofFrac (prods.foldl (fun s p => Frac.add s p.frac) Frac.zero)) false
      | some edge =>
        let high (p : XElem × XElem) : Bool :=
          Frac.le edge (Frac.mul p.1.raw.frac p.2.raw.frac).abs
        let sum (l : List (XElem × XElem)) : Frac :=
          l.foldl (fun s p => Frac.add s (Val.mul p.1.val p.2.val).frac) Frac.zero
        let h := LA.foldVal la (Val.ofFrac (sum (ps.filter high))) false
        LA.foldVal h (Val.ofFrac (sum (ps.filter fun p => !high p))) false

/-- Folds one unit: a block of narrow formats, or each 16-bit product on its own (R57, R58). -/
def foldUnit (a b : ElemFmt) (ps : List (XElem × XElem)) (la : LA) : LA :=
  if a.wide || b.wide then
    ps.foldl (fun l p => LA.foldVal l (Val.mul p.1.val p.2.val) (p.1.poison || p.2.poison)) la
  else foldBlock a b ps la

/-- The partial of slice `j` of the plan (R63). -/
def slicePartial (fa fb : Fmt) (p : Plan) (j : Nat) (ps : List (XElem × XElem)) : LA :=
  let n := unitSize fa fb
  let units := (ps.length + n - 1) / n
  let m := (units + p.s - 1) / p.s
  let mine := min ((j + 1) * m) units - j * m
  (List.range mine).foldl
    (fun la u => foldUnit fa.elem fb.elem ((ps.drop ((j * m + u) * n)).take n) la) LA.start

/-- The whole contraction of two operand vectors under a plan (R63, R64). -/
def contract (fa fb : Fmt) (p : Plan) (a b : List XElem) : LA :=
  let ps := a.zip b
  combineTree p ((List.range p.s).map fun j => slicePartial fa fb p j ps)

end Sys2Proof.Machine
end

