-- ==== Sys2Proof/Machine/State.lean ====
section
/-! DEFINITION. The state of the block: every register, memory, queue and mode the spec names, as plain data, the
commands waiting, and the state after reset. INVENTORY.md lists each field with its rule and reset value. -/

namespace Sys2Proof.Machine

/-! ## Memory (01 R17; 05 R106, R110; 12 R269, R274) -/

/-- Bytes by local address and poison marks by 64-byte line address, both sparse: an unlisted byte reads 0x00, an unlisted
line carries no mark (19 R445). -/
structure Mem where
  cells : List Host.Cell
  marks : List Nat
deriving DecidableEq, Repr

/-- One memory effect of a command. -/
inductive MemOp where
  /-- store a byte -/
  | put (addr : Nat) (b : Byte)
  /-- set or clear the poison mark of the line that starts at `line` -/
  | mark (line : Nat) (on : Bool)
  /-- every byte from `lo` to `hi` reads 0x00 and carries no mark -/
  | zero (lo hi : Nat)
deriving DecidableEq, Repr

/-! ## Cores (06, 07, 11, 21, 23) -/

/-- How a manifest in a slot was stopped before it ended by itself (R141, R144). -/
inductive Stop where
  | hostAbort | drain
deriving DecidableEq, Repr

/-- Where a manifest that the drover holds stands (R125, R126). -/
inductive Phase where
  /-- validated, in the ready slot -/
  | ready
  /-- in the run slot, waiting: a SYNC for its condition, a manifest for remote responses or a collective's messages -/
  | waiting
  /-- every write of it has been acknowledged; it may commit -/
  | done
  /-- committed; a mirrored primary still waits for the partner before the record is written (R140, R331) -/
  | mirrorWait
deriving DecidableEq, Repr

/-- What a merge holds for one amax record (R91): largest |v| as an FP32 pattern rounded up, clips, non-finite seen. -/
structure Merge where
  amax : Nat
  clips : Nat
  nonfin : Bool
deriving DecidableEq, Repr

/-- A manifest that the drover has fetched (R126, R127): its words after clamps, and what its record will say (R137). -/
structure Slot where
  addr : Nat
  words : List W64
  kind : Nat
  ctx : Nat
  /-- number of the record slot it reserved (R136) -/
  recNo : Option Nat
  phase : Phase
  /-- status and reason fixed at validation for REJECTED and ENGINE_ABSENT -/
  fixed : Option (Nat × Nat)
  reasonWord : Nat
  clampCount : Nat
  clampMap : Nat
  clampWord : Nat
  clampReq : Nat
  clampApp : Nat
  stop : Option Stop
  progress : Nat
  trCount : Nat
  poisonCount : Nat
  excCount : Nat
  /-- BRANCH: the target taken and whether it is the default (R145) -/
  target : Option Nat
  branchDefault : Bool
  /-- SCALE patterns read at validation, by group (R90) -/
  scales : Tab Nat
  /-- a named amax record was read poisoned: everything it writes is poisoned and it merges nothing (R90) -/
  recPoison : Bool
  /-- amax reads from another device still outstanding at validation (R90), and which have been refused -/
  recWaits : Nat
  recBad : Nat
  merges : Tab Merge
  /-- remote requests without a response (R315) -/
  pendingReqs : Nat
  /-- order in which a WAIT began to wait (R473) -/
  since : Nat
  /-- how far its remote merges and closes have come at commit: 0 none, 1 merges sent, 2 closes sent (R91, R92) -/
  commitStep : Nat
  /-- a commit that waits for the mirror: the record formed at it, and the MSEQ that ACKED must cover (R331) -/
  record : Option (Nat × Nat)
deriving DecidableEq, Repr

/-- Registers and tables that each core keeps for each context (R119, R71, R141, R149, R179, R226, R471). -/
structure CtxRegs where
  programBase : W64
  recordBase : W64
  recordSlots : W64
  recordHead : W64
  recordTail : W64
  nextPtr : W64
  keyHi : W64
  keyLo : W64
  /-- address of the last manifest committed since the START that took the chain out of IDLE (R141) -/
  lastCommit : Option Nat
  /-- active copies of the tables, key 4 × kind + number; an entry is its word and its mark (R226) -/
  tables : Tab (Tab (Nat × Bool))
  /-- shadow copy of the table being loaded (R180), same key -/
  shadow : Tab (Tab (Nat × Bool))
  /-- the run slot and ready slot parked with the context (R471) -/
  parkedRun : Option Slot
  parkedReady : Option Slot
  /-- the parked SYNC's condition has been met -/
  parkReady : Bool
  /-- Outrider predictions, most recently used first: BRANCH address and index, 64 = default path (R149) -/
  preds : List (Nat × Nat)
deriving DecidableEq, Repr

/-- A line the Outrider staged (R148): source address, 64 data bytes and its mark. -/
structure Staged where
  line : Nat
  data : List Byte
  poison : Bool
deriving DecidableEq, Repr

/-- The Outrider of one core (R147 to R150). -/
structure Outrider where
  /-- the manifest it will look at next; none = stopped until the drover reaches the same point -/
  at? : Option Nat
  /-- manifests beyond the run slot it has passed -/
  ahead : Nat
  staged : List Staged
  /-- BRANCHes it followed by prediction: address and predicted index -/
  followed : List (Nat × Nat)
  /-- write extents of the manifests it has passed, which stage nothing over them -/
  writes : List (Nat × Nat)
deriving DecidableEq, Repr

/-- Why a core is DISABLING (R144): fence, reset or switch-off. -/
inductive Disable where
  | fence | reset | switchOff
deriving DecidableEq, Repr

/-- One core. -/
structure Core where
  ctrl : W64
  ctrlNext : Option W64
  startErr : BitVec 16
  active : BitVec 16
  halted : BitVec 16
  current : Nat
  stopAfter : W64
  orHit : W64
  orMiss : W64
  abortCtx : Nat
  abortRes : Nat
  abortAddr : W64
  /-- the pending abort has latched on a manifest whose end it waits for (R141) -/
  abortLatched : Bool
  disabling : Option Disable
  /-- contexts being closed on this core (R464) -/
  closing : BitVec 16
  ctxs : Tab CtxRegs
  /-- address of the manifest being fetched (R125) -/
  fetch : Option Nat
  /-- a validated manifest that waits for a record slot or another condition of R127, R255, R324 -/
  wait : Option Slot
  ready : Option Slot
  run : Option Slot
  /-- the current context has held the drover for QUANTUM (R469) -/
  quantumUp : Bool
  flags : BitVec 1024
  outrider : Outrider
  /-- Cistern entries (64-bit patterns) by entry number, and poisoned entries (R254) -/
  cistern : Tab Nat
  cisPoison : List Nat
  /-- a Cistern clear has been asked for and has not begun (R255) -/
  cisPending : Bool
  inReset : Bool
  /-- first member of a ripple pair, the MATRIX just run (R105) -/
  ripple : Option Nat
deriving DecidableEq, Repr

/-! ## Layer quadrants and banks (08, 12) -/

/-- An access held at a stepping bank, or waiting in the column's access queue (R197, R198). -/
structure HeldAccess where
  unit : Nat
  /-- who asked, as `SOURCE` of R280 names them; 2 = column spine port -/
  source : Nat
  /-- bytes to write with their enable, none for a read -/
  data : Option (List (Option Byte))
  poison : Bool
  /-- the error in the unit as it will be read -/
  err : UnitErr
deriving DecidableEq, Repr

/-- One layer quadrant n = 4c + l (R191 to R204). -/
structure Lq where
  /-- bank cycles of each segment of the running convoy still to step, first the current one -/
  work : List Nat
  /-- bank groups whose operand-buffer half holds the incoming segment (R191) -/
  arrived : List Nat
  /-- segments wholly arrived and not yet worked, 0 to 2 -/
  halves : Nat
  /-- bank cycles of the step now running; none = not stepping -/
  stepping : Option Nat
  /-- order in which its waiting step became ready (R204); none = no step waits -/
  readyAt : Option Nat
  /-- banks the step selects: first and count -/
  firstBank : Nat
  banks : Nat
  refreshing : Bool
  scrubUnit : Nat
  held : List HeldAccess
  queue : List HeldAccess
deriving DecidableEq, Repr

/-- A sparing copy in progress (R284). -/
structure SparingCopy where
  isRow : Bool
  index : Nat
  slot : Nat
deriving DecidableEq, Repr

/-- One bank's repair state (R282 to R285). -/
structure Bank where
  /-- local addresses of the last four corrected-unit events, newest first -/
  lastEvents : List Nat
  rowsUsed : Nat
  colsUsed : Nat
  copy : Option SparingCopy
  exhausted : Bool
  /-- repairs not yet in the repair map: entries of R285 -/
  unwritten : List Nat
deriving DecidableEq, Repr

/-- A tract conversion (R188): column, column tract, whether it has begun. -/
structure Conversion where
  column : Nat
  tract : Nat
  toOpen : Bool
  begun : Bool
deriving DecidableEq, Repr

/-! ## Bazaar and ring (05) -/

/-- An open merge window of the Bazaar (R111, R112). -/
structure Window where
  line : Nat
  set : Nat
  joined : List Nat
deriving DecidableEq, Repr

/-- A transfer on a Caravan ring (R116). -/
structure RingXfer where
  sender : Nat
  /-- address of the manifest that sent it -/
  manifest : Nat
  /-- hops to go to its stop; none = circulating -/
  dest : Option Nat
  /-- it has passed an absent stop it was addressed to, and goes round to its sender (R118) -/
  returning : Bool
  /-- the stop it stands at -/
  at_ : Nat
  wsOff : Nat
  data : List Byte
  poison : List Bool
deriving DecidableEq, Repr

/-! ## What the device sends (log entry 2) -/

/-- Something that left the device. -/
inductive Sent where
  /-- MSI-X message of a vector (R348) -/
  | msix (vector : Nat)
  /-- a read or atomic completion through BAR2: bytes with EP per 64-byte unit, or Completer Abort (R344, R351) -/
  | completion (data : List Byte) (ep : List Bool)
  | completerAbort
  /-- an error reported under AER (R351) -/
  | aer (uncorrectable : Bool)
  /-- a management-port frame: destination and PDU bytes (R372) -/
  | frame (dest : Nat) (pdu : List Byte)
  /-- a flit on a link (R298) -/
  | flit (link : Nat) (flit : LFlit)
  /-- a ring transfer delivered at a stop (R116) -/
  | ringReturn (core : Nat)
  /-- a Bazaar line read once and driven to the cores that joined, with its marks (R112, R114); to no core: to the
  requester of a read that takes no part in merging -/
  | bazaarLine (line : Nat) (cores : List Nat) (data : List Byte) (marks : List Bool)
deriving DecidableEq, Repr

/-! ## Links (13) -/

/-- What of this device waits on a message it sent (R307, R320, R327, R330, R480). -/
inductive TxOwner where
  /-- the request that holds a tag -/
  | tag (n : Nat)
  /-- the collective of a core -/
  | coll (core : Nat)
  /-- the XBARRIER round of a group -/
  | barrier (group : Nat)
  /-- the mirror part of a sequence number -/
  | mirror (mseq : Nat)
  /-- nothing: a response or a message that is passed on -/
  | none
deriving DecidableEq, Repr

/-- A message that waits to be sent: its slots not yet placed in a flit. -/
structure TxMsg where
  owner : TxOwner
  slots : List LSlot
deriving DecidableEq, Repr

/-- A PAYLOAD flit kept for replay (R303), and whose messages it carries. -/
structure KeptFlit where
  flit : LFlit
  owners : List TxOwner
deriving DecidableEq, Repr

/-- One link (R292 to R310). STATE, reasons, width, lanes, counts and control are its Ledger object 0x6100 + l. -/
structure Link where
  txSb : List TxMsg
  /-- mirror messages go before every other bulk message (R330) -/
  txMirror : List TxMsg
  txBulk : List TxMsg
  /-- a bulk message is part sent: 1 the first of txMirror, 2 the first of txBulk -/
  mid : Nat
  crSb : Nat
  crBulk : Nat
  rxSb : List LSlot
  rxBulk : List LSlot
  freeSb : Nat
  freeBulk : Nat
  txSeq : Nat
  replay : List KeptFlit
  /-- flits of the replay buffer still to be sent again -/
  replaying : Nat
  /-- last PAYLOAD flit accepted -/
  rxLast : Nat
  /-- a NAK is owed, or has been sent and the expected flit has not come -/
  nakDue : Bool
  nakOut : Bool
  /-- RETRAIN_REQ flits still to send, and the reason of the retrain that follows -/
  reqDue : Nat
  reqReason : Nat
  /-- phase of the training that runs (R293), its kind (0 cold, 1 fast start, 2 retrain), its repeats of verify and its lanes -/
  phase : Nat
  mode : Nat
  repeats : Nat
  lanes : Nat
  /-- the link went down (R307): the next training starts at SEQ 0 -/
  downHeld : Bool
  draining : Bool
  /-- saved settings of the last cold training: what its fingerprint covers (flash, R296) -/
  saved : Option (List Nat)
  partnerSerial : Nat
deriving DecidableEq, Repr

/-! ## Fabric (14, 21) -/

/-- Who waits for a response (R320). -/
inductive Issuer where
  /-- a manifest in the run slot of a core -/
  | manifest (core : Nat)
  /-- the read of an amax record at validation (R90) -/
  | amaxRead (core group : Nat)
  /-- a remote amax merge or the write of a remote close at commit (R91, R92) -/
  | amaxMerge (core : Nat)
  /-- the read of a remote record that a manifest closes (R92) -/
  | amaxClose (core group : Nat)
  /-- a remote SIGNAL (R474) -/
  | signal (core : Nat)
  /-- a collective's message (R327) -/
  | coll (core : Nat)
  /-- BARRIER_ARRIVE of a group (R480) -/
  | barrier (group : Nat)
  | mirror
deriving DecidableEq, Repr

/-- An outstanding request (R320). A READ of a MOVE keeps the global address its data goes to. -/
structure Outstanding where
  issuer : Issuer
  dest : Nat
  op : Nat
  addr : Nat
  units : Nat
  into : Nat
  /-- completed LOST: the tag is not issued again for another REQUEST_TIMEOUT -/
  lost : Bool
deriving DecidableEq, Repr

/-- A collective in progress on a core (R324 to R327). -/
structure Coll where
  cop : Nat
  group : Nat
  id : Nat
  /-- ranks whose COLL_READY has arrived -/
  readyFrom : List Nat
  /-- contributions received: (rank or child index) × 2²⁰ + message index -/
  got : List Nat
  /-- contributions sent -/
  sentTo : List Nat
  /-- nodes formed, and parts of nodes received, as 64-byte units with their marks (R326) -/
  nodes : Tab (List (List Byte × Bool))
deriving DecidableEq, Repr

/-- Fabric-wide state. -/
structure Fab where
  outstanding : Tab Outstanding
  nextTag : Nat
  /-- requests that wait for a free tag (R320): issuer, message, and where a READ's data goes -/
  waiting : List (Issuer × Msg × Nat)
  /-- round-robin pointer per destination (R316) -/
  robin : Tab Nat
  /-- collectives in progress by core -/
  colls : Tab Coll
  /-- COLL_READYs that arrived before the local collective began: (group × 256 + id) × 65,536 + rank -/
  earlyReady : List Nat
  /-- barrier arrivals standing, by group: core bit mask (R477) -/
  arrivals : Tab Nat
  /-- XBARRIER rounds: local barrier complete, by group -/
  xlocal : List Nat
  /-- ranks whose BARRIER_ARRIVE rank 0 holds, by group -/
  xranks : Tab (List Nat)
deriving DecidableEq, Repr

/-- One part of a mirror delta (R329, R330). -/
structure Delta where
  mseq : Nat
  part : Nat
  addr : Nat
  core : Nat
  ctx : Nat
  first : Bool
  last : Bool
  data : List (List Byte × Bool)
deriving DecidableEq, Repr

/-- Mirror pair state beside its objects (R328 to R335). -/
structure Mirror where
  nextMseq : Nat
  /-- parts sent and not acknowledged -/
  unacked : List Delta
  /-- parts that arrived early at a secondary -/
  heldParts : List Delta
  /-- highest MSEQ applied without a gap -/
  applied : Nat
  /-- next address of a resync, none = no copy runs; its first part is still to be sent; MSEQ of its last part, once sent -/
  resyncAt : Option Nat
  copyFirst : Bool
  copyLast : Option Nat
  /-- secondary: the newest image of each core and context, put into the registers at a takeover (R335) -/
  images : List Delta
deriving DecidableEq, Repr

/-! ## Host port (15, 16) -/

/-- A BAR2 request: a read of some bytes, a write, or an AtomicOp (0 FetchAdd, 1 Swap, 2 CAS) of 4 or 8 bytes with its operand
and compare value. -/
inductive HostRequest where
  | read (length : Nat)
  | write (data : List Byte) (poisoned : Bool)
  | atomic (op : Nat) (wide : Bool) (operand compare : Nat)
deriving DecidableEq, Repr

/-- A BAR2 request accepted while a domain on its path is held (R432), with the window address it was given. -/
structure HeldRequest where
  offset : Nat
  window : Nat
  req : HostRequest
deriving DecidableEq, Repr

structure HostPort where
  b2Log2 : Nat
  b2Base : W64
  caReads : Nat
  discarded : Nat
  poisonRx : Nat
  /-- BAR2 requests whose path crosses a domain whose clock is held, oldest first (R432) -/
  held : List HeldRequest
  /-- IRQ_MODE entries, index 16i + c -/
  irqMode : Tab Nat
  /-- MSI-X table dwords, index 4 × vector + dword; a vector's control dword resets masked -/
  msixTable : Tab Nat
  msixPending : List Nat
  /-- mailbox (R370): BUSY, DONE, OVERRUN, IRQ_EN, RESPONDER, LAST_SEQ and buffers -/
  mboxBusy : Bool
  mboxDone : Bool
  mboxOverrun : Bool
  mboxIrqEn : Bool
  mboxLastSeq : Nat
  mboxReq : Tab Byte
  mboxRep : Tab Byte
deriving DecidableEq, Repr

/-! ## Ledger server (16) -/

/-- A request waiting in the server's queue (R364). -/
structure LedgerReq where
  party : Party
  pdu : List Byte
deriving DecidableEq, Repr

/-- The report of one field (R359, R363): FSTATUS, REASON, requested and in-force values. -/
structure FieldReport where
  fstatus : Nat
  reason : Nat
  requested : Nat
  inForce : Nat
deriving DecidableEq, Repr

structure Led where
  queue : List LedgerReq
  owner : Option Party
  /-- MODEL: the report of the last field judged outside a PDU -/
  lastField : Option FieldReport
  /-- saved values (flash), and a save or erase in progress: values being written, erase -/
  saved : Tab Nat
  saving : Option (List (Nat × Nat))
  erasing : Bool
  lastReports : Tab (List Byte)
  eventStations : Tab Nat
deriving DecidableEq, Repr

/-- The management port (R372 to R378). -/
structure Mgmt where
  /-- settings in effect: the value of 0x1060.01 that the port runs on, and a newer one that is to take effect -/
  inEffect : Option Nat
  applyDue : Bool
  /-- kept replies, newest first: station, SEQ, reply PDU -/
  kept : List (Nat × Nat × List Byte)
  traySeq : Option Nat
  /-- the FAILSAFE being repeated: its word, and repeats sent -/
  failsafe : Option Nat
  failsafeCount : Nat
  /-- FAILSAFE has been asked for by the power alert or the loss of both feeds -/
  powerAsked : Bool
  /-- the thermal watch processor serves both paths (R378) -/
  responder : Bool
  /-- valid flow readings of the last 100 ms: age in samples, mL/min -/
  flows : List (Nat × Nat)
  /-- samples of 100 µs since the last accepted report, and since the last valid inlet reading -/
  age : Nat
  inletAge : Nat
deriving DecidableEq, Repr

/-! ## Power, heat, clocks, resets (17, 18, 19) -/

structure Power where
  /-- held REQUEST per domain in transition (R391) -/
  heldReq : Tab Nat
  /-- common tier state (R397); the common core state is COMMON of 0x3020.04 -/
  tierCommon : Nat
  /-- slowest state that a derate permits: core i at key i, tier t at 24 + t - 1 (R387), core i for its sensors at
  key 100 + i (R409); none = no derate -/
  holds : Tab Nat
  /-- banks that a regulator derate leaves a tier (R387) -/
  budgetHolds : Tab Nat
  /-- modelled power of the last 20 periods, newest first (R399) -/
  powers : List Nat
  /-- excursion (R398): periods it has lasted, 0 = none; it has run its 10 ms and the state is being lowered; periods at or
  below the cap since the last one -/
  overPeriods : Nat
  lowering : Bool
  okPeriods : Nat
  alertLow : Bool
  alertHold : Bool
deriving DecidableEq, Repr

structure Heat where
  /-- samples in a row that a pair's readings differed by more than 5 K, and, while SUSPECT, that they did not; key of the
  pair's object -/
  suspectRun : Tab Nat
  calmRun : Tab Nat
  /-- applied budget that the throttle leaves, by layer quadrant; unlisted = no throttle (R411) -/
  budgets : Tab Nat
  /-- causes of R414 present now -/
  causes : List Nat
  /-- the device-wide forced floor is held by R414, and by the base die's FLOOR or HELD (R410, R412) -/
  coolantFloor : Bool
  baseFloor : Bool
deriving DecidableEq, Repr

/-- A reset asked for or under way (R441): level code, target, full layer. -/
structure ResetReq where
  level : Nat
  target : Nat
  fullLayer : Bool
  begun : Bool
  /-- reset is asserted on the level's domains (step 4 of R440) -/
  asserted : Bool
deriving DecidableEq, Repr

structure Clocks where
  /-- judgement windows in a row (R427), by clock 0 REF100, 1 MGMT_REF, n + 1 the PLL at 0x2010.n: within tolerance, or
  2¹⁶ + those outside it -/
  runs : Tab Nat
deriving DecidableEq, Repr

/-! ## Faults and security (20, 22) -/

structure Faults where
  /-- fault-log entries not yet in flash, and those that a READ has returned (R462) -/
  unsaved : List Nat
  read : List Nat
  mcDown : Bool
  mcRestarted : Bool
  /-- spares used up (R449, R452): key (core × 8 + segment) × 32 + crossing -/
  spares : Tab Nat
  /-- lane groups mapped out: (core × 4 + segment) × 64 + group -/
  groupsOut : List Nat
  /-- cores whose trunk the last pass found beyond its spares, and those the pass at hand has found so far -/
  trunkBad : List Nat
  trunkNow : List Nat
  /-- tiers that have trained cold with success at a bring-up since they last failed (R457) -/
  coldOk : List Nat
  /-- fingerprints of the saved training settings, by tier 0 to 5: what they cover (flash, R444) -/
  tierSaved : Tab (List Nat)
deriving DecidableEq, Repr

/-- A firmware image as its header tells of it (R491); `digest` none: the image the part was made with. -/
structure Image where
  /-- image key that signed its header -/
  key : Nat
  version : Nat
  svn : Nat
  fmt : Nat
  revoke : Nat
  /-- accepted versions of the other two processors: MIN and MAX of the first, then of the second -/
  compat : List Nat
  size : Nat
  digest : Option Nat
deriving DecidableEq, Repr

/-- One processor's slots (R489, R499). -/
structure Proc where
  active : Image
  slotB : Bool
  /-- the image of the other slot, where it is verified -/
  other : Option Image
  pending : Bool
  fellBack : Bool
  floor : Nat
deriving DecidableEq, Repr

structure Security where
  /-- management controller, link training controller, thermal watch processor -/
  mc : Proc
  ltc : Proc
  twp : Proc
  /-- image keys revoked by fuse -/
  revoked : Nat
  /-- flash staging of a package, by offset -/
  staging : Tab Byte
  /-- party of the open session, and how many sessions have been opened (each has keys and a nonce of its own) -/
  owner : Option Party
  sessions : Nat
  /-- what APPLY has found so far: the header's image, or the error (R495) -/
  applying : Option (Nat ⊕ Image)
  /-- while an image of another settings format is pending: the old settings area: saved objects, link settings, tier
  settings (R498) -/
  oldArea : Option (Tab Nat × Tab (List Nat) × Tab (List Nat))
  /-- body of the attestation report being formed, and the finished report (R487) -/
  forming : Option (List Byte)
  report : List Byte
deriving DecidableEq, Repr

/-! ## The whole -/

/-- Per-part fuse values (00 R5; 12 R279; 16 R372, R380; 17 R404; 22 R485; log entry 3). -/
structure Fuses where
  grade : BitVec 32
  serial : W64
  mac : BitVec 48
  straps : BitVec 4
  minRows : Nat
  minCols : Nat
  coefVersion : Nat
  romVersion : Nat
deriving DecidableEq, Repr

/-- Everything but memory, fuses and the queue. `objs` holds the Ledger's register file: key 256 × index + subindex; an
unlisted object stands at its reset value (`objReset`). -/
structure Dev where
  /-- MODEL: free values drawn so far -/
  fresh : Nat
  /-- MODEL: what has left the device, newest first -/
  sent : List Sent
  devSeq : Nat
  powered : Bool
  tripped : Bool
  oscLost : Bool
  perst : Bool
  pcieUp : Bool
  startBlocked : Bool
  objs : Tab Nat
  cores : Tab Core
  lqs : Tab Lq
  banks : Tab Bank
  buckets : Tab Nat
  readyCtr : Nat
  convs : List Conversion
  lostLqs : List Nat
  darkLqs : List Nat
  outGroups : List Nat
  portClosed : List Nat
  /-- columns behind a broken spine (R388), and tiers whose memory failed cold training (R446) -/
  unreach : List Nat
  untrained : List Nat
  repairMap : List Nat
  memLogRead : List Nat
  windows : List Window
  ring : List RingXfer
  /-- transfers that wait at each stop to be injected -/
  ringOut : Tab (List RingXfer)
  /-- places taken in each stop's receive buffer -/
  ringCredits : Tab Nat
  links : Tab Link
  fab : Fab
  mirror : Mirror
  host : HostPort
  led : Led
  mgmt : Mgmt
  power : Power
  heat : Heat
  clocks : Clocks
  reset : Option ResetReq
  faults : Faults
  sec : Security
deriving DecidableEq, Repr

/-- The state of the block. -/
structure State where
  /-- commands waiting, first in, first out (the row's cut) -/
  pending : List Instr
  fuse : Fuses
  mem : Mem
  dev : Dev
deriving DecidableEq, Repr

/-! ## Reset (19 R438, R445; INVENTORY.md gives each value's source) -/

/-- A context's registers on a core as it opens or as the core is reset. -/
def CtxRegs.zero : CtxRegs :=
  { programBase := 0, recordBase := 0, recordSlots := 0, recordHead := 0, recordTail := 0, nextPtr := 0, keyHi := 0,
    keyLo := 0, lastCommit := none, tables := [], shadow := [], parkedRun := none, parkedReady := none,
    parkReady := false, preds := [] }

def Outrider.idle : Outrider := { at? := none, ahead := 0, staged := [], followed := [], writes := [] }

def Core.zero : Core :=
  { ctrl := 0x800, ctrlNext := none, startErr := 0, active := 0, halted := 0, current := 0, stopAfter := 0, orHit := 0,
    orMiss := 0, abortCtx := 0, abortRes := 0, abortAddr := 0, abortLatched := false, disabling := none, closing := 0, ctxs := [],
    fetch := none, wait := none, ready := none, run := none, quantumUp := false, flags := 0, outrider := Outrider.idle,
    cistern := [], cisPoison := [], cisPending := false, inReset := false, ripple := none }

def Lq.zero : Lq :=
  { work := [], arrived := [], halves := 0, stepping := none, readyAt := none, firstBank := 0, banks := 0,
    refreshing := false, scrubUnit := 0, held := [], queue := [] }

def Bank.zero : Bank := { lastEvents := [], rowsUsed := 0, colsUsed := 0, copy := none, exhausted := false, unwritten := [] }

def Link.zero : Link :=
  { txSb := [], txMirror := [], txBulk := [], mid := 0, crSb := 64, crBulk := 8192, rxSb := [], rxBulk := [], freeSb := 0, freeBulk := 0,
    txSeq := 0, replay := [], replaying := 0, rxLast := 4095, nakDue := false, nakOut := false, reqDue := 0,
    reqReason := 0, phase := 0, mode := 0, repeats := 0, lanes := 0, downHeld := false, draining := false, saved := none,
    partnerSerial := 0 }

def Fab.zero : Fab :=
  { outstanding := [], nextTag := 0, waiting := [], robin := [], colls := [], earlyReady := [], arrivals := [],
    xlocal := [], xranks := [] }

def Mirror.zero : Mirror :=
  { nextMseq := 0, unacked := [], heldParts := [], applied := 0, resyncAt := none, copyFirst := false,
    copyLast := none, images := [] }

def HostPort.zero : HostPort :=
  { b2Log2 := 30, b2Base := 0, caReads := 0, discarded := 0, poisonRx := 0, held := [], irqMode := [], msixTable := [],
    msixPending := [], mboxBusy := false, mboxDone := false, mboxOverrun := false, mboxIrqEn := false,
    mboxLastSeq := 0, mboxReq := [], mboxRep := [] }

def Led.zero : Led :=
  { queue := [], owner := none, lastField := none, saved := [], saving := none, erasing := false, lastReports := [],
    eventStations := [] }

def Mgmt.zero : Mgmt :=
  { inEffect := none, applyDue := false, kept := [], traySeq := none, failsafe := none, failsafeCount := 0,
    powerAsked := false, responder := false, flows := [], age := 0, inletAge := 0 }

def Power.zero : Power :=
  { heldReq := [], tierCommon := 0, holds := [], budgetHolds := [], powers := [], overPeriods := 0, lowering := false,
    okPeriods := 1800, alertLow := false, alertHold := false }

/-- Cause 3 of R414 is present from reset, and the floor with it. -/
def Heat.zero : Heat :=
  { suspectRun := [], calmRun := [], budgets := [], causes := [3], coolantFloor := true, baseFloor := false }

def Clocks.zero : Clocks := { runs := [] }

def Faults.zero : Faults :=
  { unsaved := [], read := [], mcDown := false, mcRestarted := false, spares := [], groupsOut := [], trunkBad := [],
    trunkNow := [], coldOk := [], tierSaved := [] }

/-- The image a part is made with accepts every version (log entry 3). -/
def Image.made : Image :=
  { key := 0, version := 0x10000, svn := 0, fmt := 1, revoke := 0, compat := [0, 0xFFFFFFFF, 0, 0xFFFFFFFF], size := 0, digest := none }

def Proc.made : Proc :=
  { active := Image.made, slotB := false, other := none, pending := false, fellBack := false, floor := 0 }

def Security.zero : Security :=
  { mc := Proc.made, ltc := Proc.made, twp := Proc.made, revoked := 0, staging := [], owner := none, sessions := 0,
    applying := none, oldArea := none, forming := none, report := [] }

def Fuses.typical : Fuses :=
  { grade := 0x02FFFFFF, serial := 1, mac := 0x020000000001, straps := 0, minRows := 32, minCols := 16,
    coefVersion := 1, romVersion := 1 }

def Dev.zero : Dev :=
  { fresh := 0, sent := [], devSeq := 2 ^ 32, powered := true, tripped := false, oscLost := false, perst := false,
    pcieUp := false, startBlocked := false, objs := [], cores := [], lqs := [], banks := [], buckets := [],
    readyCtr := 0, convs := [], lostLqs := [], darkLqs := [], outGroups := [], portClosed := [], unreach := [],
    untrained := [], repairMap := [], memLogRead := [], windows := [], ring := [], ringOut := [], ringCredits := [], links := [],
    fab := Fab.zero, mirror := Mirror.zero, host := HostPort.zero, led := Led.zero, mgmt := Mgmt.zero,
    power := Power.zero, heat := Heat.zero, clocks := Clocks.zero, reset := none, faults := Faults.zero,
    sec := Security.zero }

/-- The block right after reset: nothing waits, memory reads zero, bring-up stands at STAGE 0x00. -/
def State.reset : State := { pending := [], fuse := Fuses.typical, mem := { cells := [], marks := [] }, dev := Dev.zero }

/-- No command of this block ends in a fault: errors are statuses, counts and logs (INVENTORY.md, Faults). -/
inductive Fault where
deriving DecidableEq, Repr

/-- Why a command has no meaning. -/
inductive Refusal where
  /-- raised by exec's arm of a command whose meaning is not written yet; safe -/
  | notModelled (mnemonic : String)
deriving DecidableEq, Repr

end Sys2Proof.Machine
end

