-- ==== Sys2Proof/Machine/Objects.lean ====
section
/-! DEFINITION. The object dictionary: every index and subindex of R379, its descriptor (R356, R357), the rules of its
fields, and its reset value (the tables of 05 to 23). -/

namespace Sys2Proof.Machine

/-- How one field of an object takes a written value (R359, R360). -/
inductive FRule where
  /-- written by the device; a written value is ignored -/
  | ro
  /-- reserved: a non-zero value is rejected (R8) -/
  | resv
  /-- any value -/
  | rw
  /-- a number clamped to its range and step -/
  | num (lo hi step : Nat)
  /-- as `num`, with 0 as a special value (R360) -/
  | numOr0 (lo hi : Nat)
  /-- codes: any other is rejected -/
  | codes (cs : List Nat)
  /-- a trigger: acts when written, reads zero (R358) -/
  | trig
deriving DecidableEq, Repr

/-- A field: bits `hi` to `lo` and its rule. Bits of no field are reserved. -/
structure FieldSpec where
  hi : Nat
  lo : Nat
  rule : FRule
deriving DecidableEq, Repr

/-- A subindex: type and unit codes of R357, size in bytes, and attributes of R356. -/
structure ObjSpec where
  ty : Nat
  size : Nat
  unit : Nat
  r : Bool
  w : Bool
  o : Bool
  p : Bool
  d : Bool
  fields : List FieldSpec
deriving DecidableEq, Repr

def tyU32 : Nat := 0x03
def tyU64 : Nat := 0x04
def tyB32 : Nat := 0x08
def tyB64 : Nat := 0x09
def tyB128 : Nat := 0x0A
def tyBytes : Nat := 0x0B

/-- A read-only object of `n` bytes that the device updates. -/
def oRO (ty n unit : Nat) : ObjSpec := ⟨ty, n, unit, true, false, false, false, true, [⟨8 * n - 1, 0, .ro⟩]⟩
/-- A read-only object fixed at manufacture. -/
def oFix (ty n : Nat) : ObjSpec := ⟨ty, n, 0, true, false, false, false, false, [⟨8 * n - 1, 0, .ro⟩]⟩
/-- An owner-written object. -/
def oRW (ty n unit : Nat) (p : Bool) (fs : List FieldSpec) : ObjSpec := ⟨ty, n, unit, true, true, true, p, false, fs⟩
/-- An owner-written object with fields that the device updates. -/
def oRWD (ty n unit : Nat) (p : Bool) (fs : List FieldSpec) : ObjSpec := ⟨ty, n, unit, true, true, true, p, true, fs⟩
/-- An owner-only trigger. -/
def oTrig (fs : List FieldSpec) : ObjSpec := ⟨tyB32, 4, 0, false, true, true, false, false, fs⟩

/-- A row of the dictionary: indices, subindices from 1, and what they hold. -/
structure ObjRow where
  lo : Nat
  hi : Nat
  sub0 : Nat
  sub1 : Nat
  spec : ObjSpec
deriving DecidableEq, Repr

def objRows1 : List ObjRow := [
  -- R380
  ⟨0x1001, 0x1001, 1, 1, oFix tyU64 8⟩, ⟨0x1001, 0x1001, 2, 3, oFix tyB32 4⟩,
  -- R352
  ⟨0x1010, 0x1010, 1, 1, oRO 0x01 1 0⟩,
  -- R367
  ⟨0x1020, 0x1020, 1, 1, oTrig [⟨1, 1, .trig⟩, ⟨0, 0, .trig⟩]⟩, ⟨0x1020, 0x1020, 2, 2, oRO tyB32 4 0⟩,
  -- R363
  ⟨0x1030, 0x1030, 1, 2, oRO tyBytes 64 0⟩,
  -- R365
  ⟨0x1040, 0x1040, 1, 1, oRO tyB64 8 0⟩,
  ⟨0x1040, 0x1040, 2, 2, ⟨tyB32, 4, 0, false, true, false, false, false, [⟨0, 0, .trig⟩]⟩⟩,
  ⟨0x1040, 0x1040, 3, 3, oTrig [⟨0, 0, .trig⟩]⟩,
  ⟨0x1040, 0x1040, 4, 4, oRW tyU32 4 4 true [⟨31, 0, .num 100 600000 1⟩]⟩,
  ⟨0x1040, 0x1040, 5, 5, oRO tyU32 4 4⟩,
  -- R375
  ⟨0x1050, 0x1050, 1, 4, ⟨tyU64, 8, 0, true, true, false, false, false, [⟨47, 0, .rw⟩]⟩⟩,
  -- R372
  ⟨0x1060, 0x1060, 1, 1, oRW tyB64 8 0 true [⟨32, 32, .rw⟩, ⟨23, 16, .num 1 255 1⟩, ⟨15, 8, .num 1 255 1⟩, ⟨7, 0, .num 0 254 1⟩]⟩,
  ⟨0x1060, 0x1060, 2, 2, oFix tyU64 8⟩, ⟨0x1060, 0x1060, 3, 3, oRO tyB64 8 0⟩]

def objRows2 : List ObjRow := [
  -- R430
  ⟨0x2001, 0x2001, 1, 1, oRO tyB32 4 0⟩,
  ⟨0x2010, 0x2010, 1, 0x24, oRWD tyB32 4 0 false [⟨31, 24, .ro⟩, ⟨11, 11, .ro⟩, ⟨10, 10, .rw⟩, ⟨8, 8, .rw⟩, ⟨5, 4, .ro⟩, ⟨2, 0, .ro⟩]⟩,
  -- R435
  ⟨0x2030, 0x2030, 1, 1, oRW tyB32 4 0 true [⟨23, 16, .num 0 50 1⟩, ⟨15, 8, .num 0 50 1⟩, ⟨2, 2, .rw⟩, ⟨0, 0, .rw⟩]⟩,
  ⟨0x2030, 0x2030, 2, 2, oRW tyB32 4 0 true [⟨31, 16, .num 300 330 1⟩, ⟨15, 0, .num 300 330 1⟩]⟩,
  -- R436
  ⟨0x2040, 0x2040, 1, 24, oRW tyB32 4 0 false [⟨9, 9, .rw⟩, ⟨8, 8, .rw⟩, ⟨7, 0, .rw⟩]⟩,
  -- R425
  ⟨0x2050, 0x2050, 1, 0x80, oRO tyU64 8 1⟩,
  -- R441
  ⟨0x2100, 0x2100, 1, 1, oTrig [⟨15, 8, .trig⟩, ⟨4, 4, .trig⟩, ⟨2, 0, .trig⟩]⟩,
  ⟨0x2100, 0x2100, 2, 2, oRO tyB64 8 0⟩,
  ⟨0x2100, 0x2100, 3, 3, oRW tyB32 4 0 true [⟨0, 0, .rw⟩]⟩]

def objRows3 : List ObjRow := [
  -- R383
  ⟨0x3010, 0x3010, 1, 1, oRO tyB32 4 0⟩,
  -- R399
  ⟨0x3020, 0x3020, 1, 1, oRW tyU32 4 0x0B true [⟨31, 0, .num 1000 6000 1⟩]⟩,
  ⟨0x3020, 0x3020, 2, 3, oRO tyU32 4 0x0B⟩, ⟨0x3020, 0x3020, 4, 4, oRO tyB32 4 0⟩,
  ⟨0x3020, 0x3020, 5, 5, oRW tyB32 4 0 true [⟨2, 0, .rw⟩]⟩,
  -- R401
  ⟨0x3030, 0x3030, 1, 1, oRWD tyB32 4 0 true [⟨31, 16, .ro⟩, ⟨1, 1, .ro⟩, ⟨0, 0, .rw⟩]⟩,
  -- R399
  ⟨0x3051, 0x3051, 1, 24, oRO tyB32 4 0⟩, ⟨0x3052, 0x3052, 1, 6, oRO tyB32 4 0⟩,
  -- R391
  ⟨0x3100, 0x3100, 1, 38, oRWD tyB32 4 0 false [⟨7, 4, .ro⟩, ⟨1, 0, .codes [0, 1]⟩]⟩,
  -- R205
  ⟨0x3140, 0x3140, 1, 6, oRW tyB32 4 0x0E false [⟨15, 0, .num 2048 32768 2048⟩]⟩,
  ⟨0x3141, 0x3141, 1, 6, oRO tyB32 4 0x0E⟩,
  -- R390, R400
  ⟨0x3300, 0x3300, 1, 1, oRW tyU32 4 0 false [⟨31, 0, .num 10 100 1⟩]⟩,
  ⟨0x3400, 0x3400, 1, 1, oRO tyB32 4 0⟩]

def objRows4 : List ObjRow := [
  -- R376
  ⟨0x4010, 0x4010, 1, 1, oRW tyU64 8 0 true [⟨47, 0, .rw⟩]⟩, ⟨0x4010, 0x4010, 2, 2, oRO tyB64 8 0⟩,
  ⟨0x4010, 0x4010, 3, 3, oRO tyU32 4 3⟩,
  -- R420
  ⟨0x4020, 0x4020, 1, 1, oRO tyB32 4 0⟩, ⟨0x4020, 0x4020, 2, 3, oRO tyU32 4 0x0B⟩,
  ⟨0x4020, 0x4020, 4, 4, ⟨tyU32, 4, 1, true, false, false, true, true, [⟨31, 0, .ro⟩]⟩⟩,
  -- R422
  ⟨0x4030, 0x4030, 1, 24, oRO tyB32 4 0⟩, ⟨0x4031, 0x4031, 1, 96, oRO tyB32 4 0⟩, ⟨0x4032, 0x4032, 1, 1, oRO tyB32 4 0⟩]

def objRows5 : List ObjRow := [
  -- R202, R203
  ⟨0x5020, 0x5020, 1, 1, oRW tyU32 4 1 false [⟨31, 0, .num 1 8 1⟩]⟩, ⟨0x5021, 0x5021, 1, 96, oRO tyB64 8 0⟩,
  -- R277
  ⟨0x5030, 0x5030, 1, 1, oRW tyB32 4 6 false [⟨7, 0, .num 1 168 1⟩]⟩, ⟨0x5031, 0x5031, 1, 96, oRO tyB64 8 0⟩,
  -- R279
  ⟨0x5040, 0x5041, 1, 96, oRO tyB64 8 0⟩, ⟨0x5050, 0x5050, 1, 25, oRO tyB64 8 0⟩,
  -- R281
  ⟨0x5060, 0x5060, 1, 0x80, oRO tyB128 16 0⟩,
  ⟨0x5060, 0x5060, 0x81, 0x81, oRWD tyB32 4 0 false [⟨31, 16, .ro⟩, ⟨14, 8, .rw⟩, ⟨6, 0, .ro⟩]⟩,
  -- R285
  ⟨0x5070, 0x5070, 1, 1, oRO tyB32 4 0⟩,
  -- R187
  ⟨0x5110, 0x5127, 1, 24, oRW tyB64 8 0 false [⟨63, 0, .rw⟩]⟩, ⟨0x5110, 0x5127, 25, 25, oRO tyB64 8 0⟩,
  -- R280
  ⟨0x5201, 0x5218, 1, 64, oRO tyBytes 32 0⟩,
  ⟨0x5201, 0x5218, 65, 65, oRWD tyB32 4 0 false [⟨31, 31, .trig⟩, ⟨22, 7, .ro⟩, ⟨6, 0, .ro⟩]⟩]

def objRows6 : List ObjRow := [
  -- R311, R309, R320, R327
  ⟨0x6001, 0x6001, 1, 1, oRW 0x02 2 0 true [⟨15, 0, .rw⟩]⟩,
  ⟨0x6010, 0x6010, 1, 1, oRW tyU32 4 2 false [⟨31, 0, .num 1000 100000 1⟩]⟩,
  ⟨0x6010, 0x6010, 2, 2, oRW tyU32 4 4 false [⟨31, 0, .num 1 1000 1⟩]⟩,
  ⟨0x6010, 0x6010, 3, 3, oRW tyU32 4 3 false [⟨31, 0, .num 1 100000 1⟩]⟩,
  ⟨0x6020, 0x6020, 1, 2, oRW tyU32 4 4 false [⟨31, 0, .num 1 10000 1⟩]⟩,
  -- R310
  ⟨0x6100, 0x611F, 1, 1, oRWD tyB32 4 0 false [⟨7, 7, .trig⟩, ⟨6, 6, .rw⟩, ⟨5, 5, .rw⟩, ⟨4, 4, .rw⟩]⟩,
  ⟨0x6100, 0x611F, 2, 3, oRO tyB64 8 0⟩, ⟨0x6100, 0x611F, 4, 4, oRO tyB32 4 0⟩,
  -- R319
  ⟨0x6300, 0x6300, 1, 16, oRW tyB128 16 0 true [⟨127, 86, .rw⟩, ⟨79, 38, .rw⟩, ⟨2, 2, .rw⟩, ⟨1, 1, .rw⟩, ⟨0, 0, .rw⟩]⟩,
  -- R323
  ⟨0x6400, 0x640F, 1, 1, oRW tyB64 8 0 true [⟨47, 32, .num 1 65535 1⟩, ⟨31, 16, .rw⟩, ⟨15, 0, .rw⟩]⟩,
  ⟨0x6400, 0x640F, 2, 2, oRO tyB32 4 0⟩,
  -- R328
  ⟨0x6500, 0x6500, 1, 1, oRW tyB64 8 0 true [⟨63, 48, .rw⟩, ⟨47, 28, .rw⟩, ⟨25, 24, .codes [0, 1, 2]⟩, ⟨15, 0, .rw⟩]⟩,
  ⟨0x6500, 0x6500, 2, 2, oRW tyU32 4 3 true [⟨31, 0, .numOr0 1000 10000000⟩]⟩,
  ⟨0x6500, 0x6500, 3, 3, oTrig [⟨2, 2, .trig⟩, ⟨1, 1, .trig⟩, ⟨0, 0, .trig⟩]⟩,
  ⟨0x6500, 0x6500, 4, 4, oRO tyB64 8 0⟩,
  ⟨0x6510, 0x6510, 1, 16, oRW tyB128 16 0 true [⟨95, 48, .num 0 0xFFFFF0000000 0x10000000⟩, ⟨47, 0, .num 0 0xFFFFF0000000 0x10000000⟩]⟩,
  ⟨0x6520, 0x6520, 1, 3, oRO tyU32 4 1⟩,
  -- R316
  ⟨0x6600, 0x67FF, 1, 128, oRW tyB32 4 0 true [⟨31, 0, .rw⟩]⟩]

def objRows7 : List ObjRow := [
  -- R455
  ⟨0x7001, 0x7001, 1, 24, oRWD tyB32 4 0 false [⟨15, 8, .ro⟩, ⟨2, 2, .trig⟩, ⟨1, 1, .trig⟩, ⟨0, 0, .ro⟩]⟩,
  -- R458
  ⟨0x7010, 0x7012, 1, 24, oRO tyU32 4 1⟩,
  ⟨0x7020, 0x7020, 1, 1, oRW tyU32 4 3 true [⟨31, 0, .num 1 100000 1⟩]⟩,
  -- R448
  ⟨0x7030, 0x7030, 1, 7, oRW tyB64 8 0 true [⟨63, 32, .num 1 604800000 1⟩, ⟨31, 0, .num 1 65535 1⟩]⟩,
  -- R454
  ⟨0x7040, 0x7040, 1, 24, oRO tyBytes 64 0⟩, ⟨0x7041, 0x7041, 1, 24, oRO tyU32 4 0x0E⟩,
  -- R459
  ⟨0x7050, 0x7050, 1, 1, oRW tyU32 4 4 true [⟨31, 0, .num 20 1000 1⟩]⟩,
  ⟨0x7050, 0x7050, 2, 2, oRW tyU32 4 4 true [⟨31, 0, .num 100 60000 1⟩]⟩,
  ⟨0x7050, 0x7050, 3, 3, oRW tyB32 4 0 true [⟨1, 0, .codes [0, 1, 2]⟩]⟩,
  -- R454
  ⟨0x7060, 0x7060, 1, 1, oRW tyB32 4 6 true [⟨7, 0, .num 1 168 1⟩]⟩,
  ⟨0x7060, 0x7060, 2, 2, oTrig [⟨0, 0, .trig⟩]⟩, ⟨0x7060, 0x7060, 3, 3, oRO tyB64 8 0⟩,
  ⟨0x7061, 0x7061, 1, 24, oRO tyB64 8 0⟩,
  -- R462
  ⟨0x7100, 0x7100, 1, 0xF0, oRO tyBytes 32 0⟩,
  ⟨0x7100, 0x7100, 0xF1, 0xF1, oRWD tyB64 8 0 false [⟨63, 63, .trig⟩, ⟨31, 16, .ro⟩, ⟨15, 8, .ro⟩, ⟨7, 0, .ro⟩]⟩]

def objRows8 : List ObjRow := [
  -- R464 to R466, R469
  ⟨0x8001, 0x8001, 1, 24, oRWD tyB32 4 0 false [⟨15, 0, .rw⟩]⟩,
  ⟨0x8010, 0x801F, 1, 8, oRW tyB128 16 0 false [⟨127, 96, .rw⟩, ⟨79, 48, .rw⟩, ⟨1, 1, .rw⟩, ⟨0, 0, .rw⟩]⟩,
  ⟨0x8010, 0x801F, 9, 9, oRW tyB32 4 0 false [⟨15, 0, .rw⟩]⟩,
  ⟨0x8020, 0x8020, 1, 24, oRW tyU32 4 3 false [⟨31, 0, .num 10 100000 1⟩]⟩,
  ⟨0x8030, 0x803F, 1, 24, oRW tyB32 4 0 false [⟨25, 16, .rw⟩, ⟨9, 0, .rw⟩]⟩,
  -- R255
  ⟨0x8040, 0x8040, 1, 24, oRWD tyB32 4 0 false [⟨5, 5, .ro⟩, ⟨4, 4, .rw⟩, ⟨3, 0, .rw⟩]⟩,
  -- R476
  ⟨0x8050, 0x8050, 1, 16, oRWD tyB64 8 0 false [⟨63, 48, .num 1 10000 1⟩, ⟨44, 44, .rw⟩, ⟨43, 40, .rw⟩, ⟨39, 36, .rw⟩, ⟨35, 24, .ro⟩, ⟨23, 0, .rw⟩]⟩,
  -- R475, R473, R472, R474
  ⟨0x8060, 0x8060, 1, 24, oRO tyBytes 64 0⟩, ⟨0x8063, 0x8063, 1, 24, oRO tyBytes 64 0⟩,
  ⟨0x8061, 0x8061, 1, 24, oTrig [⟨17, 17, .trig⟩, ⟨16, 16, .trig⟩, ⟨9, 0, .trig⟩]⟩,
  ⟨0x8062, 0x8062, 1, 24, oRO tyB32 4 1⟩,
  ⟨0x8070, 0x8070, 1, 16, oRW tyB32 4 0 false [⟨13, 8, .rw⟩, ⟨5, 0, .rw⟩]⟩,
  ⟨0x8080, 0x8080, 1, 1, oRW tyB32 4 0 false [⟨15, 0, .rw⟩]⟩]

def objRows9 : List ObjRow := [
  -- R485 to R499
  ⟨0x9001, 0x9001, 1, 1, oFix tyB32 4⟩, ⟨0x9002, 0x9002, 1, 0x1F, oFix tyBytes 64⟩, ⟨0x9003, 0x9003, 1, 0x54, oFix tyBytes 64⟩,
  ⟨0x9010, 0x9010, 1, 1, oRW tyBytes 32 0 false [⟨255, 0, .rw⟩]⟩,
  ⟨0x9010, 0x9010, 2, 2, oTrig [⟨0, 0, .trig⟩]⟩, ⟨0x9010, 0x9010, 3, 3, oRO tyB32 4 0⟩,
  ⟨0x9011, 0x9011, 1, 0x38, oRO tyBytes 64 0⟩,
  ⟨0x9020, 0x9020, 1, 1, oTrig [⟨9, 8, .trig⟩, ⟨3, 0, .trig⟩]⟩, ⟨0x9020, 0x9020, 2, 2, oRO tyB32 4 0⟩,
  ⟨0x9020, 0x9020, 3, 3, oRW tyU64 8 0 false [⟨63, 0, .rw⟩]⟩,
  ⟨0x9020, 0x9020, 4, 4, oRW tyU32 4 0x0D false [⟨31, 0, .num 5192 50331648 1⟩]⟩,
  ⟨0x9020, 0x9020, 5, 5, oRW tyU32 4 5 true [⟨31, 0, .num 60 604800 1⟩]⟩,
  ⟨0x9020, 0x9020, 6, 6, oRW tyU32 4 0x0D false [⟨31, 0, .num 0 4294967232 64⟩]⟩,
  ⟨0x9020, 0x9020, 7, 7, oRW tyBytes 64 0 false [⟨511, 0, .rw⟩]⟩,
  ⟨0x9021, 0x9021, 1, 0x4E, oRO tyBytes 64 0⟩, ⟨0x9030, 0x9030, 1, 3, oRO tyB64 8 0⟩,
  -- R404
  ⟨0xA001, 0xA001, 1, 1, oFix tyU32 4⟩, ⟨0xA010, 0xA010, 1, 2, oRO tyU64 8 0x0C⟩, ⟨0xA011, 0xA011, 1, 16, oRO tyU64 8 0x0C⟩,
  -- R501, R506
  ⟨0xB010, 0xB010, 1, 24, oRO tyB32 4 0⟩, ⟨0xB020, 0xB023, 1, 24, oRO tyU64 8 1⟩, ⟨0xB024, 0xB024, 1, 96, oRO tyU64 8 1⟩,
  ⟨0xB025, 0xB025, 1, 24, oRO tyU64 8 1⟩]

/-- Rows of the dictionary that may hold an index. -/
def objRowsFor (idx : Nat) : List ObjRow :=
  match idx / 4096 with
  | 1 => objRows1 | 2 => objRows2 | 3 => objRows3 | 4 => objRows4 | 5 => objRows5 | 6 => objRows6
  | 7 => objRows7 | 8 => objRows8 | 9 => objRows9 | 10 => objRows9 | 11 => objRows9 | _ => []

/-- The layer at a stack position is a compute layer: position 5t - 2 (R10). -/
def isComputePos (p : Nat) : Bool := p % 5 == 3

/-- Regulator clusters of the layer at position `p` (R385). -/
def clusterCount (p : Nat) : Nat := if p = 0 then 20 else if isComputePos p then 70 else 18

/-- Sensor pairs of the layer at position `p` (R407, R421). -/
def pairCount (p : Nat) : Nat := if p = 0 then 4 else if isComputePos p then 32 else 16

/-- A code of R425. -/
def isClockCode (k : Nat) : Bool :=
  (1 ≤ k && k ≤ 5) || (0x21 ≤ k && k ≤ 0x26) || (0x40 ≤ k && k ≤ 0x57) || (0x60 ≤ k && k ≤ 0x7F)

/-- Highest subindex of an index, none where the index is reserved (R355, R379). -/
def topSub (idx : Nat) : Option Nat :=
  if 0x3200 ≤ idx && idx ≤ 0x321E then some (clusterCount (idx - 0x3200))
  else if 0x4040 ≤ idx && idx ≤ 0x405E then some (pairCount (idx - 0x4040))
  else
    let subs := ((objRowsFor idx).filter fun r => r.lo ≤ idx && idx ≤ r.hi).map (·.sub1)
    if subs.isEmpty then none else some (subs.foldl max 0)

/-- The descriptor of subindex 0x00 (R355). -/
def oTop : ObjSpec := ⟨0x01, 1, 0, true, false, false, false, false, [⟨7, 0, .ro⟩]⟩

/-- What a subindex is; none where it is reserved. -/
def objSpec (idx sub : Nat) : Option ObjSpec :=
  match topSub idx with
  | none => none
  | some top =>
    if sub = 0 then some oTop
    else if top < sub then none
    else if 0x3200 ≤ idx && idx ≤ 0x321E then some (oRO tyB32 4 0)
    else if 0x4040 ≤ idx && idx ≤ 0x405E then some (oRO tyB64 8 0)
    else if idx = 0x2050 && !isClockCode (sub - 1) then none
    else
      match (objRowsFor idx).find? fun r => r.lo ≤ idx && idx ≤ r.hi && r.sub0 ≤ sub && sub ≤ r.sub1 with
      | some r => some r.spec
      | none => none

/-! ## Reset values -/

/-- Core index `i` is enabled in the grade fuse word (R5). -/
def Fuses.coreOn (f : Fuses) (i : Nat) : Bool := f.grade.toNat.testBit i

/-- The Cistern and GRADIENT_FOLD are present (R5, R6). -/
def Fuses.gradOn (f : Fuses) : Bool := f.grade.toNat.testBit 25

/-- Default threshold and window of bucket class `s` (R448). -/
def bucketDefault : Nat → Nat × Nat
  | 1 => (16, 3600000) | 2 => (4, 3600000) | 3 => (1000, 1000) | 4 => (100, 1000)
  | 5 => (4, 86400000) | 6 => (3, 1000) | 7 => (64, 3600000) | _ => (0, 0)

/-- Reset value of an object, fuse values included. Where no chapter gives one the value is a log entry's
(notes/assumptions 3, 9, 10, 11, 12). -/
def objReset (f : Fuses) (idx sub : Nat) : Nat :=
  match idx with
  | 0x1001 => if sub = 1 then f.serial.toNat else if sub = 2 then f.grade.toNat else 1
  | 0x1040 => if sub = 4 then 10000 else 0
  | 0x1060 =>
    if sub = 1 then 2 ^ 32 + 32 * 65536 + 8 * 256 + (f.straps.toNat + 1)
    else if sub = 2 then f.mac.toNat else 0
  | 0x2001 => 0x20
  | 0x2010 => if sub = 0x24 then 0x20 else 0
  | 0x2030 => if sub = 2 then 315 * 65536 + 315 else 0
  | 0x2100 => if sub = 3 then 1 else 0
  | 0x3010 => 0xB
  | 0x3020 => if sub = 1 || sub = 2 then 6000 else 0
  | 0x3051 => 7
  | 0x3052 => 7
  | 0x3100 => if sub ≤ 24 && !f.coreOn (sub - 1) then 0x50 else 0
  | 0x3140 => 32768
  | 0x3141 => 32768
  | 0x3300 => 30
  | 0x4020 => if sub = 1 then 0x132 else if sub = 2 || sub = 3 then 6000 else 0
  | 0x5020 => 8
  | 0x5030 => 24
  | 0x5041 => f.minRows * 256 + f.minCols
  | 0x6010 => if sub = 1 then 10000 else if sub = 2 then 50 else 200
  | 0x6020 => 100
  | 0x7020 => 200
  | 0x7030 => (bucketDefault sub).2 * 2 ^ 32 + (bucketDefault sub).1
  | 0x7041 => 8192
  | 0x7050 => if sub = 1 then 50 else if sub = 2 then 2000 else 2
  | 0x7060 => if sub = 1 then 24 else 0
  | 0x7061 => 32 * 2 ^ 40 + 128 * 2 ^ 32 + 64 * 2 ^ 24 + 64 * 2 ^ 16 + 64 * 2 ^ 8 + 64
  | 0x8020 => 1000
  | 0x8050 => 100 * 2 ^ 48
  | 0x9001 => f.romVersion * 65536
  | 0x9020 => if sub = 4 then 5192 else if sub = 5 then 86400 else 0
  | 0x9030 => 0x0001000000000000
  | 0xA001 => f.coefVersion
  | _ => if 0x6100 ≤ idx && idx ≤ 0x611F then (if sub = 1 then 0x30 else 0)
    else if 0x6400 ≤ idx && idx ≤ 0x640F then (if sub = 1 then 2 ^ 32 else 0)
    else 0

/-! ## Descriptors (R356) -/

/-- The one named field of an object, where it has exactly one. -/
def ObjSpec.single? (o : ObjSpec) : Option FieldSpec :=
  match o.fields with
  | [f] => some f
  | _ => none

/-- MIN, MAX and STEP of a descriptor; all zero where a subindex holds several fields. -/
def ObjSpec.bounds (o : ObjSpec) : Nat × Nat × Nat :=
  match o.single? with
  | none => (0, 0, 0)
  | some f =>
    match f.rule with
    | .num lo hi st => (lo, hi, st)
    | .numOr0 lo hi => (lo, hi, 1)
    | _ => if o.size ≤ 8 then (0, 2 ^ (f.hi + 1 - f.lo) - 1, 1) else (0, 0, 0)

def ObjSpec.isEnum (o : ObjSpec) : Bool := o.fields.any fun f => match f.rule with | .codes _ => true | _ => false

/-- ATTR (R356). -/
def ObjSpec.attr (o : ObjSpec) : Nat :=
  o.r.toNat + 2 * o.w.toNat + 4 * o.o.toNat + 8 * o.p.toNat + 16 * o.d.toNat + 32 * o.isEnum.toNat

/-- The descriptor record of a subindex, 256 bits. -/
def descriptor (o : ObjSpec) (default : Nat) : Nat :=
  let b := o.bounds
  b.2.1 * 2 ^ 192 + b.1 * 2 ^ 128 + default % 2 ^ 64 * 2 ^ 64 + b.2.2 * 2 ^ 32 +
    o.unit * 2 ^ 24 + o.ty * 2 ^ 16 + o.size * 2 ^ 8 + o.attr

/-! ## Judging a written value (R359 rows 5, 6 and 8; R360) -/

/-- Bits that some field of the object covers and that may be non-zero. -/
def ObjSpec.covered (o : ObjSpec) (i : Nat) : Bool :=
  o.fields.any fun f => f.lo ≤ i && i ≤ f.hi && f.rule != .resv

/-- A reserved bit of the written value is set. -/
def ObjSpec.reservedSet (o : ObjSpec) (v : Nat) : Bool :=
  (List.range (8 * o.size)).any fun i => v.testBit i && !o.covered i

/-- The permitted value nearest to `v`, a tie going to the lower (R360). -/
def nearest (lo hi step v : Nat) : Nat :=
  if v ≤ lo then lo
  else
    let top := lo + (hi - lo) / step * step
    if top ≤ v then top
    else
      let a := lo + (v - lo) / step * step
      if v - a ≤ a + step - v then a else a + step

/-- The value a field takes, none where it is a code that does not exist. -/
def FRule.judge (r : FRule) (v : Nat) : Option Nat :=
  match r with
  | .num lo hi st => some (nearest lo hi st v)
  | .numOr0 lo hi => some (if v = 0 then 0 else nearest lo hi 1 v)
  | .codes cs => if cs.contains v then some v else none
  | _ => some v

/-- Some field holds a code that does not exist. -/
def ObjSpec.badCode (o : ObjSpec) (v : Nat) : Bool :=
  o.fields.any fun f => (f.rule.judge (fld v f.hi f.lo)).isNone

/-- The written value with every number clamped. -/
def ObjSpec.clampAll (o : ObjSpec) (v : Nat) : Nat :=
  o.fields.foldl (fun acc f => setFld acc f.hi f.lo ((f.rule.judge (fld v f.hi f.lo)).getD 0)) v

/-- The stored value after a write: read-only fields keep the old value, triggers read zero. -/
def ObjSpec.store (o : ObjSpec) (old new : Nat) : Nat :=
  o.fields.foldl (fun acc f =>
    setFld acc f.hi f.lo (match f.rule with
      | .ro => fld old f.hi f.lo
      | .trig => 0
      | _ => fld new f.hi f.lo)) 0

end Sys2Proof.Machine
end

