-- ==== Sys2Proof/Machine/Ops.lean ====
section
/-! DEFINITION. The named operations every command's meaning is written over: memory with its marks (01 R17; 12 R270,
R274; 15 R341), objects, cores, links, sequence numbers, interrupts (15 R348), the fault log (20 R462) and leaky buckets
(20 R447). A meaning works on `M`: memory as it stands with the command's own writes on top, and the device. -/

namespace Sys2Proof.Machine

/-! ## Memory in canonical form -/

/-- The cells with one byte stored: rising addresses, no entry that equals what an unlisted address reads. -/
def cellPut (a : Nat) (b : Byte) : List Host.Cell → List Host.Cell
  | [] => if b = 0 then [] else [(a, b)]
  | (k, v) :: r =>
    if k = a then (if b = 0 then r else (a, b) :: r)
    else if a < k then (if b = 0 then (k, v) :: r else (a, b) :: (k, v) :: r)
    else (k, v) :: cellPut a b r

/-- The byte at an address: 0x00 where none is listed (R445). -/
def cellGet (a : Nat) : List Host.Cell → Byte
  | [] => 0
  | (k, v) :: r => if k = a then v else cellGet a r

/-- The marked lines with one line set or cleared. -/
def markPut (l : Nat) (on : Bool) : List Nat → List Nat
  | [] => if on then [l] else []
  | k :: r =>
    if k = l then (if on then l :: r else r)
    else if l < k then (if on then l :: k :: r else k :: r)
    else k :: markPut l on r

/-- One memory effect. -/
def MemOp.apply (o : MemOp) (m : Mem) : Mem :=
  match o with
  | .put a b => { m with cells := cellPut a b m.cells }
  | .mark l on => { m with marks := markPut l on m.marks }
  | .zero lo hi =>
    { cells := m.cells.filter fun c => !(lo ≤ c.1 && c.1 ≤ hi), marks := m.marks.filter fun l => !(lo ≤ l && l ≤ hi) }

/-- A command's effects, newest first, applied oldest first. -/
def Mem.applyAll (m : Mem) (ops : List MemOp) : Mem := ops.foldr MemOp.apply m

/-- Cells from `lo` on rise strictly and hold no 0x00. -/
def cellsFrom (lo : Nat) : List Host.Cell → Bool
  | [] => true
  | (k, v) :: r => lo ≤ k && v != 0 && cellsFrom (k + 1) r

/-- Marks from `lo` on rise strictly. -/
def marksFrom (lo : Nat) : List Nat → Bool
  | [] => true
  | k :: r => lo ≤ k && marksFrom (k + 1) r

/-- Memory is in its canonical form. -/
def Mem.wf (m : Mem) : Bool := cellsFrom 0 m.cells && marksFrom 0 m.marks

/-! ## The working state of a command -/

/-- Fuses, memory before the command, the command's memory effects so far (newest first), and the device. -/
structure M where
  fuse : Fuses
  base : Mem
  ops : List MemOp
  dev : Dev

def M.of (s : State) : M := { fuse := s.fuse, base := s.mem, ops := [], dev := s.dev }

/-- The next state of a command whose effect is `f`: fuses and the queue stand, memory stays canonical. -/
def State.run (s : State) (f : M → M) : Host.Outcome State Fault Refusal :=
  .next { s with mem := s.mem.applyAll (f (M.of s)).ops, dev := (f (M.of s)).dev }

/-- `f` where `c` holds: an event that is not due changes nothing (log entry 16). -/
def M.when (m : M) (c : Bool) (f : M → M) : M := if c then f m else m

/-! ### Bytes and marks -/

/-- The newest value that effects give a byte. -/
def opsByte (a : Nat) : List MemOp → Option Byte
  | [] => none
  | .put k b :: r => if k = a then some b else opsByte a r
  | .mark _ _ :: r => opsByte a r
  | .zero lo hi :: r => if lo ≤ a && a ≤ hi then some 0 else opsByte a r

/-- The newest state that effects give a line's mark. -/
def opsMark (l : Nat) : List MemOp → Option Bool
  | [] => none
  | .mark k on :: r => if k = l then some on else opsMark l r
  | .put _ _ :: r => opsMark l r
  | .zero lo hi :: r => if lo ≤ l && l ≤ hi then some false else opsMark l r

def M.byte (m : M) (a : Nat) : Byte := (opsByte a m.ops).getD (cellGet a m.base.cells)

/-- First address of the 64-byte line that holds `a`. -/
def lineOf (a : Nat) : Nat := a / 64 * 64

/-- The line that holds `a` carries a poison mark. -/
def M.marked (m : M) (a : Nat) : Bool := (opsMark (lineOf a) m.ops).getD (m.base.marks.contains (lineOf a))

/-- A byte with the mark of its line: the reader of Accum.lean. -/
def M.rd (m : M) : Rd := fun a => (m.byte a, m.marked a)

/-- `n` bytes from `a`. -/
def M.bytes (m : M) (a n : Nat) : List Byte := (List.range n).map fun i => m.byte (a + i)

/-- The little-endian number in `n` bytes from `a`. -/
def M.num (m : M) (a n : Nat) : Nat := natOf (m.bytes a n)

/-- First addresses of the 64-byte lines that `n` bytes from `a` touch. -/
def linesOf (a n : Nat) : List Nat :=
  if n = 0 then [] else (List.range ((a + n - 1) / 64 - a / 64 + 1)).map fun i => 64 * (a / 64 + i)

/-- Some line of `n` bytes from `a` is marked. -/
def M.anyMark (m : M) (a n : Nat) : Bool := (linesOf a n).any m.marked

def M.op (m : M) (o : MemOp) : M := { m with ops := o :: m.ops }

/-- Sets or clears the mark of the line that holds `a`. -/
def M.setMark (m : M) (a : Nat) (on : Bool) : M := m.op (.mark (lineOf a) on)

/-- Stores bytes under an enable, each with the mark its data carries: a line written whole takes the marks of its data
(R270, R274), a line written in part keeps its mark and gains theirs (R224). -/
def M.storeMask (m : M) (a : Nat) (ds : List (Option Byte × Bool)) : M :=
  let lines := linesOf a ds.length
  let marks := lines.map fun l =>
    let part := (ds.drop (l - a)).take (l + 64 - max l a)
    let whole := a ≤ l && l + 64 ≤ a + ds.length && part.all fun d => d.1.isSome
    let hit := part.any fun d => d.1.isSome && d.2
    (l, hit || (!whole && m.marked l))
  let m := ds.zipIdx.foldl (fun (m : M) d => match d.1.1 with
    | some b => m.op (.put (a + d.2) b)
    | none => m) m
  marks.foldl (fun (m : M) k => m.op (.mark k.1 k.2)) m

/-- Stores bytes, each with the mark its data carries. -/
def M.storeP (m : M) (a : Nat) (ds : List (Byte × Bool)) : M := m.storeMask a (ds.map fun d => (some d.1, d.2))

/-- Stores bytes that all carry `poison`. -/
def M.store (m : M) (a : Nat) (ds : List Byte) (poison : Bool) : M := m.storeP a (ds.map fun b => (b, poison))

/-- Every byte from `lo` to `hi` becomes zero and clean. -/
def M.zero (m : M) (lo hi : Nat) : M := m.op (.zero lo hi)

/-! ### Objects and records of the device -/

def objKey (idx sub : Nat) : Nat := 256 * idx + sub

def M.obj (m : M) (idx sub : Nat) : Nat := Tab.get m.dev.objs (objReset m.fuse idx sub) (objKey idx sub)
def M.setObj (m : M) (idx sub v : Nat) : M := { m with dev := { m.dev with objs := Tab.put m.dev.objs (objKey idx sub) v } }
def M.objFld (m : M) (idx sub hi lo : Nat) : Nat := fld (m.obj idx sub) hi lo
def M.objBit (m : M) (idx sub i : Nat) : Bool := (m.obj idx sub).testBit i
def M.setObjFld (m : M) (idx sub hi lo v : Nat) : M := m.setObj idx sub (setFld (m.obj idx sub) hi lo v)
def M.setObjBit (m : M) (idx sub i : Nat) (b : Bool) : M := m.setObjFld idx sub i i b.toNat
/-- Raises a saturating count. -/
def M.satObj (m : M) (idx sub hi lo n : Nat) : M := m.setObj idx sub (satFld (m.obj idx sub) hi lo n)
/-- Raises a count that wraps. -/
def M.wrapObj (m : M) (idx sub hi lo n : Nat) : M := m.setObj idx sub (wrapFld (m.obj idx sub) hi lo n)

def M.core (m : M) (i : Nat) : Core := Tab.get m.dev.cores Core.zero i
def M.setCore (m : M) (i : Nat) (c : Core) : M := { m with dev := { m.dev with cores := Tab.put m.dev.cores i c } }
def M.modCore (m : M) (i : Nat) (f : Core → Core) : M := m.setCore i (f (m.core i))
def Core.ctx (c : Core) (x : Nat) : CtxRegs := Tab.get c.ctxs CtxRegs.zero x
def Core.setCtx (c : Core) (x : Nat) (r : CtxRegs) : Core := { c with ctxs := Tab.put c.ctxs x r }
def M.ctx (m : M) (i x : Nat) : CtxRegs := (m.core i).ctx x
def M.modCtx (m : M) (i x : Nat) (f : CtxRegs → CtxRegs) : M := m.modCore i fun c => c.setCtx x (f (c.ctx x))

def M.lq (m : M) (n : Nat) : Lq := Tab.get m.dev.lqs Lq.zero n
def M.modLq (m : M) (n : Nat) (f : Lq → Lq) : M := { m with dev := { m.dev with lqs := Tab.put m.dev.lqs n (f (m.lq n)) } }
def M.bank (m : M) (b : Nat) : Bank := Tab.get m.dev.banks Bank.zero b
def M.modBank (m : M) (b : Nat) (f : Bank → Bank) : M := { m with dev := { m.dev with banks := Tab.put m.dev.banks b (f (m.bank b)) } }
def M.link (m : M) (l : Nat) : Link := Tab.get m.dev.links Link.zero l
def M.modLink (m : M) (l : Nat) (f : Link → Link) : M := { m with dev := { m.dev with links := Tab.put m.dev.links l (f (m.link l)) } }
def M.modFab (m : M) (f : Fab → Fab) : M := { m with dev := { m.dev with fab := f m.dev.fab } }
def M.modMirror (m : M) (f : Mirror → Mirror) : M := { m with dev := { m.dev with mirror := f m.dev.mirror } }
def M.modHost (m : M) (f : HostPort → HostPort) : M := { m with dev := { m.dev with host := f m.dev.host } }
def M.modLed (m : M) (f : Led → Led) : M := { m with dev := { m.dev with led := f m.dev.led } }
def M.modMgmt (m : M) (f : Mgmt → Mgmt) : M := { m with dev := { m.dev with mgmt := f m.dev.mgmt } }
def M.modPower (m : M) (f : Power → Power) : M := { m with dev := { m.dev with power := f m.dev.power } }
def M.modHeat (m : M) (f : Heat → Heat) : M := { m with dev := { m.dev with heat := f m.dev.heat } }
def M.modClocks (m : M) (f : Clocks → Clocks) : M := { m with dev := { m.dev with clocks := f m.dev.clocks } }
def M.modFaults (m : M) (f : Faults → Faults) : M := { m with dev := { m.dev with faults := f m.dev.faults } }
def M.modBuckets (m : M) (f : Tab Nat → Tab Nat) : M := { m with dev := { m.dev with buckets := f m.dev.buckets } }
def M.modSec (m : M) (f : Security → Security) : M := { m with dev := { m.dev with sec := f m.dev.sec } }

/-- Records something that leaves the device. -/
def M.send (m : M) (x : Sent) : M := { m with dev := { m.dev with sent := x :: m.dev.sent } }

/-- The next DEVSEQ (R481), and the device that has issued it. -/
def M.nextSeq (m : M) : Nat × M := (m.dev.devSeq, { m with dev := { m.dev with devSeq := m.dev.devSeq + 1 } })

/-- A free value of `w` bits, fresh each time. -/
def M.free (m : M) (w : Nat) : Nat × M :=
  ((Config.freeValue m.dev.fresh w).toNat, { m with dev := { m.dev with fresh := m.dev.fresh + 1 } })

/-- DEVSEQ and DOMAIN_COUNT of a record: a counter's count at an event is a free value (log entry 17). -/
def M.stamp (m : M) : Nat × Nat × M :=
  let q := m.nextSeq
  let c := q.2.free 32
  (q.1, c.1, c.2)

/-! ### What is there and what is not -/

/-- Every clock and supply that commands to the working part need is there: power applied, no trip (R416, R417), the
thermal watch oscillator running (R434). -/
def M.live (m : M) : Bool := m.dev.powered && !m.dev.tripped && !m.dev.oscLost

/-- READY of HOST.STATUS: STAGE is 0x04 (R352). -/
def M.ready (m : M) : Bool := m.obj 0x1010 1 == 4

def M.deviceId (m : M) : Nat := m.obj 0x6001 1

/-- STATE of domain `d` (R391). -/
def M.domState (m : M) (d : Nat) : Nat := m.objFld 0x3100 (d + 1) 7 4
def M.domOn (m : M) (d : Nat) : Bool := m.domState d == 0
/-- The domain is ON, or drains before it turns off (R392). -/
def M.domUp (m : M) (d : Nat) : Bool := m.domState d == 0 || m.domState d == 1

/-- The tier, 0 to 5, of core or column index `i`; its memory-interface domain is 24 + it (R24). -/
def tierOf (i : Nat) : Nat := i / 4

def M.fusedOff (m : M) (i : Nat) : Bool := !m.fuse.coreOn i
def M.fenced (m : M) (i : Nat) : Bool := m.objBit 0x7001 (i + 1) 0
def M.gated (m : M) (i : Nat) : Bool := m.objBit 0x2040 (i + 1) 9
/-- STATE of the PLL at 0x2010.`n` (R430); its clocks run while it is STABLE (R429, R431). -/
def M.pllState (m : M) (n : Nat) : Nat := m.objFld 0x2010 n 2 0
def M.pllRuns (m : M) (n : Nat) : Bool := m.pllState n == 2
/-- The core's clocks stand. -/
def M.clockHeld (m : M) (i : Nat) : Bool := !m.pllRuns (i + 1)
/-- The fabric and spine clocks run. -/
def M.fabricRuns (m : M) : Bool := m.pllRuns 0x1F
/-- The bank clock of tier `t`, 0 to 5, runs. -/
def M.tierRuns (m : M) (t : Nat) : Bool := m.pllRuns (0x19 + t)
/-- The core's domain is neither ON nor draining, or the core is held in reset. -/
def M.coreDown (m : M) (i : Nat) : Bool := !m.domUp i || (m.core i).inReset
/-- The core takes commands of its drover. -/
def M.coreRuns (m : M) (i : Nat) : Bool :=
  m.live && !m.fusedOff i && !m.coreDown i && !m.gated i && !m.clockHeld i
/-- A ring stop that forwards, a core whose flags are dropped (R23, R118, R154, R437). -/
def M.coreAbsent (m : M) (i : Nat) : Bool := m.fusedOff i || m.fenced i || m.coreDown i || m.gated i || m.clockHeld i
/-- The PCIe link is up, and the port's domain is on. -/
def M.hostUp (m : M) : Bool := m.live && m.dev.pcieUp && m.domOn 34
/-- The core's register window reads zero and ignores writes (R7, R353, R431, R437). -/
def M.windowDead (m : M) (i : Nat) : Bool := m.fusedOff i || m.gated i || m.clockHeld i || !m.ready || !m.hostUp

/-! ### The local address space (R17, R110, R341) -/

/-- Where a local address lies. -/
inductive Place where
  | memory (lq : Nat)
  | bazaar
  | waystation (core off : Nat)
  | none
deriving DecidableEq, Repr

def memEnd : Nat := 0x90000000000
def bazBase : Nat := 0x100000000000
def bazSize : Nat := 0x10000000
def wsBase (i : Nat) : Nat := 0x100100000000 + 0x4000000 * i
def wsSize : Nat := 0x4000000
def columnSize : Nat := 0x6000000000
def lqSize : Nat := 0x1800000000

def placeOf (a : Nat) : Place :=
  if a < memEnd then .memory (a / lqSize)
  else if bazBase ≤ a && a < bazBase + bazSize then .bazaar
  else if wsBase 0 ≤ a && a < wsBase 24 then .waystation ((a - wsBase 0) / wsSize) ((a - wsBase 0) % wsSize)
  else .none

/-- Tract, line, bank of a memory address within its layer quadrant (R185). -/
def tractOf (a : Nat) : Nat := a % lqSize / 0x10000000
def lineIdxOf (a : Nat) : Nat := fld a 27 17
def bankOf (a : Nat) : Nat := fld a 16 6
/-- Bank index 8,192c + 2,048l + b of an address (R285). -/
def bankIndexOf (a : Nat) : Nat := 2048 * (a / lqSize) + bankOf a
/-- Byte offset within the bank: row in bits 25:13, column in bits 12:3 (R282). -/
def bankOffsetOf (a : Nat) : Nat := (2048 * tractOf a + lineIdxOf a) * 64 + a % 64
/-- Key of a bank group: 128 × layer quadrant + group. -/
def groupOf (a : Nat) : Nat := 128 * (a / lqSize) + bankOf a / 16

/-- The tract that holds an address is open (R187); `i` counts column tracts 384l + tract. -/
def M.tractOpen (m : M) (a : Nat) : Bool :=
  let i := 384 * (a / lqSize % 4) + tractOf a
  m.objBit (0x5110 + a / columnSize) (i / 64 + 1) (i % 64)

/-- First byte of the staging region of core `i` (R148). -/
def M.stageBase (m : M) (i : Nat) : Nat := wsSize - 0x100000 * (fld (m.core i).ctrl.toNat 15 8)

/-- Core `i` owns column `c` and can reach it by its vertical channel (R20). -/
def M.byChannel (m : M) (core : Option Nat) (c : Nat) : Bool :=
  match core with
  | some i => i == c && !m.fenced i && !m.fusedOff i
  | none => false

/-- The Bazaar answers. -/
def M.bazUp (m : M) : Bool := m.domUp 35

/-- A memory address answers a requester: its tier's interface is on (R26), its layer quadrant is not dark or lost (R385),
its tier trained (R446), its bank group in use (R453), and, other than by its own core, its port is open and joined
(R452, R388). -/
def M.memUp (m : M) (core : Option Nat) (a : Nat) : Bool :=
  let n := a / lqSize
  let c := n / 4
  let t := c / 4
  m.domUp (24 + t) && !m.dev.untrained.contains t &&
  !m.dev.lostLqs.contains n && !m.dev.darkLqs.contains n && !m.dev.outGroups.contains (groupOf a) &&
  (m.byChannel core c || (!m.dev.portClosed.contains c && !m.dev.unreach.contains c))

/-- A reset has been asked for that covers column `c`: from then on new accesses of other requesters end TARGET_RESET (R439). -/
def M.columnResetting (m : M) (c : Nat) : Bool :=
  match m.dev.reset with
  | none => false
  | some r =>
    match r.level with
    | 2 => c / 4 + 1 == r.target
    | 3 => c / 12 == r.target
    | 4 => true
    | _ => false

/-- An access by a unit of core `core` (none = host, link, management) at local address `a` is served (R344). -/
def M.reach (m : M) (core : Option Nat) (a : Nat) : Bool :=
  m.live &&
  match placeOf a with
  | .memory n => m.memUp core a && (core.isSome || !m.columnResetting (n / 4))
  | .bazaar => m.bazUp
  | .waystation i off =>
    if core = some i then true
    else !m.fusedOff i && !m.fenced i && !m.coreDown i && !m.gated i && !m.clockHeld i && off < m.stageBase i
  | .none => false

/-- Every line of `n` bytes from `a` is served. -/
def M.reachAll (m : M) (core : Option Nat) (a n : Nat) : Bool := (linesOf a n).all fun l => m.reach core (max l a)

/-! ### Interrupts and the fault log -/

/-- A vector's message (R348): sent, or pending once while the vector is masked. -/
def M.raise (m : M) (v : Nat) : M :=
  if (Tab.get m.dev.host.msixTable 1 (4 * v + 3)).testBit 0 then
    m.modHost fun h => { h with msixPending := addOnce h.msixPending v }
  else m.send (.msix v)

/-- Bytes of a number, for a frame. -/
def pduBytes (words : List Nat) : List Byte := words.flatMap fun w => bytesOf w 8

/-- The EVENT of a fault-log entry, to each station of 0x1050 (R375). -/
def M.sendEvents (m : M) (sub seq : Nat) : M :=
  [1, 2, 3, 4].foldl (fun (m : M) k =>
    let st := m.obj 0x1050 k
    if st = 0 then m
    else m.send (.frame st (pduBytes [32 * 2 ^ 48 + 2 ^ 24 + 0x111, 0, 6 * 2 ^ 24 + sub * 65536 + 0x7100, seq]))) m

/-- A fault-log entry (R462): the oldest is overwritten, vector 386 raised, EVENTs sent. -/
def M.logFault (m : M) (code subject data reason clk : Nat) : M :=
  let st := m.stamp
  let m := st.2.2
  let entry := st.1 * 2 ^ 208 + st.2.1 * 2 ^ 176 + clk * 2 ^ 168 + data % 2 ^ 64 * 2 ^ 104 +
    subject % 2 ^ 32 * 2 ^ 72 + reason * 2 ^ 64 + code
  let count := m.objFld 0x7100 0xF1 7 0
  let sub := m.objFld 0x7100 0xF1 15 8 % 240 + 1
  let lost := count == 240 && !m.dev.faults.read.contains sub
  let m := m.setObj 0x7100 sub entry
  let m := m.setObjFld 0x7100 0xF1 7 0 (min (count + 1) 240)
  let m := m.setObjFld 0x7100 0xF1 15 8 sub
  let m := if lost then m.satObj 0x7100 0xF1 31 16 1 else m
  let m := m.modFaults fun f => { f with read := f.read.filter (· != sub), unsaved := addOnce f.unsaved sub }
  (m.raise 386).sendEvents sub st.1

/-- CLKDOM codes of the writers: management and thermal watch (R425). -/
def clkMgmt : Nat := 3
def clkWatch : Nat := 4

/-- Key of a bucket's level. -/
def bucketKey (cls inst : Nat) : Nat := cls * 2 ^ 32 + inst

/-- One event of a leaky bucket (R447): whether the class's action is taken; the action is logged (R448). -/
def M.bucketEvent (m : M) (cls inst : Nat) : Bool × M :=
  let lvl := Tab.get m.dev.buckets 0 (bucketKey cls inst) + 1
  if m.objFld 0x7030 cls 31 0 ≤ lvl then
    (true, (m.modBuckets fun b => Tab.erase b (bucketKey cls inst)).logFault 0x7004 (cls * 2 ^ 24 + inst) 0 0 clkMgmt)
  else (false, m.modBuckets fun b => Tab.put b (bucketKey cls inst) lvl)

/-! ### Amax, random draws and the like -/

/-- The stochastic draw of output element `e` of a context (R71). -/
def CtxRegs.draw (r : CtxRegs) (e : Nat) : Nat := drawWord r.keyHi r.keyLo e

end Sys2Proof.Machine
end

