-- ==== Sys2Proof/Machine/Scale.lean ====
section
/-! DEFINITION. Choosing block scales, writing element and scale planes, and the amax record
(04_scaling_calibration.md R80 to R93; 02_number_formats.md R41, R42, R51). -/

namespace Sys2Proof.Machine

/-! ## Block scales (R82 to R85) -/

/-- e_max of the floor rule (R82). -/
def ElemFmt.emax : ElemFmt → Int
  | .e4m3 => 8 | .e5m2 => 15 | .e3m2 => 4 | .e2m3 => 2 | .e2m1 => 2 | .int8 => 0 | .int4 => 2 | _ => 0

def clampInt (lo hi v : Int) : Int := if v < lo then lo else if hi < v then hi else v

/-- The E5M3 scale as a float of 5 exponent and 3 mantissa bits without a sign (R44). -/
def parE5M3 : FloatPar := ⟨5, 3, 15, 0xF7, false, false⟩

/-- The scale byte of a block whose amax is `a` (R83, R84). `floor` = SCALE_RULE 1. -/
def chooseScale (f : Fmt) (floor : Bool) (a : Frac) : Nat :=
  if a.isZero then 0
  else match f.scale with
    | .none => 0
    | .e8m0 =>
      if floor then (clampInt (-127) 127 (a.log2 - f.elem.emax) + 127).toNat
      else
        let q := Frac.div a (f.elem.top true)
        let k := if Frac.eq q (Frac.pow2 q.log2) then q.log2 else q.log2 + 1
        (clampInt (-127) 127 k + 127).toNat
    | .e5m3 =>
      let u := parE5M3.roundMag .up false 0 (Frac.div a (f.elem.top false))
      if Frac.lt (Frac.ofNat 61440) u then 0xF7 else parE5M3.codeMag u

/-- Formats of R51's third column: block-scaled with neither NaN nor infinity. -/
def Fmt.third (f : Fmt) : Bool := f.scaled && !f.elem.hasNaN

/-- What one element adds to its block's amax (R82). -/
def amaxPart (f : Fmt) (sat : Bool) (w : Elem) : Frac :=
  if w.poison then Frac.zero
  else match w.val with
    | .fin _ m => m
    | .inf _ => if f.third && sat then maxF32 else Frac.zero
    | .nan _ _ => Frac.zero

/-- A written block or row: element codes with their poison, the scale bytes, clips and format exceptions, and for each
element whether it was clipped. -/
structure RowOut where
  codes : List (Nat × Bool)
  scales : List Nat
  clips : List Bool
  exc : Nat
deriving DecidableEq, Repr

/-- Element `w` (already divided by the tensor scale) written under scale `s` (R51, R85). -/
def writeScaled (f : Fmt) (c : RCtl) (floor : Bool) (s : ScaleVal) (r : Nat) (w : Elem) : ElemOut :=
  if w.poison then ⟨f.poisonCode, false, false⟩
  else
    let v : Val := match w.val with
      | .inf n => if f.third then .fin n maxF32 else .inf n
      | v => v
    let q : Val := match s, v with
      | .pos d, .fin n m => .fin n (Frac.div m d)
      | _, v => v
    writeElem f.elem (f.scale == .e8m0) c (floor && f.scale == .e8m0) r q

/-- Writes one block (R82 to R85); `r i` is the random word of element `i` of the block. A block whose scale R51 makes NaN
writes 0xFF and the zero pattern in every element. -/
def quantBlock (f : Fmt) (c : RCtl) (floor : Bool) (r : Nat → Nat) (ws : List Elem) : RowOut :=
  let live := ws.filter fun w => !w.poison
  let nanScale := f.third && (live.any (fun w => w.val.isNaN) || (!c.sat && live.any (fun w => w.val.isInf)))
  let pad := List.replicate (f.block - ws.length) (f.elem.zeroCode, false)
  if nanScale then
    ⟨ws.map (fun w => (f.elem.zeroCode, w.poison)) ++ pad, [0xFF], ws.map (fun _ => false), 0⟩
  else
    let a := ws.foldl (fun m w => Frac.max m (amaxPart f c.sat w)) Frac.zero
    let sb := chooseScale f floor a
    let s := f.scale.decode sb
    let outs := ws.zipIdx.map fun (w, i) => writeScaled f c floor s (r i) w
    ⟨(ws.zip outs).map (fun (w, o) => (o.code, w.poison)) ++ pad, [sb], outs.map (·.clip),
      (outs.filter (·.exc)).length⟩

/-- Writes a row of outputs `v` (exact, before the tensor scale) in the destination format (R80): `td` is the tensor scale,
`e0` the output index of the first element, `draw` the random word of an output index. -/
def quantRow (f : Fmt) (c : RCtl) (floor : Bool) (td : Frac) (draw : Nat → Nat) (e0 : Nat) (vs : List Elem) : RowOut :=
  let ws := vs.map fun v => (⟨match v.val with
    | .fin n m => .fin n (Frac.div m td)
    | w => w, v.poison⟩ : Elem)
  if f.scaled then
    let blocks := (List.range (f.sb ws.length)).map fun k =>
      quantBlock f c floor (fun i => draw (e0 + k * f.block + i)) ((ws.drop (k * f.block)).take f.block)
    ⟨blocks.flatMap (·.codes), blocks.flatMap (·.scales), blocks.flatMap (·.clips),
      (blocks.map (·.exc)).foldl (· + ·) 0⟩
  else
    let outs := ws.zipIdx.map fun (w, i) =>
      if w.poison then (⟨f.poisonCode, false, false⟩ : ElemOut)
      else writeElem f.elem false c false (draw (e0 + i)) w.val
    ⟨(ws.zip outs).map (fun (w, o) => (o.code, w.poison)), [], outs.map (·.clip), (outs.filter (·.exc)).length⟩

/-- Packs the codes of one group into a little-endian value (R38, R40). -/
def packGroup (e : ElemFmt) (cs : List (Nat × Bool)) : Nat :=
  match e with
  | .t16 => cs.foldr (fun c acc => c.1 % 3 + 3 * acc) 0
  | _ => cs.foldr (fun c acc => c.1 % 2 ^ e.bits + 2 ^ e.bits * acc) 0

/-- The bytes of an element plane, each with the poison of the elements it holds. A last group short of elements is filled
with the zero pattern (R42). Each block of a scaled format starts at a byte boundary (R41). -/
def packPlane (f : Fmt) (cs : List (Nat × Bool)) : List (Byte × Bool) :=
  let g := f.elem.group
  let per := if f.scaled then f.block else cs.length
  let blocks := if per = 0 then 0 else (cs.length + per - 1) / per
  (List.range blocks).flatMap fun b =>
    let blk := (cs.drop (b * per)).take per
    (List.range ((blk.length + g.2 - 1) / g.2)).flatMap fun k =>
      let grp := (blk.drop (k * g.2)).take g.2
      let full := grp ++ List.replicate (g.2 - grp.length) (f.elem.zeroCode, false)
      (bytesOf (packGroup f.elem full) g.1).map fun x => (x, grp.any (·.2))

/-! ## Amax statistics of a manifest's outputs (R91) -/

/-- What one manifest merges into one record. -/
structure AmaxAcc where
  amax : Frac := Frac.zero
  clips : Nat := 0
  nonfin : Bool := false
deriving DecidableEq, Repr

def AmaxAcc.add (a : AmaxAcc) (v : Elem) (clip : Bool) : AmaxAcc :=
  if v.poison then a
  else match v.val with
    | .fin _ m =>
      if Frac.lt maxF32 m then ⟨a.amax, a.clips + (if clip then 1 else 0), true⟩
      else ⟨Frac.max a.amax m, a.clips + (if clip then 1 else 0), a.nonfin⟩
    | _ => ⟨a.amax, a.clips + (if clip then 1 else 0), true⟩

/-! ## The amax record (R88 to R92), as its 2,560-bit little-endian value -/

/-- Is an FP32 pattern positive and normal (R81, R90)? -/
def posNormal (b : Nat) : Bool := 0x00800000 ≤ b && b ≤ 0x7F7FFFFF

/-- The checks of R90 on a record. -/
def recordOk (r : Nat) : Bool :=
  bitsAt r 56 8 == 1 && bitsAt r 256 256 == 0 && bitsAt r 0 24 == 0 && bitsAt r 54 2 < 2 &&
  bitsAt r 33 7 ≤ 64 && (-32 ≤ signedOf 8 (bitsAt r 24 8) && signedOf 8 (bitsAt r 24 8) ≤ 32) &&
  posNormal (bitsAt r 160 32) && posNormal (bitsAt r 128 32)

/-- The merge of R91 on a record: atomic maximum, saturating add and OR. -/
def recordMerge (r : Nat) (a : AmaxAcc) : Nat :=
  let pat := (Val.fin false (ceilF32 a.amax)).bits32
  let r := putBits r 64 32 (max (bitsAt r 64 32) pat)
  let r := putBits r 96 32 (min (bitsAt r 96 32 + a.clips) 0xFFFFFFFF)
  if a.nonfin then putBits r 32 1 1 else r

/-- HISTORY entry `i` (R88). -/
def recordEntry (r i : Nat) : Nat := bitsAt r (512 + 32 * (i % 64)) 32

/-- Smallest power of two at or above a positive value. -/
def ceilPow2 (a : Frac) : Frac :=
  let k := a.log2
  if Frac.eq a (Frac.pow2 k) then a else Frac.pow2 (k + 1)

/-- The new SCALE from amax pattern `a` (R92). -/
def closeScale (r a : Nat) : Nat :=
  let av : Frac := match ofBits32 a with
    | .fin false m => m
    | .fin true _ => Frac.zero
    | _ => maxF32
  if av.isZero then bitsAt r 128 32
  else
    let target := (ofBits32 (bitsAt r 160 32)).frac
    let s := parF32.roundMag .up false 0
      (Frac.div (Frac.shift av (signedOf 8 (bitsAt r 24 8))) target)
    let s := if bitsAt r 53 1 = 1 then ceilPow2 s else s
    let lo := Frac.pow2 (-126)
    let s := if Frac.lt s lo then lo else if Frac.lt maxF32 s then maxF32 else s
    (Val.fin false s).bits32

/-- close of R92. -/
def recordClose (r : Nat) : Nat :=
  let skip := bitsAt r 32 1 = 1 && bitsAt r 52 1 = 1
  let r := if skip then r
    else
      let h := bitsAt r 40 6
      let r := putBits r (512 + 32 * h) 32 (bitsAt r 64 32)
      let r := putBits r 40 6 ((h + 1) % 64)
      putBits r 33 7 (min (bitsAt r 33 7 + 1) 64)
  let n := min (bitsAt r 46 6 + 1) (bitsAt r 33 7)
  let h := bitsAt r 40 6
  let r := if n = 0 then r
    else
      let a := if bitsAt r 54 2 = 0 then
          (List.range n).foldl (fun m i => max m (recordEntry r (h + 63 - i))) 0
        else recordEntry r (h + 63)
      putBits r 128 32 (closeScale r a)
  let r := putBits r 192 32 (bitsAt r 96 32)
  let r := putBits (putBits (putBits r 64 32 0) 96 32 0) 32 1 0
  putBits r 224 32 (bitsAt r 224 32 + 1)

end Sys2Proof.Machine
end

