-- ==== Sys2Proof/Machine/Special.lean ====
section
/-! DEFINITION. The vector unit: elementwise arithmetic, special functions, function overrides and row statistics
(07_manifest_reference.md R169, R170; 10_special_functions.md R229 to R250; 03_accumulation_rounding.md R69). The
built-in coefficients are not in the spec: they are opaque (log entry 15). -/

namespace Sys2Proof.Machine

/-! ## binary32 steps over values with poison marks (R69, R77) -/

def Elem.of (v : Val) : Elem := ⟨v, false⟩
def Elem.map (f : Val → Val) (a : Elem) : Elem := ⟨f a.val, a.poison⟩
def Elem.map2 (f : Val → Val → Val) (a b : Elem) : Elem := ⟨f a.val b.val, a.poison || b.poison⟩
def addF (a b : Val) : Val := (Val.add a b).toF32
def subF (a b : Val) : Val :=
  match a, b with
  | .nan n p, _ => .nan n p
  | _, .nan n p => .nan n p
  | a, b => (Val.add a b.neg).toF32
def mulF (a b : Val) : Val := (Val.mul a b).toF32
/-- a × b + c in one rounding. -/
def fmaExact (a b c : Val) : Val := Val.add (Val.mul a b) c
def fmaF (a b c : Val) : Val := (fmaExact a b c).toF32
def f32 (bits : Nat) : Val := ofBits32 bits
def oneV : Val := .fin false Frac.one

/-- A final result: rounded to binary32, but a finite exact value above the largest finite binary32 goes on to the output
step as it is, an overflow under R73 (R229). -/
def finalF32 (v : Val) : Val :=
  match v with
  | .fin n m => if Frac.lt maxF32 m then .fin n m else (Val.fin n m).toF32
  | w => w

/-! ## Tables (R230, R231) -/

/-- Coefficient `k` of segment `seg` of table `t`, with its poison mark. -/
abbrev Coefs := Nat → Nat → Nat → Elem

/-- The built-in tables; their values are not in the spec. -/
def builtinCoefs : Coefs := fun t s k => ⟨f32 (Config.builtinCoef t s k).toNat, false⟩

/-- Segments of each table (R230). -/
def segCount : Nat → Nat
  | 0 => 26 | 1 => 26 | 2 => 14 | 3 => 16 | 5 => 13 | 6 => 16 | 10 => 14 | 11 => 14 | 12 => 14 | _ => 0

/-- The segment of a reduced magnitude among `n` (R231). -/
def segIndex (n : Nat) (r : Frac) : Nat :=
  if Frac.lt r (Frac.pow2 (-13)) then 0 else min (r.log2 + 14).toNat (n - 1)

/-- Horner's rule from c₅ in five fused multiply-adds (R231). -/
def polyAt (co : Coefs) (t seg : Nat) (r : Val) : Elem :=
  [4, 3, 2, 1, 0].foldl
    (fun acc k => ⟨fmaF acc.val r (co t seg k).val, acc.poison || (co t seg k).poison⟩) (co t seg 5)

/-- The polynomial of a table indexed by |r|. -/
def polyAbs (co : Coefs) (t : Nat) (r : Frac) : Elem :=
  polyAt co t (segIndex (segCount t) r) (.fin false r)

/-- The polynomial of a table indexed by signed r: the negative segments come after the 13 positive ones. -/
def polySigned (co : Coefs) (t : Nat) (r : Frac) : Elem :=
  let j := segIndex 13 r.abs
  polyAt co t (if r.isNeg then j + 13 else j) (Val.ofFrac r)

/-- ln 2, held to 96 bits (R230). -/
def ln2C : Frac := ⟨0xb17217f7d1cf79abc9e3b398, 2 ^ 96⟩

/-- π/2, to 513 fraction bits, far past what the exact reduction of R233 needs. -/
def halfPi : Frac :=
  ⟨0x3243f6a8885a308d313198a2e03707344a4093822299f31d0082efa98ec4e6c89452821e638d01377be5466cf34e90c6cc0ac29b7c97c50dd3f84d5b5b5470918, 2 ^ 513⟩

/-- Nearest integer, ties to even. -/
def nearestInt (a : Frac) : Int :=
  let n : Int := (roundInt .nearest a.isNeg 0 a.abs : Nat)
  if a.isNeg then -n else n

/-- Is a positive value a power of two, and which? -/
def pow2Of (m : Frac) : Option Int :=
  if Frac.eq m (Frac.pow2 m.log2) then some m.log2 else none

/-- Can binary32 hold 2ᵏ? -/
def fitsF32 (k : Int) : Bool := -149 ≤ k && k ≤ 127

/-! ## Functions with tables of their own (R230, R234). Each answers the exact value before its last rounding. -/

/-- exp: 2ⁿ × p(r). Arguments beyond ±2¹³ act as ±2¹³: the result is past every range on either side. -/
def expX (co : Coefs) (x : Val) : Elem :=
  match x with
  | .nan n p => .of (.nan n p)
  | .inf true => .of .zero
  | .inf false => .of (.inf false)
  | .fin n m =>
    if m.isZero then .of oneV
    else
      let lim := Frac.ofNat 8192
      let a := if Frac.lt lim m then lim else m
      let v := if n then a.neg else a
      let k := nearestInt (Frac.div v ln2C)
      let r := (Val.ofFrac (Frac.sub v (Frac.mul (Frac.ofInt k) ln2C))).toF32
      (polySigned co 0 r.frac).map fun p => Val.mul p (.fin false (Frac.pow2 k))

def logX (co : Coefs) (x : Val) : Elem :=
  match x with
  | .nan n p => .of (.nan n p)
  | .inf true => .of .cnan
  | .inf false => .of (.inf false)
  | .fin n m =>
    if m.isZero then .of (.inf true)
    else if n then .of .cnan
    else if Frac.eq m Frac.one then .of .zero
    else
      let k0 := m.log2
      let m0 := Frac.shift m (-k0)
      let big := Frac.le (Frac.ofNat 2) (Frac.mul m0 m0)
      let k := if big then k0 + 1 else k0
      let r := Frac.sub (Frac.shift m (-k)) Frac.one
      (polySigned co 1 r).map fun p => Val.add (.ofFrac (Frac.mul (Frac.ofInt k) ln2C)) p

def recipX (co : Coefs) (x : Val) : Elem :=
  match x with
  | .nan n p => .of (.nan n p)
  | .inf n => .of (.fin n Frac.zero)
  | .fin n m =>
    if m.isZero then .of (.inf n)
    else
      let k := m.log2
      match pow2Of m with
      | some k' =>
        if fitsF32 (-k') then .of (.fin n (Frac.pow2 (-k')))
        else (polyAbs co 2 Frac.zero).map fun p => Val.mul p (.fin n (Frac.pow2 (-k)))
      | none =>
        (polyAbs co 2 (Frac.sub (Frac.shift m (-k)) Frac.one)).map fun p => Val.mul p (.fin n (Frac.pow2 (-k)))

def rsqrtX (co : Coefs) (x : Val) : Elem :=
  match x with
  | .nan n p => .of (.nan n p)
  | .inf true => .of .cnan
  | .inf false => .of .zero
  | .fin n m =>
    if m.isZero then .of (.inf n)
    else if n then .of .cnan
    else
      let k := m.log2 / 2
      let body := (polyAbs co 3 (Frac.sub (Frac.shift m (-(2 * k))) Frac.one)).map
        fun p => Val.mul p (.fin false (Frac.pow2 (-k)))
      match pow2Of m with
      | some k' => if k' % 2 = 0 then .of (.fin false (Frac.pow2 (-(k' / 2)))) else body
      | none => body

def erfX (co : Coefs) (x : Val) : Elem :=
  match x with
  | .nan n p => .of (.nan n p)
  | .inf n => .of (.fin n Frac.one)
  | .fin n m =>
    if m.isZero then .of (.fin n Frac.zero)
    else if Frac.le (Frac.ofNat 4) m then .of (.fin n Frac.one)
    else (polyAbs co 6 m).map fun p => if n then p.neg else p

/-- An inner step: the function's result rounded to binary32. -/
def stepF (e : Elem) : Elem := e.map Val.toF32

def tanhX (co : Coefs) (x : Val) : Elem :=
  match x with
  | .nan n p => .of (.nan n p)
  | .inf n => .of (.fin n Frac.one)
  | .fin n m =>
    if m.isZero then .of (.fin n Frac.zero)
    else if Frac.lt m ⟨1, 2⟩ then (polyAbs co 5 m).map fun p => if n then p.neg else p
    else
      let two := Val.fin false (Frac.ofNat 2)
      let e := stepF (expX co (mulF two (.fin false m)))
      let s := e.map fun v => addF v oneV
      let q := stepF (recipX co s.val)
      let y := q.map fun v => subF oneV (mulF two v)
      ⟨if n then y.val.neg else y.val, s.poison || y.poison⟩

/-- The reduced argument and quadrant of a finite exact angle (R233). -/
def trigReduce (v : Frac) : Frac × Int :=
  let n := nearestInt (Frac.div v halfPi)
  ((Val.ofFrac (Frac.sub v (Frac.mul (Frac.ofInt n) halfPi))).toF32.frac, n % 4)

def sinPoly (co : Coefs) (r : Frac) : Elem :=
  (polyAbs co 11 r.abs).map fun p => if r.isNeg then p.neg else p
def cosPoly (co : Coefs) (r : Frac) : Elem := polyAbs co 12 r.abs

/-- sin of an exact finite angle. -/
def sinExact (co : Coefs) (v : Frac) : Elem :=
  let x := trigReduce v
  if x.2 = 0 then sinPoly co x.1 else if x.2 = 1 then cosPoly co x.1
  else if x.2 = 2 then (sinPoly co x.1).map Val.neg else (cosPoly co x.1).map Val.neg

def cosExact (co : Coefs) (v : Frac) : Elem :=
  let x := trigReduce v
  if x.2 = 0 then cosPoly co x.1 else if x.2 = 1 then (sinPoly co x.1).map Val.neg
  else if x.2 = 2 then (cosPoly co x.1).map Val.neg else sinPoly co x.1

def sinX (co : Coefs) (x : Val) : Elem :=
  match x with
  | .nan n p => .of (.nan n p)
  | .inf _ => .of .cnan
  | .fin n m => if m.isZero then .of (.fin n m) else sinExact co (Val.fin n m).frac

def cosX (co : Coefs) (x : Val) : Elem :=
  match x with
  | .nan n p => .of (.nan n p)
  | .inf _ => .of .cnan
  | .fin n m => if m.isZero then .of oneV else cosExact co (Val.fin n m).frac

/-! ## Composite functions (R232, R234) -/

def sigmoidX (co : Coefs) (x : Val) : Elem :=
  match x with
  | .nan n p => .of (.nan n p)
  | .inf true => .of .zero
  | .inf false => .of oneV
  | v =>
    let e := stepF (expX co v.neg)
    let s := e.map fun w => addF oneV w
    let y := recipX co s.val
    ⟨y.val, s.poison || y.poison⟩

def geluErfX (co : Coefs) (x : Val) : Elem :=
  match x with
  | .nan n p => .of (.nan n p)
  | .inf true => .of (.fin true Frac.zero)
  | .inf false => .of (.inf false)
  | .fin n m =>
    if m.isZero then .of (.fin n m)
    else
      let v := Val.fin n m
      let e := stepF (erfX co (mulF v (f32 0x3F3504F3)))
      e.map fun y => Val.mul (mulF (f32 0x3F000000) v) (addF oneV y)

def geluTanhX (co : Coefs) (x : Val) : Elem :=
  match x with
  | .nan n p => .of (.nan n p)
  | .inf true => .of (.fin true Frac.zero)
  | .inf false => .of (.inf false)
  | .fin n m =>
    if m.isZero then .of (.fin n m)
    else
      let v := Val.fin n m
      let w := fmaF (f32 0x3D372713) (mulF (mulF v v) v) v
      let e := stepF (tanhX co (mulF (f32 0x3F4C422A) w))
      e.map fun y => Val.mul (mulF (f32 0x3F000000) v) (addF oneV y)

def siluX (co : Coefs) (x : Val) : Elem :=
  match x with
  | .nan n p => .of (.nan n p)
  | .inf true => .of (.fin true Frac.zero)
  | .inf false => .of (.inf false)
  | .fin n m =>
    if m.isZero then .of (.fin n m)
    else (stepF (sigmoidX co (.fin n m))).map fun y => Val.mul (.fin n m) y

def softplusX (co : Coefs) (x : Val) : Elem :=
  match x with
  | .nan n p => .of (.nan n p)
  | .inf true => .of .zero
  | .inf false => .of (.inf false)
  | .fin n m =>
    if m.isZero then .of (f32 0x3F317218)
    else
      let t := stepF (expX co (.fin true m))
      let p := polyAbs co 10 t.val.frac
      let y := Val.add (if n then Val.zero else .fin false m) p.val
      ⟨y, t.poison || p.poison⟩

/-- func of R170 on one binary32 element; the result goes on to the output step (R229). `none` for a reserved code. -/
def funcX (co : Coefs) (code : Nat) (x : Elem) : Option Elem :=
  let go (f : Coefs → Val → Elem) : Option Elem :=
    let y := f co x.val
    some ⟨finalF32 y.val, y.poison || x.poison⟩
  match code with
  | 0 => go expX | 1 => go logX | 2 => go recipX | 3 => go rsqrtX | 4 => go sigmoidX | 5 => go tanhX
  | 6 => go erfX | 7 => go geluErfX | 8 => go geluTanhX | 9 => go siluX | 10 => go softplusX
  | 11 => go sinX | 12 => go cosX | _ => none

/-- Tables that a function code uses (R230, R232, R233). -/
def tablesOf : Nat → List Nat
  | 0 => [0] | 1 => [1] | 2 => [2] | 3 => [3] | 4 => [0, 2] | 5 => [5, 0, 2] | 6 => [6] | 7 => [6]
  | 8 => [5, 0, 2] | 9 => [0, 2] | 10 => [0, 10] | 11 => [11, 12] | 12 => [11, 12] | _ => []

/-! ## Function overrides (R240, R241) -/

/-- An entry of a loadable table: its word and its mark. -/
abbrev Entry := Nat × Bool

def overrideTables : List Nat := [0, 1, 2, 3, 5, 6, 10, 11, 12]

/-- The table a header overrides, where it is well formed and has VERSION 0x01. -/
def headerNames (h : Nat) : Option Nat :=
  if bitsAt h 24 8 == 1 && bitsAt h 8 16 == 0 && overrideTables.contains (bitsAt h 0 8) then some (bitsAt h 0 8)
  else none

/-- A malformed header (R241). -/
def headerBad (h : Nat) : Bool :=
  1 < bitsAt h 24 8 || bitsAt h 8 16 != 0 || !overrideTables.contains (bitsAt h 0 8)

/-- The override in force for a table among the four active copies, lowest number first (R241). -/
def overrideOf (tabs : List (Tab Entry)) (t : Nat) : Option (Tab Entry) :=
  tabs.find? fun tb =>
    match tb.find? (fun e => e.1 == 0) with
    | some (_, w, _) => headerNames w == some t
    | none => false

/-- Entry `i` of a table held sparsely, absent entries 0. -/
def entryAt (tb : Tab Entry) (i : Nat) : Entry :=
  match tb.find? (fun e => e.1 == i) with
  | some (_, e) => e
  | none => (0, false)

/-- The coefficients in force with the four active override tables of a context. -/
def coefsWith (tabs : List (Tab Entry)) : Coefs := fun t s k =>
  match overrideOf tabs t with
  | none => builtinCoefs t s k
  | some tb =>
    let e := entryAt tb (8 + 8 * s + k)
    ⟨f32 e.1, e.2⟩

/-- Is a table used by the function overridden under a poisoned header (R241)? The header's bits name the table. -/
def headerPoisons (tabs : List (Tab Entry)) (code : Nat) : Bool :=
  tabs.any fun tb =>
    let h := entryAt tb 0
    h.2 && (tablesOf code).contains (bitsAt h.1 0 8)

/-- Malformed active tables: each adds one format exception to a VECTOR FUNC (R241). A poisoned header's bits are not
judged. -/
def malformedCount (tabs : List (Tab Entry)) : Nat :=
  (tabs.filter fun tb => let h := entryAt tb 0; !h.2 && headerBad h.1).length

/-! ## Elementwise operations (R169) -/

/-- max, with +0 above −0; a NaN operand follows R76, the first named first. -/
def maxV (a b : Val) : Val :=
  match a, b with
  | .nan n p, _ => .nan n p
  | _, .nan n p => .nan n p
  | a, b =>
    if a.isZero && b.isZero then .fin (a.sign && b.sign) Frac.zero
    else if Val.lt a b then b else a

def minV (a b : Val) : Val :=
  match a, b with
  | .nan n p, _ => .nan n p
  | _, .nan n p => .nan n p
  | a, b =>
    if a.isZero && b.isZero then .fin (a.sign || b.sign) Frac.zero
    else if Val.lt b a then b else a

/-- A binary elementwise operation before its final rounding. -/
inductive BinOp where
  | add | sub | mul | max | min
deriving DecidableEq, Repr

def BinOp.apply (o : BinOp) (a b : Val) : Val :=
  match o with
  | .add => finalF32 (Val.add a b)
  | .sub =>
    match a, b with
    | .nan n p, _ => .nan n p
    | _, .nan n p => .nan n p
    | a, b => finalF32 (Val.add a b.neg)
  | .mul => finalF32 (Val.mul a b)
  | .max => maxV a b
  | .min => minV a b

/-! ## Row statistics (R244 to R249) -/

/-- The pairwise tree over one group of 1,024 leaves, padded with +0. -/
def groupSum (vs : List Elem) : LA :=
  combineList (levels pairUp 10
    ((vs.map fun v => (⟨v.val.toLAVal, v.poison, false⟩ : LA)) ++ List.replicate (1024 - vs.length) LA.start))

/-- A row sum (R244). -/
def rowSum (vs : List Elem) : LA :=
  combineList ((List.range ((vs.length + 1023) / 1024)).map fun g => groupSum ((vs.drop (1024 * g)).take 1024))

def squareE (e : Elem) : Elem := e.map fun v => Val.mul v v

/-- The largest value of a row without NaN. -/
def maxOf (vs : List Elem) : Val := vs.foldl (fun m e => if Val.lt m e.val then e.val else m) (.inf true)

/-- SOFTMAX of one row (R245): the outputs before the output rounding, and the maximum and sum as FP32 with the poison of
the statistics word. -/
def softmaxRow (xs : List Elem) : List Elem × Val × Val × Bool :=
  if xs.any (·.poison) then (xs.map fun e => ⟨e.val, true⟩, .cnan, .cnan, true)
  else if xs.any (fun e => e.val.isNaN) then (xs.map fun _ => .of .cnan, .cnan, .cnan, false)
  else
    let k := (xs.filter fun e => e.val == .inf false).length
    if 0 < k then
      (xs.map fun e => .of (if e.val == .inf false then .fin false (Frac.of 1 k) else .zero), .inf false,
        (Val.fin false (Frac.ofNat k)).toF32, false)
    else if xs.all (fun e => e.val == .inf true) then (xs.map fun _ => .of .zero, .inf true, .zero, false)
    else
      let m := maxOf xs
      let es := xs.map fun e => stepF (expX builtinCoefs (subF e.val m))
      let sum := (rowSum es).val.toVal
      let out := es.map fun e => e.map fun v =>
        match v, sum with
        | .fin n a, .fin _ s => .fin n (Frac.div a s)
        | _, _ => .cnan
      (out, m, sum.toF32, false)

/-- The statistic q = s/L + ε, rounded once, and ρ; a negative q is an invalid operation (R247 to R249). -/
def rhoOf (s : LA) (l : Nat) (eps : Val) : Elem × Bool :=
  let q : Val := match s.val.toVal with
    | .fin n m => (Val.add (.fin n (Frac.div m (Frac.ofNat l))) eps).toF32
    | v => (Val.add v eps).toF32
  let neg := match q with
    | .fin n m => n && !m.isZero
    | .inf n => n
    | _ => false
  let r := stepF (rsqrtX builtinCoefs q)
  (⟨r.val, s.poison⟩, neg)

/-- Multiplies by the optional gain, the last step of both normalisations, as a final result. -/
def withGain (y : Elem) (g : Option Elem) : Elem :=
  match g with
  | none => y.map finalF32
  | some b => Elem.map2 (fun v w => finalF32 (Val.mul v.toF32 w)) y b

/-- RMSNORM of one vector (R247). -/
def rmsnormRow (a : List Elem) (gain : Option (List Elem)) (eps : Val) : List Elem :=
  let r := rhoOf (rowSum (a.map squareE)) a.length eps
  a.zipIdx.map fun (x, i) =>
    if r.2 then ⟨.cnan, r.1.poison⟩
    else withGain (Elem.map2 Val.mul x r.1) (gain.map fun g => g.getD i (.of oneV))

/-- LAYERNORM of one vector (R248). -/
def layernormRow (a : List Elem) (gain : Option (List Elem)) (eps : Val) : List Elem :=
  let s := rowSum a
  let mu : Elem := ⟨match s.val.toVal with
    | .fin n m => (Val.fin n (Frac.div m (Frac.ofNat a.length))).toF32
    | v => v, s.poison⟩
  let d := a.map fun x => Elem.map2 subF x mu
  let r := rhoOf (rowSum (d.map squareE)) a.length eps
  d.zipIdx.map fun (x, i) =>
    if r.2 then ⟨.cnan, r.1.poison⟩
    else withGain (Elem.map2 Val.mul x r.1) (gain.map fun g => g.getD i (.of oneV))

/-- ROPE of one vector (R250): `base` = imm0. -/
def ropeRow (a : List Elem) (base : Val) (position : Nat) : List Elem :=
  let l := a.length
  let bad := match base with
    | .fin n m => n || m.isZero
    | _ => true
  let g := stepF (logX builtinCoefs base)
  (List.range (l / 2)).flatMap fun i =>
    let x0 := a.getD (2 * i) (.of .zero)
    let x1 := a.getD (2 * i + 1) (.of .zero)
    let pz := x0.poison || x1.poison
    if bad then [⟨.cnan, pz⟩, ⟨.cnan, pz⟩]
    else
      let ai := (Val.fin false (Frac.of (2 * i) l)).toF32
      let fi := (stepF (expX builtinCoefs (mulF ai g.val).neg)).val
      let th := Val.mul (.fin false (Frac.ofNat position)) fi
      let c := (stepF (cosX builtinCoefs th)).val
      let s := (stepF (sinX builtinCoefs th)).val
      let y0 := BinOp.apply .sub (mulF x0.val c) (mulF x1.val s)
      let y1 := BinOp.apply .add (mulF x0.val s) (mulF x1.val c)
      [⟨y0, pz⟩, ⟨y1, pz⟩]

/-- The router word of ROUTE_TOP2 and its poison (R169). -/
def routeTop2 (a : List Elem) : Nat × Bool :=
  if a.any (·.poison) then (0, true)
  else
    let better (l : List (Elem × Nat)) : Option (Elem × Nat) :=
      l.foldl (fun b e =>
        if e.1.val.isNaN then b
        else match b with
          | none => some e
          | some x => if Val.lt x.1.val e.1.val then some e else some x) none
    let es := a.zipIdx
    match better es with
    | none => (0xFFFF, false)
    | some x =>
      match better (es.filter fun e => e.2 != x.2) with
      | none => (x.2 % 256 + 0xFF00, false)
      | some y => (x.2 % 256 + 256 * (y.2 % 256), false)

/-- AMAX of one vector: max |a|, or +∞, or the canonical NaN (R169). -/
def amaxRow (a : List Elem) : Elem :=
  ⟨if a.any (fun e => e.val.isNaN) then .cnan
    else a.foldl (fun m e => maxV m e.val.abs) .zero, a.any (·.poison)⟩

/-- The distance bias entry of R213. -/
def biasIndex (q p : Nat) : Nat :=
  let d := if p ≤ q then q - p else p - q
  if d < 4096 then d
  else if 2 ^ 28 ≤ d then 4159
  else
    let e := Nat.log2 d
    4096 + 4 * (e - 12) + d / 2 ^ (e - 2) % 4

end Sys2Proof.Machine
end

