-- ==== Sys2Proof/Machine/Manifest.lean ====
section
/-! DEFINITION. Manifests: their words and fields, the registers and operands of each kind, and the meaning-field checks
(07_manifest_reference.md R151 to R182; 06_manifest_execution.md R127, R132 to R134; 03 R65, R67; 04 R81, R84, R87,
R93). -/

namespace Sys2Proof.Machine

/-! ## Words and fields -/

def wd (ws : List W64) (i : Nat) : Nat := (ws.getD i 0).toNat
def wf (ws : List W64) (i hi lo : Nat) : Nat := fld (wd ws i) hi lo
def wb (ws : List W64) (i b : Nat) : Bool := (wd ws i).testBit b

def kMatrix : Nat := 0
def kConvoy : Nat := 1
def kVector : Nat := 2
def kScore : Nat := 3
def kSoftmax : Nat := 4
def kKv : Nat := 5
def kMove : Nat := 6
def kExchange : Nat := 7
def kFold : Nat := 8
def kSync : Nat := 9
def kTable : Nat := 10
def kBranch : Nat := 11
def kCheckpoint : Nat := 12

/-- `length_m1` of each kind (R151). -/
def kindLength : Nat → Option Nat
  | 0 => some 5 | 1 => some 4 | 2 => some 5 | 3 => some 5 | 4 => some 2 | 5 => some 3 | 6 => some 2 | 7 => some 3
  | 8 => some 2 | 9 => some 1 | 10 => some 1 | 11 => some 7 | 12 => some 1 | _ => none

/-- First word of the address block and its number of registers (R151). -/
def kindBlock : Nat → Option (Nat × Nat)
  | 0 => some (16, 6) | 1 => some (16, 4) | 2 => some (16, 6) | 3 => some (16, 6) | 4 => some (12, 2)
  | 5 => some (12, 3) | 6 => some (12, 2) | 7 => some (12, 3) | 8 => some (12, 1) | _ => none

/-- Header fields (R152). -/
def hKind (ws : List W64) : Nat := wf ws 0 3 0
def hVersion (ws : List W64) : Nat := wf ws 0 15 8
def hLength (ws : List W64) : Nat := wf ws 0 18 16
def hContext (ws : List W64) : Nat := wf ws 0 27 24
def hRound (ws : List W64) : Nat := wf ws 0 39 32
def hCal (ws : List W64) : Nat := wf ws 0 47 40
def hPlan (ws : List W64) : Nat := wf ws 0 63 48
def hNext (ws : List W64) : Nat := wd ws 1
def hRecord (ws : List W64) : Nat := wd ws 4
def hGroupLog (ws : List W64) : Nat := wf ws 5 45 40
def hMask (ws : List W64) : Nat := wf ws 5 7 0
def hDoneEn (ws : List W64) : Bool := wb ws 6 15
def hDoneCore (ws : List W64) : Nat := wf ws 6 14 10
def hDoneFlag (ws : List W64) : Nat := wf ws 6 9 0
def calFloor (ws : List W64) : Bool := (hCal ws).testBit 0
def calUse (ws : List W64) : Bool := (hCal ws).testBit 1
def calMerge (ws : List W64) : Bool := (hCal ws).testBit 2
def calClose (ws : List W64) : Bool := (hCal ws).testBit 3
def calGrouped (ws : List W64) : Bool := (hCal ws).testBit 4

/-- The plan a manifest runs under; S = 1 where its word is reserved (never reached: R65 rejects it). -/
def planOf (ws : List W64) : Plan := (Plan.ofWord (hPlan ws)).getD ⟨.linear, 1⟩

/-- How its outputs are rounded (R67). -/
def ctlOf (ws : List W64) : RCtl := ⟨(RMode.ofCode (hRound ws % 8)).getD .nearest, !(hRound ws).testBit 3⟩

/-- Is it a manifest whose rounding is stochastic (R71)? -/
def stochastic (ws : List W64) : Bool := hRound ws % 8 == 5

/-- Format of the operand word `w` (R156). -/
def fmtAt (ws : List W64) (w : Nat) : Fmt := (Fmt.ofByte (wf ws w 7 0)).getD ⟨.fp32, .none, 16⟩
/-- Tensor scale pattern of the operand word `w`. -/
def tsBits (ws : List W64) (w : Nat) : Nat := wf ws w 63 32
/-- Tensor scale of the operand word `w` (R80). -/
def tsAt (ws : List W64) (w : Nat) : Frac := (ofBits32 (tsBits ws w)).frac

/-! ## Reserved bits (R8, R67, R87, R62, R152 to R182) -/

/-- The mask of bits `hi` to `lo`. -/
def bitsMask (hi lo : Nat) : Nat := 2 ^ (hi + 1) - 2 ^ lo

def allBits : Nat := bitsMask 63 0
def operandMask : Nat := bitsMask 31 8

/-- Reserved bits of word `w` of kind `k`. -/
def reservedMask (k w : Nat) : Nat :=
  match w with
  | 0 => bitsMask 7 4 + bitsMask 23 19 + bitsMask 31 28 + bitsMask 39 36 + bitsMask 47 45 + bitsMask 55 53 + bitsMask 63 58
  | 1 => 0 | 2 => 0 | 3 => 0 | 4 => 0
  | 5 => bitsMask 63 46 + bitsMask 39 34
  | 6 => bitsMask 63 16
  | 7 => allBits
  | 9 => bitsMask 63 4
  | _ => match k with
    | 0 => match w with
      | 8 => bitsMask 63 50 | 10 => operandMask | 11 => operandMask | 12 => operandMask | 14 => bitsMask 63 32
      | 15 => allBits | 17 => bitsMask 63 12 | _ => 0
    | 1 => match w with
      | 8 => bitsMask 63 62 | 10 => operandMask | 11 => operandMask | 12 => operandMask | 13 => bitsMask 63 52
      | 14 => bitsMask 63 52 | 15 => allBits | 17 => bitsMask 63 8 | 38 => allBits | 39 => allBits | _ => 0
    | 2 => match w with
      | 8 => bitsMask 63 40 | 10 => operandMask | 11 => operandMask | 12 => operandMask | 14 => bitsMask 63 32
      | 15 => allBits | 17 => bitsMask 63 12 | _ => 0
    | 3 => match w with
      | 8 => bitsMask 63 52 | 10 => operandMask | 11 => operandMask | 12 => operandMask | 13 => operandMask
      | 17 => bitsMask 63 12 | _ => 0
    | 4 => match w with
      | 8 => bitsMask 63 25 | 10 => operandMask | 11 => allBits | 13 => bitsMask 63 4 | _ => 0
    | 5 => match w with
      | 8 => bitsMask 63 17 | 10 => operandMask | 11 => operandMask | 13 => bitsMask 63 6 | 29 => allBits | 30 => allBits
      | 31 => allBits | _ => 0
    | 6 => match w with
      | 8 => bitsMask 63 27 + bitsMask 15 10 | 10 => bitsMask 63 32 | 11 => allBits | 13 => bitsMask 63 4 | _ => 0
    | 7 => match w with
      | 8 => bitsMask 63 49 + bitsMask 15 6 | 10 => operandMask | 11 => bitsMask 45 32 + bitsMask 31 10
      | 13 => bitsMask 63 6 | 29 => allBits | 30 => allBits | 31 => allBits | _ => 0
    | 8 => match w with
      | 8 => bitsMask 63 20 | 10 => operandMask | 11 => bitsMask 63 32 | 13 => bitsMask 63 2 | 19 => allBits | 20 => allBits
      | 21 => allBits | 22 => allBits | 23 => allBits | _ => 0
    | 9 => match w with
      | 8 => bitsMask 63 40 + bitsMask 23 23 | _ => allBits
    | 10 => match w with
      | 8 => bitsMask 63 32 | 10 => 0 | _ => allBits
    | 11 => match w with
      | 8 => bitsMask 63 41 | _ => if 58 ≤ w then allBits else 0
    | 12 => match w with
      | 8 => bitsMask 63 5 | 10 => 0 | 11 => bitsMask 63 52 | 12 => bitsMask 63 52 | _ => allBits
    | _ => 0

/-- The lowest word that holds a reserved bit that is set. -/
def reservedWord (ws : List W64) : Option Nat :=
  (List.range (8 * (hLength ws + 1))).find? fun w => wd ws w &&& reservedMask (hKind ws) w != 0

/-! ## Operands and registers of each kind -/

/-- How a kind uses an operand word. -/
inductive OpUse where
  | required | optional | mustBeZero
deriving DecidableEq, Repr

/-- An operand word with its use and the formats the unit takes (R47). -/
structure OpShape where
  word : Nat
  use : OpUse
  ok : Fmt → Bool

def wide3 (f : Fmt) : Bool := !f.scaled && (f.elem == .fp32 || f.elem == .bf16 || f.elem == .fp16)
def stationaryOk (f : Fmt) : Bool := f.elem != .fp32
def streamedOk (f : Fmt) : Bool := f.elem != .fp32 && f.elem != .d2 && f.elem != .t16
def nbuWeightOk (f : Fmt) : Bool :=
  match f.elem with
  | .e4m3 | .e5m2 | .e2m1 | .int8 | .int4 | .d2 | .t16 => true
  | _ => false
def nbuBroadcastOk (f : Fmt) : Bool :=
  match f.elem with
  | .bf16 | .fp16 | .e4m3 | .e5m2 | .int8 => true
  | _ => false
def kvOk (f : Fmt) : Bool := f.scaled && (f.elem == .e4m3 || f.elem == .e5m2 || f.elem == .int4)
def anyFmt (_ : Fmt) : Bool := true

/-- `nbu_op`, `vop`, `xop`, `sync_op` and the like. -/
def outMode (ws : List W64) : Nat := wf ws 8 49 48
def nbuOp (ws : List W64) : Nat := wf ws 8 3 0
def vop (ws : List W64) : Nat := wf ws 8 7 0
def xop (ws : List W64) : Nat := wf ws 8 3 0
def xFinal (ws : List W64) : Bool := xop ws == 2 && wb ws 8 48
def syncOp (ws : List W64) : Nat := wf ws 8 3 0
def collCop (ws : List W64) : Nat := wf ws 11 63 60
def collGroup (ws : List W64) : Nat := wf ws 11 59 56
def collId (ws : List W64) : Nat := wf ws 11 55 48
def collTree (ws : List W64) : Nat := wf ws 11 47 46

def kindOps (ws : List W64) : List OpShape :=
  match hKind ws with
  | 0 => [⟨10, .required, stationaryOk⟩, ⟨11, .required, streamedOk⟩,
      ⟨12, if outMode ws = 0 then .required else .mustBeZero, anyFmt⟩]
  | 1 => [⟨10, .required, nbuWeightOk⟩, ⟨11, .required, nbuBroadcastOk⟩,
      ⟨12, if nbuOp ws = 0 then .required else .mustBeZero, anyFmt⟩]
  | 2 => [⟨10, .required, anyFmt⟩,
      ⟨11, if 1 ≤ vop ws && vop ws ≤ 5 then .required else if vop ws = 8 || vop ws = 9 then .optional else .mustBeZero,
        anyFmt⟩,
      ⟨12, if vop ws = 11 then .mustBeZero else .required,
        fun f => vop ws != 12 || (f.elem == .fp32 && !f.scaled)⟩]
  | 3 => [⟨10, .required, streamedOk⟩, ⟨11, .required, stationaryOk⟩, ⟨12, .optional, wide3⟩, ⟨13, .required, wide3⟩]
  | 4 => [⟨10, .required, wide3⟩]
  | 5 => [⟨10, .required, wide3⟩, ⟨11, .required, kvOk⟩]
  | 7 => [⟨10, if xFinal ws then .required else .mustBeZero, anyFmt⟩]
  | 8 => [⟨10, .required, wide3⟩]
  | _ => []

/-- A register of a kind: whether the operation uses it, the spaces it may take, its unit, its access unit, and whether
it is read and written. -/
structure RegShape where
  used : Bool
  spaces : List Nat
  unit : Nat
  au : Nat := 64
  reads : Bool := false
  writes : Bool := false

/-- An unused register (R158). -/
def noReg : RegShape := { used := false, spaces := [0], unit := 0 }

def ebAt (ws : List W64) (w l : Nat) : Nat := (fmtAt ws w).eb l
def sbAt (ws : List W64) (w l : Nat) : Nat := (fmtAt ws w).sb l
def scaledAt (ws : List W64) (w : Nat) : Bool := wd ws w != 0 && (fmtAt ws w).scaled

/-- Fields of the kinds. -/
def mK (ws : List W64) : Nat := wf ws 8 23 0
def mN (ws : List W64) : Nat := wf ws 8 47 24
def mPitch (ws : List W64) : Nat := wf ws 13 31 0
def mSPitch (ws : List W64) : Nat := wf ws 13 63 32
def mLo (ws : List W64) : Nat := wf ws 14 15 0
def mHi (ws : List W64) : Nat := wf ws 14 31 16
def scoreKP (ws : List W64) : Nat := wf ws 15 31 0
def scoreKSP (ws : List W64) : Nat := wf ws 15 63 32
def cK (ws : List W64) : Nat := wf ws 8 61 38
def cRows (ws : List W64) : Nat := wf ws 8 37 30
def cBanks (ws : List W64) : Nat := wf ws 8 29 19 + 1
def cFirst (ws : List W64) : Nat := wf ws 8 18 8
def cLqs (ws : List W64) : List Nat := bitsSet (wf ws 8 7 4) 4
def cR (ws : List W64) : Nat := (cLqs ws).length * cBanks ws * cRows ws
def cOff (ws : List W64) : Nat := wf ws 13 25 0
def cPitch (ws : List W64) : Nat := wf ws 13 51 26
def cSOff (ws : List W64) : Nat := wf ws 14 25 0
def cSPitch (ws : List W64) : Nat := wf ws 14 51 26
def vL (ws : List W64) : Nat := wf ws 8 39 16
def smL (ws : List W64) : Nat := wf ws 8 23 0
def kvL (ws : List W64) : Nat := wf ws 8 16 0
def mvU (ws : List W64) : Nat := 64 * (wf ws 8 9 0 + 1)
def mvT (ws : List W64) : Bool := wb ws 8 16
def mvRows (ws : List W64) : Nat := wf ws 8 26 19 + 1
def mvSize (ws : List W64) : Nat := 2 ^ wf ws 8 18 17
def mvPitch (ws : List W64) : Nat := wf ws 10 31 0
/-- Elements of a source row, and the pitch of a transposed row (R174). -/
def mvC (ws : List W64) : Nat := mvU ws / mvSize ws
def mvP (ws : List W64) : Nat := 64 * ((mvRows ws * mvSize ws + 63) / 64)
def xU (ws : List W64) : Nat := 64 * (wf ws 11 9 0 + 1)
def xE (ws : List W64) : Nat := 4 * (wf ws 11 9 0 + 1)
def xLo (ws : List W64) : Nat := wf ws 8 31 16
def xHi (ws : List W64) : Nat := wf ws 8 47 32
/-- Children that a COMBINE adds (R176). -/
def xChildren (ws : List W64) : Nat := ((planChildren (planOf ws) (xLo ws) (xHi ws)).getD []).length
def gfFirst (ws : List W64) : Nat := wf ws 8 8 0
def gfCount (ws : List W64) : Nat := wf ws 8 17 9 + 1
def gfPitch (ws : List W64) : Nat := wf ws 11 31 0
/-- Bytes of an unscaled element. -/
def elemBytes (f : Fmt) : Nat := f.elem.bits / 8
def tbKind (ws : List W64) : Nat := wf ws 8 3 0
def tbId (ws : List W64) : Nat := wf ws 8 7 4
def tbCount (ws : List W64) : Nat := wf ws 8 31 8
/-- Entries of each kind of table (R179, R221, R240). -/
def tableSize : Nat → Nat
  | 0 => 4160 | 1 => 256 | _ => 1024
def brBits (ws : List W64) : Nat := wf ws 8 33 31
def brShift (ws : List W64) : Nat := wf ws 8 30 26
def brCount (ws : List W64) : Nat := wf ws 8 40 34 + 1
def brAddr (ws : List W64) : Nat := wf ws 8 25 0
/-- Entry `i` of the target table (R182). -/
def brTarget (ws : List W64) (i : Nat) : Nat :=
  natOf (((ws.flatMap fun w => bytesOf w.toNat 8).drop (80 + 6 * i)).take 6)
def ckWhat (ws : List W64) : Nat := wf ws 8 7 0
def ckWsOff (ws : List W64) : Nat := wf ws 11 25 0
def ckWsLines (ws : List W64) : Nat := wf ws 11 51 26
def ckCisOff (ws : List W64) : Nat := wf ws 12 25 0
def ckCisLines (ws : List W64) : Nat := wf ws 12 51 26
/-- Lines of a CHECKPOINT dump, header included (R502). -/
def ckLines (ws : List W64) : Nat :=
  1 + (if (ckWhat ws).testBit 0 then ckWsLines ws else 0) + (if (ckWhat ws).testBit 1 then 1 else 0) +
    (if (ckWhat ws).testBit 2 then 2 else 0) + (if (ckWhat ws).testBit 3 then 1 else 0) +
    (if (ckWhat ws).testBit 4 then ckCisLines ws else 0)

/-- This device's rank in a collective group, and the group's members (R323). -/
def M.collSize (m : M) (g : Nat) : Nat := m.objFld (0x6400 + g) 1 31 16 + 1
def M.collRank (m : M) (g : Nat) : Option Nat :=
  let first := m.objFld (0x6400 + g) 1 15 0
  let stride := m.objFld (0x6400 + g) 1 47 32
  (List.range (m.collSize g)).find? fun r => (first + r * stride) % 65536 == m.deviceId % 65536
/-- The device that holds a rank. -/
def M.collDevice (m : M) (g r : Nat) : Nat := (m.objFld (0x6400 + g) 1 15 0 + r * m.objFld (0x6400 + g) 1 47 32) % 65536

/-- The children of the root of a plan's tree (R326). -/
def rootChildren (p : Plan) : List (Nat × Nat) := (planChildren p 0 (p.s - 1)).getD []

/-- The registers of a manifest, A0 first (R161 to R182). -/
def M.kindRegs (m : M) (ws : List W64) : List RegShape :=
  match hKind ws with
  | 0 =>
    let outs := if outMode ws = 0 then ebAt ws 12 (mN ws)
      else if outMode ws = 1 then 16 * mN ws * (mHi ws + 1 - mLo ws) else 8 * mN ws
    [{ used := true, spaces := [1], unit := (mN ws - 1) * mPitch ws + ebAt ws 10 (mK ws), reads := true },
     { used := scaledAt ws 10, spaces := [1], unit := (mN ws - 1) * mSPitch ws + sbAt ws 10 (mK ws), reads := true },
     { used := true, spaces := [1], unit := ebAt ws 11 (mK ws), reads := true },
     { used := scaledAt ws 11, spaces := [1], unit := sbAt ws 11 (mK ws), reads := true },
     { used := true, spaces := [if outMode ws = 2 then 3 else 1], unit := outs, writes := true },
     { used := outMode ws == 0 && scaledAt ws 12, spaces := [1], unit := sbAt ws 12 (mN ws), writes := true }]
  | 1 =>
    [{ used := true, spaces := [0, 1], unit := ebAt ws 11 (cK ws), reads := true },
     { used := scaledAt ws 11, spaces := [0, 1], unit := sbAt ws 11 (cK ws), reads := true },
     (if nbuOp ws = 0 then { used := true, spaces := [1], unit := ebAt ws 12 (cR ws), writes := true }
      else if nbuOp ws = 3 then { used := true, spaces := [1], unit := 4 * cR ws, au := 4, writes := true } else noReg),
     { used := nbuOp ws == 0 && scaledAt ws 12, spaces := [1], unit := sbAt ws 12 (cR ws), writes := true }]
  | 2 =>
    let single := vop ws == 11 || vop ws == 12
    [{ used := true, spaces := [1], unit := ebAt ws 10 (vL ws), reads := true },
     { used := scaledAt ws 10, spaces := [1], unit := sbAt ws 10 (vL ws), reads := true },
     { used := wd ws 11 != 0, spaces := [1], unit := ebAt ws 11 (vL ws), reads := true },
     { used := scaledAt ws 11, spaces := [1], unit := sbAt ws 11 (vL ws), reads := true },
     { used := true, spaces := [1], unit := if single then 4 else ebAt ws 12 (vL ws), au := if single then 4 else 64,
       writes := true },
     { used := !single && scaledAt ws 12, spaces := [1], unit := sbAt ws 12 (vL ws), writes := true }]
  | 3 =>
    [{ used := true, spaces := [1], unit := (mN ws - 1) * scoreKP ws + ebAt ws 11 (mK ws), reads := true },
     { used := scaledAt ws 11, spaces := [1], unit := (mN ws - 1) * scoreKSP ws + sbAt ws 11 (mK ws), reads := true },
     { used := true, spaces := [1], unit := ebAt ws 10 (mK ws), reads := true },
     { used := scaledAt ws 10, spaces := [1], unit := sbAt ws 10 (mK ws), reads := true },
     { used := wd ws 12 != 0, spaces := [0, 1], unit := ebAt ws 12 (mN ws), reads := true },
     { used := true, spaces := [0, 1], unit := ebAt ws 13 (mN ws), writes := true }]
  | 4 =>
    [{ used := true, spaces := [0, 1], unit := ebAt ws 10 (smL ws), reads := true, writes := true },
     { used := wb ws 8 24, spaces := [1], unit := 8, au := 8, writes := true }]
  | 5 =>
    [{ used := true, spaces := [0, 1], unit := ebAt ws 10 (kvL ws), reads := true },
     { used := true, spaces := [0], unit := ebAt ws 11 (kvL ws), writes := true },
     { used := true, spaces := [0], unit := sbAt ws 11 (kvL ws), au := 4, writes := true }]
  | 6 =>
    if mvT ws then
      [{ used := true, spaces := [0, 1, 2], unit := (mvRows ws - 1) * mvPitch ws + mvU ws, reads := true },
       { used := true, spaces := [1], unit := mvC ws * mvP ws, writes := true }]
    else
      [{ used := true, spaces := [0, 1, 2], unit := mvU ws, reads := true },
       { used := true, spaces := [0, 1, 2], unit := mvU ws, writes := true }]
  | 7 =>
    match xop ws with
    | 2 =>
      [{ used := true, spaces := [1], unit := 16 * xE ws * xChildren ws, reads := true },
       { used := true, spaces := [1], unit := if xFinal ws then ebAt ws 10 (xE ws) else 16 * xE ws, writes := true },
       { used := xFinal ws && scaledAt ws 10, spaces := [1], unit := sbAt ws 10 (xE ws), writes := true }]
    | 3 =>
      let g := collGroup ws
      let dst := match collCop ws with
        | 0 => m.collSize g * xU ws
        | 1 => xU ws
        | _ => (rootChildren (planOf ws)).length * xU ws
      [{ used := collCop ws != 1 || m.collRank g == some 0, spaces := [1], unit := xU ws, reads := true },
       { used := true, spaces := [1], unit := dst, writes := true }, noReg]
    | _ =>
      [{ used := true, spaces := [1], unit := xU ws, reads := true },
       { used := true, spaces := [1], unit := xU ws, writes := true }, noReg]
  | 8 =>
    [{ used := true, spaces := [0, 1], unit := 127 * gfPitch ws + 128 * elemBytes (fmtAt ws 10), reads := wb ws 8 18,
       writes := true }]
  | _ => []

/-! ## Address generation (R132 to R134, R157) -/

/-- First word of the record of register `i`. -/
def regWord (ws : List W64) (i : Nat) : Nat :=
  match kindBlock (hKind ws) with
  | some (a, _) => a + 2 + 5 * i
  | none => 0
def regBase (ws : List W64) (i : Nat) : Nat := wd ws (regWord ws i)
def regStride (ws : List W64) (i l : Nat) : Int := toSigned 64 (wd ws (regWord ws i + 1 + l))
def regSpace (ws : List W64) (i : Nat) : Nat :=
  match kindBlock (hKind ws) with
  | some (a, _) => wf ws (a + 1) (2 * i + 1) (2 * i)
  | none => 0
/-- n of level `l`. -/
def levelCount (ws : List W64) (l : Nat) : Nat :=
  match kindBlock (hKind ws) with
  | some (a, _) => wf ws a (16 * l + 15) (16 * l) + 1
  | none => 1
def totalIters (ws : List W64) : Nat := levelCount ws 0 * levelCount ws 1 * levelCount ws 2 * levelCount ws 3

/-- Address of register `i` in iteration `k` (R132, R133). -/
def regAddr (ws : List W64) (i k : Nat) : Nat :=
  let n0 := levelCount ws 0
  let n1 := levelCount ws 1
  let n2 := levelCount ws 2
  ((regBase ws i : Int) + (k % n0 : Nat) * regStride ws i 0 + (k / n0 % n1 : Nat) * regStride ws i 1 +
    (k / (n0 * n1) % n2 : Nat) * regStride ws i 2 + (k / (n0 * n1 * n2) : Nat) * regStride ws i 3).toNat

/-- Lowest and highest byte of a register's extent (R134). -/
def regExtent (ws : List W64) (i unit : Nat) : Int × Int :=
  let part (l : Nat) : Int := ((levelCount ws l - 1 : Nat) : Int) * regStride ws i l
  let lo := (List.range 4).foldl (fun (s : Int) l => s + min 0 (part l)) (regBase ws i : Int)
  let hi := (List.range 4).foldl (fun (s : Int) l => s + max 0 (part l)) (regBase ws i : Int)
  (lo, hi + unit - 1)

/-! ## Outputs -/

/-- Does it round an output (R153)? -/
def roundsOutput (ws : List W64) : Bool :=
  match hKind ws with
  | 0 => outMode ws == 0
  | 1 => nbuOp ws < 3
  | 2 => vop ws != 11
  | 3 => true | 4 => true | 5 => true | 8 => true
  | 7 => xFinal ws
  | _ => false

/-- May its plan word be other than zero (R153)? -/
def planAllowed (ws : List W64) : Bool :=
  match hKind ws with
  | 0 => true | 3 => true
  | 1 => nbuOp ws == 0
  | 7 => xop ws == 2 || (xop ws == 3 && collCop ws == 2)
  | _ => false

/-- The operand word of the format its outputs take. -/
def destWord (ws : List W64) : Nat :=
  match hKind ws with
  | 0 => 12 | 1 => if nbuOp ws = 0 then 12 else 10 | 2 => 12 | 3 => 13 | 4 => 10 | 5 => 11 | _ => 10

/-- Length of an output row and the number of rows of the output order (R93, R133). -/
def outShape (ws : List W64) : Nat × Nat :=
  let it := totalIters ws
  match hKind ws with
  | 0 => (mN ws, it)
  | 1 => if nbuOp ws = 0 then (cR ws, it) else (cK ws, it * cR ws)
  | 2 => (if vop ws = 12 then 1 else vL ws, it)
  | 3 => (mN ws, it)
  | 4 => (smL ws, it)
  | 5 => (kvL ws, it)
  | 7 => (xE ws, it)
  | 8 => (16384, it)
  | _ => (0, 0)

/-- Amax records a manifest names (R93). -/
def recordCount (ws : List W64) : Nat :=
  if calGrouped ws then
    let o := (outShape ws).1 * (outShape ws).2
    (o + 2 ^ hGroupLog ws - 1) / 2 ^ hGroupLog ws
  else 1

/-- Every group boundary is the first output of a block (R93): rows of `len` outputs, `o` outputs in all, blocks of `n`. -/
def groupsFit (n len o g : Nat) : Bool :=
  if len = 0 || n = 0 then true
  else
    let count := (o + g - 1) / g - 1
    let period := len * n / Nat.gcd g (len * n)
    (List.range (min count period)).all fun j => (j + 1) * g % len % n == 0

/-! ## Checks: each answers a reason and a word, or nothing -/

/-- A reason code of R139 and the word it names (R137). -/
abbrev Bad := Option (Nat × Nat)

def rsKind : Nat := 1
def rsVersion : Nat := 2
def rsLength : Nat := 3
def rsReserved : Nat := 4
def rsContext : Nat := 5
def rsEngine : Nat := 6
def rsFormat : Nat := 7
def rsPlan : Nat := 8
def rsScale : Nat := 9
def rsRecord : Nat := 10
def rsField : Nat := 11
def rsAlign : Nat := 12
def rsAddress : Nat := 13
def rsDomain : Nat := 14
def rsStrict : Nat := 15
def rsNext : Nat := 16
def rsHostAbort : Nat := 0x20
def rsDrain : Nat := 0x21

/-- A failure where the condition does not hold. -/
def need (c : Bool) (reason word : Nat) : Bad := if c then none else some (reason, word)

/-- The first failure of a list. -/
def firstBad (l : List Bad) : Bad := l.findSome? id

/-- Check 1 of R127. -/
def checkForm (ws : List W64) : Bad :=
  firstBad [
    need (kindLength (hKind ws)).isSome rsKind 0,
    need (hVersion ws == 1) rsVersion 0,
    need (kindLength (hKind ws) == some (hLength ws)) rsLength 0,
    (reservedWord ws).map fun w => (rsReserved, w)]

/-- Does it need the Cistern (R264)? -/
def needsCistern (ws : List W64) : Bool :=
  match hKind ws with
  | 0 => outMode ws == 2 || (List.range 6).any fun i => regSpace ws i == 3
  | 8 => true
  | 12 => (ckWhat ws).testBit 4
  | _ => false

/-- Format bytes (R29, R47). -/
def checkFormats (ws : List W64) : Bad :=
  firstBad ((kindOps ws).map fun o =>
    if wd ws o.word = 0 then none
    else match Fmt.ofByte (wf ws o.word 7 0) with
      | none => some (rsFormat, o.word)
      | some f => need (o.use == .mustBeZero || o.ok f) rsFormat o.word)

/-- The reduction plan (R65), the node of a COMBINE (R176), the LAs of a CONVOY (R190), and the plan of a REDUCE_CHILDREN
(R326). -/
def M.checkPlan (m : M) (ws : List W64) : Bad :=
  match Plan.ofWord (hPlan ws) with
  | none => some (rsPlan, 0)
  | some p =>
    match hKind ws with
    | 1 => need (cRows ws * p.s ≤ 256) rsPlan 0
    | 7 =>
      if xop ws = 2 then
        need ((planChildren p (xLo ws) (xHi ws)).isSome && (!xFinal ws || (xLo ws == 0 && xHi ws + 1 == p.s))) rsPlan 8
      else if xop ws = 3 && collCop ws = 2 then
        let c := m.collSize (collGroup ws)
        let tree : Nat := match p.tree with
          | .linear => 0 | .pairwise => 1 | .quaternary => 2
        need (!(2 ≤ c && 2 ^ Nat.log2 c == c) || (p.s == c && tree == collTree ws)) rsPlan 0
      else none
    | _ => none

/-- Tensor scales (R81, R156). -/
def checkTscale (ws : List W64) : Bad :=
  firstBad ((kindOps ws).map fun o =>
    if wd ws o.word = 0 then need (o.use != .required) rsScale o.word else need (posNormal (tsBits ws o.word)) rsScale o.word)

/-- Scale rules and groups (R84, R87, R93, R97, R171). -/
def checkScaleRules (ws : List W64) : Bad :=
  let f := fmtAt ws (destWord ws)
  let sh := outShape ws
  firstBad [
    need (!(roundsOutput ws && calFloor ws && f.scale == .e5m3)) rsScale 0,
    need (!((hKind ws == kSoftmax || hKind ws == kKv) && calUse ws)) rsScale 0,
    if calGrouped ws then
      firstBad [
        need (6 ≤ hGroupLog ws && hGroupLog ws ≤ 40) rsScale 5,
        need (!roundsOutput ws || !f.scaled || groupsFit f.block sh.1 (sh.1 * sh.2) (2 ^ hGroupLog ws)) rsScale 5]
    else need (hGroupLog ws == 0) rsScale 5]

/-! ## Windows of a context (R465 to R467) -/

/-- `lo` to `hi` lies wholly in window `k` of context `c`, which permits the accesses asked for. -/
def M.winHolds (m : M) (c k lo hi : Nat) (r w : Bool) : Bool :=
  let v := m.obj (0x8010 + c) k
  let base := fld v 79 32
  let limit := fld v 127 80
  (v.testBit 0 || v.testBit 1) && base ≤ limit && base ≤ lo && hi ≤ limit + 0xFFFF && (!r || v.testBit 0) && (!w || v.testBit 1)

/-- Memory or the Bazaar, and wholly so (R134). -/
def oneRegion (lo hi : Nat) : Bool := lo ≤ hi && (hi < memEnd || (bazBase ≤ lo && hi < bazBase + bazSize))

/-- The context may make these accesses to local addresses `lo` to `hi`. -/
def M.ctxMay (m : M) (c lo hi : Nat) (r w : Bool) : Bool :=
  oneRegion lo hi && (List.range 8).any fun k => m.winHolds c (k + 1) lo hi r w

/-- Waystation offsets `lo` to `hi` lie in the context's window on core `i`, outside the staging region. -/
def M.ctxMayWs (m : M) (i c lo hi : Nat) : Bool :=
  let v := m.obj (0x8030 + c) (i + 1)
  let base := fld v 9 0 * 0x10000
  let limit := fld v 25 16 * 0x10000 + 0xFFFF
  base ≤ limit && base ≤ lo && lo ≤ hi && hi ≤ limit && hi < m.stageBase i

/-- A pointer names a manifest that may be followed (R124). -/
def M.pointerOk (m : M) (c p : Nat) : Bool :=
  p / 2 ^ 48 == m.deviceId && p % 64 == 0 && m.ctxMay c (p % 2 ^ 48) (p % 2 ^ 48 + 63) true false

/-- FLAG_BLOCKS of the context lets it use a flag (R465, R473). -/
def M.flagOk (m : M) (c f : Nat) : Bool := (m.obj (0x8010 + c) 9).testBit (f / 64)

/-! ## The other meaning fields (R152 to R182) -/

/-- An FP32 immediate that is used is finite; one that is not is zero (R168). -/
def immOk (used : Bool) (bits : Nat) : Bool := if used then fld bits 30 23 != 255 else bits == 0

/-- Fields of each kind. -/
def M.checkKindFields (m : M) (core : Nat) (ws : List W64) : Bad :=
  let s := (planOf ws).s
  match hKind ws with
  | 0 => firstBad [
      need (outMode ws != 3) rsField 8,
      need (1 ≤ mK ws && 1 ≤ mN ws) rsField 8,
      need (mPitch ws % 64 == 0 && ebAt ws 10 (mK ws) ≤ mPitch ws) rsField 13,
      need (mSPitch ws % 64 == 0 && (!scaledAt ws 10 || sbAt ws 10 (mK ws) ≤ mSPitch ws)) rsField 13,
      need (if outMode ws = 1 then mLo ws ≤ mHi ws && mHi ws < s else mLo ws == 0 && mHi ws + 1 == s) rsField 14]
  | 1 => firstBad [
      need (nbuOp ws ≤ 3) rsField 8,
      need (1 ≤ cK ws && 1 ≤ cRows ws && 1 ≤ (cLqs ws).length) rsField 8,
      need (cFirst ws + cBanks ws ≤ 2048) rsField 8,
      need (cOff ws % 64 == 0 && cPitch ws % 64 == 0 && ebAt ws 10 (cK ws) ≤ cPitch ws) rsField 13,
      need (cSOff ws % 64 == 0 && cSPitch ws % 64 == 0) rsField 14]
  | 2 => firstBad [
      need (vop ws ≤ 12) rsField 8,
      need (1 ≤ vL ws) rsField 8,
      need (if vop ws = 7 then wf ws 8 15 8 ≤ 12 else wf ws 8 15 8 == 0) rsField 8,
      need (vop ws != 11 || vL ws ≤ 255) rsField 8,
      need (vop ws != 10 || vL ws % 2 == 0) rsField 8,
      need (immOk (vop ws == 6 || vop ws == 8 || vop ws == 9 || vop ws == 10) (wf ws 13 31 0)) rsField 13,
      need (immOk (vop ws == 6) (wf ws 13 63 32)) rsField 13,
      need (vop ws == 10 || wf ws 14 31 0 == 0) rsField 14]
  | 3 => firstBad [
      need (1 ≤ mK ws && mK ws ≤ 1024 && 1 ≤ mN ws) rsField 8,
      need (wf ws 14 31 0 + totalIters ws ≤ 2 ^ 32) rsField 14,
      need (wf ws 14 63 32 + mN ws ≤ 2 ^ 32) rsField 14,
      need (scoreKP ws % 64 == 0 && ebAt ws 11 (mK ws) ≤ scoreKP ws && scoreKSP ws % 64 == 0) rsField 15,
      need (m.obj 0x2040 (core + 1) % 256 != 255) rsField 5]
  | 4 => need (1 ≤ smL ws) rsField 8
  | 5 => need (1 ≤ kvL ws && kvL ws ≤ 65536) rsField 8
  | 6 => firstBad [
      need (if mvT ws then wf ws 8 18 17 != 3 else wf ws 8 18 17 == 0 && wf ws 8 26 19 == 0) rsField 8,
      need (if mvT ws then mvPitch ws % 64 == 0 else mvPitch ws == 0) rsField 10]
  | 7 => firstBad [
      need (xop ws ≤ 3) rsField 8,
      need (if xop ws = 0 then wf ws 8 5 4 != 0 else wf ws 8 5 4 == 0) rsField 8,
      if xop ws = 3 then firstBad [
        need (collCop ws ≤ 2) rsField 11,
        need (if collCop ws = 2 then collTree ws ≤ 2 else collTree ws == 0) rsField 11,
        need (m.collRank (collGroup ws)).isSome rsField 11,
        need (collCop ws != 2 || (let c := m.collSize (collGroup ws); 2 ≤ c && 2 ^ Nat.log2 c == c)) rsField 11]
      else need (wf ws 11 63 32 == 0) rsField 11]
  | 8 => firstBad [
      need (gfFirst ws + gfCount ws ≤ 384 && totalIters ws == gfCount ws) rsField 8,
      need (gfPitch ws % 64 == 0 && 128 * elemBytes (fmtAt ws 10) ≤ gfPitch ws) rsField 11]
  | 9 =>
    let c := hContext ws
    let g := wf ws 8 7 4
    let flag := wf ws 8 17 8
    let fcore := wf ws 8 22 18
    let dev := wf ws 8 39 24
    let grp := m.obj 0x8050 (g + 1)
    match syncOp ws with
    | 1 => firstBad [need (g == 0 && dev == 0 && fcore == core) rsField 8, need (m.flagOk c flag) rsField 8]
    | 2 => firstBad [need (g == 0 && fcore ≤ 23) rsField 8, need (m.flagOk c flag) rsField 8]
    | op =>
      firstBad [
        need (op == 0 || op == 3) rsField 8,
        need (flag == 0 && fcore == 0 && dev == 0) rsField 8,
        need (grp.testBit core && fld grp 39 36 == c) rsField 8,
        need (op == 0 || (grp.testBit 44 && (m.collRank (fld grp 43 40)).isSome)) rsField 8]
  | 10 => firstBad [
      need (tbKind ws ≤ 2 && tbId ws ≤ 3 && tbCount ws == tableSize (tbKind ws)) rsField 8,
      need (wd ws 10 < 2 ^ 48) rsField 10]
  | 11 => firstBad [
      need (1 ≤ brBits ws && brBits ws ≤ 6 && brShift ws + brBits ws ≤ 32 && brCount ws ≤ 64) rsField 8,
      (((List.range 64).filter fun i => brCount ws ≤ i && brTarget ws i != 0).head?.map
        fun i => (rsField, (80 + 6 * i) / 8))]
  | 12 => firstBad [
      need (ckWhat ws != 0) rsField 8,
      need (if (ckWhat ws).testBit 0 then
          ckWsLines ws != 0 && ckWsOff ws % 64 == 0 && ckWsOff ws + 64 * ckWsLines ws ≤ wsSize
        else wd ws 11 == 0) rsField 11,
      need (if (ckWhat ws).testBit 4 then
          ckCisLines ws != 0 && ckCisOff ws % 64 == 0 && ckCisOff ws + 64 * ckCisLines ws ≤ 0x3000000
        else wd ws 12 == 0) rsField 12]
  | _ => none

/-- Registers: spaces, and nothing in an absent one (R158). -/
def M.checkRegs (m : M) (ws : List W64) : Bad :=
  firstBad ((m.kindRegs ws).zipIdx.map fun (r, i) =>
    if r.used then need (r.spaces.contains (regSpace ws i)) rsField (regWord ws 0 - 1)
    else firstBad [
      need (regSpace ws i == 0) rsField (regWord ws 0 - 1),
      (((List.range 5).filter fun j => wd ws (regWord ws i + j) != 0).head?.map fun j => (rsField, regWord ws i + j))])

/-- The operation code of a body names an operation; what the other fields must hold depends on it. -/
def opKnown (ws : List W64) : Bool :=
  match hKind ws with
  | 1 => nbuOp ws ≤ 3
  | 2 => vop ws ≤ 12
  | 7 => xop ws ≤ 3
  | _ => true

/-- The fields of R152 to R182 left after formats, plans, scales, records and pointers. -/
def M.checkFields (m : M) (core : Nat) (ws : List W64) : Bad :=
  firstBad [
    need (roundsOutput ws || (hRound ws == 0 && hCal ws == 0)) rsField 0,
    need (planAllowed ws || hPlan ws == 0) rsField 0,
    need (!hDoneEn ws || (hDoneCore ws ≤ 23 && m.flagOk (hContext ws) (hDoneFlag ws))) rsField 6,
    need (opKnown ws) rsField 8,
    firstBad ((kindOps ws).map fun o => need (o.use != .mustBeZero || wd ws o.word == 0) rsField o.word),
    m.checkKindFields core ws,
    need (!(hKind ws == kMatrix && m.obj 0x2040 (core + 1) % 256 == 255)) rsField 5,
    m.checkRegs ws]

/-- The next pointer and the targets of a BRANCH (R124, R145). -/
def M.checkPointers (m : M) (ws : List W64) : Bad :=
  let c := hContext ws
  firstBad [
    need (hNext ws == 0 || m.pointerOk c (hNext ws)) rsNext 1,
    if hKind ws = kBranch then
      ((List.range (min (brCount ws) 64)).filter fun i => !m.pointerOk c (m.deviceId * 2 ^ 48 + brTarget ws i)).head?.map
        fun i => (rsNext, (80 + 6 * i) / 8)
    else none]

/-! ## Address checks (check 6 of R127) -/

/-- A local range a manifest touches, with the accesses it makes. -/
structure Span where
  lo : Nat
  hi : Nat
  reads : Bool
  writes : Bool
deriving DecidableEq, Repr

/-- Where register `i` lies once a global address of this device is taken as local (R311): space, lowest, highest. -/
def M.regPlace (m : M) (ws : List W64) (i unit : Nat) : Nat × Int × Int :=
  let e := regExtent ws i unit
  if regSpace ws i = 2 && regBase ws i / 2 ^ 48 = m.deviceId then
    (0, e.1 - m.deviceId * 2 ^ 48, e.2 - m.deviceId * 2 ^ 48)
  else (regSpace ws i, e.1, e.2)

/-- Strides in range, then alignment (R157, R134). -/
def M.checkStrides (m : M) (ws : List W64) : Bad :=
  let rs := (m.kindRegs ws).zipIdx.filter fun r => r.1.used
  firstBad [
    firstBad (rs.map fun (_, i) => firstBad ((List.range 4).map fun l =>
      let s := regStride ws i l
      need (-(2 ^ 47 : Int) ≤ s && s < 2 ^ 47) rsField (regWord ws i + 1 + l))),
    firstBad (rs.map fun (r, i) => firstBad (need (regBase ws i % r.au == 0) rsAlign (regWord ws i) ::
      (List.range 4).map fun l => need (regStride ws i l % (r.au : Int) == 0) rsAlign (regWord ws i + 1 + l)))]

/-- The context owns the Cistern of the core (R255). -/
def M.ownsCistern (m : M) (core c : Nat) : Bool :=
  let v := m.obj 0x8040 (core + 1)
  v.testBit 4 && fld v 3 0 == c

/-- Extents of the registers (R134, R158, R255, R467). -/
def M.checkExtents (m : M) (core : Nat) (ws : List W64) : Bad :=
  firstBad (((m.kindRegs ws).zipIdx.filter fun r => r.1.used).map fun (r, i) =>
    let p := m.regPlace ws i r.unit
    let ok : Bool :=
      if p.2.1 < 0 then false
      else
        let lo := p.2.1.toNat
        let hi := p.2.2.toNat
        match p.1 with
        | 0 => m.ctxMay (hContext ws) lo hi r.reads r.writes
        | 1 => m.ctxMayWs core (hContext ws) lo hi
        | 2 => lo / 2 ^ 48 == hi / 2 ^ 48
        | _ => hi < 0x3000000
    need ok rsAddress (regWord ws i))

/-- A tract of a column is being converted (R188). -/
def M.converting (m : M) (column tract : Nat) : Bool := m.dev.convs.any fun c => c.column == column && c.tract == tract

/-- Bank offsets `off` to `off + n - 1` of layer quadrant ordinal `l` lie in open tracts of the column. -/
def M.bankOpen (m : M) (column l off n : Nat) : Bool :=
  n == 0 || (List.range ((off + n - 1) / 0x20000 - off / 0x20000 + 1)).all fun j =>
    let t := 384 * l + off / 0x20000 + j
    m.objBit (0x5110 + column) (t / 64 + 1) (t % 64) && !m.converting column t

/-- The bank-resident extents of a CONVOY (R167, R188, R208). -/
def M.checkConvoy (m : M) (core : Nat) (ws : List W64) : Bad :=
  let eb := ebAt ws 10 (cK ws)
  let sb := if scaledAt ws 10 then sbAt ws 10 (cK ws) else 0
  let last := cRows ws - 1
  let eEnd := cOff ws + last * cPitch ws + eb
  let sEnd := cSOff ws + last * cSPitch ws + sb
  firstBad [
    need (eEnd ≤ 0x3000000) rsAddress 13,
    need (sb == 0 || sEnd ≤ 0x3000000) rsAddress 14,
    need (sb == 0 || eEnd ≤ cSOff ws || sEnd ≤ cOff ws) rsAddress 14,
    need ((cLqs ws).all fun l => (List.range (cRows ws)).all fun r =>
      m.bankOpen core l (cOff ws + r * cPitch ws) eb) rsAddress 13,
    need ((cLqs ws).all fun l => (List.range (cRows ws)).all fun r =>
      m.bankOpen core l (cSOff ws + r * cSPitch ws) sb) rsAddress 14,
    need (!((cLqs ws).any fun l => m.dev.outGroups.any fun g =>
      g / 128 == 4 * core + l && cFirst ws / 16 ≤ g % 128 && g % 128 ≤ (cFirst ws + cBanks ws - 1) / 16)) rsAddress 8]

/-- A local extent meets bank group `g` (R185): some 64-byte unit of it lies there. -/
def extentMeets (g lo hi : Nat) : Bool :=
  let q := g / 128
  let u1 := max lo (q * lqSize) / 64
  let u2 := min hi (q * lqSize + lqSize - 1) / 64
  let s := u1 % 2048
  let cand := if s / 16 = g % 128 then u1 else u1 - s + g % 128 * 16 + (if s < g % 128 * 16 then 0 else 2048)
  lo < (q + 1) * lqSize && q * lqSize ≤ hi && cand ≤ u2

/-- On a primary, the destination of a mirrored context's KV_APPEND lies in a mirror range (R329). -/
def M.mirrorHolds (m : M) (c lo hi : Nat) : Bool :=
  !(m.objFld 0x6500 1 25 24 == 1 && (m.obj 0x6500 1).testBit c) ||
    (List.range 16).any fun k =>
      let v := m.obj 0x6510 (k + 1)
      fld v 47 0 ≤ lo && hi < fld v 47 0 + fld v 95 48

/-- The destination of a KV_APPEND: in the home column, no tract of it converting, no group of it mapped out (R172, R188,
R208), in a mirror range where R329 asks for it. -/
def M.checkKv (m : M) (core : Nat) (ws : List W64) : Bad :=
  firstBad ([(1, ebAt ws 11 (kvL ws)), (2, sbAt ws 11 (kvL ws))].map fun (i, unit) =>
    let e := regExtent ws i unit
    let lo := e.1.toNat
    let hi := e.2.toNat
    need (core * columnSize ≤ lo && hi < (core + 1) * columnSize &&
      !(m.dev.convs.any fun c => c.column == core && lo < core * columnSize + (c.tract / 384) * lqSize +
          (c.tract % 384 + 1) * 0x10000000 && core * columnSize + (c.tract / 384) * lqSize + c.tract % 384 * 0x10000000 ≤ hi) &&
      !(m.dev.outGroups.any fun g => extentMeets g lo hi) && m.mirrorHolds (hContext ws) lo hi) rsAddress (regWord ws i))

/-- Source and destination of a MOVE do not overlap (R173). -/
def M.checkMove (m : M) (ws : List W64) : Bad :=
  match m.kindRegs ws with
  | [r0, r1] =>
    let a := m.regPlace ws 0 r0.unit
    let b := m.regPlace ws 1 r1.unit
    need (!(a.1 == b.1 && a.2.1 ≤ b.2.2 && b.2.1 ≤ a.2.2)) rsAddress (regWord ws 1)
  | _ => none

/-- The address tests that are not registers' (R179, R182, R503). -/
def M.checkPlaces (m : M) (core : Nat) (ws : List W64) : Bad :=
  let c := hContext ws
  match hKind ws with
  | 1 => m.checkConvoy core ws
  | 5 => m.checkKv core ws
  | 6 => m.checkMove ws
  | 10 =>
    firstBad [need (wd ws 10 % 64 == 0) rsAlign 10,
      need (m.ctxMay c (wd ws 10) (wd ws 10 + 4 * tbCount ws - 1) true false) rsAddress 10]
  | 11 => firstBad [need (brAddr ws % 4 == 0) rsAlign 8, need (m.ctxMayWs core c (brAddr ws) (brAddr ws + 3)) rsAddress 8]
  | 12 =>
    firstBad [need (wd ws 10 % 64 == 0) rsAlign 10,
      need (!(ckWhat ws).testBit 0 || m.ctxMayWs core c (ckWsOff ws) (ckWsOff ws + 64 * ckWsLines ws - 1)) rsAddress 11,
      need (m.ctxMay c (wd ws 10) (wd ws 10 + 64 * ckLines ws - 1) false true) rsAddress 10]
  | _ => none

/-- Check 6 of R127. -/
def M.checkAddresses (m : M) (core : Nat) (ws : List W64) : Bad :=
  firstBad [
    m.checkStrides ws,
    need (totalIters ws < 2 ^ 48) rsField (regWord ws 0 - 2),
    m.checkExtents core ws,
    m.checkPlaces core ws,
    need (!needsCistern ws || m.ownsCistern core (hContext ws)) rsAddress (if hKind ws = kMatrix then regWord ws 4 else 8)]

/-- Local ranges a manifest touches: registers, records, tables, dumps. -/
def M.spans (m : M) (ws : List W64) : List Span :=
  let regs := ((m.kindRegs ws).zipIdx.filter fun r => r.1.used).filterMap fun (r, i) =>
    let p := m.regPlace ws i r.unit
    if p.1 = 0 then some (⟨p.2.1.toNat, p.2.2.toNat, r.reads, r.writes⟩ : Span) else none
  let recs := if hRecord ws != 0 && hRecord ws / 2 ^ 48 == m.deviceId then
      [(⟨hRecord ws % 2 ^ 48, hRecord ws % 2 ^ 48 + 320 * recordCount ws - 1, true, true⟩ : Span)] else []
  let others := if hKind ws = kTable then [(⟨wd ws 10, wd ws 10 + 4 * tbCount ws - 1, true, false⟩ : Span)]
    else if hKind ws = kCheckpoint then [(⟨wd ws 10, wd ws 10 + 64 * ckLines ws - 1, false, true⟩ : Span)] else []
  regs ++ recs ++ others

/-- Check 7 of R127 (R26): the tier's memory interface is on if the manifest touches the core's home column. -/
def M.checkDomain (m : M) (core : Nat) (ws : List W64) : Bad :=
  let touches := hKind ws == kConvoy || hKind ws == kKv ||
    (m.spans ws).any fun s => s.lo < (core + 1) * columnSize && core * columnSize ≤ s.hi
  need (!touches || m.domOn (24 + tierOf core)) rsDomain 0

/-! ## Clamps (check 5; R129, R160, R436) -/

/-- Word, requested and applied value of each clamped field, in order. -/
def M.clamps (m : M) (core : Nat) (ws : List W64) : List (Nat × Nat × Nat) :=
  let allowed := 255 - m.obj 0x2040 (core + 1) % 256
  let asked := hMask ws
  let kept := asked &&& allowed
  let mask := if kept = 0 then allowed else kept
  let a := if (hKind ws == kMatrix || hKind ws == kScore) && mask != asked then [(5, asked, mask)] else []
  let d := wf ws 9 3 0
  a ++ (if 8 < d then [(9, d, 8)] else [])

/-- The words after the clamps. -/
def clampWords (ws : List W64) (cs : List (Nat × Nat × Nat)) : List W64 :=
  cs.foldl (fun ws c => ws.set c.1 (BitVec.ofNat 64 (if c.1 = 5 then setFld (wd ws 5) 7 0 c.2.2 else setFld (wd ws 9) 3 0 c.2.2))) ws

end Sys2Proof.Machine
end

