-- ==== Sys2Proof/Machine/Wire.lean ====
section
/-! DEFINITION. Messages as slots, routing and the links' send queues (14_fabric_mirroring.md R311 to R317), and the slots
of manifests that wait for responses. -/

namespace Sys2Proof.Machine

/-! ## Messages (R312, R313) -/

def opRead : Nat := 0x01
def opReadData : Nat := 0x02
def opWrite : Nat := 0x03
def opWriteAck : Nat := 0x04
def opAtomic : Nat := 0x05
def opAtomicData : Nat := 0x06
def opFlagSet : Nat := 0x08
def opArrive : Nat := 0x09
def opRelease : Nat := 0x0A
def opHeartbeat : Nat := 0x0B
def opCollReady : Nat := 0x0C
def opCollData : Nat := 0x10
def opDelta : Nat := 0x12
def opMirrorAck : Nat := 0x13
def opTakeover : Nat := 0x14

def respOk : Nat := 0
def respTarget : Nat := 1
def respNoRoute : Nat := 2
def respDenied : Nat := 3
def respLost : Nat := 4

/-- The sideband ops (R313). -/
def opSideband (op : Nat) : Bool := (8 ≤ op && op ≤ 12) || op == opTakeover

/-- The header slot (R312). -/
def Msg.header (x : Msg) : Nat :=
  x.dest % 2 ^ 16 * 2 ^ 112 + x.src % 2 ^ 16 * 2 ^ 96 + x.addr % 2 ^ 48 * 2 ^ 48 + x.tag % 2 ^ 12 * 2 ^ 36 +
    x.lenM1 % 16 * 2 ^ 32 + x.op % 64 * 2 ^ 26 + x.ctx % 16 * 2 ^ 22 + x.hops % 64 * 2 ^ 16 + x.resp % 256 * 2 ^ 8 +
    x.atom % 16 * 2 ^ 4 + x.resv % 16

/-- A data unit cut into 16-byte slots, each with the unit's poison (R301, R313). -/
def dataSlots (d : List Byte × Bool) : List LSlot :=
  (List.range ((d.1.length + 15) / 16)).map fun i => ⟨natOf ((d.1.drop (16 * i)).take 16), d.2⟩

/-- A message as slots. -/
def Msg.slots (x : Msg) : List LSlot := ⟨x.header, false⟩ :: x.data.flatMap dataSlots

/-- A message of this device with no data, tag or response. -/
def M.message (m : M) (dest op addr ctx : Nat) : Msg :=
  { dest, src := m.deviceId, addr, tag := 0, lenM1 := 0, op, ctx, hops := 63, resp := 0, atom := 0, resv := 0, data := [] }

/-! ## Routing (R316) -/

/-- STATE of a link (R292). -/
def M.linkState (m : M) (l : Nat) : Nat := m.objFld (0x6100 + l) 2 3 0
/-- A link takes messages: ACTIVE, and not draining (R307, R316). -/
def M.linkActive (m : M) (l : Nat) : Bool := m.linkState l == 4 && !(m.link l).draining

/-- The links of a mask that are ACTIVE. -/
def M.activeOf (m : M) (mask : Nat) : List Nat := (bitsSet mask 32).filter m.linkActive

/-- The next link after the last one taken, round-robin; the pointer moves on. -/
def M.nextLink (m : M) (key : Nat) (links : List Nat) : Option Nat × M :=
  let last := Tab.get m.dev.fab.robin 0 key
  match (links.find? fun l => last ≤ l).or links.head? with
  | none => (none, m)
  | some l => (some l, m.modFab fun f => { f with robin := Tab.put f.robin key (l + 1) })

/-- Posts a message on a link, in its class (R302, R330). -/
def M.post (m : M) (l : Nat) (owner : TxOwner) (x : Msg) : M :=
  let t : TxMsg := ⟨owner, x.slots⟩
  m.modLink l fun k =>
    if opSideband x.op then { k with txSb := k.txSb ++ [t] }
    else if x.op = opDelta || x.op = opMirrorAck then { k with txMirror := k.txMirror ++ [t] }
    else { k with txBulk := k.txBulk ++ [t] }

/-- Sends a message on a link of the routing table; false where no link of it is ACTIVE (R316). -/
def M.emit (m : M) (owner : TxOwner) (x : Msg) : Bool × M :=
  let r := m.nextLink x.dest (m.activeOf (m.obj (0x6600 + x.dest / 128) (x.dest % 128 + 1)))
  match r.1 with
  | none => (false, m)
  | some l => (true, r.2.post l owner x)

/-- The bundle links of the mirror pair (R328). -/
def M.bundle (m : M) : List Nat :=
  ((List.range 4).map fun k => m.objFld 0x6500 1 (32 + 5 * k) (28 + 5 * k)).foldl addOnce []

/-- Sends a mirror message over an ACTIVE bundle link, round-robin (R330). -/
def M.emitMirror (m : M) (owner : TxOwner) (x : Msg) : M :=
  let r := m.nextLink 0x10000 (m.bundle.filter m.linkActive)
  match r.1 with
  | none => m
  | some l => r.2.post l owner x

/-- A response, or its discard for want of a link (R316, 0x6520.02). -/
def M.respond (m : M) (x : Msg) : M :=
  let r := m.emit .none x
  if r.1 then r.2 else m.satObj 0x6520 2 31 0 1

/-! ## Slots of manifests that wait -/

def M.modRun (m : M) (c : Nat) (f : Slot → Slot) : M := m.modCore c fun k => { k with run := k.run.map f }
def M.modWait (m : M) (c : Nat) (f : Slot → Slot) : M := m.modCore c fun k => { k with wait := k.wait.map f }

/-- One of the requests a manifest waits for has completed (R315). -/
def Slot.answered (s : Slot) (resp : Nat) : Slot :=
  let n := s.pendingReqs - 1
  { s with pendingReqs := n, trCount := s.trCount + (if resp = 0 then 0 else 1)
           phase := if n = 0 && s.phase == .waiting then .done else s.phase }

/-- One record read at validation has completed: what it shows (R90). -/
def Slot.recordRead (s : Slot) (group resp : Nat) (data : List (List Byte × Bool)) : Slot :=
  let n := s.recWaits - 1
  let rec1 := natOf (data.flatMap (·.1))
  let bad := resp != 0
  let psn := data.any (·.2)
  let s := { s with recWaits := n, recBad := s.recBad + (if bad then 1 else 0) }
  let s : Slot :=
    if bad then s
    else if psn then { s with recPoison := true }
    else if recordOk rec1 then { s with scales := Tab.put s.scales group (bitsAt rec1 128 32) }
    else { s with fixed := some (7, rsRecord), reasonWord := 4 }
  if n = 0 && s.recBad != 0 then { s with fixed := some (7, rsRecord), reasonWord := 4, trCount := s.recBad } else s

end Sys2Proof.Machine
end

