-- ==== Sys2Proof/Machine/Flags.lean ====
section
/-! DEFINITION. Core flags, the SYNCs that wait on them, and barriers within and across devices (21_contexts_sync.md R473 to
R480). -/

namespace Sys2Proof.Machine

/-! ## Barriers and flags (R473 to R480) -/

/-- A SYNC that waits in its slot, with an operation and a property of its words. -/
def Slot.syncWaits (s : Slot) (p : List W64 → Bool) : Bool :=
  s.kind == kSync && s.phase == .waiting && s.stop.isNone && p s.words

def isWaitOn (f : Nat) (ws : List W64) : Bool := syncOp ws == 1 && wf ws 8 17 8 == f
def isBarrierOf (g : Nat) (ws : List W64) : Bool := (syncOp ws == 0 || syncOp ws == 3) && wf ws 8 7 4 == g
def isXBarrierOf (g : Nat) (ws : List W64) : Bool := syncOp ws == 3 && wf ws 8 7 4 == g

/-- Changes the SYNCs of one core that wait and meet `p`, parked ones included (R471). -/
def Core.mapWaiters (c : Core) (p : Slot → Bool) (f : Slot → Slot) : Core :=
  let go (s : Slot) : Slot := if p s then f s else s
  { c with
    run := c.run.map go
    ctxs := c.ctxs.map fun e => (e.1, { e.2 with parkedRun := e.2.parkedRun.map go }) }

/-- The same on every core. -/
def M.mapWaiters (m : M) (p : Slot → Bool) (f : Slot → Slot) : M :=
  { m with dev := { m.dev with cores := m.dev.cores.map fun e => (e.1, e.2.mapWaiters p f) } }

/-- The run slot and the parked slots of a core. -/
def Core.waiters (c : Core) : List Slot :=
  c.run.toList ++ c.ctxs.filterMap fun e => e.2.parkedRun

/-- Sets flag `f` of core `i` (R473): dropped where the core is absent (R154, R437); served at once to the earliest WAIT for
it; else set, or counted in OVERSET. Answers whether it was set. -/
def M.setFlag (m : M) (i f : Nat) : Bool × M :=
  if m.coreAbsent i then (false, m)
  else
    let ws := ((m.core i).waiters.filter fun s => s.syncWaits (isWaitOn f)).map (·.since)
    match ws with
    | w :: r =>
      let first := r.foldl min w
      (true, m.modCore i fun c => c.mapWaiters (fun s => s.syncWaits (isWaitOn f) && s.since == first)
        fun s => { s with phase := .done })
    | [] =>
      if (m.core i).flags.toNat.testBit f then (true, m.satObj 0x8062 (i + 1) 15 0 1)
      else (true, m.modCore i fun c => { c with flags := BitVec.ofNat 1024 (setBit c.flags.toNat f true) })

/-- A flag set whose drop is counted to its issuer (R154, 0x7012). -/
def M.setFlagFrom (m : M) (issuer i f : Nat) : M :=
  let r := m.setFlag i f
  if r.1 then r.2 else r.2.satObj 0x7012 (issuer + 1) 31 0 1

/-- The effective members of a barrier group, as a list of cores (R477). -/
def M.members (m : M) (g : Nat) : List Nat :=
  (bitsSet (m.objFld 0x8050 (g + 1) 23 0) 24).filter fun i => !m.fusedOff i && !m.fenced i && !m.gated i

/-- Every waiter of the group is released; GEN advances (R477, R480: `tr` for a failed round). -/
def M.releaseBarrier (m : M) (g : Nat) (tr : Bool) : M :=
  let m := m.mapWaiters (fun s => s.syncWaits (isBarrierOf g)) fun s =>
    { s with phase := .done, trCount := s.trCount + (if tr then 1 else 0) }
  let m := m.modFab fun f =>
    { f with arrivals := Tab.erase f.arrivals g, xlocal := f.xlocal.filter (· != g), xranks := Tab.erase f.xranks g }
  m.wrapObj 0x8050 (g + 1) 35 24 1

/-- ADDR of the barrier messages (R479). -/
def M.barrierAddr (m : M) (g rank : Nat) : Nat := g * 2 ^ 44 + m.objFld 0x8050 (g + 1) 35 24 * 2 ^ 32 + rank

/-- Rank 0 holds every arrival: it releases all (R479). -/
def M.judgeRanks (m : M) (g : Nat) : M :=
  let xg := m.objFld 0x8050 (g + 1) 43 40
  let n := m.collSize xg
  let have_ := Tab.get m.dev.fab.xranks [] g
  if (List.range n).all have_.contains then
    let addr := m.barrierAddr g 0
    let m' := ((List.range n).filter (· != 0)).foldl (fun (m : M) r =>
      (m.emit .none (m.message (m.collDevice xg r) opRelease addr 0)).2) m
    m'.releaseBarrier g false
  else m

/-- Judges a group at a change of its arrivals or members (R478): releases it, or begins the cross-device round (R479). -/
def M.judgeBarrier (m : M) (g : Nat) : M :=
  let a := Tab.get m.dev.fab.arrivals 0 g
  if a = 0 || m.dev.fab.xlocal.contains g || !((m.members g).all fun i => a.testBit i) then m
  else if (List.range 24).any fun i => (m.core i).waiters.any fun s => s.syncWaits (isXBarrierOf g) then
    let xg := m.objFld 0x8050 (g + 1) 43 40
    let m := m.modFab fun f => { f with xlocal := addOnce f.xlocal g }
    match m.collRank xg with
    | some 0 => (m.modFab fun f => { f with xranks := Tab.put f.xranks g (addOnce (Tab.get f.xranks [] g) 0) }).judgeRanks g
    | some r =>
      let e := m.emit (.barrier g) (m.message (m.collDevice xg 0) opArrive (m.barrierAddr g r) 0)
      if e.1 then e.2 else e.2.releaseBarrier g true
    | none => m.releaseBarrier g true
  else m.releaseBarrier g false

/-- Judges every group, where a core has left or joined the effective set (R478). -/
def M.judgeBarriers (m : M) : M := (List.range 16).foldl (fun (m : M) g => m.judgeBarrier g) m

/-- A waiting member withdraws its arrival before release (R478). -/
def M.withdraw (m : M) (i : Nat) (ws : List W64) : M :=
  let g := wf ws 8 7 4
  if m.dev.fab.xlocal.contains g then m
  else (m.modFab fun f => { f with arrivals := Tab.put f.arrivals g (setBit (Tab.get f.arrivals 0 g) i false) }).judgeBarrier g

end Sys2Proof.Machine
end

