-- ==== Sys2Proof/Machine/Requests.lean ====
section
/-! DEFINITION. Outstanding requests: issue, completion, loss (14_fabric_mirroring.md R320, R327, R330; 13 R307). -/

namespace Sys2Proof.Machine

/-! ## Mirror ranges on a secondary (R334) -/

def M.mirrorRole (m : M) : Nat := m.objFld 0x6500 1 25 24
def M.mirrorState (m : M) : Nat := m.objFld 0x6500 4 3 0
/-- A local address lies in a mirror range (0x6510). -/
def M.inMirror (m : M) (a : Nat) : Bool :=
  (List.range 16).any fun k =>
    let v := m.obj 0x6510 (k + 1)
    fld v 47 0 ≤ a && a < fld v 47 0 + fld v 95 48

/-- The Bazaar line at `line` is read once and delivered (R112, R114). -/
def M.deliverLine (m : M) (line : Nat) (cores : List Nat) : M :=
  m.send (.bazaarLine line cores (m.bytes line 256) ((List.range 4).map fun q => m.marked (line + 64 * q)))

/-- A write closes every open Bazaar window on its lines first; those who joined get the lines as they were (R113). -/
def M.closeWindows (m : M) (a n : Nat) : M :=
  let hit (w : Window) : Bool := a < w.line + 256 && w.line < a + n
  let m := (m.dev.windows.filter hit).foldl (fun (m : M) w => m.deliverLine w.line w.joined) m
  { m with dev := { m.dev with windows := m.dev.windows.filter fun w => !hit w } }

/-- Stores bytes at a local address for device `src`: on a secondary, lines of a mirror range are discarded and the fault
log says so (R334). -/
def M.putLocal (m : M) (src a : Nat) (ds : List (Option Byte × Bool)) : M :=
  let m := m.closeWindows a ds.length
  if m.mirrorRole = 2 && (linesOf a ds.length).any m.inMirror then
    let kept := ds.zipIdx.map fun d => if m.inMirror (a + d.2) then (none, false) else d.1
    let first := ((linesOf a ds.length).find? m.inMirror).getD a
    (m.storeMask a kept).logFault 0x6003 src (max a first) 0 clkMgmt
  else m.storeMask a ds

/-! ## Requests (R320) -/

/-- A collective fails: its manifest ends TARGET_RESET (R327). -/
def M.collFail (m : M) (c : Nat) : M :=
  let m := m.modFab fun f => { f with colls := Tab.erase f.colls c }
  m.modRun c fun s => if s.kind == kExchange && s.phase == .waiting then { s with trCount := s.trCount + 1, phase := .done } else s

/-- A request completes with a RESP other than OK. -/
def M.completeBad (m : M) (iss : Issuer) (resp : Nat) : M :=
  match iss with
  | .manifest c => m.modRun c fun s => s.answered resp
  | .amaxRead c g => m.modWait c fun s => s.recordRead g resp []
  | .amaxMerge c => m.modRun c fun s => s.answered resp
  | .amaxClose c _ => m.modRun c fun s => s.answered resp
  | .signal c => m.modRun c fun s => s.answered resp
  | .coll c => m.collFail c
  | .barrier g => m.releaseBarrier g true
  | .mirror => m

/-- A tag that is not outstanding, from `t` on. -/
def freeTag (out : Tab Outstanding) : Nat → Nat → Option Nat
  | 0, _ => none
  | n + 1, t => if (Tab.find? out (t % 4096)).isNone then some (t % 4096) else freeTag out n (t + 1)

/-- Issues a request: with a free tag it leaves, or completes NO_ROUTE; without one it waits at its issuer (R320). -/
def M.request (m : M) (iss : Issuer) (x : Msg) (into : Nat) : M :=
  match freeTag m.dev.fab.outstanding 4096 m.dev.fab.nextTag with
  | none => m.modFab fun f => { f with waiting := f.waiting ++ [(iss, x, into)] }
  | some t =>
    let e := m.emit (.tag t) { x with tag := t }
    if e.1 then
      e.2.modFab fun f => { f with
        nextTag := (t + 1) % 4096
        outstanding := Tab.put f.outstanding t
          { issuer := iss, dest := x.dest, op := x.op, addr := x.addr, units := x.lenM1 + 1, into, lost := false } }
    else e.2.completeBad iss respNoRoute

/-- Requests that waited for a tag go out while tags are free. -/
def M.pump : Nat → M → M
  | 0, m => m
  | n + 1, m =>
    match m.dev.fab.waiting with
    | [] => m
    | (iss, x, into) :: r =>
      if (freeTag m.dev.fab.outstanding 4096 m.dev.fab.nextTag).isNone then m
      else M.pump n ((m.modFab fun f => { f with waiting := r }).request iss x into)

/-- Cuts data with marks into 64-byte units. -/
def unitsOf (ds : List (Byte × Bool)) : List (List Byte × Bool) :=
  (List.range ((ds.length + 63) / 64)).map fun i =>
    let u := (ds.drop (64 * i)).take 64
    (u.map (·.1), u.any (·.2))

/-- Bytes of units, each with its unit's mark. -/
def flatUnits (us : List (List Byte × Bool)) : List (Byte × Bool) := us.flatMap fun u => u.1.map fun b => (b, u.2)

/-- Bytes with marks at a local address. -/
def M.readP (m : M) (a n : Nat) : List (Byte × Bool) := (List.range n).map fun i => m.rd (a + i)

/-- Source bytes of a transposing MOVE that came from another device go to their places in the transposed tile (R174).
`place` = (256 × iteration + row) × 2¹⁶ + first byte within the row. -/
def M.putTransposed (m : M) (c place : Nat) (ds : List (Byte × Bool)) : M :=
  match (m.core c).run with
  | none => m
  | some s =>
    let es := mvSize s.words
    let k := place / 2 ^ 24
    let r := place / 2 ^ 16 % 256
    let base := wsBase c + regAddr s.words 1 k
    ds.zipIdx.foldl (fun (m : M) d =>
      let x := place % 2 ^ 16 + d.2
      m.putLocal m.deviceId (base + x / es * mvP s.words + r * es + x % es) [(some d.1.1, d.1.2)]) m

/-- A request completes OK with its data. -/
def M.completeOk (m : M) (iss : Issuer) (o : Outstanding) (data : List (List Byte × Bool)) : M :=
  let own := m.deviceId
  match iss with
  | .manifest c =>
    if o.op = opRead then
      let bad := (data.filter (·.2)).length
      let m := m.modRun c fun s => { s with poisonCount := s.poisonCount + bad }
      if 2 ^ 64 ≤ o.into then (m.putTransposed c (o.into - 2 ^ 64) (flatUnits data)).modRun c fun s => s.answered 0
      else if o.into / 2 ^ 48 = own then
        let units := linesOf (o.into % 2 ^ 48) (64 * data.length)
        let r := (units.zip data).foldl (fun (a : M × Nat) u =>
          if a.1.reach (some c) u.1 then (a.1.putLocal own u.1 (u.2.1.map fun b => (some b, u.2.2)), a.2) else (a.1, a.2 + 1)) (m, 0)
        r.1.modRun c fun s => { s with trCount := s.trCount + r.2 }.answered 0
      else m.request (.manifest c) { m.message (o.into / 2 ^ 48) opWrite (o.into % 2 ^ 48) 0 with
        lenM1 := data.length - 1, data := data } 0
    else m.modRun c fun s => s.answered 0
  | .amaxRead c g => m.modWait c fun s => s.recordRead g 0 data
  | .amaxMerge c => m.modRun c fun s => s.answered 0
  | .amaxClose c _ =>
    if data.any (·.2) then m.modRun c fun s => s.answered 0
    else
      let closed := bytesOf (recordClose (natOf (data.flatMap (·.1)))) 320
      m.request (.amaxMerge c) { m.message o.dest opWrite o.addr 0 with
        lenM1 := 4, data := unitsOf (closed.map fun b => (b, false)) } 0
  | .signal c => m.modRun c fun s => s.answered 0
  | _ => m

/-- A response to tag `t` (R320): the request completes; a tag that is not outstanding counts as stray. -/
def M.response (m : M) (t resp : Nat) (data : List (List Byte × Bool)) : M :=
  match Tab.find? m.dev.fab.outstanding t with
  | none => m.satObj 0x6520 3 31 0 1
  | some o =>
    if o.lost then m.satObj 0x6520 3 31 0 1
    else
      let m := m.modFab fun f => { f with outstanding := Tab.erase f.outstanding t }
      let m := if resp = 0 then m.completeOk o.issuer o data else m.completeBad o.issuer resp
      m.pump m.dev.fab.waiting.length

/-- The request of tag `t` completes LOST; the tag rests (R320). -/
def M.loseTag (m : M) (t : Nat) : M :=
  match Tab.find? m.dev.fab.outstanding t with
  | none => m
  | some o =>
    if o.lost then m
    else (m.modFab fun f => { f with outstanding := Tab.put f.outstanding t { o with lost := true } }).completeBad o.issuer respLost

/-- The part of a delta as a message (R330). -/
def M.deltaMsg (m : M) (d : Delta) : Msg :=
  { m.message (m.objFld 0x6500 1 63 48) opDelta d.addr d.ctx with
    lenM1 := d.data.length - 1
    data := (bytesOf (d.mseq % 2 ^ 48 * 2 ^ 80 + d.addr % 2 ^ 48 * 2 ^ 32 + d.part * 2 ^ 28 + d.core * 2 ^ 23 + d.ctx * 2 ^ 19 +
      d.last.toNat * 2 ^ 18 + d.first.toNat * 2 ^ 17) 16, false) :: d.data }

/-- What a lost message means to its owner (R307, R320, R327, R330, R480). -/
def M.loseOwner (m : M) (o : TxOwner) : M :=
  match o with
  | .tag t => m.loseTag t
  | .coll c => m.collFail c
  | .barrier g => m.releaseBarrier g true
  | .mirror q =>
    match m.dev.mirror.unacked.find? fun d => d.mseq == q with
    | some d => m.emitMirror (.mirror q) (m.deltaMsg d)
    | none => m
  | .none => m

end Sys2Proof.Machine
end

