-- ==== Sys2Proof/Machine/Operands.lean ====
section
/-! DEFINITION. How a running manifest reads its operands and writes its outputs: spaces (R158), accesses that meet
TARGET_RESET (R344, R183), staged lines (R148), rounded rows with their amax statistics (R80, R91, R93), exchange words
(R61), Cistern entries (R254, R256). -/

namespace Sys2Proof.Machine

/-! ## A manifest at work -/

/-- What a manifest works on: the device, its core, its slot. -/
structure Job where
  m : M
  core : Nat
  s : Slot

/-- Local address of register `i` in iteration `k` (R158). -/
def Job.reg (j : Job) (i k : Nat) : Nat :=
  let a := regAddr j.s.words i k
  match regSpace j.s.words i with
  | 1 => wsBase j.core + a
  | 2 => a % 2 ^ 48
  | _ => a

/-- A line that its requester cannot reach reads a free value (log entry 18). -/
def freeLineByte (fresh a : Nat) : Byte :=
  BitVec.ofNat 8 ((Config.freeValue (fresh + 2 ^ 64 * (a / 64 + 1)) 512).toNat / 2 ^ (8 * (a % 64)))

/-- Reads as the core's units read: a staged line in place of its source (R148), then memory. -/
def Job.rd (j : Job) : Rd := fun a =>
  match (j.m.core j.core).outrider.staged.find? fun t => t.line == lineOf a with
  | some t => (t.data.getD (a % 64) 0, t.poison)
  | none => if j.m.reach (some j.core) a then j.m.rd a else (freeLineByte j.m.dev.fresh a, false)

/-- Lines of a range that the core cannot reach. -/
def Job.missing (j : Job) (a n : Nat) : Nat :=
  ((linesOf a n).filter fun l => !j.m.reach (some j.core) (max l a)).length

def Job.tr (j : Job) (n : Nat) : Job := { j with s := { j.s with trCount := j.s.trCount + n } }
/-- Counts the accesses of a read that meet TARGET_RESET (R137). -/
def Job.touch (j : Job) (a n : Nat) : Job := j.tr (j.missing a n)
def Job.poison (j : Job) (n : Nat) : Job := { j with s := { j.s with poisonCount := j.s.poisonCount + n } }
def Job.exc (j : Job) (n : Nat) : Job := { j with s := { j.s with excCount := j.s.excCount + n } }

/-- Writes bytes with marks at local addresses, one 64-byte line at a time; a line that cannot be reached is counted and not
written. -/
def Job.write (j : Job) (a : Nat) (ds : List (Byte × Bool)) : Job :=
  (linesOf a ds.length).foldl (fun (j : Job) l =>
    let lo := max l a
    let part := (ds.drop (lo - a)).take (l + 64 - lo)
    if j.m.reach (some j.core) lo then
      { j with m := j.m.putLocal j.m.deviceId lo (part.map fun d => (some d.1, d.2)) }
    else j.tr 1) j

/-- Writes bytes through an address map that keeps 64-byte units together (R185). -/
def Job.writeMap (j : Job) (amap : Nat → Nat) (a : Nat) (ds : List (Byte × Bool)) : Job :=
  (linesOf a ds.length).foldl (fun (j : Job) l =>
    let lo := max l a
    j.write (amap lo) ((ds.drop (lo - a)).take (l + 64 - lo))) j

/-! ## Rounded outputs (R80, R91, R93) -/

/-- Group of an output (R93). -/
def groupOfOut (ws : List W64) (e : Nat) : Nat := if calGrouped ws then e / 2 ^ hGroupLog ws else 0

/-- Destination tensor scale of a group: the record's SCALE under USE_SCALE, else the operand's (R87, R90). -/
def Slot.destScale (s : Slot) (own : Frac) (g : Nat) : Frac :=
  if calUse s.words && !s.recPoison then (ofBits32 (Tab.get s.scales 0x3F800000 g)).frac else own

/-- A row of outputs cut where its groups change: first output index and values of each part. -/
def splitGroups (ws : List W64) (e0 : Nat) (vs : List Elem) : List (Nat × List Elem) :=
  if vs.isEmpty then []
  else
    let g0 := groupOfOut ws e0
    let g1 := groupOfOut ws (e0 + vs.length - 1)
    (List.range (g1 - g0 + 1)).map fun q =>
      let lo := if q = 0 then e0 else (g0 + q) * 2 ^ hGroupLog ws
      let hi := if g0 + q = g1 then e0 + vs.length else (g0 + q + 1) * 2 ^ hGroupLog ws
      (lo, (vs.drop (lo - e0)).take (hi - lo))

/-- Adds the statistics of written outputs to a group's merge (R91). -/
def Slot.mergeOut (s : Slot) (g : Nat) (vs : List Elem) (clips : List Bool) : Slot :=
  if !calMerge s.words || s.recPoison then s
  else
    let a := (vs.zip clips).foldl (fun (a : AmaxAcc) v => a.add v.1 v.2) {}
    let old := Tab.get s.merges ⟨0, 0, false⟩ g
    let new : Merge :=
      ⟨max old.amax (Val.fin false (ceilF32 a.amax)).bits32, old.clips + a.clips, old.nonfin || a.nonfin⟩
    { s with merges := Tab.put s.merges g new }

/-- Rounds one row of outputs and hands its element and scale bytes on: codes in order, scale bytes in order. -/
def Job.roundRow (j : Job) (f : Fmt) (own : Frac) (e0 : Nat) (vs : List Elem) : Job × List (Nat × Bool) × List Nat :=
  let ws := j.s.words
  let vs := if j.s.recPoison then vs.map fun v => ⟨v.val, true⟩ else vs
  let cx := j.m.ctx j.core j.s.ctx
  let draw := fun e => if stochastic ws then cx.draw e else 0
  (splitGroups ws e0 vs).foldl (fun (acc : Job × List (Nat × Bool) × List Nat) p =>
    let g := groupOfOut ws p.1
    let r := quantRow f (ctlOf ws) (calFloor ws) (acc.1.s.destScale own g) draw p.1 p.2
    let j := { acc.1 with s := acc.1.s.mergeOut g p.2 r.clips }
    let j := (j.exc r.exc).poison (p.2.filter (·.poison)).length
    (j, acc.2.1 ++ r.codes, acc.2.2 ++ r.scales)) (j, [], [])

/-- Rounds and writes one row: elements at `ea`, scales at `sa`, through an address map. -/
def Job.outRowMap (j : Job) (amap : Nat → Nat) (f : Fmt) (own : Frac) (e0 : Nat) (vs : List Elem) (ea sa : Nat) : Job :=
  let r := j.roundRow f own e0 vs
  let j := r.1.writeMap amap ea (packPlane f r.2.1)
  if f.scaled then j.writeMap amap sa (r.2.2.map fun b => (BitVec.ofNat 8 b, false)) else j

def Job.outRow (j : Job) (f : Fmt) (own : Frac) (e0 : Nat) (vs : List Elem) (ea sa : Nat) : Job :=
  j.outRowMap id f own e0 vs ea sa

/-- Writes an exchange word (R61); a poisoned one counts and marks its line. -/
def Job.outWord (j : Job) (a : Nat) (l : LA) : Job :=
  (j.poison l.poison.toNat).write a ((bytesOf l.toWord 16).map fun b => (b, l.poison))

/-- An operand row as elements under its block scale, tensor scale `t` multiplied in exactly (R80). -/
def scaledRow (rd : Rd) (f : Fmt) (t : Frac) (a sa l : Nat) : List Elem :=
  (readOperand rd f a sa l).map fun x => ⟨Val.mul x.val (.fin false t), x.poison⟩

/-- The same, each value rounded to binary32 as the vector unit takes it (R229). -/
def vectorRow (rd : Rd) (f : Fmt) (t : Frac) (a sa l : Nat) : List Elem :=
  (scaledRow rd f t a sa l).map fun e => e.map Val.toF32

/-- Sets the context's generator at the start of a manifest that rounds stochastically (R71). -/
def Job.seed (j : Job) : Job :=
  if stochastic j.s.words && roundsOutput j.s.words then
    { j with m := j.m.modCtx j.core j.s.ctx fun r =>
        { r with keyLo := j.s.words.getD 2 0, keyHi := j.s.words.getD 3 0 } }
  else j

/-! ## The Cistern (R254 to R259) -/

/-- Entry `e` of core `i`'s Cistern and its mark. -/
def M.cis (m : M) (i e : Nat) : Nat × Bool := (Tab.get (m.core i).cistern 0 e, (m.core i).cisPoison.contains e)

def M.setCis (m : M) (i e v : Nat) (p : Bool) : M :=
  m.modCore i fun c => { c with
    cistern := if v = 0 then Tab.erase c.cistern e else Tab.put c.cistern e v
    cisPoison := if p then addOnce c.cisPoison e else c.cisPoison.filter (· != e) }

/-- Every entry is +0 and clean. -/
def M.clearCis (m : M) (i : Nat) : M := m.modCore i fun c => { c with cistern := [], cisPoison := [] }

/-- The exact sum rounded to binary64, and whether it overflowed (R256). -/
def cisAdd (entry : Val) (v : Val) : Nat × Bool :=
  match Val.add entry v with
  | .nan _ _ => (0x7FF8000000000000, false)
  | .inf n => ((Val.inf n).bits64, false)
  | .fin n q =>
    let r := parF64.roundVal (.fin n q)
    (if r.isZero then 0 else r.bits64, r.isInf)

/-- Adds an output into an entry (R256). -/
def Job.cisAdd (j : Job) (e : Nat) (v : Elem) : Job :=
  let old := j.m.cis j.core e
  if old.2 || v.poison then
    ({ j with m := j.m.setCis j.core e 0x7FF8000000000000 true } : Job).poison 1
  else
    let r := Machine.cisAdd (ofBits64 old.1) v.val
    ({ j with m := j.m.setCis j.core e r.1 false } : Job).exc r.2.toNat

end Sys2Proof.Machine
end

