-- ==== Sys2Proof/Machine/Chain.lean ====
section
/-! DEFINITION. Chains of a core: their start, stop, records and commits (06_manifest_execution.md R119 to R146; 15 R349;
23 R500, R501; 14 R329 to R331; 20 R455, R456; 21 R464). -/

namespace Sys2Proof.Machine

/-! ## Views and small changes -/

/-- STATE of CORE.STATUS (R123, R501). -/
def M.coreState (m : M) (i : Nat) : Nat :=
  let c := m.core i
  if m.fenced i then 4
  else if c.disabling.isSome then 3
  else if c.active.toNat &&& (0xFFFF - c.halted.toNat) != 0 then 1
  else if c.halted != 0 then 2
  else 0

def setBit16 (v : BitVec 16) (c : Nat) (b : Bool) : BitVec 16 := BitVec.ofNat 16 (setBit v.toNat c b)
def bit16 (v : BitVec 16) (c : Nat) : Bool := v.toNat.testBit c

/-- The Outrider's staged lines are discarded and it starts anew (R150). -/
def M.discardStaged (m : M) (i : Nat) : M := m.modCore i fun c => { c with outrider := Outrider.idle }

/-- Both slots are empty in the sense of R126, R469. -/
def Core.empty (c : Core) : Bool := c.run.isNone && c.ready.isNone && c.wait.isNone

/-- A context's chain is due to be on the drover: active, not halted, not waiting in a park (R469, R471, R501). -/
def Core.eligible (c : Core) (x : Nat) : Bool :=
  bit16 c.active x && !bit16 c.halted x && ((c.ctx x).parkedRun.isNone || (c.ctx x).parkReady)

/-- The eligible context after the current one, wrapping round (R469); the current one is last. -/
def Core.nextContext (c : Core) : Option Nat :=
  ((List.range 16).map fun k => (c.current + 1 + k) % 16).find? c.eligible

/-- Puts context `x` on the drover: its parked manifests resume, or its next manifest is fetched (R470, R471). -/
def M.enter (m : M) (i x : Nat) : M :=
  m.modCore i fun c =>
    let r := c.ctx x
    let c := { c with current := x, quantumUp := false, outrider := Outrider.idle, ripple := none }
    match r.parkedRun with
    | some s => { c.setCtx x { r with parkedRun := none, parkedReady := none, parkReady := false } with
        run := some s, ready := r.parkedReady }
    | none => { c with fetch := if r.nextPtr = 0 then none else some r.nextPtr.toNat }

/-- START_ERR of a context is set; vector 391 (R120, R348). -/
def M.startErr (m : M) (i x : Nat) : M :=
  (m.modCore i fun c => { c with startErr := setBit16 c.startErr x true }).raise 391

/-! ## Completion interrupts (R349, R350) -/

/-- Accounts a record written for core `i`, context `x`, and raises the vector where HOST.IRQ_MODE asks for it. -/
def M.completion (m : M) (i x : Nat) (stopped : Bool) : M :=
  let k := 16 * i + x
  let e := Tab.get m.dev.host.irqMode 0 k
  let n := min (fld e 47 32 + 1) 0xFFFF
  let mode := fld e 1 0
  let fire := mode != 0 && (stopped || (mode == 2 && fld e 31 16 < n))
  let m := m.modHost fun h => { h with irqMode := Tab.put h.irqMode k (setFld e 47 32 (if fire then 0 else n)) }
  if fire then m.raise k else m

/-! ## Ends of chains -/

/-- The Cistern loses its owner and is to be cleared (R255). -/
def M.releaseCistern (m : M) (i : Nat) : M :=
  (m.setObjFld 0x8040 (i + 1) 4 4 0).modCore i fun c => { c with cisPending := true }

/-- A context being closed has no manifest left on the core: it is closed (R464). -/
def M.closeIfDrained (m : M) (i x : Nat) : M :=
  let c := m.core i
  if bit16 c.closing x && !(c.current == x && !(c.run.isNone && c.ready.isNone)) then
    let m := if m.ownsCistern i x then m.releaseCistern i else m
    (m.setObjBit 0x8001 (i + 1) x false).modCore i fun c => { c with closing := setBit16 c.closing x false }
  else m

/-- The chain of context `x` goes idle. -/
def M.endChain (m : M) (i x : Nat) : M :=
  let m := m.modCore i fun c =>
    let c := { c with active := setBit16 c.active x false, halted := setBit16 c.halted x false }
    if c.current = x then { c with fetch := none, wait := none, outrider := Outrider.idle, ripple := none } else c
  m.closeIfDrained i x

/-! ## Records (R135, R137) -/

/-- STATUS and REASON a manifest ends with (R138, R139). -/
def Slot.ending (s : Slot) : Nat × Nat :=
  match s.fixed, s.stop with
  | some f, none => f
  | _, some .hostAbort => (5, rsHostAbort)
  | _, some .drain => (6, rsDrain)
  | none, none => (if s.trCount != 0 then 4 else if s.poisonCount != 0 then 3 else if s.clampCount != 0 then 2 else 1, 0)

/-- The finished statuses (R138). -/
def finishedStatus (st : Nat) : Bool := 1 ≤ st && st ≤ 4

/-- Does a status stop the chain (R138, R146)? -/
def M.stopsChain (m : M) (i : Nat) (s : Slot) (st : Nat) : Bool :=
  4 ≤ st || (st == 3 && ((m.core i).ctrl.toNat.testBit 1 || s.kind == kBranch))

/-- The pointer the drover would follow (R138, R145). -/
def Slot.follows (s : Slot) (st : Nat) : Nat :=
  if st = 7 || st = 8 then s.addr else s.target.getD (hNext s.words)

/-- The 512-bit record (R137). -/
def Slot.form (s : Slot) (i st reason next seq count : Nat) : Nat :=
  s.addr % 2 ^ 64 * 2 ^ 448 + next % 2 ^ 64 * 2 ^ 384 + s.clampMap % 2 ^ 64 * 2 ^ 320 + s.clampApp % 2 ^ 32 * 2 ^ 288 +
    s.clampReq % 2 ^ 32 * 2 ^ 256 + (if finishedStatus st || st = 5 || st = 6 then s.progress else 0) % 2 ^ 48 * 2 ^ 208 +
    min s.trCount 0xFFFF * 2 ^ 192 + min s.poisonCount 0xFFFFFFFF * 2 ^ 160 + min s.excCount 0xFFFF * 2 ^ 144 +
    seq % 2 ^ 48 * 2 ^ 96 + count % 2 ^ 32 * 2 ^ 64 + (0x40 + i) * 2 ^ 56 + min s.clampCount 255 * 2 ^ 48 +
    s.clampWord % 64 * 2 ^ 42 + s.reasonWord % 64 * 2 ^ 36 + reason % 256 * 2 ^ 28 + s.ctx % 16 * 2 ^ 24 +
    s.kind % 16 * 2 ^ 20 + 2 ^ 16 + s.branchDefault.toNat * 2 ^ 15 + st % 256

/-- Local address of record slot `h` of a context's ring (R135). -/
def CtxRegs.slotAddr (r : CtxRegs) (h : Nat) : Nat :=
  (r.recordBase.toNat + 64 * (h % max r.recordSlots.toNat 1)) % 2 ^ 48

/-! ## Amax merges and closes at commit (R91, R92) -/

/-- The named records are on this device. -/
def M.recordsHere (m : M) (ws : List W64) : Bool := hRecord ws / 2 ^ 48 == m.deviceId

/-- Merge and close of a local record; a merge into a poisoned record is lost (R322). Answers whether it was reached. -/
def M.recordUpdate (m : M) (i a : Nat) (merge : Option Merge) (close : Bool) : Bool × M :=
  if !m.reachAll (some i) a 320 then (false, m)
  else if m.anyMark a 320 then (true, m)
  else
    let r := m.num a 320
    let r := match merge with
      | some g => recordMerge r ⟨(ofBits32 g.amax).frac, g.clips, g.nonfin⟩
      | none => r
    (true, m.putLocal m.deviceId a ((bytesOf (if close then recordClose r else r) 320).map fun b => (some b, false)))

/-- Groups a manifest updates, with what it merges into each. -/
def Slot.updates (s : Slot) : List (Nat × Option Merge) :=
  if s.recPoison then []
  else if calClose s.words then (List.range (recordCount s.words)).map fun g =>
    (g, if calMerge s.words then Tab.find? s.merges g else none)
  else if calMerge s.words then s.merges.map fun e => (e.1, some e.2) else []

/-- The merges and closes of records on this device. -/
def M.updateHere (m : M) (i : Nat) (s : Slot) : M × Slot :=
  s.updates.foldl (fun (acc : M × Slot) u =>
    let r := acc.1.recordUpdate i (hRecord s.words % 2 ^ 48 + 320 * u.1) u.2 (calClose s.words)
    (r.2, if r.1 then acc.2 else { acc.2 with trCount := acc.2.trCount + 1 })) (m, s)

/-- The atomics of a merge into a record on another device (R91, R322): address, ATOM and operand of each. -/
def mergeAtomics (a : Nat) (g : Merge) : List (Nat × Nat × Nat) :=
  [(a + 8, 3, g.amax), (a + 12, 4, min g.clips 0xFFFFFFFF), (a + 4, 5, g.nonfin.toNat)]

/-- Sends the merges of records on another device; the commit waits for the answers. -/
def M.sendMerges (m : M) (i : Nat) (s : Slot) : M :=
  let dev := hRecord s.words / 2 ^ 48
  let all := s.updates.flatMap fun u => match u.2 with
    | some g => mergeAtomics (hRecord s.words % 2 ^ 48 + 320 * u.1) g
    | none => []
  let m := m.modRun i fun s => { s with commitStep := 1, pendingReqs := all.length, phase := if all.isEmpty then .done else .waiting }
  all.foldl (fun (m : M) x =>
    m.request (.amaxMerge i) { m.message dev opAtomic x.1 s.ctx with atom := x.2.1, data := [(bytesOf x.2.2 16, false)] } 0) m

/-- Reads the records on another device that the manifest closes; each answer is written back closed. -/
def M.sendCloses (m : M) (i : Nat) (s : Slot) : M :=
  let dev := hRecord s.words / 2 ^ 48
  let gs := if calClose s.words then s.updates.map (·.1) else []
  let m := m.modRun i fun s => { s with commitStep := 2, pendingReqs := gs.length, phase := if gs.isEmpty then .done else .waiting }
  gs.foldl (fun (m : M) g =>
    m.request (.amaxClose i g) { m.message dev opRead (hRecord s.words % 2 ^ 48 + 320 * g) s.ctx with lenM1 := 4 } 0) m

/-! ## Effects a kind has at its commit -/

/-- Key of a table of a context: 4 × kind + number. -/
def tableKey (ws : List W64) : Nat := 4 * tbKind ws + tbId ws

/-- TABLE_LOAD swaps its shadow in (R180); GRADIENT_FOLD clears its tiles (R259); a local SIGNAL sets its flag (R473). -/
def M.kindCommit (m : M) (i : Nat) (s : Slot) : M × Slot :=
  let ws := s.words
  if s.kind = kTable then
    (m.modCtx i s.ctx fun r => { r with
      tables := Tab.put r.tables (tableKey ws) (Tab.get r.shadow [] (tableKey ws)), shadow := Tab.erase r.shadow (tableKey ws) },
      { s with progress := 1 })
  else if s.kind = kCheckpoint then (m, { s with progress := 1 })
  else if s.kind = kFold && wb ws 8 19 then
    let lo := 16384 * gfFirst ws
    let hi := lo + 16384 * gfCount ws
    (m.modCore i fun c => { c with
      cistern := c.cistern.filter fun e => !(lo ≤ e.1 && e.1 < hi)
      cisPoison := c.cisPoison.filter fun e => !(lo ≤ e && e < hi) }, s)
  else if s.kind = kSync && syncOp ws = 2 && wf ws 8 39 24 = m.deviceId then
    let r := m.setFlag (wf ws 8 22 18) (wf ws 8 17 8)
    if r.1 then (r.2, s) else (r.2.satObj 0x7012 (i + 1) 31 0 1, { s with trCount := s.trCount + 1 })
  else (m, s)

/-! ## The mirror (R329 to R331) -/

/-- A primary that sends deltas and holds commits for context `x`. -/
def M.mirroring (m : M) (x : Nat) : Bool :=
  m.mirrorRole == 1 && (m.obj 0x6500 1).testBit x && 1 ≤ m.mirrorState && m.mirrorState ≤ 3

/-- Sends one part with the next MSEQ. -/
def M.sendPart (m : M) (part addr core x : Nat) (first last : Bool) (data : List (List Byte × Bool)) : M :=
  let q := m.dev.mirror.nextMseq + 1
  let d : Delta := { mseq := q, part, addr, core, ctx := x, first, last, data }
  (m.modMirror fun r => { r with nextMseq := q, unacked := r.unacked ++ [d] }).emitMirror (.mirror q) (m.deltaMsg d)

/-- The image of a context's registers (R329): R119's six in their order, then ACTIVE. -/
def M.imageOf (m : M) (i x : Nat) : List Byte :=
  let r := m.ctx i x
  pduBytes [r.programBase.toNat, r.recordBase.toNat, r.recordSlots.toNat, r.recordHead.toNat, r.recordTail.toNat,
    r.nextPtr.toNat, (bit16 (m.core i).active x).toNat, 0]

/-- Lines that a KV_APPEND wrote, rising and once each. -/
def kvLines (ws : List W64) : List Nat :=
  (List.range (totalIters ws)).foldl (fun l k =>
    (linesOf (regAddr ws 1 k) (ebAt ws 11 (kvL ws)) ++ linesOf (regAddr ws 2 k) (sbAt ws 11 (kvL ws))).foldl addOnce l) []

/-- Sends the delta of a commit, its record last; answers the MSEQ of the record part. -/
def M.sendDelta (m : M) (i : Nat) (s : Slot) (record : Nat) : Nat × M :=
  let m := if s.kind = kKv then (kvLines s.words).foldl (fun (m : M) l =>
      m.sendPart 0 l i s.ctx false false [(m.bytes l 64, m.marked l)]) m else m
  let m := m.sendPart 1 0 i s.ctx false false [(m.imageOf i s.ctx, false)]
  let m := m.sendPart 2 0 i s.ctx false false [(bytesOf record 64, false)]
  (m.dev.mirror.nextMseq, m)

/-! ## Ends of manifests -/

/-- The record is written and everything that follows it happens: done_flag (R154), counts (R131), abort report (R141), and
the chain goes on, halts or stops (R138, R500). `parked`: the manifest stood in a parked context. -/
def M.finishCommit (m : M) (i : Nat) (s : Slot) (record : Nat) (parked : Bool) : M :=
  let e := s.ending
  let x := s.ctx
  let a := (m.ctx i x).slotAddr (s.recNo.getD 0)
  let m := if m.reach (some i) a then m.putLocal m.deviceId a ((bytesOf record 64).map fun b => (some b, false)) else m
  let m := if finishedStatus e.1 && hDoneEn s.words then m.setFlagFrom i (hDoneCore s.words) (hDoneFlag s.words) else m
  let m := if e.1 = 7 then m.satObj 0x7011 (i + 1) 31 0 1 else if e.1 = 8 then m.satObj 0x7010 (i + 1) 31 0 1 else m
  let next := s.follows e.1
  let m := m.modCtx i x fun r => { r with lastCommit := some s.addr, nextPtr := BitVec.ofNat 64 next }
  let c := m.core i
  let latched := c.abortLatched && c.abortCtx == x
  let m := if latched then m.modCore i fun c => { c with
      abortRes := if s.stop.isSome then 2 else 3, abortAddr := BitVec.ofNat 64 s.addr, abortLatched := false } else m
  let counts := fld c.stopAfter.toNat 35 32 == x && fld c.stopAfter.toNat 31 0 != 0
  let m := if counts then m.modCore i fun c => { c with
      stopAfter := BitVec.ofNat 64 (setFld c.stopAfter.toNat 31 0 (fld c.stopAfter.toNat 31 0 - 1)) } else m
  let ends := m.stopsChain i s e.1 || next == 0 || c.disabling.isSome || bit16 c.closing x || latched || parked
  let halts := !ends && counts && fld c.stopAfter.toNat 31 0 == 1
  let m := m.completion i x (ends || halts)
  if ends then m.endChain i x
  else if halts then (m.modCore i fun c => { c with halted := setBit16 c.halted x true }).discardStaged i
  else m.modCore i fun c => { c with fetch := some next }

/-- Takes a manifest out of the slot it stands in. -/
def Core.drop (c : Core) (s : Slot) : Core :=
  if c.run == some s then { c with run := none } else { c with ready := none }

/-- Fixes a manifest's STATUS (R140): its kind's effects at commit, its merges, its record; the record waits for the mirror
on a mirrored primary. -/
def M.commit (m : M) (i : Nat) (s : Slot) (parked : Bool) : M :=
  let live := s.stop.isNone && s.fixed.isNone
  let u := if live && calMerge s.words || live && calClose s.words then
      (if m.recordsHere s.words then m.updateHere i s else (m, s)) else (m, s)
  let k := if live then u.1.kindCommit i u.2 else u
  let s' := k.2
  let m := if parked then k.1 else k.1.modCore i fun c => c.drop s
  let e := s'.ending
  let st := m.stamp
  let c := m.core i
  let stop := m.stopsChain i s' e.1 || c.disabling.isSome || bit16 c.closing s'.ctx
  let record := s'.form i e.1 e.2 (if stop then 0 else s'.follows e.1) st.1 st.2.1
  let m := st.2.2
  if m.mirroring s'.ctx then
    let before := m.ctx i s'.ctx
    let m := m.modCtx i s'.ctx fun r => { r with nextPtr := BitVec.ofNat 64 (s'.follows e.1) }
    let d := m.sendDelta i s' record
    let held := { s' with phase := .mirrorWait, record := some (record, d.1) }
    (d.2.modCtx i s'.ctx fun r => { r with nextPtr := before.nextPtr }).modCore i fun c =>
      if parked then c.setCtx s'.ctx { c.ctx s'.ctx with parkedRun := some held } else { c with run := some held }
  else m.finishCommit i s' record parked

/-- A commit that waited for the mirror is now covered (R331). -/
def M.finishHeld (m : M) (i : Nat) (s : Slot) (parked : Bool) : M :=
  match s.record with
  | none => m
  | some r =>
    let m := m.modCore i fun c =>
      if parked then c.setCtx s.ctx { c.ctx s.ctx with parkedRun := none } else { c with run := none }
    m.finishCommit i s r.1 parked

/-- Every held commit up to MSEQ `q` is finished. -/
def M.finishCovered (m : M) (q : Nat) : M :=
  (List.range 24).foldl (fun (m : M) i =>
    let covered (s : Slot) : Bool := s.phase == .mirrorWait && (match s.record with | some r => r.2 ≤ q | none => false)
    let m := match (m.core i).run with
      | some s => if covered s then m.finishHeld i s false else m
      | none => m
    (List.range 16).foldl (fun (m : M) x =>
      match (m.ctx i x).parkedRun with
      | some s => if covered s then m.finishHeld i s true else m
      | none => m) m) m

/-! ## Stops (R141, R144) -/

/-- Marks a manifest stopped, where nothing has stopped it and its status is not fixed. -/
def Slot.halt (s : Slot) (why : Stop) : Slot := if s.phase == .mirrorWait || s.stop.isSome then s else { s with stop := some why }

/-- Ring transfers of core `i` that have not been injected are given up (R142). -/
def M.dropRing (m : M) (i : Nat) : M :=
  let n := (Tab.get m.dev.ringOut [] i).length
  ({ m with dev := { m.dev with ringOut := Tab.erase m.dev.ringOut i } } : M).modCore i fun c =>
    { c with run := c.run.map fun s => { s with pendingReqs := s.pendingReqs - n } }

/-- The banks of core `i`'s column begin no further step for its manifest; a step in progress runs to its boundary (R142). -/
def M.dropWork (m : M) (i : Nat) : M :=
  (List.range 4).foldl (fun (m : M) l => m.modLq (4 * i + l) fun q =>
    { q with work := if q.stepping.isSome then q.work.take 1 else [], readyAt := none, halves := 0, arrived := [] }) m

/-- Stops the manifests in a core's slots: a waiting member of a barrier withdraws (R478), a collective is given up. -/
def M.stopSlots (m : M) (i : Nat) (why : Stop) : M :=
  let r := (m.core i).run
  let m := m.modCore i fun c => { c with run := c.run.map (·.halt why), ready := c.ready.map (·.halt why), wait := none }
  let m := m.modFab fun f => { f with colls := Tab.erase f.colls i }
  let m := (m.dropRing i).dropWork i
  let m := m.discardStaged i
  match r with
  | some s => if s.kind = kSync && (syncOp s.words = 0 || syncOp s.words = 3) && s.phase == .waiting then m.withdraw i s.words else m
  | none => m

/-- A parked context's manifests end with a stop, their records written (R438, R464, R471). -/
def M.stopParked (m : M) (i x : Nat) (why : Stop) : M :=
  match (m.ctx i x).parkedRun with
  | none => m
  | some s =>
    if s.phase == .mirrorWait then m
    else
      let m := m.modCtx i x fun r => { r with parkedRun := none, parkedReady := none, parkReady := false }
      let m := if syncOp s.words = 0 || syncOp s.words = 3 then m.withdraw i s.words else m
      m.commit i (s.halt why) true

/-- Stops the chain of context `x`, as an abort that latches does (R141): the outcome, the address it names, and the device.
The outcome is 0 where it waits for a manifest's end. -/
def M.abortChain (m : M) (i x : Nat) : Nat × W64 × M :=
  let c := m.core i
  let r := c.ctx x
  if !bit16 c.active x then (5, c.abortAddr, m)
  else if c.current = x && (c.run.isSome || c.ready.isSome) then (0, 0, m.stopSlots i .hostAbort)
  else match r.parkedRun with
    | some s =>
      if s.phase == .mirrorWait then (0, 0, m)
      else (2, BitVec.ofNat 64 s.addr, (m.stopParked i x .hostAbort))
    | none =>
      match r.lastCommit with
      | some a => (3, BitVec.ofNat 64 a, m.endChain i x)
      | none => (4, r.programBase, m.endChain i x)

/-! ## DISABLING (R144, R438, R456) -/

/-- The drover and all that a core reset clears return to their reset values; START_ERR stays (R438, R24). -/
def M.clearCore (m : M) (i : Nat) : M :=
  let m := m.setCore i { Core.zero with startErr := (m.core i).startErr, inReset := (m.core i).inReset }
  let m := m.modFab fun f => { f with
    colls := Tab.erase f.colls i
    arrivals := f.arrivals.map fun e => (e.1, setBit e.2 i false) }
  m.setObj 0x8040 (i + 1) 0

/-- Chains that hold nothing in the slots end; parked manifests end DRAINED_ABORT (R438). -/
def M.endIdleChains (m : M) (i : Nat) : M :=
  (List.range 16).foldl (fun (m : M) x =>
    let m := m.stopParked i x .drain
    let c := m.core i
    if c.current = x && !(c.run.isNone && c.ready.isNone) then m
    else if (c.ctx x).parkedRun.isSome || !bit16 c.active x then m
    else m.endChain i x) m

/-- The fence of a core takes hold once it has drained (R456). -/
def M.fenceDone (m : M) (i : Nat) : M :=
  let cause := m.objFld 0x7001 (i + 1) 15 8
  let m := m.setObjBit 0x7001 (i + 1) 0 true
  let m := if m.domState i = 4 then m else m.setObjFld 0x3100 (i + 1) 7 4 2
  let m := (m.clearCore i).logFault 0x7001 i cause 0 clkMgmt
  m.judgeBarriers

/-- A DISABLING core whose slots are empty goes on to what it drains for. -/
def M.afterDrain (m : M) (i : Nat) : M :=
  let c := m.core i
  if c.disabling.isNone || !(c.run.isNone && c.ready.isNone) then m
  else
    let m := m.endIdleChains i
    match c.disabling with
    | some .fence => m.fenceDone i
    | _ => m

/-- The core enters DISABLING (R144); a fence does not give way to a reset or a switch-off. -/
def M.disable (m : M) (i : Nat) (why : Disable) : M :=
  let m := m.modCore i fun c => { c with
    disabling := if c.disabling == some .fence then c.disabling else some why, fetch := none, wait := none }
  (m.discardStaged i).afterDrain i

/-- A core is to be fenced (R455): a second cause is logged and does not replace the first. -/
def M.fence (m : M) (i cause : Nat) : M :=
  if m.fusedOff i then m
  else if m.fenced i || (m.core i).disabling == some .fence then m.logFault 0x7001 i cause 0 clkMgmt
  else (m.setObjFld 0x7001 (i + 1) 15 8 cause).disable i .fence

end Sys2Proof.Machine
end

