-- ==== Sys2Proof/Machine/Collect.lean ====
section
/-! DEFINITION. Collectives across devices (14_fabric_mirroring.md R323 to R327): who sends what to whom, the nodes of a
reduction tree across members, and the end of a collective. Message indices run over the whole collective, unit by unit, in
messages of at most 1,024 bytes (log entry 19). -/

namespace Sys2Proof.Machine

/-! ## The tree across members (R64, R326) -/

/-- The node whose child `t` is, among the descendants of `node`. -/
def parentIn (p : Plan) (t : Nat × Nat) : Nat → Nat × Nat → Option (Nat × Nat)
  | 0, _ => none
  | n + 1, node =>
    match planChildren p node.1 node.2 with
    | none => none
    | some cs =>
      if cs.contains t then some node
      else match cs.find? fun c => c.1 ≤ t.1 && t.2 ≤ c.2 with
        | some c => parentIn p t n c
        | none => none

/-- The parent of a node of the plan's tree. -/
def Plan.parent (p : Plan) (t : Nat × Nat) : Option (Nat × Nat) := parentIn p t p.s (0, p.s - 1)

/-- The largest node that rank `r` holds: it is the last child of every smaller one's parent (R326). -/
def Plan.top (p : Plan) (r : Nat) : Nat → Nat × Nat → Nat × Nat
  | 0, t => t
  | n + 1, t =>
    match p.parent t with
    | none => t
    | some q => if q = (0, p.s - 1) then t else if q.2 = r then Plan.top p r n q else t

/-- The node a rank gives away. -/
def Plan.gives (p : Plan) (r : Nat) : Nat × Nat := p.top r p.s (r, r)

/-- Position of a node among the root's children, where it is one. -/
def Plan.rootIndex (p : Plan) (t : Nat × Nat) : Option Nat := (rootChildren p).findIdx? (· == t)

/-- The rank that a rank's node goes to, where it is no child of the root. -/
def Plan.goesTo (p : Plan) (r : Nat) : Option Nat :=
  if (p.rootIndex (p.gives r)).isSome then none else (p.parent (p.gives r)).map (·.2)

/-! ## Who sends to whom (R324, R325) -/

/-- Ranks that member `r` of `c` sends its contribution to. -/
def collReceivers (ws : List W64) (c r : Nat) : List Nat :=
  let others := (List.range c).filter (· != r)
  match collCop ws with
  | 0 => others
  | 1 => if r = 0 then others else []
  | _ => match (planOf ws).goesTo r with
    | some q => [q]
    | none => others

/-- Ranks that send to member `r`. -/
def collSenders (ws : List W64) (c r : Nat) : List Nat := (List.range c).filter fun q => q != r && (collReceivers ws c q).contains r

/-- Messages of one unit, and of one contribution. -/
def unitMsgs (ws : List W64) : Nat := (xU ws + 1023) / 1024
def collMsgs (ws : List W64) : Nat := totalIters ws * unitMsgs ws

/-- ADDR of COLL_DATA (R325). -/
def collAddr (ws : List W64) (source index : Nat) : Nat :=
  collId ws * 2 ^ 40 + collGroup ws * 2 ^ 36 + source % 2 ^ 16 * 2 ^ 20 + index % 2 ^ 20

/-! ## State of a collective -/

/-- The manifest of core `i` that carries a collective, in its ready or run slot. -/
def M.collSlot (m : M) (i : Nat) : Option Slot :=
  let c := m.core i
  ((c.run.toList ++ c.ready.toList).filter fun s => s.kind == kExchange && xop s.words == 3 && s.stop.isNone).head?

def M.modColl (m : M) (i : Nat) (f : Coll → Coll) : M :=
  match Tab.find? m.dev.fab.colls i with
  | some c => m.modFab fun b => { b with colls := Tab.put b.colls i (f c) }
  | none => m

def collKey (source index : Nat) : Nat := source * 2 ^ 20 + index

/-- Key of a node of iteration `k` that this member holds. -/
def nodeKey (t : Nat × Nat) (k : Nat) : Nat := 2 ^ 40 + (t.1 * 2 ^ 17 + t.2) * 2 ^ 20 + k

/-- The unit that rank `q` sent for iteration `k`, once all its messages are there. -/
def Coll.unitFrom (c : Coll) (ws : List W64) (q k : Nat) : Option (List (Byte × Bool)) :=
  let keys := (List.range (unitMsgs ws)).map fun j => collKey q (k * unitMsgs ws + j)
  let parts := keys.filterMap fun x => Tab.find? c.nodes x
  if parts.length = keys.length then some (parts.flatMap flatUnits) else none

/-- A node's value in iteration `k`, own or received. -/
def Coll.node (c : Coll) (ws : List W64) (r : Nat) (t : Nat × Nat) (k : Nat) : Option (List (Byte × Bool)) :=
  if t.2 = r then (Tab.find? c.nodes (nodeKey t k)).map flatUnits else c.unitFrom ws t.2 k

/-- Combines values of exchange words element by element (R326): the bytes, and the words that count as format exceptions. -/
def combineUnits (vs : List (List (Byte × Bool))) (u : Nat) : List (Byte × Bool) × Nat :=
  (List.range (u / 16)).foldl (fun (acc : List (Byte × Bool) × Nat) e =>
    let ws := vs.map fun v => readWord (fun a => v.getD a (0, false)) (16 * e)
    let l := combineList (ws.map (·.1))
    (acc.1 ++ (bytesOf l.toWord 16).map fun b => (b, l.poison), acc.2 + (ws.filter (·.2)).length)) ([], 0)

/-- Forms every node this member can form in iteration `k` (R326), from node `t` upward. -/
def Coll.form (ws : List W64) (r k : Nat) : Nat → Nat × Nat → Coll × Nat → Coll × Nat
  | 0, _, c => c
  | n + 1, t, c =>
    let p := planOf ws
    match p.parent t with
    | none => c
    | some q =>
      if q = (0, p.s - 1) || q.2 != r then c
      else
        let kids := (planChildren p q.1 q.2).getD []
        let vals := kids.filterMap fun x => c.1.node ws r x k
        if vals.length != kids.length then c
        else if (Tab.find? c.1.nodes (nodeKey q k)).isSome then Coll.form ws r k n q c
        else
          let v := combineUnits vals (xU ws)
          Coll.form ws r k n q
            ({ c.1 with nodes := Tab.put c.1.nodes (nodeKey q k) (unitsOf v.1) }, c.2 + v.2)

/-! ## Effects -/

/-- Writes received bytes into A1 of iteration `k` at offset `off` (R325): bit for bit, poison included and counted. -/
def M.collPlace (m : M) (i : Nat) (s : Slot) (k off : Nat) (ds : List (Byte × Bool)) : M :=
  let j : Job := { m, core := i, s }
  let bad := ((unitsOf ds).filter (·.2)).length
  let w := j.write (j.reg 1 k + off) ds
  let m := w.m
  let add (t : Slot) : Slot := if t.addr == s.addr then
      { t with poisonCount := t.poisonCount + bad, trCount := t.trCount + (w.s.trCount - s.trCount) } else t
  m.modCore i fun c => { c with run := c.run.map add, ready := c.ready.map add }

/-- The bytes this member contributes in iteration `k`, where it has them. -/
def M.collGives (m : M) (i : Nat) (s : Slot) (c : Coll) (r k : Nat) : Option (List (Byte × Bool)) :=
  if collCop s.words = 2 then c.node s.words r ((planOf s.words).gives r) k
  else
    let j : Job := { m, core := i, s }
    some ((List.range (xU s.words)).map fun b => j.rd (j.reg 0 k + b))

/-- Sends this member's contribution to rank `q`, every iteration in order. -/
def M.collSendTo (m : M) (i : Nat) (s : Slot) (r q : Nat) (units : List (List (Byte × Bool))) : M :=
  let ws := s.words
  let source := match (if collCop ws = 2 then (planOf ws).rootIndex ((planOf ws).gives r) else none) with
    | some c => c
    | none => r
  let chunks := units.flatMap fun u => (List.range (unitMsgs ws)).map fun j => unitsOf ((u.drop (1024 * j)).take 1024)
  chunks.zipIdx.foldl (fun (m : M) d =>
    let e := m.emit (.coll i) { m.message (m.collDevice (collGroup ws) q) opCollData (collAddr ws source d.2) s.ctx with
      lenM1 := d.1.length - 1, data := d.1 }
    if e.1 then e.2 else e.2.collFail i) m

/-- Everything due in the collective of core `i` happens: nodes are formed, contributions go to members that are ready, own
values are placed, and the manifest is done once it has received and sent all (R325, R326). -/
def M.collAdvance (m : M) (i : Nat) : M :=
  match Tab.find? m.dev.fab.colls i, (m.core i).run with
  | some c, some s =>
    if !(s.kind == kExchange && s.phase == .waiting && s.stop.isNone) then m
    else
      let ws := s.words
      let g := collGroup ws
      let n := m.collSize g
      let r := (m.collRank g).getD 0
      let its := List.range (totalIters ws)
      let f := if collCop ws = 2 then its.foldl (fun c k => Coll.form ws r k (planOf ws).s (r, r) c) (c, 0) else (c, 0)
      let m := (m.modColl i fun _ => f.1).modRun i fun s => { s with excCount := s.excCount + f.2 }
      let gives := its.filterMap fun k => m.collGives i s f.1 r k
      let complete := gives.length == its.length
      let due := (collReceivers ws n r).filter fun q => f.1.readyFrom.contains q && !f.1.sentTo.contains q
      let m := if complete then due.foldl (fun (m : M) q =>
          (m.collSendTo i s r q gives).modColl i fun c => { c with sentTo := addOnce c.sentTo q }) m else m
      match Tab.find? m.dev.fab.colls i with
      | none => m
      | some c =>
        let sent := (collReceivers ws n r).all c.sentTo.contains
        let got := (collSenders ws n r).all fun q => (List.range (collMsgs ws)).all fun x => c.got.contains (collKey q x)
        if complete && sent && got then
          let own := if collCop ws = 0 then some r
            else if collCop ws = 2 then (planOf ws).rootIndex ((planOf ws).gives r) else if r = 0 then some 0 else none
          let m := match own with
            | some x => (its.zip gives).foldl (fun (m : M) (u : Nat × List (Byte × Bool)) => m.collPlace i s u.1 (x * xU ws) u.2) m
            | none => m
          (m.modFab fun b => { b with colls := Tab.erase b.colls i }).modRun i fun s =>
            { s with phase := .done, progress := totalIters ws }
        else m
  | _, _ => m

/-- A collective has passed validation (R325): it holds its place, and COLL_READY goes to those that will send to it. -/
def M.collBegin (m : M) (i : Nat) (s : Slot) : M :=
  let ws := s.words
  let g := collGroup ws
  let n := m.collSize g
  let r := (m.collRank g).getD 0
  let base := (g * 256 + collId ws) * 65536
  let early := m.dev.fab.earlyReady.filter fun e => e / 65536 == g * 256 + collId ws
  let c : Coll := { cop := collCop ws, group := g, id := collId ws, readyFrom := early.map (· - base), got := [], sentTo := [], nodes := [] }
  let m := m.modFab fun b => { b with
    colls := Tab.put b.colls i c, earlyReady := b.earlyReady.filter fun e => e / 65536 != g * 256 + collId ws }
  (collSenders ws n r).foldl (fun (m : M) q =>
    let e := m.emit (.coll i) (m.message (m.collDevice g q) opCollReady (collAddr ws r 0) s.ctx)
    if e.1 then e.2 else (e.2.collFail i)) m

/-- A COLL_READY of rank `q` for a group and number arrives (R325). -/
def M.collReadyFrom (m : M) (g id q : Nat) : M :=
  match m.dev.fab.colls.find? fun e => e.2.group == g && e.2.id == id with
  | some (i, _) => (m.modColl i fun c => { c with readyFrom := addOnce c.readyFrom q }).collAdvance i
  | none => m.modFab fun b => { b with earlyReady := addOnce b.earlyReady ((g * 256 + id) * 65536 + q) }

/-- The rank of a device in a group. -/
def M.rankOf (m : M) (g dev : Nat) : Option Nat := (List.range (m.collSize g)).find? fun r => m.collDevice g r == dev

/-- A COLL_DATA of rank `q` arrives (R325): placed by its fields, or held as a node's part (R326). -/
def M.collDataFrom (m : M) (g id q source index : Nat) (data : List (List Byte × Bool)) : M :=
  match m.dev.fab.colls.find? fun e => e.2.group == g && e.2.id == id with
  | none => m
  | some (i, c) =>
    match m.collSlot i with
    | none => m
    | some s =>
      let ws := s.words
      let k := index / unitMsgs ws
      let off := 1024 * (index % unitMsgs ws)
      if c.got.contains (collKey q index) || collMsgs ws ≤ index then m
      else
        let m := m.modColl i fun c => { c with
          got := c.got ++ [collKey q index]
          nodes := if collCop ws = 2 then
              Tab.put c.nodes (collKey q index) data else c.nodes }
        let at? : Option Nat := match collCop ws with
          | 0 => some q
          | 1 => some 0
          | _ => if (planOf ws).rootIndex ((planOf ws).gives q) == some source then some source else none
        let m := match at? with
          | some x => m.collPlace i s k (x * xU ws + off) (flatUnits data)
          | none => m
        m.collAdvance i

end Sys2Proof.Machine
end

