-- ==== Sys2Proof/Machine/Drover.lean ====
section
/-! DEFINITION. The drover's own commands: start, abort, fetch and validation, record slots, commit, drain limit
(06_manifest_execution.md R120, R121, R126, R127, R136, R140, R141, R144, R522). -/

namespace Sys2Proof.Machine

/-! ## START (R120, R121, R124, R135, R334) -/

/-- The record ring of a context satisfies R135 and R136. -/
def M.ringOk (m : M) (i x : Nat) : Bool :=
  let r := m.ctx i x
  let n := r.recordSlots.toNat
  let b := r.recordBase.toNat
  1 ≤ n && n ≤ 65536 && b % 64 == 0 && b / 2 ^ 48 == m.deviceId &&
    m.ctxMay x (b % 2 ^ 48) (b % 2 ^ 48 + 64 * n - 1) false true

/-- The conditions of R120, and those of R334, R388 and R254. -/
def M.mayStart (m : M) (i x : Nat) : Bool :=
  let c := m.core i
  let r := c.ctx x
  (!bit16 c.active x || bit16 c.halted x) && m.objBit 0x8001 (i + 1) x && !bit16 c.closing x &&
    r.programBase != 0 && m.pointerOk x r.programBase.toNat && m.ringOk i x &&
    !m.fenced i && c.disabling.isNone && !m.coreDown i && !m.dev.startBlocked &&
    !(m.mirrorRole == 2 && (m.obj 0x6500 1).testBit x)

/-- A START that is taken: an idle chain begins at CORE.PROGRAM_BASE, a halted one resumes at CORE.NEXT_PTR (R120). -/
def M.takeStart (m : M) (i x : Nat) : M :=
  let c := m.core i
  let resume := bit16 c.halted x
  let m := if c.active = 0 then m.modCore i fun c => { c with ctrl := c.ctrlNext.getD c.ctrl, ctrlNext := none } else m
  let m := if resume then m else m.modCtx i x fun r =>
    { r with recordHead := 0, recordTail := 0, lastCommit := none, nextPtr := r.programBase }
  let m := m.modCore i fun c => { c with active := setBit16 c.active x true, halted := setBit16 c.halted x false }
  let free := c.empty && c.fetch.isNone && (!bit16 c.active c.current || bit16 c.halted c.current)
  if free then m.enter i x else m

/-- A write of CORE.START (R120). A dead window takes nothing and reports nothing (R7, R353, R437). -/
def M.writeStart (m : M) (i x : Nat) (go clr : Bool) : M :=
  if m.windowDead i then m
  else
    let m := if clr then m.modCore i fun c => { c with startErr := setBit16 c.startErr x false } else m
    if !go then m
    else if m.mayStart i x then m.takeStart i x
    else m.startErr i x

/-- CORE_START. -/
def execCoreStart (core : Fin 24) (ctx : Fin 16) (clr : Bool) (s : State) : Host.Outcome State Fault Refusal :=
  s.run fun m => m.writeStart core ctx true clr

/-- CLR_ERR. -/
def execClrErr (core : Fin 24) (ctx : Fin 16) (s : State) : Host.Outcome State Fault Refusal :=
  s.run fun m => m.writeStart core ctx false true

/-! ## ABORT (R141) -/

/-- A write of CORE.ABORT with REQ = 1. -/
def M.writeAbort (m : M) (i x : Nat) : M :=
  if m.windowDead i || (m.core i).abortRes == 1 then m
  else m.modCore i fun c => { c with abortCtx := x, abortRes := 1, abortLatched := false }

/-- CORE_ABORT. -/
def execCoreAbort (core : Fin 24) (ctx : Fin 16) (s : State) : Host.Outcome State Fault Refusal :=
  s.run fun m => m.writeAbort core ctx

/-- The request latches and is judged against the chain's state (R141). -/
def M.latchAbort (m : M) (i : Nat) : M :=
  let c := m.core i
  if c.abortRes != 1 || c.abortLatched then m
  else
    let r := m.abortChain i c.abortCtx
    if r.1 = 0 then r.2.2.modCore i fun c => { c with abortLatched := true }
    else (r.2.2.modCore i fun c => { c with abortRes := r.1, abortAddr := r.2.1 }).afterDrain i

/-- ABORT_LATCH. -/
def execAbortLatch (core : Fin 24) (s : State) : Host.Outcome State Fault Refusal :=
  s.run fun m => m.when (m.live && !m.clockHeld core) fun m => m.latchAbort core

/-! ## Fetch and validation (R127, R522) -/

/-- A manifest as fetched, before anything is known of it. -/
def Slot.fetched (addr ctx : Nat) : Slot :=
  { addr, words := [], kind := 0, ctx, recNo := none, phase := .ready, fixed := none, reasonWord := 0, clampCount := 0,
    clampMap := 0, clampWord := 0, clampReq := 0, clampApp := 0, stop := none, progress := 0, trCount := 0, poisonCount := 0,
    excCount := 0, target := none, branchDefault := false, scales := [], recPoison := false, recWaits := 0, recBad := 0,
    merges := [], pendingReqs := 0, since := 0, commitStep := 0, record := none }

def Slot.reject (s : Slot) (reason word : Nat) : Slot := { s with fixed := some (7, reason), reasonWord := word }

/-- One line of the manifest's fetch: why it fails, if it does (R522). `hdr`: first byte of the header line. -/
def M.lineFails (m : M) (i x hdr l : Nat) : Option Nat :=
  if !((List.range 8).any fun k => m.winHolds x (k + 1) hdr (hdr + 63) true false && m.winHolds x (k + 1) l (l + 63) true false)
  then some 0
  else if !m.reach (some i) l then some 1
  else if m.marked l then some 2
  else none

/-- Judges the fetch of a manifest (check 0 of R127): the slot with its words, or rejected. -/
def M.fetchSlot (m : M) (i x addr : Nat) : Slot :=
  let s := Slot.fetched addr x
  let a := addr % 2 ^ 48
  let fail (s : Slot) (why w poisoned : Nat) : Slot :=
    match why with
    | 0 => s.reject rsAddress w
    | 1 => { s.reject rsAddress w with trCount := 1 }
    | _ => { s.reject rsField w with poisonCount := poisoned }
  match m.lineFails i x a a with
  | some why => fail s why 0 1
  | none =>
    let h := BitVec.ofNat 64 (m.num a 8)
    let n := hLength [h] + 1
    let s := { s with kind := hKind [h] }
    match (List.range n).findSome? fun k => (m.lineFails i x a (a + 64 * k)).map fun why => (why, 8 * k) with
    | some (why, w) => fail s why w ((List.range n).filter fun k => m.marked (a + 64 * k)).length
    | none => { s with words := (List.range (8 * n)).map fun w => BitVec.ofNat 64 (m.num (a + 8 * w) 8) }

/-- Does the manifest name an amax record (R155)? -/
def namesRecord (ws : List W64) : Bool := hCal ws / 2 % 16 != 0

/-- Placement of the named records (R155, R93). -/
def M.checkRecordPlace (m : M) (ws : List W64) : Bad :=
  let a := hRecord ws
  let lo := a % 2 ^ 48
  let hi := lo + 320 * recordCount ws - 1
  if namesRecord ws then
    need (a != 0 && a % 64 == 0 && hi < memEnd && (a / 2 ^ 48 != m.deviceId || m.ctxMay (hContext ws) lo hi true true)) rsRecord 4
  else need (a == 0) rsRecord 4

/-- Checks 1 to 4 of R127 as far as the record's placement. -/
def M.checkEarly (m : M) (i : Nat) (ws : List W64) : Option (Nat × Nat × Nat) :=
  let rej (b : Bad) : Option (Nat × Nat × Nat) := b.map fun r => (7, r.1, r.2)
  (rej (checkForm ws)).or <|
  (rej (need (m.objBit 0x8001 (i + 1) (hContext ws) && hContext ws == (m.core i).current) rsContext 0)).or <|
  (if needsCistern ws && !m.fuse.gradOn then some (8, rsEngine, 0) else none).or <|
  rej (firstBad [checkFormats ws, m.checkPlan ws, need (RMode.ofCode (hRound ws % 8)).isSome rsField 0, checkTscale ws,
    checkScaleRules ws, m.checkRecordPlace ws])

/-- The rest of check 4, after the records: pointers and fields. -/
def M.checkMeaning (m : M) (i : Nat) (ws : List W64) : Bad := firstBad [m.checkPointers ws, m.checkFields i ws]

/-- Checks 5 to 7: strict mode, addresses, domain. -/
def M.checkLate (m : M) (i : Nat) (ws : List W64) : Bad :=
  let cl := m.clamps i ws
  firstBad [
    (match cl with
     | c :: _ => need (!(m.core i).ctrl.toNat.testBit 0) rsStrict c.1
     | [] => none),
    m.checkAddresses i (clampWords ws cl), m.checkDomain i ws]

/-- The clamps of R129 in the slot: its words and what its record says of them. -/
def Slot.clamp (s : Slot) (cs : List (Nat × Nat × Nat)) : Slot :=
  match cs with
  | [] => s
  | c :: _ => { s with words := clampWords s.words cs, clampCount := cs.length, clampWord := c.1, clampReq := c.2.1,
                       clampApp := c.2.2, clampMap := cs.foldl (fun v c => setBit v c.1 true) 0 }

/-- Reads the records on this device (R90): the slot with their scales, or rejected. -/
def M.readRecords (m : M) (i : Nat) (s : Slot) : Slot :=
  let a := hRecord s.words % 2 ^ 48
  let s := (List.range (recordCount s.words)).foldl (fun (s : Slot) g =>
    let r := a + 320 * g
    if m.reachAll (some i) r 320 then
      { s with recWaits := 1 }.recordRead g 0 [(m.bytes r 320, m.anyMark r 320)]
    else { s with recBad := s.recBad + 1 }) s
  if s.recBad != 0 then { s.reject rsRecord 4 with trCount := s.recBad } else s

/-- Validates a fetched manifest (R127): the verdict is in the slot; records on another device are still to be read. -/
def M.validate (m : M) (i : Nat) (s : Slot) : Slot :=
  if s.fixed.isSome then s
  else match m.checkEarly i s.words with
    | some (st, reason, w) => { s with fixed := some (st, reason), reasonWord := w }
    | none =>
      let here := m.recordsHere s.words
      let s := if namesRecord s.words && here then m.readRecords i s else s
      if s.fixed.isSome then s
      else
        match m.checkMeaning i s.words with
        | some (reason, w) => s.reject reason w
        | none =>
          let late := m.checkLate i s.words
          let s := { s.clamp (m.clamps i s.words) with
            recWaits := if namesRecord s.words && !here then recordCount s.words else 0 }
          match late with
          | some (reason, w) => s.reject reason w
          | none => s

/-- Reads of records on another device leave once the manifest stands in its place (R90, R314). -/
def M.sendRecordReads (m : M) (i : Nat) (s : Slot) : M :=
  (List.range s.recWaits).foldl (fun (m : M) g =>
    m.request (.amaxRead i g) { m.message (hRecord s.words / 2 ^ 48) opRead (hRecord s.words % 2 ^ 48 + 320 * g) s.ctx with
      lenM1 := 4 } 0) m

/-- Another core's or manifest's collective under the same group and number is in progress (R324). -/
def M.collBusy (m : M) (ws : List W64) : Bool :=
  m.dev.fab.colls.any fun e => e.2.group == collGroup ws && e.2.id == collId ws

/-- Nothing keeps a validated manifest from its record slot (R136, R90, R255, R324). -/
def M.mayReserve (m : M) (i : Nat) (s : Slot) : Bool :=
  let r := m.ctx i s.ctx
  s.recWaits == 0 && (r.recordHead.toNat + 2 ^ 32 - r.recordTail.toNat) % 2 ^ 32 < r.recordSlots.toNat &&
    (s.fixed.isSome ||
      (!(needsCistern s.words && ((m.core i).cisPending && m.ownsCistern i s.ctx || m.objBit 0x8040 (i + 1) 5)) &&
        !(s.kind == kExchange && xop s.words == 3 && m.collBusy s.words)))

/-- The waiting manifest takes its record slot and enters the ready slot (R136); a collective's member says so to those that
will send to it (R325). -/
def M.reserve (m : M) (i : Nat) : M :=
  let c := m.core i
  match c.wait with
  | none => m
  | some s =>
    if !m.mayReserve i s || c.ready.isSome || c.disabling.isSome then m
    else
      let h := (c.ctx s.ctx).recordHead.toNat
      let s := { s with recNo := some h }
      let m := (m.modCtx i s.ctx fun r => { r with
          recordHead := BitVec.ofNat 64 ((h + 1) % 2 ^ 32)
          nextPtr := if s.fixed.isNone then s.words.getD 1 0 else r.nextPtr }).modCore i fun c =>
        { c with wait := none, ready := some s }
      if s.fixed.isNone && s.kind == kExchange && xop s.words == 3 then m.collBegin i s else m

/-- The fetch at hand completes. -/
def M.fetchDone (m : M) (i : Nat) : M :=
  let c := m.core i
  match c.fetch with
  | none => m
  | some addr =>
    if !c.empty || c.disabling.isSome then m
    else
      let s := m.validate i (m.fetchSlot i c.current addr)
      let m := m.modCore i fun c => { c with fetch := none, wait := some s }
      (m.sendRecordReads i s).reserve i

/-- MANIFEST_FETCH_DONE. -/
def execManifestFetchDone (core : Fin 24) (s : State) : Host.Outcome State Fault Refusal :=
  s.run fun m => m.when (m.coreRuns core) fun m => m.fetchDone core

/-- RECORD_SLOT_RESERVE. -/
def execRecordSlotReserve (core : Fin 24) (s : State) : Host.Outcome State Fault Refusal :=
  s.run fun m => m.when (m.coreRuns core) fun m => m.reserve core

/-! ## Commit (R140) -/

/-- The manifest that is due to commit: the run slot's, or a ready one that will not run. -/
def Core.due (c : Core) : Option Slot :=
  match c.run with
  | some s => if (s.phase == .done || (s.stop.isSome && s.pendingReqs == 0)) && s.phase != .mirrorWait then some s else none
  | none =>
    match c.ready with
    | some s => if s.fixed.isSome || s.stop.isSome then some s else none
    | none => none

/-- Commits the manifest that is due; merges and closes of records on another device go out first and are waited for. -/
def M.commitDue (m : M) (i : Nat) : M :=
  match (m.core i).due with
  | none => m
  | some s =>
    if s.stop.isNone && s.fixed.isNone && namesRecord s.words && !m.recordsHere s.words && s.commitStep = 0 then m.sendMerges i s
    else if s.stop.isNone && s.fixed.isNone && namesRecord s.words && !m.recordsHere s.words && s.commitStep = 1 then m.sendCloses i s
    else (m.commit i s false).afterDrain i

/-- MANIFEST_COMMIT. -/
def execManifestCommit (core : Fin 24) (s : State) : Host.Outcome State Fault Refusal :=
  s.run fun m => m.when (m.coreRuns core) fun m => m.commitDue core

/-- The drain limit of a disabling core, or of a context being closed, has run out (R144): what has not committed stops; at a
device reset a record that still waits for the mirror is never written (R439). -/
def M.drainLimit (m : M) (i : Nat) : M :=
  let c := m.core i
  if c.disabling.isNone && !bit16 c.closing c.current then m
  else
    let m := m.stopSlots i .drain
    let device := match m.dev.reset with
      | some r => r.begun && r.level == 4
      | none => false
    let held := match (m.core i).run with
      | some s => s.phase == .mirrorWait
      | none => false
    if device && held then (m.modCore i fun c => { c with run := none }).afterDrain i else m

/-- DRAIN_LIMIT_EXPIRY. -/
def execDrainLimitExpiry (core : Fin 24) (s : State) : Host.Outcome State Fault Refusal :=
  s.run fun m => m.when m.live fun m => m.drainLimit core

end Sys2Proof.Machine
end

