-- ==== Sys2Proof/Machine/Run.lean ====
section
/-! DEFINITION. How a validated manifest enters the run slot and does its work (06_manifest_execution.md R125, R126). -/

namespace Sys2Proof.Machine

/-- The manifest in the ready slot, where it is valid, not stopped, of kind `k` with property `p`, and the run slot is free. -/
def Core.runnable (c : Core) (k : Nat) (p : List W64 → Bool) : Option Slot :=
  match c.run, c.ready with
  | none, some s => if s.fixed.isNone && s.stop.isNone && s.kind == k && p s.words then some s else none
  | _, _ => none

/-- The next manifest down the chain enters the run slot: the Outrider is one less ahead. -/
def Outrider.advance (o : Outrider) : Outrider := { o with ahead := o.ahead - 1, at? := if o.ahead ≤ 1 then none else o.at? }

/-- The clocks of everything a manifest of core `i` touches run; while one is held its work waits (R431, R432). A tier that is
off answers without its clock. -/
def M.pathsRun (m : M) (i : Nat) (ws : List W64) : Bool :=
  let tierOk (t : Nat) : Bool := !m.domOn (24 + t) || m.tierRuns t
  ((hKind ws != kConvoy && hKind ws != kKv) || tierOk (tierOf i)) &&
    (m.spans ws).all fun p =>
      if p.lo < memEnd then
        (m.fabricRuns || (i * columnSize ≤ p.lo && p.hi < (i + 1) * columnSize)) &&
          (List.range 6).all fun t => tierOk t || p.hi < 4 * t * columnSize || (4 * t + 4) * columnSize ≤ p.lo
      else m.fabricRuns

/-- The ready manifest of kind `k` runs: `f` does its work, it stands in the run slot as `f` leaves it, and `g` sends what it
sends. An event that is not due changes nothing. -/
def M.runThen (m : M) (i k : Nat) (p : List W64 → Bool) (f : Job → Job) (g : M → Slot → M) : M :=
  if !m.coreRuns i then m
  else match (m.core i).runnable k p with
    | none => m
    | some s => if !m.pathsRun i s.words then m else
      let m := m.modCore i fun c => { c with ready := none, ripple := none, outrider := c.outrider.advance }
      let j := (Job.seed { m, core := i, s := { s with phase := .done, progress := totalIters s.words } })
      let j := f j
      let m := { j.m with dev := { j.m.dev with fresh := j.m.dev.fresh + 1 } }
      g (m.modCore i fun c => { c with run := some j.s }) j.s

/-- The same for a kind that sends nothing. -/
def M.runKind (m : M) (i k : Nat) (p : List W64 → Bool) (f : Job → Job) : M := m.runThen i k p f fun m _ => m

/-- Does `step` for every iteration in order (R132). -/
def Job.each (j : Job) (step : Job → Nat → Job) : Job := (List.range (totalIters j.s.words)).foldl step j

/-- Address of register `i` differs from that of the iteration before (R162). -/
def movedFrom (ws : List W64) (i k : Nat) : Bool := k == 0 || regAddr ws i k != regAddr ws i (k - 1)

end Sys2Proof.Machine
end

