-- ==== Sys2Proof/Machine/Array.lean ====
section
/-! DEFINITION. The matrix arrays: MATRIX (07_manifest_reference.md R161 to R163; 05 R98 to R105; 11 R256) and SCORE (07
R164, R165; 09 R213, R214). -/

namespace Sys2Proof.Machine

/-! ## MATRIX -/

/-- Column `c` of the stationary operand in iteration `k`. -/
def Job.column (j : Job) (k c : Nat) : List XElem :=
  let ws := j.s.words
  readOperand j.rd (fmtAt ws 10) (j.reg 0 k + c * mPitch ws) (j.reg 1 k + c * mSPitch ws) (mK ws)

/-- Reserved E5M3 scales that iteration `k` reads (R44): of a stationary operand when it is loaded, of the streamed row. -/
def Job.matrixScales (j : Job) (k : Nat) : Nat :=
  let ws := j.s.words
  let load := if movedFrom ws 0 k || movedFrom ws 1 k then
      ((List.range (mN ws)).map fun c => badScales j.rd (fmtAt ws 10) (j.reg 1 k + c * mSPitch ws) (mK ws)).foldl (· + ·) 0 else 0
  load + badScales j.rd (fmtAt ws 11) (j.reg 3 k) (mK ws)

/-- The full sum of a column with both tensor scales (R80). -/
def scaledSum (l : LA) (t u : Frac) : Elem := ⟨Val.mul l.val.toVal (.fin false (Frac.mul t u)), l.poison⟩

/-- Iteration `k` of a MATRIX (R162). -/
def Job.matrixRow (j : Job) (k : Nat) : Job :=
  let ws := j.s.words
  let fw := fmtAt ws 10
  let fx := fmtAt ws 11
  let p := planOf ws
  let x := readOperand j.rd fx (j.reg 2 k) (j.reg 3 k) (mK ws)
  let cols := (List.range (mN ws)).map fun c => j.column k c
  let out := j.reg 4 k
  let j' := j.exc (j.matrixScales k)
  match outMode ws with
  | 0 =>
    let vs := cols.map fun w => scaledSum (contract fw fx p w x) (tsAt ws 10) (tsAt ws 11)
    j'.outRow (fmtAt ws 12) (tsAt ws 12) (k * mN ws) vs out (j.reg 5 k)
  | 1 =>
    (List.range (mHi ws + 1 - mLo ws)).foldl (fun (j : Job) q =>
      cols.zipIdx.foldl (fun (j : Job) w =>
        j.outWord (out + 16 * (q * mN ws + w.2)) (slicePartial fw fx p (mLo ws + q) (w.1.zip x))) j) j'
  | _ =>
    cols.zipIdx.foldl (fun (j : Job) w =>
      j.cisAdd (regAddr ws 4 k / 8 + w.2) (scaledSum (contract fw fx p w.1 x) (tsAt ws 10) (tsAt ws 11))) j'

/-- A MATRIX: every iteration, and the mark of a ripple pair's first member (R105). -/
def Job.matrix (j : Job) : Job :=
  let r := j.each fun j k => j.matrixRow k
  if wb j.s.words 5 33 then { r with m := r.m.modCore r.core fun c => { c with ripple := some j.s.addr } } else r

/-- MATRIX. -/
def execMatrix (core : Fin 24) (s : State) : Host.Outcome State Fault Refusal :=
  s.run fun m => m.runKind core kMatrix (fun _ => true) Job.matrix

/-! ## SCORE -/

/-- Entry `e` of the active copy of table `key` of the manifest's context: its word and mark; `dflt` where never loaded
(R226). -/
def Job.tableEntry (j : Job) (key dflt e : Nat) : Entry :=
  match Tab.find? (j.m.ctx j.core j.s.ctx).tables key with
  | none => (dflt, false)
  | some t => match Tab.find? t e with
    | some x => x
    | none => (dflt, false)

/-- The score of query row `x` of iteration `k` for key `c` (R165). -/
def Job.score (j : Job) (k c : Nat) (x : List XElem) (mask : Option (List Elem)) : Elem :=
  let ws := j.s.words
  let key := readOperand j.rd (fmtAt ws 11) (j.reg 0 k + c * scoreKP ws) (j.reg 1 k + c * scoreKSP ws) (mK ws)
  let q := wf ws 14 31 0 + k
  let p := wf ws 14 63 32 + c
  let la := contract (fmtAt ws 11) (fmtAt ws 10) (planOf ws) key x
  let v := scaledSum la (tsAt ws 10) (tsAt ws 11)
  let fold (v : Elem) (a : Elem) : Elem :=
    let l := LA.foldVal ⟨v.val.toLAVal, v.poison, false⟩ a.val a.poison
    ⟨l.val.toVal, l.poison⟩
  let v := if wb ws 8 49 then
      let b := j.tableEntry (wf ws 8 51 50) 0 (biasIndex q p)
      fold v ⟨ofBits32 b.1, b.2⟩
    else v
  let v := match mask with
    | some ms => fold v (ms.getD c ⟨.zero, false⟩)
    | none => v
  if wb ws 8 48 && q < p then ⟨.inf true, v.poison⟩ else v

/-- Iteration `k` of a SCORE (R165). -/
def Job.scoreRow (j : Job) (k : Nat) : Job :=
  let ws := j.s.words
  let n := mN ws
  let x := readOperand j.rd (fmtAt ws 10) (j.reg 2 k) (j.reg 3 k) (mK ws)
  let hasMask := wd ws 12 != 0
  let mask := if hasMask then some (scaledRow j.rd (fmtAt ws 12) (tsAt ws 12) (j.reg 4 k) 0 n) else none
  let load := if movedFrom ws 0 k || movedFrom ws 1 k then
      ((List.range n).map fun c => badScales j.rd (fmtAt ws 11) (j.reg 1 k + c * scoreKSP ws) (mK ws)).foldl (· + ·) 0 else 0
  let vs := (List.range n).map fun c => j.score k c x mask
  let j := j.exc (load + badScales j.rd (fmtAt ws 10) (j.reg 3 k) (mK ws))
  let j := if hasMask then j.touch (j.reg 4 k) (ebAt ws 12 n) else j
  j.outRow (fmtAt ws 13) (tsAt ws 13) (k * n) vs (j.reg 5 k) 0

/-- SCORE. -/
def execScore (core : Fin 24) (s : State) : Host.Outcome State Fault Refusal :=
  s.run fun m => m.runKind core kScore (fun _ => true) fun j => j.each fun j k => j.scoreRow k

end Sys2Proof.Machine
end

