-- ==== Sys2Proof/Machine/Convoy.lean ====
section
/-! DEFINITION. Convoys: MAC, ADD, MAX and CMP on the near-bank units (07_manifest_reference.md R166, R167;
08_near_bank_convoys.md R185, R189 to R191, R194, R206 to R208). -/

namespace Sys2Proof.Machine

/-! ## Rows in the banks -/

/-- Local address of byte `o` of bank `b` of layer quadrant ordinal `l` of column `c` (R185, R186). -/
def bankByte (c l b o : Nat) : Nat :=
  c * columnSize + l * lqSize + o / 0x20000 * 0x10000000 + o % 0x20000 / 64 * 0x20000 + b * 64 + o % 64

/-- The selected rows in the order of R167: layer quadrant ordinal, bank, row. -/
def convoyRows (ws : List W64) : List (Nat × Nat × Nat) :=
  (cLqs ws).flatMap fun l => (List.range (cBanks ws)).flatMap fun b =>
    (List.range (cRows ws)).map fun r => (l, cFirst ws + b, r)

/-- The bank group of a row is mapped out (R208). -/
def Job.rowOut (j : Job) (x : Nat × Nat × Nat) : Bool := j.m.dev.outGroups.contains (128 * (4 * j.core + x.1) + x.2.1 / 16)

/-- Reads of a row's bank by byte offset. -/
def Job.bankRd (j : Job) (x : Nat × Nat × Nat) : Rd := fun o => j.rd (bankByte j.core x.1 x.2.1 o)

/-- Byte offsets of a row's elements and scales in its bank (R166). -/
def rowOffsets (ws : List W64) (x : Nat × Nat × Nat) : Nat × Nat :=
  (cOff ws + x.2.2 * cPitch ws, cSOff ws + x.2.2 * cSPitch ws)

/-- The weights of a row. -/
def Job.weights (j : Job) (x : Nat × Nat × Nat) : List XElem :=
  let ws := j.s.words
  readOperand (j.bankRd x) (fmtAt ws 10) (rowOffsets ws x).1 (rowOffsets ws x).2 (cK ws)

/-- The broadcast vector of iteration `k`. -/
def Job.broadcast (j : Job) (k : Nat) : List XElem :=
  readOperand j.rd (fmtAt j.s.words 11) (j.reg 0 k) (j.reg 1 k) (cK j.s.words)

/-- Values under a tensor scale. -/
def underScale (t : Frac) (xs : List XElem) : List Elem := xs.map fun x => ⟨Val.mul x.val (.fin false t), x.poison⟩

/-- Iteration `k` reads its broadcast operand: lines that cannot be reached, reserved scales (R44, R183). -/
def Job.readBroadcast (j : Job) (k : Nat) : Job :=
  let ws := j.s.words
  let j := j.touch (j.reg 0 k) (ebAt ws 11 (cK ws))
  let j := if scaledAt ws 11 then j.touch (j.reg 1 k) (sbAt ws 11 (cK ws)) else j
  j.exc (badScales j.rd (fmtAt ws 11) (j.reg 1 k) (cK ws))

/-- Reserved scales in a row's scale run. -/
def Job.rowScales (j : Job) (x : Nat × Nat × Nat) : Nat :=
  badScales (j.bankRd x) (fmtAt j.s.words 10) (rowOffsets j.s.words x).2 (cK j.s.words)

/-! ## The four operations -/

/-- MAC (R190, R194): one result per row. -/
def Job.macIter (j : Job) (k : Nat) : Job :=
  let ws := j.s.words
  let b := j.broadcast k
  let rows := convoyRows ws
  let vs := rows.map fun x =>
    let v := contract (fmtAt ws 10) (fmtAt ws 11) (planOf ws) (j.weights x) b
    let e := scaledSum v (tsAt ws 10) (tsAt ws 11)
    (⟨e.val, e.poison || j.rowOut x⟩ : Elem)
  let j := (j.readBroadcast k).exc ((rows.map j.rowScales).foldl (· + ·) 0)
  j.outRow (fmtAt ws 12) (tsAt ws 12) (k * cR ws) vs (j.reg 2 k) (j.reg 3 k)

/-- An element written in place keeps no NaN payload (R190). -/
def noPayload (v : Val) : Val :=
  match v with
  | .nan n _ => .nan n none
  | v => v

/-- ADD and MAX (R190): each row rewritten in place with `f` of weight and broadcast element. A mapped-out group is not
written (R208). -/
def Job.inPlaceIter (f : Val → Val → Val) (j : Job) (k : Nat) : Job :=
  let ws := j.s.words
  let b := underScale (tsAt ws 11) (j.broadcast k)
  let j := j.readBroadcast k
  (convoyRows ws).zipIdx.foldl (fun (j : Job) x =>
    if j.rowOut x.1 then j.poison (cK ws)
    else
      let w := underScale (tsAt ws 10) (j.weights x.1)
      let vs := (w.zip b).map fun p => (⟨noPayload (f p.1.val p.2.val), p.1.poison || p.2.poison⟩ : Elem)
      let o := rowOffsets ws x.1
      (j.exc (j.rowScales x.1)).outRowMap (bankByte j.core x.1.1 x.1.2.1) (fmtAt ws 10) (tsAt ws 10)
        ((k * cR ws + x.2) * cK ws) vs o.1 o.2) j

/-- CMP (R167): the number of weights above their broadcast elements; 0 with its mark where anything is poisoned (R79). -/
def Job.cmpIter (j : Job) (k : Nat) : Job :=
  let ws := j.s.words
  let b := underScale (tsAt ws 11) (j.broadcast k)
  let rows := convoyRows ws
  let counts := rows.map fun x =>
    let ps := (underScale (tsAt ws 10) (j.weights x)).zip b
    let bad := j.rowOut x || ps.any fun p => p.1.poison || p.2.poison
    (if bad then 0 else (ps.filter fun p => Val.lt p.2.val p.1.val).length, bad)
  let j := (j.readBroadcast k).exc ((rows.map j.rowScales).foldl (· + ·) 0)
  (j.poison (counts.filter (·.2)).length).write (j.reg 2 k)
    (counts.flatMap fun c => (bytesOf c.1 4).map fun y => (y, c.2))

/-! ## The bank time a convoy takes (R189, R191) -/

/-- Elements of a full broadcast segment. -/
def segmentLen (ws : List W64) : Nat := if (fmtAt ws 11).elem.bits = 16 then 8192 else 16384

/-- Bank cycles per 64-bit element word. -/
def cyclesPerWord (ws : List W64) : Nat :=
  if nbuOp ws = 1 || nbuOp ws = 2 then 2
  else if (fmtAt ws 11).elem.bits ≠ 16 then 1
  else match (fmtAt ws 10).elem with
    | .e2m1 => 2 | .int4 => 2 | .d2 => 4 | .t16 => 5 | _ => 1

/-- Bank cycles of one segment of `n` elements. -/
def segmentCycles (ws : List W64) (n : Nat) : Nat :=
  let scale := if scaledAt ws 10 then (sbAt ws 10 n + 7) / 8 else 0
  let perScale := if nbuOp ws = 1 || nbuOp ws = 2 then 2 else 1
  cRows ws * ((ebAt ws 10 n + 7) / 8 * cyclesPerWord ws + scale * perScale)

/-- Bank cycles of every segment of the convoy, in order. -/
def convoyWork (ws : List W64) : List Nat :=
  let len := segmentLen ws
  let one := (List.range ((cK ws + len - 1) / len)).map fun q => segmentCycles ws (min len (cK ws - q * len))
  (List.range (totalIters ws)).flatMap fun _ => one

/-- Gives the selected layer quadrants of core `i` their bank work; the manifest waits for it. -/
def Job.stepping (j : Job) (lqs : List Nat) (first count : Nat) (work : List Nat) (halves : Nat) : Job :=
  let m := lqs.foldl (fun (m : M) l => m.modLq (4 * j.core + l) fun q =>
    { q with work, arrived := [], halves, readyAt := none, firstBank := first, banks := count }) j.m
  { j with m, s := { j.s with phase := .waiting } }

/-- Staged lines that a manifest has consumed leave the staging region (R148). -/
def Job.consume (j : Job) (a n : Nat) : Job :=
  { j with m := j.m.modCore j.core fun c =>
      { c with outrider := { c.outrider with staged := c.outrider.staged.filter fun t => !(linesOf a n).contains t.line } } }

/-- A convoy: `step` in every iteration, then the banks' work. -/
def Job.convoy (step : Job → Nat → Job) (j : Job) : Job :=
  let ws := j.s.words
  let j := j.each step
  let j := j.each fun j k => (j.consume (j.reg 0 k) (ebAt ws 11 (cK ws))).consume (j.reg 1 k) (if scaledAt ws 11 then sbAt ws 11 (cK ws) else 0)
  j.stepping (cLqs ws) (cFirst ws) (cBanks ws) (convoyWork ws) 0

/-- A convoy of operation `op` runs. -/
def M.runConvoy (m : M) (i op : Nat) (step : Job → Nat → Job) : M :=
  m.runKind i kConvoy (fun ws => nbuOp ws == op) (Job.convoy step)

/-- CONVOY_MAC. -/
def execConvoyMac (core : Fin 24) (s : State) : Host.Outcome State Fault Refusal :=
  s.run fun m => m.runConvoy core 0 Job.macIter

/-- CONVOY_ADD. -/
def execConvoyAdd (core : Fin 24) (s : State) : Host.Outcome State Fault Refusal :=
  s.run fun m => m.runConvoy core 1 (Job.inPlaceIter Val.add)

/-- CONVOY_MAX. -/
def execConvoyMax (core : Fin 24) (s : State) : Host.Outcome State Fault Refusal :=
  s.run fun m => m.runConvoy core 2 (Job.inPlaceIter maxV)

/-- CONVOY_CMP. -/
def execConvoyCmp (core : Fin 24) (s : State) : Host.Outcome State Fault Refusal :=
  s.run fun m => m.runConvoy core 3 Job.cmpIter

end Sys2Proof.Machine
end

