-- ==== Sys2Proof/Machine/Vector.lean ====
section
/-! DEFINITION. The vector unit's manifests: VECTOR and SOFTMAX (07_manifest_reference.md R168 to R171; 10_special_functions.md
R229, R240 to R250), and KV_APPEND (07 R172; 09_attention_kv.md R220 to R224; 04 R96). -/

namespace Sys2Proof.Machine

/-! ## VECTOR -/

/-- Operand a of iteration `k`, rounded once to binary32 (R229). -/
def Job.vecA (j : Job) (k : Nat) : List Elem :=
  let ws := j.s.words
  vectorRow j.rd (fmtAt ws 10) (tsAt ws 10) (j.reg 0 k) (j.reg 1 k) (vL ws)

/-- Operand b of iteration `k`. -/
def Job.vecB (j : Job) (k : Nat) : List Elem :=
  let ws := j.s.words
  vectorRow j.rd (fmtAt ws 11) (tsAt ws 11) (j.reg 2 k) (j.reg 3 k) (vL ws)

/-- The optional gain. -/
def Job.vecGain (j : Job) (k : Nat) : Option (List Elem) := if wd j.s.words 11 = 0 then none else some (j.vecB k)

/-- Reserved scales that iteration `k` reads (R44). -/
def Job.vecScales (j : Job) (k : Nat) : Nat :=
  let ws := j.s.words
  badScales j.rd (fmtAt ws 10) (j.reg 1 k) (vL ws) +
    (if wd ws 11 = 0 then 0 else badScales j.rd (fmtAt ws 11) (j.reg 3 k) (vL ws))

/-- Rounds and writes d of iteration `k`. -/
def Job.vecOut (j : Job) (k : Nat) (vs : List Elem) : Job :=
  let ws := j.s.words
  let n := (outShape ws).1
  (j.exc (j.vecScales k)).outRow (fmtAt ws 12) (tsAt ws 12) (k * n) vs (j.reg 4 k) (j.reg 5 k)

/-- `imm0`. -/
def imm0 (ws : List W64) : Val := ofBits32 (wf ws 13 31 0)
/-- `imm1`. -/
def imm1 (ws : List W64) : Val := ofBits32 (wf ws 13 63 32)

/-- A VECTOR whose rows are a function of the iteration. -/
def M.runVector (m : M) (i op : Nat) (row : Job → Nat → List Elem) : M :=
  m.runKind i kVector (fun ws => vop ws == op) fun j => j.each fun j k => j.vecOut k (row j k)

/-- A two-operand elementwise VECTOR. -/
def Job.binary (o : BinOp) (j : Job) (k : Nat) : List Elem := (j.vecA k).zipWith (Elem.map2 o.apply) (j.vecB k)

/-- a × imm0 + imm1 in one rounding (R169). -/
def Job.axpb (j : Job) (k : Nat) : List Elem :=
  (j.vecA k).map fun e => e.map fun v => finalF32 (fmaExact v (imm0 j.s.words) (imm1 j.s.words))

/-- The four override tables of the manifest's context (R240, R241). -/
def Job.overrides (j : Job) : List (Tab Entry) :=
  (List.range 4).map fun n => Tab.get (j.m.ctx j.core j.s.ctx).tables [] (4 + n)

/-- func of each element (R170); a poisoned header of a table in use poisons every output (R241). -/
def Job.func (j : Job) (k : Nat) : List Elem :=
  let code := wf j.s.words 8 15 8
  let co := coefsWith j.overrides
  let bad := headerPoisons j.overrides code
  (j.vecA k).map fun x =>
    let y := (funcX co code x).getD x
    ⟨y.val, y.poison || bad⟩

/-- VECTOR FUNC: each malformed table adds one format exception (R241). -/
def Job.funcAll (j : Job) : Job := (j.exc (malformedCount j.overrides)).each fun j k => j.vecOut k (j.func k)

/-- CONVERT. -/
def execConvert (core : Fin 24) (s : State) : Host.Outcome State Fault Refusal :=
  s.run fun m => m.runVector core 0 Job.vecA

/-- VECTOR_ADD. -/
def execVectorAdd (core : Fin 24) (s : State) : Host.Outcome State Fault Refusal :=
  s.run fun m => m.runVector core 1 (Job.binary .add)

/-- VECTOR_SUB. -/
def execVectorSub (core : Fin 24) (s : State) : Host.Outcome State Fault Refusal :=
  s.run fun m => m.runVector core 2 (Job.binary .sub)

/-- VECTOR_MUL. -/
def execVectorMul (core : Fin 24) (s : State) : Host.Outcome State Fault Refusal :=
  s.run fun m => m.runVector core 3 (Job.binary .mul)

/-- VECTOR_MAX. -/
def execVectorMax (core : Fin 24) (s : State) : Host.Outcome State Fault Refusal :=
  s.run fun m => m.runVector core 4 (Job.binary .max)

/-- VECTOR_MIN. -/
def execVectorMin (core : Fin 24) (s : State) : Host.Outcome State Fault Refusal :=
  s.run fun m => m.runVector core 5 (Job.binary .min)

/-- AXPB. -/
def execAxpb (core : Fin 24) (s : State) : Host.Outcome State Fault Refusal :=
  s.run fun m => m.runVector core 6 Job.axpb

/-- FUNC. -/
def execFuncOp (core : Fin 24) (s : State) : Host.Outcome State Fault Refusal :=
  s.run fun m => m.runKind core kVector (fun ws => vop ws == 7) Job.funcAll

/-- RMSNORM (R247). -/
def execRmsnorm (core : Fin 24) (s : State) : Host.Outcome State Fault Refusal :=
  s.run fun m => m.runVector core 8 fun j k => rmsnormRow (j.vecA k) (j.vecGain k) (imm0 j.s.words)

/-- LAYERNORM (R248). -/
def execLayernorm (core : Fin 24) (s : State) : Host.Outcome State Fault Refusal :=
  s.run fun m => m.runVector core 9 fun j k => layernormRow (j.vecA k) (j.vecGain k) (imm0 j.s.words)

/-- ROPE (R250). -/
def execRope (core : Fin 24) (s : State) : Host.Outcome State Fault Refusal :=
  s.run fun m => m.runVector core 10 fun j k => ropeRow (j.vecA k) (imm0 j.s.words) (wf j.s.words 14 31 0)

/-- Writes the router word of iteration `k` (R169); a poisoned one is all zero with its mark (R79). -/
def Job.route (j : Job) (k : Nat) : Job :=
  let r := Machine.routeTop2 (j.vecA k)
  ((j.exc (j.vecScales k)).poison r.2.toNat).write (j.reg 4 k) ((bytesOf r.1 4).map fun b => (b, r.2))

/-- ROUTE_TOP2. -/
def execRouteTop2 (core : Fin 24) (s : State) : Host.Outcome State Fault Refusal :=
  s.run fun m => m.runKind core kVector (fun ws => vop ws == 11) fun j => j.each Job.route

/-- AMAX (R169). -/
def execAmax (core : Fin 24) (s : State) : Host.Outcome State Fault Refusal :=
  s.run fun m => m.runVector core 12 fun j k => [amaxRow (j.vecA k)]

/-! ## SOFTMAX (R171, R245, R246) -/

/-- Writes the statistics word: the maximum below the sum; a poisoned one is a canonical NaN in each half (R79). -/
def Job.statsWord (j : Job) (a : Nat) (mx sum : Val) (poison : Bool) : Job :=
  let w := if poison then 0x7FC000007FC00000 else sum.bits32 * 2 ^ 32 + mx.bits32
  (j.poison poison.toNat).write a ((bytesOf w 8).map fun b => (b, poison))

/-- One row, in place: it is read in full before any element is written. -/
def Job.softmaxIter (j : Job) (k : Nat) : Job :=
  let ws := j.s.words
  let f := fmtAt ws 10
  let l := smL ws
  let xs := vectorRow j.rd f (tsAt ws 10) (j.reg 0 k) 0 l
  let r := softmaxRow xs
  let j := (j.touch (j.reg 0 k) (f.eb l)).outRow f Frac.one (k * l) r.1 (j.reg 0 k) 0
  if wb ws 8 24 then j.statsWord (j.reg 1 k) r.2.1 r.2.2.1 r.2.2.2 else j

/-- SOFTMAX. -/
def execSoftmax (core : Fin 24) (s : State) : Host.Outcome State Fault Refusal :=
  s.run fun m => m.runKind core kSoftmax (fun _ => true) fun j => j.each Job.softmaxIter

/-! ## KV_APPEND (R220 to R224) -/

/-- Element `i` of a vector under its map entry (R221); an entry that is not positive and normal makes it a NaN (R222). -/
def Job.kvElem (j : Job) (x : Elem) (i : Nat) : Elem × Bool :=
  let e := j.tableEntry 8 0x3F800000 (i % 1024)
  if posNormal e.1 then (⟨Val.mul x.val (ofBits32 e.1), x.poison || e.2⟩, false)
  else (⟨.cnan, x.poison || e.2⟩, true)

/-- Blocks that hold an element without a good map entry get a NaN scale and the zero pattern (R222). -/
def spoilBlocks (f : Fmt) (bad : List Bool) (codes : List (Nat × Bool)) (scales : List Nat) : List (Nat × Bool) × List Nat :=
  let hit (b : Nat) : Bool := ((bad.drop (b * f.block)).take f.block).any id
  (codes.zipIdx.map fun c => if hit (c.2 / f.block) then (f.elem.zeroCode, c.1.2) else c.1,
   scales.zipIdx.map fun s => if hit s.2 then 0xFF else s.1)

/-- One vector into the cache. -/
def Job.kvIter (j : Job) (k : Nat) : Job :=
  let ws := j.s.words
  let f := fmtAt ws 11
  let l := kvL ws
  let xs := scaledRow j.rd (fmtAt ws 10) (tsAt ws 10) (j.reg 0 k) 0 l
  let es := xs.zipIdx.map fun x => j.kvElem x.1 x.2
  let bad := es.map (·.2)
  let j := (j.touch (j.reg 0 k) (ebAt ws 10 l)).exc (bad.filter id).length
  let r := j.roundRow f (tsAt ws 11) (k * l) (es.map (·.1))
  let q := spoilBlocks f bad r.2.1 r.2.2
  (r.1.write (j.reg 1 k) (packPlane f q.1)).write (j.reg 2 k) (q.2.map fun b => (BitVec.ofNat 8 b, false))

/-- The parts of 64-byte units that vector `k` writes: address and length. -/
def kvParts (ws : List W64) (k : Nat) : List (Nat × Nat) :=
  let parts (a n : Nat) : List (Nat × Nat) := (linesOf a n).map fun l => (max l a, min (l + 64) (a + n) - max l a)
  parts (regAddr ws 1 k) (ebAt ws 11 (kvL ws)) ++ parts (regAddr ws 2 k) (sbAt ws 11 (kvL ws))

/-- Bank cycles of one part (R209, R224): two per word written, one more per word of a merge in an open tract; a merge in a
sealed tract takes boundary time instead. -/
def M.kvCycles (m : M) (p : Nat × Nat) : Nat :=
  let w := (p.2 + 7) / 8
  if p.2 = 64 then 2 * w else if m.tractOpen p.1 then 3 * w else 0

/-- Bank work of vector `k` in layer quadrant `n`: that of its busiest bank. -/
def M.kvWork (m : M) (ws : List W64) (n k : Nat) : Nat :=
  let ps := (kvParts ws k).filter fun p => p.1 / lqSize == n
  ps.foldl (fun a p => max a (((ps.filter fun q => bankOf q.1 == bankOf p.1).map m.kvCycles).foldl (· + ·) 0)) 0

/-- KV_APPEND: every vector, then the banks' work (R209). -/
def Job.kv (j : Job) : Job :=
  let ws := j.s.words
  let j := j.each Job.kvIter
  let its := List.range (totalIters ws)
  (List.range 4).foldl (fun (j : Job) l =>
    let work := (its.map fun k => j.m.kvWork ws (4 * j.core + l) k).filter (0 < ·)
    if work.isEmpty then j
    else
      let banks := (its.flatMap fun k => ((kvParts ws k).filter fun p => p.1 / lqSize == 4 * j.core + l).map fun p => bankOf p.1).eraseDups
      j.stepping [l] (banks.foldl min 2048) banks.length [work.foldl (· + ·) 0] 1) j

/-- KV_APPEND. -/
def execKvAppend (core : Fin 24) (s : State) : Host.Outcome State Fault Refusal :=
  s.run fun m => m.runKind core kKv (fun _ => true) Job.kv

end Sys2Proof.Machine
end

