-- ==== Sys2Proof/Machine/Move.lean ====
section
/-! DEFINITION. Data movement: MOVE, transposing MOVE, EXCHANGE and its ring transfers (07_manifest_reference.md R173 to R176;
05_matrix_arrays.md R116 to R118; 14_fabric_mirroring.md R314, R324), GRADIENT_FOLD (07 R177; 11_training_path.md R259). -/

namespace Sys2Proof.Machine

/-! ## MOVE (R173, R314) -/

/-- The device that holds a register of a manifest: its own, but for space 10 with another device's ID. -/
def Job.device (j : Job) (i : Nat) : Nat :=
  if regSpace j.s.words i = 2 then regBase j.s.words i / 2 ^ 48 else j.m.deviceId

/-- Register `i` lies on this device (R311). -/
def Job.here (j : Job) (i : Nat) : Bool := j.device i == j.m.deviceId

/-- A message that a MOVE sends: destination device and address, bytes, the place a READ's data goes to, and a WRITE's data. -/
structure MoveMsg where
  dest : Nat
  addr : Nat
  n : Nat
  into : Nat
  data : Option (List (Byte × Bool))

/-- Cuts `n` bytes into messages of at most 1,024 bytes: offset and length of each. -/
def cuts (n : Nat) : List (Nat × Nat) := (List.range ((n + 1023) / 1024)).map fun q => (1024 * q, min 1024 (n - 1024 * q))

/-- Poisoned lines of a range as a MOVE reads it. -/
def Job.poisonedLines (j : Job) (a n : Nat) : Nat := ((linesOf a n).filter fun l => (j.rd (max l a)).2).length

/-- Bytes of a range with their marks. -/
def Job.take (j : Job) (a n : Nat) : List (Byte × Bool) := (List.range n).map fun b => j.rd (a + b)

/-- The messages of iteration `k` of a plain MOVE. -/
def Job.moveMsgs (j : Job) (k : Nat) : List MoveMsg :=
  let u := mvU j.s.words
  let a := j.reg 0 k
  let b := j.reg 1 k
  if !j.here 0 then (cuts u).map fun c => ⟨j.device 0, a + c.1, c.2, j.device 1 * 2 ^ 48 + b + c.1, none⟩
  else if !j.here 1 then (cuts u).map fun c => ⟨j.device 1, b + c.1, c.2, 0, some (j.take (a + c.1) c.2)⟩
  else []

/-- Iteration `k` of a plain MOVE as far as this device does it at once. -/
def Job.moveIter (j : Job) (k : Nat) : Job :=
  let u := mvU j.s.words
  let a := j.reg 0 k
  if !j.here 0 then j
  else
    let ds := j.take a u
    let j := (j.touch a u).poison (j.poisonedLines a u)
    if j.here 1 then j.write (j.reg 1 k) ds else j

/-- The messages of iteration `k` of a transposing MOVE whose source is on another device, row by row. -/
def Job.tileMsgs (j : Job) (k : Nat) : List MoveMsg :=
  let ws := j.s.words
  if j.here 0 then []
  else (List.range (mvRows ws)).flatMap fun r => (cuts (mvU ws)).map fun c =>
    ⟨j.device 0, j.reg 0 k + r * mvPitch ws + c.1, c.2, 2 ^ 64 + (256 * k + r) * 2 ^ 16 + c.1, none⟩

/-- The transposed tile of iteration `k`: byte `y` of row `c` (R174); `src r x` is byte `x` of source row `r`. -/
def tileBytes (ws : List W64) (src : Nat → Nat → Byte × Bool) : List (Byte × Bool) :=
  let es := mvSize ws
  (List.range (mvC ws)).flatMap fun c => (List.range (mvP ws)).map fun y =>
    if y < mvRows ws * es then src (y / es) (c * es + y % es) else (0, false)

/-- Iteration `k` of a transposing MOVE. A source that is still to come from another device reads as free values until then. -/
def Job.tileIter (j : Job) (k : Nat) : Job :=
  let ws := j.s.words
  let row (r : Nat) : Nat := j.reg 0 k + r * mvPitch ws
  if j.here 0 then
    let ds := tileBytes ws fun r x => j.rd (row r + x)
    let rows := List.range (mvRows ws)
    let j := rows.foldl (fun (j : Job) r => (j.touch (row r) (mvU ws)).poison (j.poisonedLines (row r) (mvU ws))) j
    j.write (j.reg 1 k) ds
  else j.write (j.reg 1 k) (tileBytes ws fun r x => (freeLineByte j.m.dev.fresh (row r + x), false))

/-- The messages a MOVE sends in all, in iteration order. -/
def Job.allMsgs (j : Job) : List MoveMsg :=
  (List.range (totalIters j.s.words)).flatMap fun k => if mvT j.s.words then j.tileMsgs k else j.moveMsgs k

/-- Sends the messages of a manifest in the run slot of core `i`. -/
def M.sendMoves (m : M) (i : Nat) (x : Nat) (ms : List MoveMsg) : M :=
  ms.foldl (fun (m : M) q =>
    match q.data with
    | none => m.request (.manifest i) { m.message q.dest opRead q.addr x with lenM1 := q.n / 64 - 1 } q.into
    | some d => m.request (.manifest i) { m.message q.dest opWrite q.addr x with lenM1 := q.n / 64 - 1, data := unitsOf d } 0) m

/-- A MOVE: what this device does at once by `step`, and the messages it waits for. -/
def M.runMove (m : M) (i : Nat) (transpose : Bool) (step : Job → Nat → Job) : M :=
  m.runThen i kMove (fun ws => mvT ws == transpose)
    (fun j =>
      let n := j.allMsgs.length
      let j := j.each step
      let j := if j.here 0 then j.each fun j k => j.consume (j.reg 0 k) (mvU j.s.words) else j
      if n = 0 then j else { j with s := { j.s with phase := .waiting, pendingReqs := n } })
    (fun m' s => m'.sendMoves i s.ctx (Job.allMsgs { m, core := i, s }))

/-- MOVE. -/
def execMove (core : Fin 24) (s : State) : Host.Outcome State Fault Refusal :=
  s.run fun m => m.runMove core false Job.moveIter

/-- TRANSPOSING_MOVE. -/
def execTransposingMove (core : Fin 24) (s : State) : Host.Outcome State Fault Refusal :=
  s.run fun m => m.runMove core true Job.tileIter

/-! ## Ring transfers (R116, R175) -/

/-- The next stop downstream (R23). -/
def nextStop (i : Nat) : Nat := 4 * (i / 4) + (i + 1) % 4

/-- The other stops of the tier, downstream first. -/
def otherStops (i : Nat) : List Nat := [nextStop i, nextStop (nextStop i), nextStop (nextStop (nextStop i))]

/-- The transfers of iteration `k`: at most 256 bytes each. -/
def Job.ringXfers (j : Job) (dest : Option Nat) (k : Nat) : List RingXfer :=
  let u := xU j.s.words
  (List.range ((u + 255) / 256)).map fun q =>
    let ds := j.take (j.reg 0 k + 256 * q) (min 256 (u - 256 * q))
    { sender := j.core, manifest := j.s.addr, dest, returning := false, at_ := j.core, wsOff := regAddr j.s.words 1 k + 256 * q
      data := ds.map (·.1), poison := (unitsOf ds).map (·.2) }

/-- A SEND or CIRCULATE: its transfers wait at the core's ring stop, and it waits for their ends. -/
def Job.ringSend (dest : List W64 → Option Nat) (j : Job) : Job :=
  let xs := (List.range (totalIters j.s.words)).flatMap fun k => j.ringXfers (dest j.s.words) k
  let bad := (xs.flatMap (·.poison)).filter id
  { j with
    m := { j.m with dev := { j.m.dev with ringOut := Tab.put j.m.dev.ringOut j.core xs } }
    s := { j.s with phase := .waiting, pendingReqs := xs.length, poisonCount := j.s.poisonCount + bad.length } }

/-- SEND. -/
def execSend (core : Fin 24) (s : State) : Host.Outcome State Fault Refusal :=
  s.run fun m => m.runKind core kExchange (fun ws => xop ws == 0) (Job.ringSend fun ws => some (wf ws 8 5 4))

/-- CIRCULATE. -/
def execCirculate (core : Fin 24) (s : State) : Host.Outcome State Fault Refusal :=
  s.run fun m => m.runKind core kExchange (fun ws => xop ws == 1) (Job.ringSend fun _ => none)

/-- The places a transfer takes in receive buffers: of its stop, or of every active stop it reaches. -/
def M.ringTargets (m : M) (x : RingXfer) : List Nat :=
  match x.dest with
  | some h => ((otherStops x.sender)[h - 1]?).toList
  | none => (otherStops x.sender).filter fun i => !m.coreAbsent i

/-- Transfers a receive buffer holds: 32 KiB of 256 bytes. -/
def ringPlaces : Nat := 128

def M.ringUsed (m : M) (i : Nat) : Nat := Tab.get m.dev.ringCredits 0 i
def M.ringTake (m : M) (i : Nat) : M := { m with dev := { m.dev with ringCredits := Tab.put m.dev.ringCredits i (m.ringUsed i + 1) } }
def M.ringGive (m : M) (i : Nat) : M := { m with dev := { m.dev with ringCredits := Tab.put m.dev.ringCredits i (m.ringUsed i - 1) } }

/-- The first waiting transfer of core `i` is injected where every credit it needs is there. -/
def M.inject (m : M) (i : Nat) : M :=
  match Tab.get m.dev.ringOut [] i with
  | [] => m
  | x :: rest =>
    let ts := m.ringTargets x
    if ts.any fun t => ringPlaces ≤ m.ringUsed t then m
    else
      let m := ts.foldl (fun (m : M) t => m.ringTake t) m
      { m with dev := { m.dev with ring := m.dev.ring ++ [x], ringOut := Tab.put m.dev.ringOut i rest } }

/-- RING_INJECT. -/
def execRingInject (core : Fin 24) (s : State) : Host.Outcome State Fault Refusal :=
  s.run fun m => m.when (m.live && m.fabricRuns) fun m => m.inject core

/-- A transfer has ended for its sender: the manifest that sent it, if it still runs, is answered (R118). -/
def M.ringEnd (m : M) (x : RingXfer) (resp : Nat) : M :=
  m.modRun x.sender fun s => if s.kind == kExchange && s.addr == x.manifest && 0 < s.pendingReqs then s.answered resp else s

/-- A transfer's data is written into the Waystation of a stop. -/
def M.ringDeliver (m : M) (i : Nat) (x : RingXfer) : M :=
  let ds := x.data.zipIdx.map fun b => (b.1, x.poison.getD (b.2 / 64) false)
  (m.storeP (wsBase i + x.wsOff % wsSize) ds).send (.ringReturn i)

/-- A transfer reaches stop `i`. -/
def M.ringReach (m : M) (i : Nat) (x : RingXfer) : M :=
  let on (x : RingXfer) : M := { m with dev := { m.dev with ring := m.dev.ring ++ [{ x with at_ := i }] } }
  if i = x.sender then m.ringEnd x (if x.returning then respTarget else respOk)
  else if x.returning then on x
  else match x.dest with
    | some 1 =>
      if m.coreAbsent i then (on { x with returning := true }).ringGive i
      else ((m.ringDeliver i x).ringGive i).ringEnd x respOk
    | some h => on { x with dest := some (h - 1) }
    | none => if m.coreAbsent i then on x else (({ m with dev := (on x).dev } : M).ringDeliver i x).ringGive i

/-- The first transfer on the ring whose next stop is core `i` arrives there. -/
def M.ringArrive (m : M) (i : Nat) : M :=
  match m.dev.ring.find? fun x => nextStop x.at_ == i with
  | none => m
  | some x => ({ m with dev := { m.dev with ring := m.dev.ring.erase x } } : M).ringReach i x

/-- RING_TRANSFER_ARRIVE. -/
def execRingTransferArrive (core : Fin 24) (s : State) : Host.Outcome State Fault Refusal :=
  s.run fun m => m.when (m.live && m.fabricRuns) fun m => m.ringArrive core

/-! ## COMBINE (R176) -/

/-- Output element `e` of iteration `k`, and the words that count as format exceptions (R61). -/
def Job.combineElem (j : Job) (k e : Nat) : LA × Nat :=
  let ws := j.s.words
  let words := (List.range (xChildren ws)).map fun c => readWord j.rd (j.reg 0 k + 16 * (c * xE ws + e))
  (combineList (words.map (·.1)), (words.filter (·.2)).length)

/-- Iteration `k` of a COMBINE. -/
def Job.combineIter (j : Job) (k : Nat) : Job :=
  let ws := j.s.words
  let out := (List.range (xE ws)).map fun e => j.combineElem k e
  let j := j.exc ((out.map (·.2)).foldl (· + ·) 0)
  if xFinal ws then
    j.outRow (fmtAt ws 10) (tsAt ws 10) (k * xE ws) (out.map fun o => (⟨o.1.val.toVal, o.1.poison⟩ : Elem)) (j.reg 1 k) (j.reg 2 k)
  else out.zipIdx.foldl (fun (j : Job) o => j.outWord (j.reg 1 k + 16 * o.2) o.1.1) j

/-- COMBINE. -/
def execCombine (core : Fin 24) (s : State) : Host.Outcome State Fault Refusal :=
  s.run fun m => m.runKind core kExchange (fun ws => xop ws == 2) fun j => j.each Job.combineIter

/-! ## Collectives (R324 to R327) -/

/-- A collective's manifest runs: what is due in it happens; one that has already failed ends TARGET_RESET. -/
def M.runColl (m : M) (i cop : Nat) : M :=
  m.runThen i kExchange (fun ws => xop ws == 3 && collCop ws == cop)
    (fun j => if (Tab.find? j.m.dev.fab.colls i).isSome then { j with s := { j.s with phase := .waiting, progress := 0 } }
      else { j.tr 1 with s := { (j.tr 1).s with progress := 0 } })
    (fun m _ => m.collAdvance i)

/-- GATHER. -/
def execGather (core : Fin 24) (s : State) : Host.Outcome State Fault Refusal := s.run fun m => m.runColl core 0

/-- BROADCAST. -/
def execBroadcast (core : Fin 24) (s : State) : Host.Outcome State Fault Refusal := s.run fun m => m.runColl core 1

/-- REDUCE_CHILDREN. -/
def execReduceChildren (core : Fin 24) (s : State) : Host.Outcome State Fault Refusal := s.run fun m => m.runColl core 2

/-! ## GRADIENT_FOLD (R177, R259) -/

/-- Row `r` of the tile of iteration `k`. -/
def Job.foldRow (j : Job) (k r : Nat) : Job :=
  let ws := j.s.words
  let f := fmtAt ws 10
  let a := j.reg 0 k + r * gfPitch ws
  let entry (c : Nat) : Elem :=
    let e := j.m.cis j.core ((gfFirst ws + k) * 16384 + r * 128 + c)
    ⟨noPayload (match ofBits64 e.1 with
      | .nan _ _ => .cnan
      | v => v), e.2⟩
  let acc := wb ws 8 18
  let old := if acc then scaledRow j.rd f (tsAt ws 10) a 0 128 else []
  let vs := (List.range 128).map fun c =>
    if acc then
      let o := old.getD c ⟨.zero, false⟩
      let e := entry c
      (⟨match Val.add e.val o.val with
        | .nan _ _ => .cnan
        | v => v, e.poison || o.poison⟩ : Elem)
    else entry c
  let j := if acc then j.touch a (128 * elemBytes f) else j
  j.outRow f (tsAt ws 10) (16384 * k + 128 * r) vs a 0

/-- GRADIENT_FOLD. -/
def execGradientFold (core : Fin 24) (s : State) : Host.Outcome State Fault Refusal :=
  s.run fun m => m.runKind core kFold (fun _ => true) fun j =>
    j.each fun j k => (List.range 128).foldl (fun (j : Job) r => j.foldRow k r) j

end Sys2Proof.Machine
end

