-- ==== Sys2Proof/Machine/Control.lean ====
section
/-! DEFINITION. The control manifests: SYNC (21_contexts_sync.md R473 to R479; 07 R178), TABLE_LOAD (07 R179, R180), BRANCH
(06 R145, R146, R149), CHECKPOINT (07 R181; 23 R502, R503), and the Outrider (06 R147 to R150). -/

namespace Sys2Proof.Machine

/-! ## SYNC -/

/-- A manifest without iterations has PROGRESS 0 while it runs (R183). -/
def Job.still (j : Job) : Job := { j with s := { j.s with progress := 0 } }

/-- The manifest waits in its slot; `since` orders those that wait for one flag (R473). -/
def Job.waits (j : Job) : Job :=
  { j with
    m := { j.m with dev := { j.m.dev with readyCtr := j.m.dev.readyCtr + 1 } }
    s := { j.s with phase := .waiting, since := j.m.dev.readyCtr } }

/-- A barrier member arrives and the group is judged (R477, R478). -/
def M.arrive (m : M) (i : Nat) (s : Slot) : M :=
  let g := wf s.words 8 7 4
  (m.modFab fun f => { f with arrivals := Tab.put f.arrivals g (setBit (Tab.get f.arrivals 0 g) i true) }).judgeBarrier g

/-- BARRIER. -/
def execBarrier (core : Fin 24) (s : State) : Host.Outcome State Fault Refusal :=
  s.run fun m => m.runThen core kSync (fun ws => syncOp ws == 0) (fun j => j.still.waits) fun m s => m.arrive core s

/-- XBARRIER. -/
def execXbarrier (core : Fin 24) (s : State) : Host.Outcome State Fault Refusal :=
  s.run fun m => m.runThen core kSync (fun ws => syncOp ws == 3) (fun j => j.still.waits) fun m s => m.arrive core s

/-- A WAIT takes its flag where it is set, and waits where it is not (R473). -/
def Job.waitFlag (j : Job) : Job :=
  let f := wf j.s.words 8 17 8
  let c := j.m.core j.core
  if c.flags.toNat.testBit f then
    { j.still with m := j.m.setCore j.core { c with flags := BitVec.ofNat 1024 (setBit c.flags.toNat f false) } }
  else j.still.waits

/-- WAIT. -/
def execWaitFlag (core : Fin 24) (s : State) : Host.Outcome State Fault Refusal :=
  s.run fun m => m.runKind core kSync (fun ws => syncOp ws == 1) Job.waitFlag

/-- The device a SIGNAL names. -/
def signalDevice (ws : List W64) : Nat := wf ws 8 39 24

/-- SIGNAL: one to another device sends FLAG_SET and waits for its return (R474); a local one sets its flag at its commit. -/
def M.runSignal (m : M) (i : Nat) : M :=
  m.runThen i kSync (fun ws => syncOp ws == 2)
    (fun j =>
      let j := j.still
      if signalDevice j.s.words = j.m.deviceId then j else { j with s := { j.s with phase := .waiting, pendingReqs := 1 } })
    (fun m s =>
      let d := signalDevice s.words
      if d = m.deviceId then m
      else m.request (.signal i) (m.message d opFlagSet (wf s.words 8 22 18 * 1024 + wf s.words 8 17 8) s.ctx) 0)

/-- SIGNAL. -/
def execSignal (core : Fin 24) (s : State) : Host.Outcome State Fault Refusal := s.run fun m => m.runSignal core

/-! ## TABLE_LOAD (R180) -/

/-- The shadow copy takes every entry with its mark; poisoned entries count. -/
def Job.tableLoad (j : Job) : Job :=
  let ws := j.s.words
  let a := wd ws 10 % 2 ^ 48
  let n := tbCount ws
  let es := (List.range n).map fun e => (e, Rd.le j.rd (a + 4 * e) 4)
  let j := (j.touch a (4 * n)).poison (es.filter fun e => e.2.2).length
  { j.still with m := j.m.modCtx j.core j.s.ctx fun r => { r with shadow := Tab.put r.shadow (tableKey ws) es } }

/-- TABLE_LOAD. -/
def execTableLoad (core : Fin 24) (s : State) : Host.Outcome State Fault Refusal :=
  s.run fun m => m.runKind core kTable (fun _ => true) Job.tableLoad

/-! ## BRANCH (R145, R146, R149) -/

/-- OR_DEPTH. -/
def Core.orDepth (c : Core) : Nat := fld c.ctrl.toNat 7 4

/-- The prediction of a BRANCH in a context: an index, 64 for the default path. -/
def CtxRegs.predicted (r : CtxRegs) (addr : Nat) : Option Nat := (r.preds.find? fun p => p.1 == addr).map (·.2)

/-- Records a prediction, the most recently used first, at most 64. -/
def CtxRegs.predict (r : CtxRegs) (addr index : Nat) : CtxRegs :=
  { r with preds := ((addr, index) :: r.preds.filter fun p => p.1 != addr).take 64 }

/-- The pointer of an index of a BRANCH: a target, or the header's next pointer for 64. -/
def branchPointer (dev : Nat) (ws : List W64) (index : Nat) : Nat :=
  if index = 64 then hNext ws else dev * 2 ^ 48 + brTarget ws index

/-- What a resolved index means to the Outrider (R149). -/
def M.resolveBranch (m : M) (i x addr index : Nat) : M :=
  let c := m.core i
  if c.orDepth = 0 then m
  else
    let m := match c.outrider.followed.find? fun p => p.1 == addr with
      | none => m
      | some p =>
        if p.2 = index then m.modCore i fun c => { c with
          orHit := c.orHit + 1, outrider := { c.outrider with followed := c.outrider.followed.filter fun q => q.1 != addr } }
        else m.modCore i fun c => { c with orMiss := c.orMiss + 1, outrider := Outrider.idle }
    m.modCtx i x fun r => r.predict addr index

/-- A BRANCH reads its router word and chooses; a poisoned word selects nothing (R146). -/
def Job.branch (j : Job) : Job :=
  let ws := j.s.words
  let w := Rd.le j.rd (wsBase j.core + brAddr ws) 4
  let j := j.still
  if w.2 then { j.poison 1 with s := { (j.poison 1).s with target := some 0 } }
  else
    let index := w.1 / 2 ^ brShift ws % 2 ^ brBits ws
    let taken := if index < brCount ws then index else 64
    { j with
      m := j.m.resolveBranch j.core j.s.ctx j.s.addr taken
      s := { j.s with target := some (branchPointer j.m.deviceId ws taken), branchDefault := taken == 64 } }

/-- BRANCH. -/
def execBranch (core : Fin 24) (s : State) : Host.Outcome State Fault Refusal :=
  s.run fun m => m.runKind core kBranch (fun _ => true) Job.branch

/-! ## CHECKPOINT (R502, R503) -/

/-- CORE.STATUS (R123). -/
def M.statusWord (m : M) (i : Nat) : Nat :=
  let c := m.core i
  c.startErr.toNat * 2 ^ 32 + c.active.toNat * 2 ^ 16 + c.current * 2 ^ 8 + m.coreState i

/-- Bytes without a mark. -/
def clean (bs : List Byte) : List (Byte × Bool) := bs.map fun b => (b, false)

/-- Section 1: the context's registers, its own next pointer, and its generator. -/
def Job.ctxSection (j : Job) : List Byte :=
  let r := j.m.ctx j.core j.s.ctx
  pduBytes [r.programBase.toNat, r.recordBase.toNat, r.recordSlots.toNat, r.recordHead.toNat, r.recordTail.toNat,
    hNext j.s.words, r.keyLo.toNat, r.keyHi.toNat]

/-- Section 2: the flags of the core in the blocks of the context. -/
def Job.flagSection (j : Job) : List Byte :=
  let fs := (j.m.core j.core).flags.toNat
  bytesOf ((List.range 16).foldl (fun v b =>
    if (j.m.obj (0x8010 + j.s.ctx) 9).testBit b then v + bitsAt fs (64 * b) 64 * 2 ^ (64 * b) else v) 0) 128

/-- Section 3. -/
def Job.statusSection (j : Job) : List Byte :=
  let c := j.m.core j.core
  pduBytes [j.m.statusWord j.core, c.orHit.toNat, c.orMiss.toNat, c.stopAfter.toNat, 0, 0, 0, 0]

/-- Section 4: Cistern lines with their marks. -/
def Job.cisSection (j : Job) : List (Byte × Bool) :=
  let ws := j.s.words
  (List.range (8 * ckCisLines ws)).flatMap fun e =>
    let first := ckCisOff ws / 8 + e / 8 * 8
    let bad := (List.range 8).any fun q => (j.m.cis j.core (first + q)).2
    (bytesOf (j.m.cis j.core (ckCisOff ws / 8 + e)).1 8).map fun b => (b, bad)

/-- The header line. -/
def ckHeader (ws : List W64) (core ctx seq : Nat) : Nat :=
  seq % 2 ^ 48 * 2 ^ 64 + ckLines ws % 2 ^ 26 * 2 ^ 38 + core * 2 ^ 31 + ctx * 2 ^ 27 + ckWhat ws * 2 ^ 16 + 1

/-- Writes the dump. -/
def Job.checkpoint (j : Job) : Job :=
  let ws := j.s.words
  let what := ckWhat ws
  let q := j.m.nextSeq
  let j := { j.still with m := q.2 }
  let sec (b : Nat) (ds : List (Byte × Bool)) : List (Byte × Bool) := if what.testBit b then ds else []
  let dump := clean (bytesOf (ckHeader ws j.core j.s.ctx q.1) 64) ++
    sec 0 (j.m.readP (wsBase j.core + ckWsOff ws) (64 * ckWsLines ws)) ++ sec 1 (clean j.ctxSection) ++
    sec 2 (clean j.flagSection) ++ sec 3 (clean j.statusSection) ++ sec 4 j.cisSection
  (j.poison ((unitsOf dump).filter (·.2)).length).write (wd ws 10) dump

/-- CHECKPOINT. -/
def execCheckpoint (core : Fin 24) (s : State) : Host.Outcome State Fault Refusal :=
  s.run fun m => m.runKind core kCheckpoint (fun _ => true) Job.checkpoint

/-! ## The Outrider (R147, R148) -/

/-- How far ahead the Outrider may go: OR_DEPTH, held to the run-slot manifest's `prefetch_depth` and to the manifest at which
CORE.STOP_AFTER halts the chain (R147). -/
def Core.horizon (c : Core) (s : Slot) : Nat :=
  let d := min c.orDepth (min (wf s.words 9 3 0) 8)
  let n := fld c.stopAfter.toNat 31 0
  if fld c.stopAfter.toNat 35 32 = s.ctx && n ≠ 0 then min d (n - 1) else d

/-- The pointer after a manifest as the Outrider sees it: of a BRANCH its resolved or predicted path, none without one. -/
def M.aheadOf (m : M) (i x addr : Nat) (ws : List W64) (target : Option Nat) : Option (Nat × Option Nat) :=
  if hKind ws = kBranch then
    match target with
    | some t => some (t, none)
    | none => ((m.ctx i x).predicted addr).map fun p => (branchPointer m.deviceId ws p, some p)
  else some (hNext ws, none)

/-- The lines a manifest would read that the Outrider may stage: MOVE sources, CONVOY broadcasts (R148). -/
def M.stageLines (m : M) (i : Nat) (s : Slot) : List Nat :=
  let ws := s.words
  let j : Job := { m, core := i, s }
  let lines (r n : Nat) : List Nat := (List.range (totalIters ws)).flatMap fun k => linesOf (j.reg r k) n
  let all := if hKind ws = kMove && regSpace ws 0 ≠ 1 && j.here 0 then
      if mvT ws then (List.range (mvRows ws)).flatMap fun r => (lines 0 (mvU ws)).map (· + r * mvPitch ws) else lines 0 (mvU ws)
    else if hKind ws = kConvoy then
      (if regSpace ws 0 = 0 then lines 0 (ebAt ws 11 (cK ws)) else []) ++
        (if scaledAt ws 11 && regSpace ws 1 = 0 then lines 1 (sbAt ws 11 (cK ws)) else [])
    else []
  all.eraseDups

/-- Local ranges that a manifest writes. -/
def M.writeSpans (m : M) (ws : List W64) : List (Nat × Nat) := ((m.spans ws).filter (·.writes)).map fun s => (s.lo, s.hi)

/-- The Outrider stages the operands of a manifest where no manifest before it writes them and they fit (R148). -/
def M.stageFor (m : M) (i : Nat) (s : Slot) (before : List (Nat × Nat)) : M :=
  let o := (m.core i).outrider
  let ls := (m.stageLines i s).filter fun l => !(o.staged.any fun t => t.line == l)
  let clash := ls.any fun l => before.any fun w => w.1 ≤ l + 63 && l ≤ w.2
  let room := 64 * (o.staged.length + ls.length) ≤ 0x100000 * fld (m.core i).ctrl.toNat 15 8
  if clash || !room || !ls.all (m.reach (some i)) then m
  else m.modCore i fun c => { c with outrider := { c.outrider with
    staged := c.outrider.staged ++ ls.map fun l => { line := l, data := m.bytes l 64, poison := m.marked l } } }

/-- One advance of the Outrider: it looks at the next manifest down the chain, stages for it, and goes on; it stays where a
stop of R147 holds it. -/
def M.outriderStep (m : M) (i : Nat) : M :=
  let c := m.core i
  match c.run with
  | none => m
  | some s =>
    let o := c.outrider
    let base := if o.ahead = 0 then (m.aheadOf i s.ctx s.addr s.words s.target).map (·.1) else o.at?
    match base with
    | none => m
    | some p =>
      if s.stop.isSome || c.horizon s ≤ o.ahead || p = 0 || !m.pointerOk s.ctx p then m
      else
        let t := m.fetchSlot i s.ctx p
        let k := t.kind
        if t.fixed.isSome || (checkForm t.words).isSome || k = kSync || k = kCheckpoint || k = kTable then m
        else
          let before := o.writes ++ m.writeSpans s.words
          let m := m.stageFor i t before
          let next := m.aheadOf i s.ctx p t.words none
          m.modCore i fun c => { c with outrider := { c.outrider with
            ahead := c.outrider.ahead + next.isSome.toNat
            at? := next.map (·.1)
            followed := c.outrider.followed ++ (match next with | some (_, some q) => [(p, q)] | _ => [])
            writes := before ++ m.writeSpans t.words } }

/-- OUTRIDER_PREFETCH. -/
def execOutriderPrefetch (core : Fin 24) (s : State) : Host.Outcome State Fault Refusal :=
  s.run fun m => m.when (m.coreRuns core) fun m => m.outriderStep core

end Sys2Proof.Machine
end

