-- ==== Sys2Proof/Machine/Contexts.lean ====
section
/-! DEFINITION. Contexts on a core: opening, closing, time slices and parking (21_contexts_sync.md R464, R469 to R471). -/

namespace Sys2Proof.Machine

/-- Opens a context on a core: its registers read zero, its tables hold the contents of R226 (R464). -/
def M.openContext (m : M) (i x : Nat) : M :=
  (m.modCore i fun c => c.setCtx x CtxRegs.zero).setObjBit 0x8001 (i + 1) x true

/-- Closes a context on a core: its chain follows no further pointer; what is parked ends DRAINED_ABORT; the bit falls once
the slots hold none of its manifests (R464). -/
def M.closeContext (m : M) (i x : Nat) : M :=
  let m := m.modCore i fun c => { c with closing := setBit16 c.closing x true }
  let m := m.stopParked i x .drain
  let c := m.core i
  if c.current = x && !(c.run.isNone && c.ready.isNone) then
    m.modCore i fun c => { c with fetch := none, wait := none, outrider := Outrider.idle }
  else if bit16 c.active x then m.endChain i x
  else m.closeIfDrained i x

/-- Contexts whose chains are active and that the drover may still run. -/
def Core.rivals (c : Core) : List Nat := (List.range 16).filter fun x => x != c.current && bit16 c.active x && !bit16 c.halted x

/-- Parks the waiting SYNC of the current context, with the manifest in the ready slot (R471). -/
def Core.park (c : Core) : Core :=
  match c.run with
  | none => c
  | some s =>
    if s.kind == kSync && s.phase == .waiting && s.stop.isNone && syncOp s.words != 2 then
      let r := c.ctx c.current
      { c.setCtx c.current { r with parkedRun := some s, parkedReady := c.ready, parkReady := false } with run := none, ready := none }
    else c

/-- The quantum of the current context has run out (R469, R471). -/
def M.quantumExpiry (m : M) (i : Nat) : M :=
  let c := m.core i
  if !bit16 c.active c.current then m
  else
    let m := m.modCore i fun c => { c with quantumUp := true }
    if c.rivals.isEmpty || c.disabling.isSome || bit16 c.closing c.current then m else m.modCore i Core.park

/-- QUANTUM_EXPIRY. -/
def execQuantumExpiry (core : Fin 24) (s : State) : Host.Outcome State Fault Refusal :=
  s.run fun m => m.when (m.coreRuns core) fun m => m.quantumExpiry core

/-- A switch is due: the slots are empty, and the quantum is up or the current context has nothing for the drover (R469). -/
def Core.switchDue (c : Core) : Bool :=
  c.empty && c.disabling.isNone && (c.quantumUp || !bit16 c.active c.current || bit16 c.halted c.current)

/-- Changes to the next eligible context (R470). A context that is alone goes on. -/
def M.contextSwitch (m : M) (i : Nat) : M :=
  let m := if (m.core i).quantumUp && !(m.core i).rivals.isEmpty && (m.core i).disabling.isNone &&
      !bit16 (m.core i).closing (m.core i).current then m.modCore i Core.park else m
  let c := m.core i
  if !c.switchDue then m
  else match c.nextContext with
    | none => m
    | some x => if x = c.current then (if c.quantumUp then m.modCore i fun c => { c with quantumUp := false } else m) else m.enter i x

/-- CONTEXT_SWITCH. -/
def execContextSwitch (core : Fin 24) (s : State) : Host.Outcome State Fault Refusal :=
  s.run fun m => m.when (m.coreRuns core) fun m => m.contextSwitch core

/-- Parked contexts whose SYNC's condition has been met may be switched to (R471). -/
def M.parkedResume (m : M) (i : Nat) : M :=
  m.modCore i fun c => { c with
    ctxs := c.ctxs.map fun e => (e.1, match e.2.parkedRun with
      | some s => { e.2 with parkReady := s.phase == .done }
      | none => e.2) }

/-- PARKED_RESUME. -/
def execParkedResume (core : Fin 24) (s : State) : Host.Outcome State Fault Refusal :=
  s.run fun m => m.when (m.coreRuns core) fun m => m.parkedResume core

end Sys2Proof.Machine
end

