-- ==== Sys2Proof/Machine/Integrity.lean ====
section
/-! DEFINITION. Memory integrity: the sealed-tract code, open-tract parity, what a reader of a unit finds and does about it,
logs, reload requests, sparing and the repair map, SRAM blocks (12_memory_integrity.md R265 to R285; 20 R447). A unit's check
bytes follow from its data and mark, so only the error in what is read is an operand. -/

namespace Sys2Proof.Machine

/-! ## The field and the code (R266, R267) -/

/-- Times α in GF(2⁸) with polynomial 0x11D. -/
def gfDouble (a : Nat) : Nat := if a < 128 then 2 * a else (2 * a) ^^^ 0x11D

/-- Product in GF(2⁸). -/
def gfMul (a b : Nat) : Nat :=
  ((List.range 8).foldl (fun (p : Nat × Nat) i => (if b.testBit i then p.1 ^^^ p.2 else p.1, gfDouble p.2)) (0, a)).1

def gfPow (a : Nat) : Nat → Nat
  | 0 => 1
  | n + 1 => gfMul a (gfPow a n)

/-- Inverse of a non-zero element. -/
def gfInv (a : Nat) : Nat := gfPow a 254

def gfSum (l : List Nat) : Nat := l.foldl (· ^^^ ·) 0

/-- Syndromes of an error pattern over the 70 symbols: S₀ first. -/
def syndromes (e : UnitErr) : List Nat :=
  (List.range 6).map fun j => gfSum (e.map fun x => gfMul x.2.toNat (gfPow (gfPow 2 x.1) j))

/-- The syndrome of stored poison (R268, R269). -/
def poisonSyndrome : List Nat := [0, 0, 0, 0, 0, 1]

/-- A list without its `k`-th entry. -/
def dropAt (l : List Nat) (k : Nat) : List Nat := l.take k ++ l.drop (k + 1)

/-- Determinant of a matrix of `n` rows by its first row. -/
def gfDet : Nat → List (List Nat) → Nat
  | 0, _ => 1
  | _, [] => 1
  | n + 1, r :: rest => gfSum (r.zipIdx.map fun x => gfMul x.1 (gfDet n (rest.map fun q => dropAt q x.2)))

/-- Solves `n` linear equations by determinants; none where they have no single solution. -/
def gfSolve (n : Nat) (a : List (List Nat)) (b : List Nat) : Option (List Nat) :=
  let d := gfDet n a
  if d = 0 then none
  else some ((List.range n).map fun k =>
    gfMul (gfInv d) (gfDet n ((a.zip b).map fun r => r.1.set k r.2)))

/-- Error of exactly `v` symbols that has the syndromes, where there is one: position and value of each. -/
def solveErr (s : List Nat) (v : Nat) : Option (List (Nat × Nat)) :=
  let at_ (j : Nat) : Nat := s.getD j 0
  match gfSolve v ((List.range v).map fun j => (List.range v).map fun k => at_ (j + k)) ((List.range v).map fun j => at_ (j + v)) with
  | none => none
  | some l =>
    let isRoot (i : Nat) : Bool :=
      let x := gfPow 2 i
      gfSum (gfPow x v :: l.zipIdx.map fun c => gfMul c.1 (gfPow x c.2)) == 0
    let pos := (List.range 70).filter isRoot
    if pos.length ≠ v then none
    else match gfSolve v ((List.range v).map fun j => pos.map fun i => gfPow (gfPow 2 i) j) ((List.range v).map at_) with
      | none => none
      | some ys =>
        let e := pos.zip ys
        if (List.range 6).all fun j => gfSum (e.map fun x => gfMul x.2 (gfPow (gfPow 2 x.1) j)) == at_ j then some e else none

/-- An error of at most three symbols that explains the syndromes (R267). -/
def explain (s : List Nat) : Option (List (Nat × Nat)) := ((solveErr s 1).or (solveErr s 2)).or (solveErr s 3)

/-! ## What a reader finds (R268, R272) -/

inductive Verdict where
  | clean
  | stored
  | corrected (fix : List (Nat × Nat)) (syndrome : Nat)
  | uncorrectable (syndrome : Nat)
  | parityHit (syndrome : Nat)
deriving DecidableEq, Repr

/-- S₀ to S₅ in bytes 0 to 5. -/
def packBytes (l : List Nat) : Nat := natOf (l.map fun b => BitVec.ofNat 8 b)

def judgeSealed (marked : Bool) (e : UnitErr) : Verdict :=
  let s := (syndromes e).zipWith (· ^^^ ·) (if marked then poisonSyndrome else List.replicate 6 0)
  if s.all (· == 0) then .clean
  else if s = poisonSyndrome then .stored
  else match explain s with
    | some f => .corrected f (packBytes s)
    | none => .uncorrectable (packBytes s)

/-- Parity of bits `i` of `v` with `i` mod 6 = `k`. -/
def parityBit (v k : Nat) : Bool := ((List.range 64).filter fun i => i % 6 == k && v.testBit i).length % 2 == 1

/-- The error of data word `w` and of its six parity bits. -/
def wordErr (e : UnitErr) (w : Nat) : Nat × Nat :=
  let data := gfSum ((e.filter fun x => 6 + 8 * w ≤ x.1 && x.1 < 14 + 8 * w).map fun x => x.2.toNat * 2 ^ (8 * (x.1 - 6 - 8 * w)))
  let check := gfSum ((e.filter fun x => x.1 < 6).map fun x => x.2.toNat * 2 ^ (8 * x.1))
  (data, bitsAt check (6 * w) 6)

/-- Word syndromes of an open unit. -/
def wordSyndromes (marked : Bool) (e : UnitErr) : List Nat :=
  (List.range 8).map fun w =>
    let x := wordErr e w
    let p := (List.range 6).foldl (fun v k => v + (parityBit x.1 k).toNat * 2 ^ k) 0
    p ^^^ x.2 ^^^ (if marked then 0x3F else 0)

def judgeOpen (marked : Bool) (e : UnitErr) : Verdict :=
  let s := wordSyndromes marked e
  if s.all (· == 0) then .clean
  else if s.all (· == 0x3F) then .stored
  else .parityHit (s.zipIdx.foldl (fun v x => v + x.1 * 2 ^ (6 * x.2)) 0)

/-! ## Logs and requests (R279 to R281) -/

/-- Memory layer of layer quadrant `n` (R10), 1 to 24. -/
def layerOf (n : Nat) : Nat := 4 * tierOf (n / 4) + n % 4 + 1

/-- Bank clock domain of a layer quadrant (R425). -/
def bankClk (n : Nat) : Nat := 0x20 + tierOf (n / 4) + 1

/-- Where the next entry of a memory log goes: after the newest, or over the oldest (R280). -/
def M.memLogSlot (m : M) (obj : Nat) : Nat :=
  let count := m.objFld obj 65 6 0
  if count < 64 then count + 1
  else ((List.range 64).foldl (fun (b : Nat × Nat) k =>
    let seq := m.obj obj (k + 1) / 2 ^ 208
    if seq < b.2 then (k + 1, seq) else b) (1, m.obj obj 1 / 2 ^ 208)).1

/-- An entry in the log of a memory layer. -/
def M.logMemory (m : M) (n kind source symbols syndrome addr : Nat) : M :=
  let obj := 0x5200 + layerOf n
  let st := m.stamp
  let m := st.2.2
  let sub := m.memLogSlot obj
  let full := m.objFld obj 65 6 0 == 64
  let lost := full && !m.dev.memLogRead.contains (objKey obj sub)
  let e := st.1 % 2 ^ 48 * 2 ^ 208 + st.2.1 * 2 ^ 176 + bankClk n * 2 ^ 168 + addr % 2 ^ 48 * 2 ^ 112 + syndrome % 2 ^ 48 * 2 ^ 64 +
    source % 256 * 2 ^ 24 + symbols * 2 ^ 16 + kind
  let m := m.setObj obj sub e
  let m := m.setObjFld obj 65 6 0 (min (m.objFld obj 65 6 0 + 1) 64)
  let m := if lost then m.satObj obj 65 22 7 1 else m
  { m with dev := { m.dev with memLogRead := m.dev.memLogRead.filter (· != objKey obj sub) } }

/-- Places of the reload queue that hold requests. -/
def M.reloadPlaces (m : M) : List Nat :=
  let h := m.objFld 0x5060 0x81 6 0
  let t := m.objFld 0x5060 0x81 14 8
  (List.range ((h + 128 - t) % 128)).map fun k => (t + k) % 128

/-- Posts a reload request for a unit, once while it is in the queue; one place stays free, so that a full queue and an empty
one differ (log entry 20). -/
def M.postReload (m : M) (addr source : Nat) : M :=
  let ps := m.reloadPlaces
  if ps.any fun p => fld (m.obj 0x5060 (p + 1)) 79 32 == addr then m
  else if 127 ≤ ps.length then m.satObj 0x5060 0x81 31 16 1
  else
    let q := m.nextSeq
    let h := m.objFld 0x5060 0x81 6 0
    let m := q.2.setObj 0x5060 (h + 1) (q.1 % 2 ^ 48 * 2 ^ 80 + addr % 2 ^ 48 * 2 ^ 32 + source % 256)
    (m.setObjFld 0x5060 0x81 6 0 ((h + 1) % 128)).raise 384

/-! ## Sparing (R282 to R284) -/

/-- Bank row and column of a byte at bank offset `o`. -/
def rowOf (o : Nat) : Nat := o / 8192
def colOf (o : Nat) : Nat := o % 8192 / 8

/-- Spare rows and columns left in a bank (R279). -/
def M.rowsLeft (m : M) (b : Nat) : Nat := m.fuse.minRows - (m.bank b).rowsUsed
def M.colsLeft (m : M) (b : Nat) : Nat := m.fuse.minCols - (m.bank b).colsUsed

/-- First local address of a row, or of a column's first unit, of a bank. -/
def spareAddr (b : Nat) (isRow : Bool) (index : Nat) : Nat :=
  bankByte (b / 8192) (b / 2048 % 4) (b % 2048) (if isRow then 8192 * index else 8 * index / 64 * 64)

/-- A bucket of a bank has filled: a row or column is copied into a spare, or the want of one is logged once. -/
def M.spare (m : M) (b : Nat) (isRow : Bool) (index : Nat) : M :=
  let k := m.bank b
  if k.copy.isSome then m
  else if (if isRow then m.rowsLeft b else m.colsLeft b) = 0 then
    if k.exhausted then m
    else (m.modBank b fun k => { k with exhausted := true }).logMemory (b / 2048) 0x06 5 0 0 (spareAddr b isRow index)
  else m.modBank b fun k => { k with copy := some { isRow, index, slot := if isRow then k.rowsUsed else k.colsUsed } }

/-- A corrected unit at bank offset `o` (R283). -/
def M.correctedEvent (m : M) (b o : Nat) : M :=
  let m := m.modBank b fun k => { k with lastEvents := (o :: k.lastEvents).take 4 }
  let r := m.bucketEvent 1 b
  if !r.1 then r.2
  else
    let ev := (m.bank b).lastEvents
    let oneCol := ev.length == 4 && ev.all (fun x => colOf x == colOf o) && (ev.map rowOf).eraseDups.length == 4
    if oneCol then r.2.spare b false (colOf o) else r.2.spare b true (rowOf o)

/-- A parity hit at bank offset `o` (R283). -/
def M.parityEvent (m : M) (b o : Nat) : M :=
  let r := m.bucketEvent 2 b
  if r.1 then r.2.spare b true (rowOf o) else r.2

/-! ## A reader judges a unit (R268, R272, R286) -/

/-- The tract that holds `a` is in open mode now: until a conversion completes its old mode stands (R188). -/
def M.openNow (m : M) (a : Nat) : Bool :=
  match m.dev.convs.find? fun c => c.column == a / columnSize && c.tract == 384 * (a / lqSize % 4) + tractOf a with
  | some c => !c.toOpen
  | none => m.tractOpen a

/-- Changes bytes of a unit by the data symbols of an error pattern. -/
def M.disturb (m : M) (unit : Nat) (e : List (Nat × Nat)) : M :=
  e.foldl (fun (m : M) x =>
    if x.1 < 6 || 70 ≤ x.1 then m else m.op (.put (unit + x.1 - 6) (m.byte (unit + x.1 - 6) ^^^ BitVec.ofNat 8 x.2))) m

/-- Judges the unit at `unit`, read with error `e` by `source`; memory then holds what the reader is given. -/
def M.judgeUnit (m : M) (unit : Nat) (e : UnitErr) (source : Nat) : M :=
  let n := unit / lqSize
  let b := bankIndexOf unit
  let seen := m.disturb unit (e.map fun x => (x.1, x.2.toNat))
  let v := if m.openNow unit then judgeOpen (m.marked unit) e else judgeSealed (m.marked unit) e
  match v with
  | .clean => seen
  | .stored => seen
  | .corrected fix syn =>
    let first := ((fix.find? fun x => 6 ≤ x.1).map fun x => x.1 - 6).getD 0
    let m := (seen.disturb unit fix).wrapObj 0x5040 (n + 1) 31 0 1
    (m.logMemory n 0x01 source fix.length syn unit).correctedEvent b (bankOffsetOf unit + first)
  | .uncorrectable syn =>
    let m := (seen.setMark unit true).satObj 0x5040 (n + 1) 63 48 1
    (m.logMemory n 0x02 source 0 syn unit).postReload unit source
  | .parityHit syn =>
    let m := (seen.setMark unit true).satObj 0x5040 (n + 1) 47 32 1
    ((m.logMemory n 0x03 source 0 syn unit).postReload unit source).parityEvent b (bankOffsetOf unit)

/-! ## Sparing copies and the repair map -/

/-- A sparing copy is done: the spare is in use (R284), its repair is to be written, and the counts follow (R279). -/
def M.copyDone (m : M) (b : Nat) : M :=
  match (m.bank b).copy with
  | none => m
  | some c =>
    let n := b / 2048
    let entry := (if c.isRow then 1 else 2) * 2 ^ 62 + b * 2 ^ 44 + c.index * 2 ^ 31 + c.slot * 2 ^ 26
    let m := m.modBank b fun k => { k with
      copy := none, unwritten := k.unwritten ++ [entry]
      rowsUsed := k.rowsUsed + c.isRow.toNat, colsUsed := k.colsUsed + (!c.isRow).toNat }
    let m := m.setObjFld 0x5041 (n + 1) 15 8 (min (m.objFld 0x5041 (n + 1) 15 8) (m.rowsLeft b))
    let m := m.setObjFld 0x5041 (n + 1) 7 0 (min (m.objFld 0x5041 (n + 1) 7 0) (m.colsLeft b))
    let m := if c.isRow && m.rowsLeft b == 0 then m.wrapObj 0x5041 (n + 1) 31 16 1 else m
    m.logMemory n (if c.isRow then 0x04 else 0x05) 5 0 0 (spareAddr b c.isRow c.index)

/-- SPARING_COPY_DONE. -/
def execSparingCopyDone (bank : Fin 196608) (s : State) : Host.Outcome State Fault Refusal :=
  s.run fun m => m.when m.live fun m => m.copyDone bank

/-- The bank's oldest unwritten repair goes into the repair map, where it has room (R285). -/
def M.writeRepair (m : M) (b : Nat) : M :=
  match (m.bank b).unwritten with
  | [] => m
  | e :: rest =>
    let m := m.modBank b fun k => { k with unwritten := rest }
    if 32768 ≤ m.dev.repairMap.length then m
    else
      let m : M := { m with dev := { m.dev with repairMap := m.dev.repairMap ++ [e] } }
      (m.setObjFld 0x5070 1 15 0 m.dev.repairMap.length).setObjBit 0x5070 1 16 (m.dev.repairMap.length == 32768)

/-- REPAIR_MAP_WRITE. -/
def execRepairMapWrite (bank : Fin 196608) (s : State) : Host.Outcome State Fault Refusal :=
  s.run fun m => m.when m.live fun m => m.writeRepair bank

/-- BUCKET_LEAK (R447). -/
def execBucketLeak (cls : Fin 8) (inst : Nat) (s : State) : Host.Outcome State Fault Refusal :=
  s.run fun m =>
    let k := bucketKey cls inst
    let v := Tab.get m.dev.buckets 0 k
    if v ≤ 1 then m.modBuckets fun b => Tab.erase b k else m.modBuckets fun b => Tab.put b k (v - 1)

/-! ## SRAM blocks (R273, R274, R278, R279) -/

/-- What an SRAM scrubber finds in a block: whether it is poisoned, the bit to flip back, and which count rises
(0 none, 1 mended, 2 uncorrectable, 3 check bits rewritten). -/
structure SramFind where
  poison : Bool
  flip : Option (Nat × Nat)
  count : Nat
deriving DecidableEq, Repr

/-- The one bit that is set, where exactly one is. -/
def oneBit (v : Nat) : Option Nat :=
  match bitsSet v 16 with
  | [i] => some i
  | _ => none

/-- Judges a block: `err` the bits that differ by word, and the differing row and column check bits. -/
def judgeSram (marked : Bool) (err : List (Nat × BitVec 16)) (rErr cErr : Nat) : SramFind :=
  let word (i : Nat) : Nat := gfSum ((err.filter fun e => e.1 == i).map fun e => e.2.toNat)
  let rows := (List.range 16).foldl (fun v i => if (bitsSet (word i) 16).length % 2 = 1 then v + 2 ^ i else v) 0
  let cols := gfSum ((List.range 16).map word)
  let inv := if marked then 0xFFFF else 0
  let dr := rows ^^^ rErr ^^^ inv
  let dc := cols ^^^ cErr ^^^ inv
  if dr = 0 && dc = 0 then ⟨false, none, 0⟩
  else if dr = 0xFFFF && dc = 0xFFFF then ⟨true, none, 0⟩
  else match oneBit dr, oneBit dc with
    | some i, some j => ⟨false, some (i, j), 1⟩
    | some _, none => if dc = 0 then ⟨false, none, 3⟩ else ⟨true, none, 2⟩
    | none, some _ => if dr = 0 then ⟨false, none, 3⟩ else ⟨true, none, 2⟩
    | none, none => ⟨true, none, 2⟩

/-- The bits of a block that end up changed: the error, and the bit flipped back; by byte of the block. -/
def sramChanges (err : List (Nat × BitVec 16)) (f : SramFind) : List (Nat × Nat) :=
  let all := (err.map fun e => (e.1, e.2.toNat)) ++ (match f.flip with | some (i, j) => [(i, 2 ^ j)] | none => [])
  all.flatMap fun e => [(2 * e.1, e.2 % 256), (2 * e.1 + 1, e.2 / 256 % 256)]

/-- The bits changed in the `w`-byte word `q` of a block. -/
def wordChange (cs : List (Nat × Nat)) (w q : Nat) : Nat :=
  gfSum ((cs.filter fun c => c.1 / w == q).map fun c => c.2 * 2 ^ (8 * (c.1 % w)))

/-- Counts a find in 0x5050 of store owner `i` (core index, 24 the Bazaar); mended blocks feed their bucket (R448). -/
def M.countSram (m : M) (i : Nat) (f : SramFind) : M :=
  match f.count with
  | 1 => ((m.wrapObj 0x5050 (i + 1) 63 32 1).bucketEvent 7 i).2
  | 2 => m.satObj 0x5050 (i + 1) 31 16 1
  | 3 => m.satObj 0x5050 (i + 1) 15 0 1
  | _ => m

/-- A block held in addressed memory: Waystation or Bazaar. -/
def M.scrubLine (m : M) (owner a : Nat) (err : List (Nat × BitVec 16)) (r c : Nat) : M :=
  let f := judgeSram (m.marked a) err r c
  let m := (sramChanges err f).foldl (fun (m : M) x =>
    if x.2 = 0 then m else m.op (.put (a + x.1) (m.byte (a + x.1) ^^^ BitVec.ofNat 8 x.2))) m
  (m.setMark a f.poison).countSram owner f

/-- A block of four Cistern entries. -/
def M.scrubCistern (m : M) (i block : Nat) (err : List (Nat × BitVec 16)) (r c : Nat) : M :=
  let es := (List.range 4).map (4 * block + ·)
  let f := judgeSram (es.any fun e => (m.cis i e).2) err r c
  let cs := sramChanges err f
  let m := es.zipIdx.foldl (fun (m : M) e => m.setCis i e.1 ((m.cis i e.1).1 ^^^ wordChange cs 8 e.2) f.poison) m
  m.countSram i f

/-- What an entry of a table key reads where nothing was loaded (R226). -/
def tableDefault (key : Nat) : Nat := if key / 4 = 2 then 0x3F800000 else 0

/-- A block of eight entries of a table copy: `block` = ((context × 12 + key) × 2 + copy) × 1,024 + block of the table. -/
def M.scrubTable (m : M) (i block : Nat) (err : List (Nat × BitVec 16)) (r c : Nat) : M :=
  let x := block / 2048 / 12 % 16
  let key := block / 2048 % 12
  let shadow := block / 1024 % 2 == 1
  let es := (List.range 8).map (8 * (block % 1024) + ·)
  let regs := m.ctx i x
  let t := Tab.get (if shadow then regs.shadow else regs.tables) [] key
  let get (e : Nat) : Nat × Bool := Tab.get t (tableDefault key, false) e
  let f := judgeSram (es.any fun e => (get e).2) err r c
  if f.count = 0 && err.isEmpty then m
  else
    let cs := sramChanges err f
    let t := es.zipIdx.foldl (fun t e => Tab.put t e.1 ((get e.1).1 ^^^ wordChange cs 4 e.2, f.poison)) t
    let m := m.modCtx i x fun q => if shadow then { q with shadow := Tab.put q.shadow key t } else { q with tables := Tab.put q.tables key t }
    m.countSram i f

/-- An SRAM scrubber looks at a block: `store` 4i Waystation, 4i + 1 Cistern, 4i + 2 tables of core i, 96 the Bazaar. -/
def M.sramScrub (m : M) (store block : Nat) (err : List (Nat × BitVec 16)) (r c : Nat) : M :=
  let i := store / 4
  if store = 96 then (if m.bazUp then m.scrubLine 24 (bazBase + 32 * block % bazSize) err r c else m)
  else if 96 < store || m.coreDown i || m.fusedOff i then m
  else match store % 4 with
    | 0 => m.scrubLine i (wsBase i + 32 * block % wsSize) err r c
    | 1 => m.scrubCistern i (block % 1572864) err r c
    | 2 => m.scrubTable i block err r c
    | _ => m

/-- SRAM_SCRUB. -/
def execSramScrub (store block : Nat) (err : List (Nat × BitVec 16)) (rErr cErr : BitVec 16) (s : State) :
    Host.Outcome State Fault Refusal :=
  s.run fun m => m.when m.live fun m => m.sramScrub store block err rErr.toNat cErr.toNat

end Sys2Proof.Machine
end

