-- ==== Sys2Proof/Machine/Bank.lean ====
section
/-! DEFINITION. Layer quadrants at work: segments, convoy steps and their boundaries, the activity budget, held accesses,
refresh, the memory scrubber, tract conversions (08_near_bank_convoys.md R187 to R209; 12 R275 to R277). -/

namespace Sys2Proof.Machine

/-! ## Clocks (R192, R393) -/

/-- Bank clock of a performance state, in MHz. -/
def bankMHz : Nat → Nat
  | 0 => 800 | 1 => 800 | 2 => 800 | 3 => 700 | 4 => 600 | 5 => 500 | 6 => 400 | _ => 200

/-- STEP_MAX at a bank clock in MHz: min(1,024, ⌊f × 1.5 µs⌋ − 176). -/
def stepMax (mhz : Nat) : Nat := min 1024 (mhz * 3 / 2 - 176)

/-- The state a tier runs in (0x3052): P7 in the forced floor. -/
def M.tierState (m : M) (t : Nat) : Nat := m.objFld 0x3052 (t + 1) 2 0

/-- The banks of a layer quadrant are powered and clocked, not in self-refresh. -/
def M.banksRun (m : M) (n : Nat) : Bool :=
  m.live && m.domUp (24 + tierOf (n / 4)) && m.tierRuns (tierOf (n / 4)) && !m.dev.darkLqs.contains n && !m.dev.lostLqs.contains n

/-! ## Held accesses (R197, R198) -/

/-- The NBU of the bank of a unit is in mid-step. -/
def Lq.busyBank (q : Lq) (b : Nat) : Bool := q.stepping.isSome && q.firstBank ≤ b && b < q.firstBank + q.banks

/-- Units of one bank in a list. -/
def heldAt (l : List HeldAccess) (b : Nat) : Nat := (l.filter fun h => bankOf h.unit == b).length

/-- Serves one access: a write, merged where it covers part of the unit (R224, R270), or a read that judges the unit; the
scrubber posts a request for every poisoned unit it passes (R275). -/
def M.serve (m : M) (h : HeldAccess) : M :=
  match h.data with
  | some ds =>
    let whole := ds.length == 64 && ds.all (·.isSome)
    let m := if whole then m else m.judgeUnit h.unit h.err 6
    m.storeMask h.unit (ds.map fun b => (b, h.poison))
  | none =>
    let m := m.judgeUnit h.unit h.err h.source
    if h.source = 0 && m.marked h.unit then m.postReload h.unit 0 else m

/-- The units a boundary serves: at most eight of each bank, in order. -/
def serveNow (l : List HeldAccess) : List HeldAccess × List HeldAccess :=
  l.foldl (fun (a : List HeldAccess × List HeldAccess) h =>
    if heldAt a.1 (bankOf h.unit) < 8 then (a.1 ++ [h], a.2) else (a.1, a.2 ++ [h])) ([], [])

/-- Serves everything held at a layer quadrant, then admits what waited for a place (R193, R198). -/
def M.serveHeld (m : M) (n : Nat) : M :=
  let r := serveNow (m.lq n).held
  let m := m.modLq n fun q => { q with held := r.2 }
  let m := r.1.foldl (fun (m : M) h => m.serve h) m
  m.modLq n fun q =>
    let r := serveNow q.queue
    { q with held := q.held ++ r.1, queue := r.2 }

/-- A layer quadrant that neither steps nor refreshes serves all that still waits. -/
def M.serveAll (m : M) (n : Nat) : M :=
  let q := m.lq n
  let all := q.held ++ q.queue
  all.foldl (fun (m : M) h => m.serve h) (m.modLq n fun q => { q with held := [], queue := [] })

/-- An access reaches its bank (R197, R198, R202). -/
def M.bankAccess (m : M) (h : HeldAccess) : M :=
  let n := h.unit / lqSize
  let q := m.lq n
  if q.busyBank (bankOf h.unit) || q.refreshing then
    if heldAt q.held (bankOf h.unit) < 8 then m.modLq n fun q => { q with held := q.held ++ [h] }
    else m.modLq n fun q => { q with queue := q.queue ++ [h] }
  else m.serve h

/-- BANK_ACCESS. -/
def execBankAccess (unit source : Nat) (data : Option (List (Option Byte))) (poison : Bool) (err : UnitErr) (s : State) :
    Host.Outcome State Fault Refusal :=
  s.run fun m =>
    let u := lineOf unit
    let core := if source = 1 then some (u / columnSize) else none
    m.when (u < memEnd && m.reach core u && m.tierRuns (u / columnSize / 4)) fun m => m.bankAccess { unit := u, source, data := data.map (·.take 64), poison, err }

/-! ## Steps (R191 to R193, R204) -/

/-- The bank groups that the work of a layer quadrant selects. -/
def Lq.groups (q : Lq) : List Nat :=
  if q.banks = 0 then [] else (List.range ((q.firstBank + q.banks - 1) / 16 - q.firstBank / 16 + 1)).map (q.firstBank / 16 + ·)

/-- A step that can begin waits for its grant from now on (R204). -/
def M.readyStep (m : M) (n : Nat) : M :=
  let q := m.lq n
  if q.work.isEmpty || q.halves = 0 || q.stepping.isSome || q.readyAt.isSome then m
  else ({ m with dev := { m.dev with readyCtr := m.dev.readyCtr + 1 } } : M).modLq n fun q => { q with readyAt := some m.dev.readyCtr }

/-- A broadcast segment has arrived in a group's buffer half; once every selected group holds it, work on it may begin
(R191). -/
def M.segmentArrive (m : M) (n g : Nat) : M :=
  let q := m.lq n
  if !q.groups.contains g || q.arrived.contains g || min 2 q.work.length ≤ q.halves then m
  else
    let a := q.arrived ++ [g]
    if q.groups.all a.contains then (m.modLq n fun q => { q with arrived := [], halves := q.halves + 1 }).readyStep n
    else m.modLq n fun q => { q with arrived := a }

/-- SEGMENT_ARRIVE. -/
def execSegmentArrive (lq : Fin 96) (group : Fin 128) (s : State) : Host.Outcome State Fault Refusal :=
  s.run fun m => m.when (m.banksRun lq) fun m => m.segmentArrive lq group

/-- The manifest of core `i` that works its banks is done once all four layer quadrants are. -/
def M.convoyDone (m : M) (i : Nat) : M :=
  if (List.range 4).all fun l => (m.lq (4 * i + l)).work.isEmpty then
    m.modRun i fun s => if (s.kind == kConvoy || s.kind == kKv) && s.phase == .waiting then { s with phase := .done } else s
  else m

/-- One refresh is taken. -/
def M.refreshed (m : M) (n : Nat) : M := m.setObjFld 0x5021 (n + 1) 3 0 (m.objFld 0x5021 (n + 1) 3 0 - 1)

/-- POSTPONE_LIMIT. -/
def M.postpone (m : M) : Nat := m.obj 0x5020 1

/-- A layer quadrant that is not stepping and owes a refresh begins one (R202). -/
def M.idleRefresh (m : M) (n : Nat) : M :=
  if (m.lq n).stepping.isNone && 0 < m.objFld 0x5021 (n + 1) 3 0 then m.modLq n fun q => { q with refreshing := true } else m

/-- The step of a layer quadrant ends: its boundary runs (R193). -/
def M.stepEnd (m : M) (n : Nat) : M :=
  match (m.lq n).stepping with
  | none => m
  | some c =>
    let m := m.modLq n fun q =>
      match q.work with
      | [] => { q with stepping := none }
      | w :: rest =>
        if w ≤ c then { q with stepping := none, work := rest, halves := q.halves - (if rest.isEmpty then q.halves else 1) }
        else { q with stepping := none, work := (w - c) :: rest }
    let owed := m.objFld 0x5021 (n + 1) 3 0
    let m := if 0 < owed && m.postpone ≤ owed then (m.refreshed n).wrapObj 0x5021 (n + 1) 39 8 1 else m
    let m := (m.serveHeld n).readyStep n
    let m := if (m.lq n).readyAt.isNone then (let m := m.idleRefresh n; if (m.lq n).refreshing then m else m.serveAll n) else m
    m.convoyDone (n / 4)

/-- CONVOY_STEP_END. -/
def execConvoyStepEnd (lq : Fin 96) (s : State) : Host.Outcome State Fault Refusal :=
  s.run fun m => m.when (m.live && m.tierRuns (tierOf (lq.val / 4))) fun m => m.stepEnd lq

/-- The layer quadrants of tier `t` (0 to 5). -/
def tierLqs (t : Nat) : List Nat := (List.range 16).map (16 * t + ·)

/-- The waiting step that became ready first (R204); ties cannot arise, since each has its own place in the order. -/
def M.firstReady (m : M) (t : Nat) : Option Nat :=
  ((tierLqs t).foldl (fun (b : Option (Nat × Nat)) n =>
    match (m.lq n).readyAt, b with
    | some r, some x => if r < x.2 then some (n, r) else b
    | some r, none => some (n, r)
    | none, _ => b) none).map (·.1)

/-- Grants the first waiting step of a tier, where it fits the applied budget, owes no refresh beyond the limit, and the tier
does not change its clock. -/
def M.stepGrant (m : M) (t : Nat) : M :=
  match m.firstReady t with
  | none => m
  | some n =>
    let q := m.lq n
    let busy := (((tierLqs t).filter fun k => (m.lq k).stepping.isSome).map fun k => (m.lq k).banks).foldl (· + ·) 0
    if q.refreshing || m.postpone < m.objFld 0x5021 (n + 1) 3 0 || m.objFld 0x3141 (t + 1) 15 0 < q.banks + busy then m
    else m.modLq n fun q => { q with readyAt := none, stepping := some (min (stepMax (bankMHz (m.tierState t))) (q.work.headD 0)) }

/-- STEP_GRANT. -/
def execStepGrant (tier : Fin 6) (s : State) : Host.Outcome State Fault Refusal :=
  s.run fun m => m.when (m.live && m.domUp (24 + tier.val) && m.tierRuns tier) fun m => m.stepGrant tier

/-- The banks of a layer quadrant stop for good: a lost supply, a reset, a mapped-out layer. What it worked on is over. -/
def M.clearLq (m : M) (n : Nat) : M :=
  (m.modLq n fun q => { Lq.zero with scrubUnit := q.scrubUnit }).convoyDone (n / 4)

/-! ## Refresh (R201 to R203) -/

/-- The refresh timer ticks. -/
def M.refreshDue (m : M) (n : Nat) : M :=
  (m.setObjFld 0x5021 (n + 1) 3 0 (min 8 (m.objFld 0x5021 (n + 1) 3 0 + 1))).idleRefresh n

/-- REFRESH_DUE. -/
def execRefreshDue (lq : Fin 96) (s : State) : Host.Outcome State Fault Refusal :=
  s.run fun m => m.when (m.banksRun lq) fun m => m.refreshDue lq

/-- An idle refresh completes: what waited for it is served, and the next one owed begins. -/
def M.refreshDone (m : M) (n : Nat) : M :=
  if !(m.lq n).refreshing then m
  else (((m.refreshed n).modLq n fun q => { q with refreshing := false }).serveAll n).idleRefresh n

/-- REFRESH_DONE. -/
def execRefreshDone (lq : Fin 96) (s : State) : Host.Outcome State Fault Refusal :=
  s.run fun m => m.when (m.banksRun lq) fun m => m.refreshDone lq

/-! ## The memory scrubber (R275 to R277) -/

/-- Units of a layer quadrant. -/
def lqUnits : Nat := 1610612736

/-- The scrubber goes on to unit `u`, counting a pass where it wraps. -/
def M.scrubTo (m : M) (n u : Nat) : M :=
  let m := m.modLq n fun q => { q with scrubUnit := u % lqUnits }
  let m := if lqUnits ≤ u then m.wrapObj 0x5031 (n + 1) 63 32 1 else m
  m.setObjFld 0x5031 (n + 1) 8 0 (u % lqUnits / 4194304)

/-- The scrubber takes its next unit; it does not walk a tract under conversion. -/
def M.scrub (m : M) (n : Nat) (err : UnitErr) : M :=
  let u := (m.lq n).scrubUnit
  let a := n * lqSize + 64 * u
  if m.dev.convs.any fun c => c.begun && c.column == n / 4 && c.tract == 384 * (n % 4) + tractOf a then m.scrubTo n ((u / 4194304 + 1) * 4194304)
  else (m.bankAccess { unit := a, source := 0, data := none, poison := false, err }).scrubTo n (u + 1)

/-- SCRUB_UNIT. -/
def execScrubUnit (lq : Fin 96) (err : UnitErr) (s : State) : Host.Outcome State Fault Refusal :=
  s.run fun m => m.when (m.banksRun lq) fun m => m.scrub lq err

/-! ## Tract modes (R187, R188) -/

/-- Bytes `lo` to `hi` of local memory meet column tract `tr` of column `c`. -/
def meetsTract (c tr lo hi : Nat) : Bool :=
  let base := c * columnSize + tr / 384 * lqSize + tr % 384 * 0x10000000
  lo < base + 0x10000000 && base ≤ hi

/-- An uncommitted manifest of core `i` that passed validation touches the tract. -/
def M.slotTouches (m : M) (i c tr : Nat) (s : Slot) : Bool :=
  s.fixed.isNone && !s.words.isEmpty &&
    ((m.spans s.words).any (fun p => meetsTract c tr p.lo p.hi) ||
      (s.kind == kConvoy && i == c && (cLqs s.words).contains (tr / 384) && (List.range (cRows s.words)).any fun r =>
        let lo := tr % 384 * 0x20000
        let hits (o n : Nat) : Bool := n != 0 && o < lo + 0x20000 && lo < o + n
        hits (cOff s.words + r * cPitch s.words) (ebAt s.words 10 (cK s.words)) ||
          hits (cSOff s.words + r * cSPitch s.words) (if scaledAt s.words 10 then sbAt s.words 10 (cK s.words) else 0)))

/-- Every slot of a core, parked ones included. -/
def Core.slots (c : Core) : List Slot :=
  c.wait.toList ++ c.ready.toList ++ c.run.toList ++ c.ctxs.flatMap fun e => e.2.parkedRun.toList ++ e.2.parkedReady.toList

/-- Starts the conversion of a tract whose mode was written, once nothing uncommitted touches it. -/
def M.convStart (m : M) (c tr : Nat) : M :=
  if m.dev.cores.any fun e => e.2.slots.any (m.slotTouches e.1 c tr) then m
  else { m with dev := { m.dev with convs := m.dev.convs.map fun x => if x.column = c && x.tract = tr then { x with begun := true } else x } }

/-- TRACT_CONVERSION_START. -/
def execTractConversionStart (column : Fin 24) (tract : Fin 1536) (s : State) : Host.Outcome State Fault Refusal :=
  s.run fun m => m.when (m.banksRun (4 * column.val + tract.val / 384)) fun m => m.convStart column tract

/-- The conversion of a tract completes: the tract is in the mode its OPEN bit names. -/
def M.convDone (m : M) (c tr : Nat) : M :=
  if m.dev.convs.any fun x => x.column == c && x.tract == tr && x.begun then
    let m : M := { m with dev := { m.dev with convs := m.dev.convs.filter fun x => !(x.column == c && x.tract == tr) } }
    m.setObj (0x5110 + c) 25 (m.dev.convs.filter fun x => x.column == c).length
  else m

/-- TRACT_CONVERSION_DONE. -/
def execTractConversionDone (column : Fin 24) (tract : Fin 1536) (s : State) : Host.Outcome State Fault Refusal :=
  s.run fun m => m.when (m.banksRun (4 * column.val + tract.val / 384)) fun m => m.convDone column tract

end Sys2Proof.Machine
end

