-- ==== Sys2Proof/Machine/Bazaar.lean ====
section
/-! DEFINITION. The Bazaar's merge windows (05_matrix_arrays.md R110 to R114) and the Cistern's clearing (11_training_path.md
R255). -/

namespace Sys2Proof.Machine

/-! ## Merge windows -/

/-- The Bazaar bank of a line (R110). -/
def bazBank (line : Nat) : Nat := (line - bazBase) / 256 % 32

/-- The Bazaar line at address `a`. -/
def bazLine (a : Nat) : Nat := a / 256 * 256

def inBazaar (a : Nat) : Bool := bazBase ≤ a && a < bazBase + bazSize

/-- A window closes: its line is read once and goes to every core that joined (R112). -/
def M.windowClose (m : M) (line : Nat) : M :=
  match m.dev.windows.find? fun w => w.line == line with
  | none => m
  | some w => ({ m with dev := { m.dev with windows := m.dev.windows.filter fun x => x.line != line } } : M).deliverLine line w.joined

/-- Every core of a window's set has joined. -/
def Window.full (w : Window) : Bool := (bitsSet w.set 24).all w.joined.contains

/-- A core read reaches its bank: it joins the line's window, opens one, or is served alone (R111, R112). -/
def M.coreRead (m : M) (i line set : Nat) : M :=
  match m.dev.windows.find? fun w => w.line == line with
  | some w =>
    let w' : Window := { w with joined := addOnce w.joined i }
    let m : M := { m with dev := { m.dev with windows := m.dev.windows.map fun x => if x.line = line then w' else x } }
    if w'.full then m.windowClose line else m
  | none =>
    if 16 ≤ (m.dev.windows.filter fun w => bazBank w.line == bazBank line).length then m.deliverLine line [i]
    else
      let w : Window := { line, set, joined := [i] }
      let m : M := { m with dev := { m.dev with windows := m.dev.windows ++ [w] } }
      if w.full then m.windowClose line else m

/-- BAZAAR_CORE_READ. -/
def execBazaarCoreRead (core : Fin 24) (line : Nat) (set : BitVec 24) (s : State) : Host.Outcome State Fault Refusal :=
  s.run fun m =>
    let i : Nat := core
    -- a set of zero is the default: the reading core alone (R112)
    let want := if set = 0 then 2 ^ i else set.toNat
    m.when (inBazaar line && m.bazUp && m.fabricRuns && m.coreRuns i) fun m => m.coreRead i (bazLine line) want

/-- BAZAAR_WINDOW_CLOSE. -/
def execBazaarWindowClose (line : Nat) (s : State) : Host.Outcome State Fault Refusal :=
  s.run fun m => m.when (m.live && m.bazUp && m.fabricRuns) fun m => m.windowClose (bazLine line)

/-- A read or write that takes no part in merging (R111, R113). -/
def M.bazaarAccess (m : M) (a : Nat) (data : Option (List Byte)) (poison : Bool) : M :=
  match data with
  | none => m.deliverLine (bazLine a) []
  | some ds => m.putLocal m.deviceId a ((ds.take (bazBase + bazSize - a)).map fun b => (some b, poison))

/-- BAZAAR_ACCESS. -/
def execBazaarAccess (addr : Nat) (data : Option (List Byte)) (poison : Bool) (s : State) : Host.Outcome State Fault Refusal :=
  s.run fun m => m.when (inBazaar addr && m.live && m.bazUp && m.fabricRuns) fun m => m.bazaarAccess addr data poison

/-! ## The Cistern's clearing (R255) -/

/-- No manifest that was validated under the old ownership is uncommitted on the core. -/
def M.cisFree (m : M) (i : Nat) : Bool :=
  let c := m.core i
  let old (s : Slot) : Bool := s.fixed.isNone && needsCistern s.words
  !((c.ready.toList ++ c.run.toList ++ (c.wait.toList.filter fun s => !m.ownsCistern i s.ctx)).any old)

/-- The clear that was asked for begins. -/
def M.cisStart (m : M) (i : Nat) : M :=
  if (m.core i).cisPending && m.cisFree i then
    (m.modCore i fun c => { c with cisPending := false }).setObjBit 0x8040 (i + 1) 5 true
  else m

/-- CISTERN_CLEAR_START. -/
def execCisternClearStart (core : Fin 24) (s : State) : Host.Outcome State Fault Refusal :=
  s.run fun m => m.when (m.live && !m.coreDown core) fun m => m.cisStart core

/-- The clear completes: every entry is +0 and clean, and CLEARING falls. -/
def M.cisDone (m : M) (i : Nat) : M :=
  if m.objBit 0x8040 (i + 1) 5 then (m.clearCis i).setObjBit 0x8040 (i + 1) 5 false else m

/-- CISTERN_CLEAR_DONE. -/
def execCisternClearDone (core : Fin 24) (s : State) : Host.Outcome State Fault Refusal :=
  s.run fun m => m.when (m.live && !m.coreDown core) fun m => m.cisDone core

end Sys2Proof.Machine
end

