-- ==== Sys2Proof/Machine/Link.lean ====
section
/-! DEFINITION. The Itril links: flits out and in, credits, acknowledgement and replay, retraining, training phases, loss
(13_itril_link.md R292 to R310). -/

namespace Sys2Proof.Machine

/-! ## States (R292, R305) -/

def lsDisabled : Nat := 0
def lsDetect : Nat := 1
def lsTrain : Nat := 2
def lsNegotiate : Nat := 3
def lsActive : Nat := 4
def lsRetrain : Nat := 5
def lsFailed : Nat := 6

def linkObj (l : Nat) : Nat := 0x6100 + l

/-- Domain of the link quadrant of link `l` (R24). -/
def linkDomain (l : Nat) : Nat := 30 + l / 8

/-- A link takes state `st`; `reason` is recorded where it is not 0. A change to or from ACTIVE and every entry into FAILED are
logged and raise the link vector (R310, R348). -/
def M.setLinkState (m : M) (l st reason : Nat) : M :=
  let old := m.linkState l
  let m := m.setObjFld (linkObj l) 2 3 0 st
  let m := if reason = 0 then m else m.setObjFld (linkObj l) 2 23 16 reason
  let m := if st = lsDisabled || st = lsFailed then ((m.setObjFld (linkObj l) 2 25 24 0).setObjFld (linkObj l) 2 35 32 0).setObjFld
    (linkObj l) 2 39 36 0 else m
  if old ≠ st && (old = lsActive || st = lsActive || st = lsFailed) then
    let why := m.objFld (linkObj l) 2 23 16
    (m.logFault 0x6001 l (why * 65536 + st) why clkMgmt).raise 390
  else m

/-! ## Loss (R307) -/

/-- A message of which some slots have been sent leaves its queue; its owner. -/
def Link.dropMid (k : Link) : Option TxOwner × Link :=
  if k.mid = 1 then ((k.txMirror.head?).map (·.owner), { k with txMirror := k.txMirror.drop 1, mid := 0 })
  else if k.mid = 2 then ((k.txBulk.head?).map (·.owner), { k with txBulk := k.txBulk.drop 1, mid := 0 })
  else (none, k)

/-- The link is down for the transaction layer: what was not acknowledged is lost, what was held of a message is discarded,
and with `all` what waits to be sent is lost too. -/
def M.linkDown (m : M) (l : Nat) (all : Bool) : M :=
  let k := m.link l
  let d := k.dropMid
  let queued := if all then (d.2.txSb ++ d.2.txMirror ++ d.2.txBulk).map (·.owner) else []
  let owners := k.replay.flatMap (·.owners) ++ d.1.toList ++ queued
  let m := m.modLink l fun _ => { d.2 with
    replay := [], replaying := 0, rxSb := [], rxBulk := [], freeSb := 0, freeBulk := 0, nakDue := false, nakOut := false
    reqDue := 0, downHeld := true
    txSb := if all then [] else d.2.txSb, txMirror := if all then [] else d.2.txMirror
    txBulk := if all then [] else d.2.txBulk }
  let m := if owners.isEmpty then m else m.satObj (linkObj l) 4 31 16 1
  owners.eraseDups.foldl (fun (m : M) o => m.loseOwner o) m

/-- The link goes to FAILED with a reason. -/
def M.linkFail (m : M) (l reason : Nat) : M :=
  ((m.setLinkState l lsFailed reason).modLink l fun k => { k with phase := 0 }).linkDown l false

/-- The link is DISABLED; everything left is lost. -/
def M.linkOff (m : M) (l : Nat) : M :=
  ((m.setLinkState l lsDisabled 0).modLink l fun k => { k with phase := 0, draining := false }).linkDown l true

/-- Nothing waits, nothing is unacknowledged. -/
def Link.drained (k : Link) : Bool := k.replay.isEmpty && k.txSb.isEmpty && k.txMirror.isEmpty && k.txBulk.isEmpty

/-- A draining link with nothing left is DISABLED. -/
def M.drainCheck (m : M) (l : Nat) : M := if (m.link l).draining && (m.link l).drained then m.linkOff l else m

/-- A link begins its drain (R307). -/
def M.linkDrain (m : M) (l : Nat) : M :=
  if m.linkState l = lsDisabled then m else (m.modLink l fun k => { k with draining := true }).drainCheck l

/-- A DISABLED link whose ENABLE is 1 and whose quadrant is on goes to DETECT (R292). -/
def M.linkWake (m : M) (l : Nat) : M :=
  if m.objBit (linkObj l) 1 4 && m.domOn (linkDomain l) && m.linkState l = lsDisabled then m.setLinkState l lsDetect 0
  else m.modLink l fun k => { k with draining := k.draining && !m.objBit (linkObj l) 1 4 }

/-! ## Retraining (R305, R306) -/

/-- Enters RETRAIN. -/
def M.enterRetrain (m : M) (l reason : Nat) : M :=
  let m := (m.setLinkState l lsRetrain reason).satObj (linkObj l) 4 15 0 1
  m.modLink l fun k => { k with
    reqDue := 0, phase := 1, mode := 2, repeats := 0, lanes := m.objFld (linkObj l) 2 35 32, nakDue := false }

/-- A cause other than PARTNER: RETRAIN_REQ goes out three times first. -/
def M.wantRetrain (m : M) (l reason : Nat) : M :=
  if m.linkState l = lsActive && (m.link l).reqDue = 0 then m.modLink l fun k => { k with reqDue := 3, reqReason := reason } else m

/-! ## Acknowledgement and replay (R303, R304) -/

/-- Flits up to the one an ACK names leave the replay buffer. -/
def Link.acked (k : Link) (ack : Nat) : Link :=
  match k.replay.findIdx? fun f => f.flit.seq == ack with
  | none => k
  | some i =>
    let rest := k.replay.drop (i + 1)
    { k with replay := rest, replaying := min k.replaying rest.length }

/-- Replays from the oldest unacknowledged flit, unless that is the next to be sent again already. Every replay counts. -/
def M.startReplay (m : M) (l : Nat) : M :=
  let k := m.link l
  if k.replaying = k.replay.length then m
  else
    let m := (m.modLink l fun k => { k with replaying := k.replay.length }).satObj (linkObj l) 3 15 0 1
    let r := m.bucketEvent 3 l
    if r.1 then r.2.wantRetrain l 1 else r.2

/-! ## Sending (R298, R302) -/

/-- Takes `n` slots from waiting messages: the slots, the owners of their messages, what is left, and whether its first
message is part sent. -/
def takeSlots (n : Nat) : List TxMsg → List LSlot × List TxOwner × List TxMsg × Bool
  | [] => ([], [], [], false)
  | x :: r =>
    if n = 0 then ([], [], x :: r, false)
    else if x.slots.length ≤ n then
      let q := takeSlots (n - x.slots.length) r
      (x.slots ++ q.1, x.owner :: q.2.1, q.2.2.1, q.2.2.2)
    else (x.slots.take n, [x.owner], { x with slots := x.slots.drop n } :: r, true)

/-- Takes bulk slots: a message part sent first, then mirror messages, then the rest (R313, R330). -/
def Link.takeBulk (k : Link) (n : Nat) : List LSlot × List TxOwner × Link :=
  let first := if k.mid = 2 then takeSlots n (k.txBulk.take 1) else ([], [], [], false)
  let bulk := if k.mid = 2 then first.2.2.1 ++ k.txBulk.drop 1 else k.txBulk
  if first.2.2.2 || (k.mid = 2 && n ≤ first.1.length) then
    (first.1, first.2.1, { k with txBulk := bulk, mid := if first.2.2.2 then 2 else 0 })
  else
    let b := takeSlots (n - first.1.length) k.txMirror
    let c := takeSlots (n - first.1.length - b.1.length) bulk
    (first.1 ++ b.1 ++ c.1, first.2.1 ++ b.2.1 ++ c.2.1,
      { k with txMirror := b.2.2.1, txBulk := c.2.2.1
               mid := if b.2.2.2 || (k.mid = 1 && n = 0) then 1 else if c.2.2.2 then 2 else 0 })

/-- Header fields of the next flit of a TYPE. -/
def Link.blank (k : Link) (kind seq : Nat) : LFlit :=
  { kind, seq, ack := k.rxLast, creditBulk := min (k.freeBulk / 16) 255, creditSb := min k.freeSb 255, fmt := 1, resv := 0
    sbMap := 0, fillMap := 0, poisonMap := 0, slots := List.replicate 15 0, good := true, fecBad := false, fecSyms := 0 }

/-- What a flit has reported as freed is reported. -/
def Link.reported (k : Link) (f : LFlit) : Link :=
  { k with freeSb := k.freeSb - f.creditSb, freeBulk := k.freeBulk - 16 * f.creditBulk }

/-- Bit `s` for every slot that is poisoned. -/
def poisonBits (ss : List LSlot) : Nat := ss.zipIdx.foldl (fun v x => if x.1.poison then v + 2 ^ x.2 else v) 0

/-- The next PAYLOAD flit, where a slot may be placed: sideband slots ahead of bulk slots, within the credits held. -/
def Link.nextPayload (k : Link) : Option (LFlit × Link) :=
  if 1024 ≤ k.replay.length then none
  else
    let s := takeSlots (min 15 k.crSb) k.txSb
    let b := ({ k with txSb := s.2.2.1 } : Link).takeBulk (min (15 - s.1.length) k.crBulk)
    let all := s.1 ++ b.1
    if all.isEmpty then none
    else
      let f : LFlit := { k.blank 1 k.txSeq with
        sbMap := BitVec.ofNat 15 (2 ^ s.1.length - 1)
        fillMap := BitVec.ofNat 15 (2 ^ all.length - 1)
        poisonMap := BitVec.ofNat 15 (poisonBits all)
        slots := all.map (·.bits) ++ List.replicate (15 - all.length) 0 }
      let k' := b.2.2.reported f
      some (f, { k' with
        crSb := k.crSb - s.1.length, crBulk := k.crBulk - b.1.length, txSeq := (k.txSeq + 1) % 4096
        replay := k.replay ++ [{ flit := f, owners := (s.2.1 ++ b.2.1).eraseDups }] })

/-- The next flit of an ACTIVE link: a NAK that is owed, RETRAIN_REQ, a replay, a new PAYLOAD flit, else IDLE. -/
def M.flitSend (m : M) (l : Nat) : M :=
  let k := m.link l
  let out (f : LFlit) (k : Link) : M := (m.modLink l fun _ => k).send (.flit l f)
  if k.nakDue then
    let f := k.blank 2 0
    out f { k.reported f with nakDue := false }
  else if k.reqDue ≠ 0 then
    let f := k.blank 3 0
    let m := out f { k.reported f with reqDue := k.reqDue - 1 }
    if k.reqDue = 1 then m.enterRetrain l k.reqReason else m
  else if k.replaying ≠ 0 then
    match k.replay[k.replay.length - k.replaying]? with
    | some f => out f.flit { k with replaying := k.replaying - 1 }
    | none => m
  else match k.nextPayload with
    | some x => out x.1 x.2
    | none =>
      let f := k.blank 0 0
      out f (k.reported f)

/-- The link carries flits: ACTIVE, the PLL of its quadrant running (R431). -/
def M.linkUp (m : M) (l : Nat) : Bool := m.live && m.linkState l == lsActive && m.pllRuns (0x20 + l / 8)

/-! ## Receiving (R295, R299, R300, R304) -/

/-- A NAK is owed for the first flit that fails. -/
def Link.refuse (k : Link) : Link := if k.nakOut then k else { k with nakDue := true, nakOut := true }

/-- Credits and ACK of a good flit. -/
def Link.credit (k : Link) (f : LFlit) : Link :=
  { k.acked f.ack with crSb := k.crSb + f.creditSb, crBulk := k.crBulk + 16 * f.creditBulk }

/-- Counts what the decoder reported (R295); an uncorrectable codeword feeds its bucket (R305). -/
def M.fecReport (m : M) (l : Nat) (f : LFlit) : M :=
  let m := if f.fecSyms = 0 then m else m.wrapObj (linkObj l) 3 63 32 f.fecSyms
  if !f.fecBad then m
  else
    let r := (m.satObj (linkObj l) 3 31 16 1).bucketEvent 4 l
    if r.1 then r.2.wantRetrain l 2 else r.2

/-- Its CRC is good and no codeword under it failed. -/
def LFlit.whole (f : LFlit) : Bool := f.good && !f.fecBad

/-- A good flit that R300 refuses: unknown TYPE or FMT, or a reserved bit. -/
def LFlit.foreign (f : LFlit) : Bool := 4 ≤ f.kind || f.fmt != 1 || f.resv != 0

/-- A flit is discarded as a protocol error. -/
def M.flitProtocol (m : M) (l : Nat) : M := (m.modLink l Link.refuse).wantRetrain l 7

/-- A flit reaches an ACTIVE link: one that is not whole is discarded and NAKed, a foreign one is a protocol error; `f` acts on
a good one of its own TYPE. -/
def M.receive (m : M) (l : Nat) (f : LFlit) (kind : Nat) (act : M → M) : M :=
  if !m.linkUp l then m
  else
    let m := m.fecReport l f
    if !f.whole then m.modLink l Link.refuse
    else if f.foreign || f.kind ≠ kind then m.flitProtocol l
    else (act m).drainCheck l

/-- The filled slots of a class, in slot order. -/
def LFlit.classSlots (f : LFlit) (sb : Bool) : List LSlot :=
  (f.slots.zipIdx.filter fun x => f.fillMap.toNat.testBit x.2 && f.sbMap.toNat.testBit x.2 == sb).map fun x =>
    ⟨x.1, f.poisonMap.toNat.testBit x.2⟩

/-- A PAYLOAD flit is taken in order, or refused. -/
def M.takePayload (m : M) (l : Nat) (f : LFlit) : M :=
  m.modLink l fun k =>
    if f.seq = (k.rxLast + 1) % 4096 then
      { k.credit f with rxLast := f.seq, nakDue := false, nakOut := false
                        rxSb := k.rxSb ++ f.classSlots true, rxBulk := k.rxBulk ++ f.classSlots false }
    else k.refuse

/-- PAYLOAD. -/
def execPayload (link : Fin 32) (flit : LFlit) (s : State) : Host.Outcome State Fault Refusal :=
  s.run fun m => m.receive link flit 1 fun m => m.takePayload link flit

/-- IDLE. -/
def execIdle (link : Fin 32) (flit : LFlit) (s : State) : Host.Outcome State Fault Refusal :=
  s.run fun m => m.receive link flit 0 fun m => m.modLink link fun k => k.credit flit

/-- NAK. -/
def execNak (link : Fin 32) (flit : LFlit) (s : State) : Host.Outcome State Fault Refusal :=
  s.run fun m => m.receive link flit 2 fun m => (m.modLink link fun k => k.credit flit).startReplay link

/-- RETRAIN_REQ. -/
def execRetrainReq (link : Fin 32) (flit : LFlit) (s : State) : Host.Outcome State Fault Refusal :=
  s.run fun m => m.receive link flit 3 fun m => (m.modLink link fun k => k.credit flit).enterRetrain link 5

/-- FLIT_PROTOCOL_ERROR. -/
def execFlitProtocolError (link : Fin 32) (flit : LFlit) (s : State) : Host.Outcome State Fault Refusal :=
  s.run fun m => m.receive link flit 16 id

/-- REPLAY_TIMEOUT. -/
def execReplayTimeout (link : Fin 32) (sender : Bool) (s : State) : Host.Outcome State Fault Refusal :=
  s.run fun m => m.when (m.linkUp link) fun m =>
    if sender then m.startReplay link
    else m.modLink link fun k => if k.nakOut then { k with nakDue := true } else k

/-- LANE_SIGNAL_LOSS. -/
def execLaneSignalLoss (link : Fin 32) (s : State) : Host.Outcome State Fault Refusal :=
  s.run fun m => m.when m.live fun m => m.wantRetrain link 3

/-- ALIGN_LOSS. -/
def execAlignLoss (link : Fin 32) (s : State) : Host.Outcome State Fault Refusal :=
  s.run fun m => m.when m.live fun m => m.wantRetrain link 4

/-! ## Training (R293, R296, R297, R306, R308) -/

/-- A cold training begins at phase 1 on four lanes. -/
def M.trainCold (m : M) (l : Nat) : M :=
  (m.setLinkState l lsTrain 0).modLink l fun k => { k with phase := 1, mode := 0, repeats := 0, lanes := 0xF }

/-- The partner's training frames are seen: fast start where settings are saved and FORCE_COLD is 0, else cold. -/
def M.linkDetect (m : M) (l : Nat) : M :=
  if m.linkState l ≠ lsDetect then m
  else
    let fast := (m.link l).saved.isSome && !m.objBit (linkObj l) 1 6
    let m := (m.setObjBit (linkObj l) 1 6 false).setObjBit (linkObj l) 2 4 fast
    if fast then (m.setLinkState l lsTrain 0).modLink l fun k => { k with
        phase := 1, mode := 1, repeats := 0, lanes := ((k.saved.getD []).getD 4 0xF) }
    else m.trainCold l

/-- LINK_DETECT. -/
def execLinkDetect (link : Fin 32) (s : State) : Host.Outcome State Fault Refusal :=
  s.run fun m => m.when m.live fun m => m.linkDetect link

/-- A phase fails as a whole: a cold training repeats from phase 2, three times at most; a fast start discards its settings and
becomes cold; a retrain becomes cold. -/
def M.phaseFail (m : M) (l : Nat) : M :=
  let k := m.link l
  if k.mode = 0 then
    if k.repeats < 3 then (m.setLinkState l lsTrain 0).modLink l fun k => { k with phase := 2, repeats := k.repeats + 1 }
    else m.linkFail l 9
  else
    let m := if k.mode = 1 then (m.modLink l fun k => { k with saved := none }).setObjBit (linkObj l) 2 4 false else m
    m.trainCold l

/-- The two lanes a link falls back to, where both still pass. -/
def lanePair (lanes : Nat) : Option Nat := if lanes % 4 = 3 then some 0x3 else if 12 ≤ lanes then some 0xC else none

/-- Lanes have failed to lock or equalise. -/
def M.lanesFail (m : M) (l lanes : Nat) : M :=
  let k := m.link l
  if k.mode ≠ 0 then m.phaseFail l
  else match lanePair (lanes &&& k.lanes) with
    | some p => if m.objBit (linkObj l) 1 5 then m.modLink l fun k => { k with lanes := p, phase := k.phase + 1 } else m.linkFail l 9
    | none => m.linkFail l 9

/-- What the fingerprint of R296 covers. -/
def M.fingerprint (m : M) (l : Nat) : List Nat :=
  [m.fuse.serial.toNat, l, (m.link l).partnerSerial, m.objFld (linkObj l) 2 44 40, (m.link l).lanes, m.objFld (linkObj l) 2 39 36]

/-- Verify passes: the link is ACTIVE; a cold training saves its settings. -/
def M.linkPass (m : M) (l : Nat) : M :=
  let k := m.link l
  let m := (m.setObjFld (linkObj l) 2 35 32 k.lanes).setObjFld (linkObj l) 2 25 24 (if k.lanes = 0xF then 2 else 1)
  let fp := m.fingerprint l
  let m := m.modLink l fun k => { k with phase := 0, downHeld := false, saved := if k.mode = 0 then some fp else k.saved }
  m.setLinkState l lsActive 0

/-- A training phase ends: the lanes that pass it, and whether it passes as a whole. -/
def M.phaseEnd (m : M) (l lanes : Nat) (ok : Bool) : M :=
  let k := m.link l
  if k.phase = 0 then m
  else if k.phase ≤ 2 then
    if !ok || lanes &&& k.lanes ≠ k.lanes then m.lanesFail l lanes
    else m.modLink l fun k => { k with phase := if k.mode = 0 then k.phase + 1 else 3 }
  else if !ok then m.phaseFail l
  else if k.phase = 3 then m.modLink l fun k => { k with phase := 4 }
  else if k.phase = 4 then (m.setLinkState l lsNegotiate 0).modLink l fun k => { k with phase := 5 }
  else if k.phase = 6 then m.linkPass l
  else m

/-- LINK_TRAIN_PHASE_END. -/
def execLinkTrainPhaseEnd (link : Fin 32) (lanes : BitVec 4) (ok : Bool) (s : State) : Host.Outcome State Fault Refusal :=
  s.run fun m => m.when m.live fun m => m.phaseEnd link lanes.toNat ok

/-- Both sides start at SEQ 0 with full credits (R307). -/
def Link.restart (k : Link) : Link :=
  { k with txSeq := 0, rxLast := 4095, crSb := 64, crBulk := 8192, freeSb := 0, freeBulk := 0, rxSb := [], rxBulk := []
           nakDue := false, nakOut := false }

/-- The exchange of NEGOTIATE: versions, identity, the partner's last accepted SEQ, and whether it has reset its numbers. -/
def M.negotiate (m : M) (l versions partner plink serial last : Nat) (fresh : Bool) : M :=
  if (m.link l).phase ≠ 5 then m
  else
    let m := (m.setObjFld (linkObj l) 2 63 48 partner).setObjFld (linkObj l) 2 44 40 plink
    let m := m.modLink l fun k => { k with partnerSerial := serial }
    if !versions.testBit 1 then (m.setObjFld (linkObj l) 2 39 36 0).linkFail l 8
    else
      let m := m.setObjFld (linkObj l) 2 39 36 1
      let k := m.link l
      if k.mode = 1 && k.saved ≠ some (m.fingerprint l) then m.phaseFail l
      else
        let m := (m.setLinkState l (if k.mode = 2 then lsRetrain else lsTrain) 0).modLink l fun k => { k with phase := 6 }
        if k.downHeld || fresh then
          let m := if k.downHeld then m else m.linkDown l false
          m.modLink l Link.restart
        else
          (m.modLink l fun k => { k.acked last with nakDue := false, nakOut := false, replaying := 0 }).startReplay l

/-- LINK_NEGOTIATE. -/
def execLinkNegotiate (link : Fin 32) (versions partnerId : BitVec 16) (partnerLink : BitVec 5) (partnerSerial : W64)
    (lastSeq : BitVec 12) (fresh : Bool) (s : State) : Host.Outcome State Fault Refusal :=
  s.run fun m => m.when m.live fun m =>
    m.negotiate link versions.toNat partnerId.toNat partnerLink.toNat partnerSerial.toNat lastSeq.toNat fresh

/-- LINK_HOLD_EXPIRY. -/
def execLinkHoldExpiry (link : Fin 32) (s : State) : Host.Outcome State Fault Refusal :=
  s.run fun m =>
    let st := m.linkState link
    m.when (m.live && (st == lsTrain || st == lsNegotiate || st == lsRetrain) && !(m.link link).downHeld) fun m => m.linkDown link false

/-- LINK_DRAIN_EXPIRY. -/
def execLinkDrainExpiry (link : Fin 32) (s : State) : Host.Outcome State Fault Refusal :=
  s.run fun m => m.when (m.live && (m.link link).draining) fun m => m.linkOff link

end Sys2Proof.Machine
end

