-- ==== Sys2Proof/Machine/Mirror.lean ====
section
/-! DEFINITION. Mirror pairs: parts applied on the secondary, acknowledgements, lag and solo, resync, takeover
(14_fabric_mirroring.md R328 to R335). -/

namespace Sys2Proof.Machine

/-! ## The pair (R328) -/

def M.partner (m : M) : Nat := m.objFld 0x6500 1 63 48
def M.setMirrorState (m : M) (st : Nat) : M := m.setObjFld 0x6500 4 3 0 st
def M.acked (m : M) : Nat := m.objFld 0x6500 4 63 16
def M.mirrorContexts (m : M) : List Nat := bitsSet (m.objFld 0x6500 1 15 0) 16

/-- Unsent mirror messages are given up; one that is part sent is finished. -/
def Link.dropMirror (k : Link) : Link := { k with txMirror := if k.mid = 1 then k.txMirror.take 1 else [] }

def M.dropDeltas (m : M) : M := m.bundle.foldl (fun (m : M) l => m.modLink l Link.dropMirror) m

/-- Enters SOLO (R332): pending commits finish, deltas are no longer sent, the log and the interrupt say so. -/
def M.enterSolo (m : M) : M :=
  let m := (m.setMirrorState 4).modMirror fun r => { r with unacked := [], resyncAt := none, copyLast := none }
  let m := m.dropDeltas.finishCovered (2 ^ 48)
  (m.logFault 0x6002 m.partner m.acked 0 clkMgmt).raise 385

/-- MIRROR_LAG. -/
def execMirrorLag (s : State) : Host.Outcome State Fault Refusal :=
  s.run fun m => m.when (m.live && m.mirrorRole == 1 && m.mirrorState == 2 && !m.dev.mirror.unacked.isEmpty) fun m => m.setMirrorState 3

/-- SOLO_TIMEOUT: it applies to a lag and to the hold of a resync (R333). -/
def execSoloTimeout (s : State) : Host.Outcome State Fault Refusal :=
  s.run fun m => m.when (m.live && m.mirrorRole == 1 && (m.mirrorState == 3 || m.mirrorState == 1) && m.obj 0x6500 2 != 0) M.enterSolo

/-- A message of no data to the partner over one link. -/
def M.postPartner (m : M) (l op addr : Nat) : M := m.post l .none (m.message m.partner op addr 0)

/-- HEARTBEAT_SEND. -/
def execHeartbeatSend (s : State) : Host.Outcome State Fault Refusal :=
  s.run fun m => m.when (m.live && m.mirrorRole != 0) fun m =>
    (m.bundle.filter m.linkActive).foldl (fun (m : M) l => m.postPartner l opHeartbeat 0) m

/-- PARTNER_LOST. -/
def execPartnerLost (s : State) : Host.Outcome State Fault Refusal :=
  s.run fun m => m.when (m.live && m.mirrorRole != 0 && !m.objBit 0x6500 4 8) fun m => (m.setObjBit 0x6500 4 8 true).raise 385

/-! ## The primary: copies and acknowledgements (R331, R333) -/

/-- The ranges of 0x6510 that hold anything: first address and one past the last. -/
def M.mirrorRanges (m : M) : List (Nat × Nat) :=
  ((List.range 16).map fun k => (m.objFld 0x6510 (k + 1) 47 0, m.objFld 0x6510 (k + 1) 47 0 + m.objFld 0x6510 (k + 1) 95 48)).filter
    fun r => r.1 < r.2

/-- The first address from `a` on that a range covers, and the end of the ranges that hold it. -/
def nextCopy (rs : List (Nat × Nat)) (a : Nat) : Option (Nat × Nat) :=
  let starts := (rs.filter fun r => a < r.2).map fun r => max a r.1
  match starts with
  | [] => none
  | x :: xs =>
    let p := xs.foldl min x
    some (p, ((rs.filter fun r => r.1 ≤ p && p < r.2).map (·.2)).foldl max p)

/-- Sends the image of every mirrored context that is open on a core. -/
def M.sendImages (m : M) : M :=
  (List.range 24).foldl (fun (m : M) i => m.mirrorContexts.foldl (fun (m : M) x =>
    if m.objBit 0x8001 (i + 1) x then m.sendPart 1 0 i x false false [(m.imageOf i x, false)] else m) m) m

/-- The next copy part of a resync, at most 1,024 bytes; after the last one the images. -/
def M.copyNext (m : M) : M :=
  match m.dev.mirror.resyncAt with
  | none => m
  | some p =>
    match nextCopy m.mirrorRanges p with
    | none => m.modMirror fun r => { r with resyncAt := none }
    | some c =>
      let n := min 16 ((c.2 - c.1 + 63) / 64)
      let after := c.1 + 64 * n
      let last := (nextCopy m.mirrorRanges after).isNone
      let units := (List.range n).map fun u => (m.bytes (c.1 + 64 * u) 64, m.marked (c.1 + 64 * u))
      let m := m.sendPart 3 c.1 0 0 m.dev.mirror.copyFirst last units
      let m := m.modMirror fun r => { r with
        copyFirst := false, resyncAt := if last then none else some after
        copyLast := if last then some r.nextMseq else r.copyLast }
      if last then m.sendImages else m

/-- FLIT_SEND: on a bundle link that has sent its mirror messages, a resync adds its next copy part first. -/
def execFlitSend (link : Fin 32) (s : State) : Host.Outcome State Fault Refusal :=
  s.run fun m => m.when (m.linkUp link) fun m =>
    let m := if m.mirrorRole = 1 && m.bundle.contains link.val && (m.link link).txMirror.isEmpty then m.copyNext else m
    m.flitSend link

/-- Acknowledgements up to `q` (R331): commits that waited finish; a resync whose last copy part is covered is over; a lag with
nothing left to acknowledge is over. -/
def M.mirrorAcked (m : M) (q : Nat) : M :=
  let a := max m.acked q
  let m := (m.setObjFld 0x6500 4 63 16 a).modMirror fun r => { r with unacked := r.unacked.filter fun d => a < d.mseq }
  let m := m.finishCovered a
  let done := match m.dev.mirror.copyLast with | some q => q ≤ a | none => false
  if m.mirrorState = 1 && done then (m.setMirrorState 2).modMirror fun r => { r with copyLast := none }
  else if m.mirrorState = 3 && m.dev.mirror.unacked.isEmpty then m.setMirrorState 2
  else m

/-- RESYNC begins a full copy (R333). With no range to copy there is nothing to wait for. -/
def M.resync (m : M) : M :=
  if m.mirrorRanges.isEmpty then (m.setMirrorState 2).modMirror fun r => { r with resyncAt := none, copyLast := none }
  else (m.setMirrorState 1).modMirror fun r => { r with resyncAt := some 0, copyFirst := true, copyLast := none }

/-! ## The secondary (R330, R333, R334) -/

/-- The descriptor slot and data of a MIRROR_DELTA. -/
def Msg.delta (x : Msg) : Delta :=
  let d := natOf ((x.data.headD ([], false)).1)
  { mseq := fld d 127 80, part := fld d 31 28, addr := fld d 79 32, core := fld d 27 23, ctx := fld d 22 19, first := d.testBit 17,
    last := d.testBit 18, data := x.data.drop 1 }

/-- Register `k` of an image. -/
def Delta.reg (d : Delta) (k : Nat) : W64 := BitVec.ofNat 64 (natOf (((d.data.flatMap (·.1)).drop (8 * k)).take 8))

/-- The newest image of a core and context that the secondary holds. -/
def M.imageFor (m : M) (i x : Nat) : Option Delta := m.dev.mirror.images.find? fun d => d.core == i && d.ctx == x

/-- Local address of the record a delta carries: the slot before RECORD_HEAD of its image (log entry 32). -/
def Delta.recordAddr (d : Delta) : Nat :=
  let r : CtxRegs := { CtxRegs.zero with recordBase := d.reg 1, recordSlots := d.reg 2 }
  let n := max (d.reg 2).toNat 1
  r.slotAddr ((d.reg 3).toNat + n - 1)

/-- Writes units with their marks where they can be reached. -/
def M.writeUnits (m : M) (a : Nat) (us : List (List Byte × Bool)) : M :=
  us.zipIdx.foldl (fun (m : M) u =>
    if m.reach none (a + 64 * u.2) then m.store (a + 64 * u.2) u.1.1 u.1.2 else m) m

/-- Applies one part. -/
def M.applyPart (m : M) (d : Delta) : M :=
  let m := m.modMirror fun r => { r with applied := d.mseq }
  match d.part with
  | 0 => m.writeUnits d.addr d.data
  | 1 => m.modMirror fun r => { r with images := d :: r.images.filter fun e => !(e.core == d.core && e.ctx == d.ctx) }
  | 2 =>
    match m.imageFor d.core d.ctx with
    | some g => m.writeUnits g.recordAddr d.data
    | none => m
  | _ =>
    let m := if d.first then m.setMirrorState 1 else m
    let m := m.writeUnits d.addr d.data
    if d.last then m.setMirrorState 5 else m

/-- Applies held parts as far as they follow without a gap. -/
def M.applyHeld : Nat → M → M
  | 0, m => m
  | n + 1, m =>
    match m.dev.mirror.heldParts.find? fun d => d.mseq == m.dev.mirror.applied + 1 with
    | none => m
    | some d => M.applyHeld n ((m.modMirror fun r => { r with heldParts := r.heldParts.filter fun e => e.mseq != d.mseq }).applyPart d)

/-- A part arrives at the secondary: duplicates are discarded, early ones held; the first part of a copy voids whatever was
missing before it (log entry 33). What has been applied without a gap is acknowledged. -/
def M.takePart (m : M) (d : Delta) : M :=
  let known := m.dev.mirror.applied
  let m := if d.part = 3 && d.first && known + 1 < d.mseq then
      m.modMirror fun r => { r with applied := d.mseq - 1, heldParts := r.heldParts.filter fun e => d.mseq < e.mseq } else m
  let dup := d.mseq ≤ m.dev.mirror.applied || m.dev.mirror.heldParts.any fun e => e.mseq == d.mseq
  let m := if dup then m else m.modMirror fun r => { r with heldParts := r.heldParts ++ [d] }
  let m := M.applyHeld (m.dev.mirror.heldParts.length) m
  m.emitMirror .none (m.message m.partner opMirrorAck m.dev.mirror.applied 0)

/-- A secondary takes parts until it takes over. -/
def M.takesParts (m : M) : Bool := m.mirrorRole == 2 && (m.mirrorState == 1 || m.mirrorState == 5)

/-! ## Takeover (R335) -/

/-- An image goes into the registers of its context, which is idle. -/
def M.loadImage (m : M) (d : Delta) : M :=
  (m.modCtx d.core d.ctx fun r => { r with
    programBase := d.reg 0, recordBase := d.reg 1, recordSlots := d.reg 2, recordHead := d.reg 3, recordTail := d.reg 4,
    nextPtr := d.reg 5 }).modCore d.core fun c => { c with
      active := setBit16 c.active d.ctx false, halted := setBit16 c.halted d.ctx false }

/-- TAKEOVER on a secondary. -/
def M.takeover (m : M) : M :=
  let m := (m.bundle.filter m.linkActive).foldl (fun (m : M) l => m.postPartner l opTakeover 0) m
  let m := m.dev.mirror.images.foldl (fun (m : M) d => m.loadImage d) (m.modMirror fun r => { r with heldParts := [] })
  let m := m.modMirror fun r => { r with nextMseq := r.applied, unacked := [], images := [] }
  ((m.setObjFld 0x6500 1 25 24 1).setMirrorState 6).raise 385

/-- A commit that waits for a partner who will not answer is given up: its record is never written. -/
def M.dropHeld (m : M) (i : Nat) : M :=
  let held (s : Slot) : Bool := s.phase == .mirrorWait
  let c := m.core i
  let m := match c.run with
    | some s => if held s then (m.modCore i fun c => { c with run := none }).endChain i s.ctx else m
    | none => m
  (List.range 16).foldl (fun (m : M) x =>
    match (m.ctx i x).parkedRun with
    | some s => if held s then (m.modCtx i x fun r => { r with parkedRun := none, parkedReady := none, parkReady := false }).endChain i x else m
    | none => m) m

/-- An old primary receives TAKEOVER_NOTICE. -/
def M.noticed (m : M) : M :=
  let xs := m.mirrorContexts
  let m := ((m.setObjFld 0x6500 1 25 24 0).setMirrorState 0).modMirror fun r => { r with unacked := [], resyncAt := none, copyLast := none }
  (List.range 24).foldl (fun (m : M) i =>
    xs.foldl (fun (m : M) x => if bit16 (m.core i).active x then (m.abortChain i x).2.2 else m) (m.dropHeld i)) m.dropDeltas

end Sys2Proof.Machine
end

