-- ==== Sys2Proof/Machine/Fabric.lean ====
section
/-! DEFINITION. Fabric messages as they arrive: taken from a link's receive buffer, forwarded, served within the remote windows,
or completed (14_fabric_mirroring.md R311 to R327; 21_contexts_sync.md R474, R479, R480). -/

namespace Sys2Proof.Machine

/-! ## Arrival (R302, R313, R316, R317) -/

/-- The message's slots stand first in the receive buffer of their class. -/
def M.msgFirst (m : M) (l : Nat) (x : Msg) : Bool :=
  let k := m.link l
  (if opSideband x.op then k.rxSb else k.rxBulk).take x.slots.length == x.slots

/-- The message leaves the receive buffer; its places are free again. -/
def M.consumeMsg (m : M) (l : Nat) (x : Msg) : M :=
  let n := x.slots.length
  m.modLink l fun k =>
    if opSideband x.op then { k with rxSb := k.rxSb.drop n, freeSb := k.freeSb + n }
    else { k with rxBulk := k.rxBulk.drop n, freeBulk := k.freeBulk + n }

/-- The ops of R313. -/
def knownOp (op : Nat) : Bool := [1, 2, 3, 4, 5, 6, 8, 9, 10, 11, 12, 16, 18, 19, 20].contains op

/-- A message that R313 refuses: reserved OP, ATOM or bits. -/
def Msg.foreign (x : Msg) : Bool := !knownOp x.op || (x.op == opAtomic && 6 ≤ x.atom) || x.resv != 0

/-- A message is discarded as a protocol error. -/
def M.msgProtocol (m : M) (l : Nat) : M := (m.satObj 0x6520 1 31 0 1).wantRetrain l 7

/-- The op that answers a request; none for a one-way message. -/
def answerOp (op : Nat) : Option Nat :=
  if op = opRead then some opReadData else if op = opWrite then some opWriteAck else if op = opAtomic then some opAtomicData
  else if op = opFlagSet then some opFlagSet else none

/-- Responses are never answered. -/
def isResponse (x : Msg) : Bool := x.op == opReadData || x.op == opWriteAck || x.op == opAtomicData || x.op == opMirrorAck || x.resp != 0

/-- The response to a request, with its data. -/
def M.answer (m : M) (x : Msg) (resp : Nat) (data : List (List Byte × Bool)) : M :=
  m.respond { m.message x.src ((answerOp x.op).getD x.op) x.addr x.ctx with tag := x.tag, lenM1 := x.lenM1, resp, data }

/-- `n` units that hold free values: the data of a response that is not OK. -/
def M.freeUnits : Nat → M → List (List Byte × Bool) × M
  | 0, m => ([], m)
  | n + 1, m =>
    let f := m.free 512
    let r := M.freeUnits n f.2
    ((bytesOf f.1 64, false) :: r.1, r.2)

/-- A response that is not OK carries as much data as its op has (R313); its contents are free. -/
def M.answerBad (m : M) (x : Msg) (resp : Nat) : M :=
  if x.op = opRead then
    let u := M.freeUnits (x.lenM1 + 1) m
    u.2.answer x resp u.1
  else if x.op = opAtomic then
    let f := m.free 128
    f.2.answer x resp [(bytesOf f.1 16, false)]
  else m.answer x resp []

/-- A message for another device is passed on, or answered NO_ROUTE (R317). -/
def M.forward (m : M) (x : Msg) : M :=
  let e := if x.hops = 0 then (false, m) else m.emit .none { x with hops := x.hops - 1 }
  if e.1 then e.2
  else if isResponse x then m.satObj 0x6520 2 31 0 1
  else m.answerBad x respNoRoute

/-- A message arrives on a link: `act` is what this device does with one of its own. -/
def M.message_ (m : M) (l : Nat) (x : Msg) (due : Bool) (act : M → M) : M :=
  if !m.live || !m.fabricRuns || !due || !m.msgFirst l x then m
  else
    let m := m.consumeMsg l x
    if x.foreign then m.msgProtocol l
    else if x.dest ≠ m.deviceId then m.forward x
    else act m

/-- MESSAGE_PROTOCOL_ERROR. -/
def execMessageProtocolError (link : Fin 32) (msg : Msg) (s : State) : Host.Outcome State Fault Refusal :=
  s.run fun m => m.message_ link msg msg.foreign id

/-! ## Remote windows (R319) -/

/-- A window permits an access of kind `bit_` (0 read, 1 write, 2 atomic) to the whole range. -/
def M.windowAllows (m : M) (bit_ a n : Nat) : Bool :=
  (List.range 16).any fun k =>
    let w := m.obj 0x6300 (k + 1)
    w.testBit bit_ && fld w 79 32 ≤ a && a + n ≤ fld w 127 80 + 64

/-- A space that another device may reach: memory and the Bazaar, where the address is not reserved. -/
def remoteSpace (a : Nat) : Bool := match placeOf a with | .waystation _ _ => false | _ => true

/-- The RESP of a request for `n` bytes at `a`. -/
def M.judgeRemote (m : M) (bit_ a n : Nat) : Nat :=
  if !m.windowAllows bit_ a n || !remoteSpace a then respDenied
  else if m.reachAll none a n then respOk else respTarget

/-! ## Requests served (R314, R322) -/

/-- READ. -/
def M.serveRead (m : M) (x : Msg) : M :=
  let n := x.lenM1 + 1
  let r := if x.addr % 64 = 0 then m.judgeRemote 0 x.addr (64 * n) else respDenied
  if r = respOk then m.answer x respOk (unitsOf (m.readP x.addr (64 * n))) else m.answerBad x r

/-- READ. -/
def execRead (link : Fin 32) (msg : Msg) (s : State) : Host.Outcome State Fault Refusal :=
  s.run fun m => m.message_ link msg (msg.op == opRead) fun m => m.serveRead msg

/-- WRITE: every unit is visible before it is acknowledged. -/
def M.serveWrite (m : M) (x : Msg) : M :=
  let n := x.lenM1 + 1
  let r := if x.addr % 64 = 0 then m.judgeRemote 1 x.addr (64 * n) else respDenied
  if r = respOk then (m.putLocal x.src x.addr ((flatUnits x.data).map fun b => (some b.1, b.2))).answer x respOk [] else m.answer x r []

/-- WRITE. -/
def execWrite (link : Fin 32) (msg : Msg) (s : State) : Host.Outcome State Fault Refusal :=
  s.run fun m => m.message_ link msg (msg.op == opWrite) fun m => m.serveWrite msg

/-- Width of an atomic in bytes. -/
def atomWidth (atom : Nat) : Nat := if atom ≤ 2 then 8 else 4

/-- The new value of an atomic from the old one and its 128-bit operand slot (R322). -/
def atomNew (atom old slot : Nat) : Nat :=
  let v := bitsAt slot 0 64
  let v4 := bitsAt slot 0 32
  match atom with
  | 0 => (old + v) % 2 ^ 64
  | 1 => v
  | 2 => if old = v then bitsAt slot 64 64 else old
  | 3 => max old v4
  | 4 => min (old + v4) 0xFFFFFFFF
  | _ => old ||| v4

/-- A held read-modify-write of the field at `a`: the old value and the mark of its unit; a poisoned unit does not change. -/
def M.atomicAt (m : M) (src a atom slot : Nat) : Nat × Bool × M :=
  let w := atomWidth atom
  let old := m.num a w
  if m.marked a then (old, true, m)
  else (old, false, m.putLocal src a ((bytesOf (atomNew atom old slot) w).map fun b => (some b, false)))

/-- ATOMIC. -/
def M.serveAtomic (m : M) (x : Msg) : M :=
  let w := atomWidth x.atom
  let r := if x.addr % w = 0 then m.judgeRemote 2 x.addr w else respDenied
  if r ≠ respOk then m.answerBad x r
  else
    let slot := x.data.headD ([], false)
    -- an operand slot that is poisoned changes nothing (R313, R322)
    let q := if slot.2 then (m.num x.addr w, true, m) else m.atomicAt x.src x.addr x.atom (natOf slot.1)
    q.2.2.answer x respOk [(bytesOf q.1 16, q.2.1)]

/-- An ATOMIC of operation `atom` arrives. -/
def M.atomicMsg (m : M) (l : Nat) (x : Msg) (atom : Nat) : M :=
  m.message_ l x (x.op == opAtomic && x.atom == atom) fun m => m.serveAtomic x

/-- FETCH_ADD. -/
def execFetchAdd (link : Fin 32) (msg : Msg) (s : State) : Host.Outcome State Fault Refusal := s.run fun m => m.atomicMsg link msg 0
/-- SWAP. -/
def execSwap (link : Fin 32) (msg : Msg) (s : State) : Host.Outcome State Fault Refusal := s.run fun m => m.atomicMsg link msg 1
/-- CAS64. -/
def execCas64 (link : Fin 32) (msg : Msg) (s : State) : Host.Outcome State Fault Refusal := s.run fun m => m.atomicMsg link msg 2
/-- MAX_U32. -/
def execMaxU32 (link : Fin 32) (msg : Msg) (s : State) : Host.Outcome State Fault Refusal := s.run fun m => m.atomicMsg link msg 3
/-- ADD_SAT_U32. -/
def execAddSatU32 (link : Fin 32) (msg : Msg) (s : State) : Host.Outcome State Fault Refusal := s.run fun m => m.atomicMsg link msg 4
/-- OR32. -/
def execOr32 (link : Fin 32) (msg : Msg) (s : State) : Host.Outcome State Fault Refusal := s.run fun m => m.atomicMsg link msg 5

/-! ## Responses (R315, R320) -/

/-- A response of `op` completes the request of its tag; a tag that is not outstanding, or whose request has another answer, is
stray. -/
def M.completeTag (m : M) (x : Msg) : M :=
  match Tab.find? m.dev.fab.outstanding x.tag with
  | some o => if answerOp o.op = some x.op then m.response x.tag x.resp x.data else m.satObj 0x6520 3 31 0 1
  | none => m.satObj 0x6520 3 31 0 1

/-- READ_DATA. -/
def execReadData (link : Fin 32) (msg : Msg) (s : State) : Host.Outcome State Fault Refusal :=
  s.run fun m => m.message_ link msg (msg.op == opReadData) fun m => m.completeTag msg
/-- WRITE_ACK. -/
def execWriteAck (link : Fin 32) (msg : Msg) (s : State) : Host.Outcome State Fault Refusal :=
  s.run fun m => m.message_ link msg (msg.op == opWriteAck) fun m => m.completeTag msg
/-- ATOMIC_DATA. -/
def execAtomicData (link : Fin 32) (msg : Msg) (s : State) : Host.Outcome State Fault Refusal :=
  s.run fun m => m.message_ link msg (msg.op == opAtomicData) fun m => m.completeTag msg
/-- FLAG_SET_RETURN. -/
def execFlagSetReturn (link : Fin 32) (msg : Msg) (s : State) : Host.Outcome State Fault Refusal :=
  s.run fun m => m.message_ link msg (msg.op == opFlagSet) fun m => m.completeTag msg

/-! ## Flags and barriers (R474, R479, R480) -/

/-- FLAG_SET for this device. -/
def M.serveFlag (m : M) (x : Msg) : M :=
  let i := bitsAt x.addr 10 5
  let f := bitsAt x.addr 0 10
  if !m.objBit 0x8080 1 (f / 64) then m.answer x respDenied []
  else if 24 ≤ i then m.answer x respTarget []
  else
    let r := m.setFlag i f
    r.2.answer x (if r.1 then respOk else respTarget) []

/-- FLAG_SET. -/
def execFlagSet (link : Fin 32) (msg : Msg) (s : State) : Host.Outcome State Fault Refusal :=
  s.run fun m => m.message_ link msg (msg.op == opFlagSet && msg.resp == 0) fun m => m.serveFlag msg

/-- Group, GEN and rank of a barrier message. -/
def barrierGroup (a : Nat) : Nat := bitsAt a 44 4
def barrierGen (a : Nat) : Nat := bitsAt a 32 12
def barrierRank (a : Nat) : Nat := bitsAt a 0 16

/-- A barrier message of the group's current GEN is acted on; another is discarded and counted. -/
def M.barrierMsg (m : M) (x : Msg) (act : Nat → M) : M :=
  let g := barrierGroup x.addr
  if barrierGen x.addr ≠ m.objFld 0x8050 (g + 1) 35 24 then m.satObj 0x6520 1 31 0 1 else act g

/-- BARRIER_ARRIVE: rank 0 holds it and judges the round; one that comes back unserved ends the round here. -/
def M.serveArrive (m : M) (x : Msg) : M :=
  m.barrierMsg x fun g =>
    if x.resp ≠ 0 then m.releaseBarrier g true
    else if m.collRank (m.objFld 0x8050 (g + 1) 43 40) ≠ some 0 then m.satObj 0x6520 1 31 0 1
    else (m.modFab fun f => { f with xranks := Tab.put f.xranks g (addOnce (Tab.get f.xranks [] g) (barrierRank x.addr)) }).judgeRanks g

/-- BARRIER_ARRIVE. -/
def execBarrierArrive (link : Fin 32) (msg : Msg) (s : State) : Host.Outcome State Fault Refusal :=
  s.run fun m => m.message_ link msg (msg.op == opArrive) fun m => m.serveArrive msg

/-- BARRIER_RELEASE. -/
def execBarrierRelease (link : Fin 32) (msg : Msg) (s : State) : Host.Outcome State Fault Refusal :=
  s.run fun m => m.message_ link msg (msg.op == opRelease) fun m =>
    if msg.resp ≠ 0 then m else m.barrierMsg msg fun g => m.releaseBarrier g false

/-- XTIMEOUT. -/
def execXtimeout (group : Fin 16) (s : State) : Host.Outcome State Fault Refusal :=
  s.run fun m => m.when (m.live && m.dev.fab.xlocal.contains group.val) fun m => m.releaseBarrier group true

/-! ## Collectives (R325 to R327) -/

/-- The collective of a group and number on this device fails: a message of it came back unserved. -/
def M.collBad (m : M) (a : Nat) : M :=
  match m.dev.fab.colls.find? fun e => e.2.group == bitsAt a 36 4 && e.2.id == bitsAt a 40 8 with
  | some e => m.collFail e.1
  | none => m

/-- COLL_READY. -/
def execCollReady (link : Fin 32) (msg : Msg) (s : State) : Host.Outcome State Fault Refusal :=
  s.run fun m => m.message_ link msg (msg.op == opCollReady) fun m =>
    if msg.resp ≠ 0 then m.collBad msg.addr
    else m.collReadyFrom (bitsAt msg.addr 36 4) (bitsAt msg.addr 40 8) (bitsAt msg.addr 20 16)

/-- COLL_DATA. -/
def execCollData (link : Fin 32) (msg : Msg) (s : State) : Host.Outcome State Fault Refusal :=
  s.run fun m => m.message_ link msg (msg.op == opCollData) fun m =>
    if msg.resp ≠ 0 then m.collBad msg.addr
    else
      let g := bitsAt msg.addr 36 4
      match m.rankOf g msg.src with
      | some q => m.collDataFrom g (bitsAt msg.addr 40 8) q (bitsAt msg.addr 20 16) (bitsAt msg.addr 0 20) msg.data
      | none => m

/-- COLL_TIMEOUT. -/
def execCollTimeout (core : Fin 24) (s : State) : Host.Outcome State Fault Refusal :=
  s.run fun m => m.when (m.live && (Tab.find? m.dev.fab.colls core).isSome) fun m => m.collFail core

/-! ## Outstanding requests (R320) -/

/-- REQUEST_TIMEOUT. -/
def execRequestTimeout (tag : Fin 4096) (s : State) : Host.Outcome State Fault Refusal :=
  s.run fun m => m.when m.live fun m => m.loseTag tag

/-- A tag that completed LOST is free again. -/
def M.freeLost (m : M) (t : Nat) : M :=
  match Tab.find? m.dev.fab.outstanding t with
  | some o =>
    if o.lost then
      let m := m.modFab fun f => { f with outstanding := Tab.erase f.outstanding t }
      m.pump m.dev.fab.waiting.length
    else m
  | none => m

/-- TAG_RELEASE. -/
def execTagRelease (tag : Fin 4096) (s : State) : Host.Outcome State Fault Refusal :=
  s.run fun m => m.when m.live fun m => m.freeLost tag

/-! ## Mirror messages (R328, R330, R331, R335) -/

/-- A mirror message from the partner on a bundle link. -/
def M.fromPartner (m : M) (l : Nat) (x : Msg) : Bool := m.mirrorRole != 0 && m.bundle.contains l && x.src == m.partner && x.resp == 0

/-- HEARTBEAT. -/
def execHeartbeat (link : Fin 32) (msg : Msg) (s : State) : Host.Outcome State Fault Refusal :=
  s.run fun m => m.message_ link msg (msg.op == opHeartbeat) fun m =>
    if m.fromPartner link msg then m.setObjBit 0x6500 4 8 false else m

/-- A descriptor with a reserved PART or a reserved bit. -/
def Msg.badDelta (x : Msg) : Bool :=
  let d := natOf ((x.data.headD ([], false)).1)
  4 ≤ fld d 31 28 || bitsAt d 0 17 != 0 || 24 ≤ fld d 27 23 || (fld d 31 28 != 3 && (d.testBit 17 || d.testBit 18))

/-- MIRROR_DELTA. -/
def execMirrorDelta (link : Fin 32) (msg : Msg) (s : State) : Host.Outcome State Fault Refusal :=
  s.run fun m => m.message_ link msg (msg.op == opDelta) fun m =>
    if msg.badDelta then m.msgProtocol link
    else if m.fromPartner link msg && m.takesParts then m.takePart msg.delta else m

/-- MIRROR_ACK. -/
def execMirrorAck (link : Fin 32) (msg : Msg) (s : State) : Host.Outcome State Fault Refusal :=
  s.run fun m => m.message_ link msg (msg.op == opMirrorAck) fun m =>
    if m.fromPartner link msg && m.mirrorRole == 1 then m.mirrorAcked msg.addr else m

/-- TAKEOVER_NOTICE. -/
def execTakeoverNotice (link : Fin 32) (msg : Msg) (s : State) : Host.Outcome State Fault Refusal :=
  s.run fun m => m.message_ link msg (msg.op == opTakeover) fun m =>
    if m.fromPartner link msg && m.mirrorRole == 1 then m.noticed else m

end Sys2Proof.Machine
end

