-- ==== Sys2Proof/Machine/Power.lean ====
section
/-! DEFINITION. Power: FAILSAFE (16_ledger.md R377; 18 R415), the forced floor and performance states (17_power.md R393 to R395),
capping (R397 to R402), feeds (R382 to R384), the alert wire (R400), regulator clusters (R385 to R390), switched domains (R391,
R392), the Toll meter (R404). What the device measures of its own power comes with the command. -/

namespace Sys2Proof.Machine

/-! ## FAILSAFE (R377, R415) -/

/-- NODE_ID that the port runs on (R372). -/
def M.portSettings (m : M) : Nat := m.dev.mgmt.inEffect.getD (objReset m.fuse 0x1060 1)
def M.nodeId (m : M) : Nat := m.portSettings % 256

/-- Some region is HELD (R410). -/
def M.anyHeld (m : M) : Bool :=
  (List.range 24).any (fun i => m.objBit 0x4030 (i + 1) 3) || (List.range 96).any (fun n => m.objBit 0x4031 (n + 1) 3) ||
    m.objBit 0x4032 1 3

/-- The most serious cause present (R415), as R377 codes it. -/
def M.failsafeCause (m : M) : Option Nat :=
  let cs := m.dev.heat.causes
  if m.dev.tripped then some 2
  else if cs.contains 1 || cs.contains 2 then some 1
  else if cs.contains 3 then some 4
  else if m.anyHeld then some 3
  else if m.dev.mgmt.powerAsked then some 5
  else none

/-- Where FAILSAFE goes: TRAY_MAC, or everyone (R377). -/
def M.trayMac (m : M) : Nat := m.objFld 0x4010 1 47 0

/-- The frame of a FAILSAFE word. -/
def M.sendFailsafe (m : M) (w : Nat) : M :=
  m.send (.frame (if m.trayMac = 0 then 0xFFFFFFFFFFFF else m.trayMac) (pduBytes [24 * 2 ^ 48 + 0x121, 0, w]))

/-- FAILSAFE starts, unless it is being repeated already: a more serious cause takes over at the next repeat. -/
def M.askFailsafe (m : M) : M :=
  match m.dev.mgmt.failsafe, m.failsafeCause with
  | none, some c =>
    let w := c * 256 + m.nodeId
    (m.modMgmt fun g => { g with failsafe := some w, failsafeCount := 0 }).sendFailsafe w
  | _, _ => m

/-- One repeat: with the most serious cause present, for at most 10 s of a word. -/
def M.repeatFailsafe (m : M) : M :=
  match m.dev.mgmt.failsafe with
  | none => m
  | some old =>
    let w := match m.failsafeCause with
      | some c => c * 256 + m.nodeId
      | none => old
    let n := if w = old then m.dev.mgmt.failsafeCount + 1 else 0
    if 1000 < n then m.modMgmt fun g => { g with failsafe := none, failsafeCount := 0 }
    else (m.modMgmt fun g => { g with failsafe := some w, failsafeCount := n }).sendFailsafe w

/-- The thermal watch processor runs: powered, its oscillator present (R384, R434). -/
def M.watchRuns (m : M) : Bool := m.dev.powered && !m.dev.oscLost

/-- FAILSAFE_REPEAT. -/
def execFailsafeRepeat (s : State) : Host.Outcome State Fault Refusal := s.run fun m => m.when m.watchRuns M.repeatFailsafe

/-- FAILSAFE_ACK: it ends the repetition of the word it echoes. -/
def M.failsafeAck (m : M) (w : Nat) : M :=
  if m.dev.mgmt.failsafe = some w then m.modMgmt fun g => { g with failsafe := none, failsafeCount := 0 } else m

/-- FAILSAFE_ACK. -/
def execFailsafeAck (word : W64) (s : State) : Host.Outcome State Fault Refusal :=
  s.run fun m => m.when m.watchRuns fun m => m.failsafeAck word.toNat

/-! ## States and budgets (R393, R397, R402, R409 to R412, R205) -/

/-- The device-wide forced floor holds (R395). -/
def M.floorHeld (m : M) : Bool :=
  m.dev.power.alertLow || m.dev.power.alertHold || m.dev.heat.coolantFloor || m.dev.heat.baseFloor || m.dev.tripped

def M.common (m : M) : Nat := m.objFld 0x3020 4 3 0
def M.setCommon (m : M) (st : Nat) : M := m.setObjFld 0x3020 4 3 0 st
def M.pinned (m : M) : Bool := m.objBit 0x3030 1 0
/-- The fastest state permitted: FASTEST, or P2 in pinned mode (R397, R401). -/
def M.fastest (m : M) : Nat := if m.pinned then max 2 (m.objFld 0x3020 5 2 0) else m.objFld 0x3020 5 2 0

/-- FLOOR or HELD of a core region, of a memory-layer quadrant. -/
def M.coreFloor (m : M) (i : Nat) : Bool := m.objBit 0x4030 (i + 1) 1 || m.objBit 0x4030 (i + 1) 3
def M.lqFloor (m : M) (n : Nat) : Bool := m.objBit 0x4031 (n + 1) 1 || m.objBit 0x4031 (n + 1) 3

/-- The tier (0 to 5) is held at P7 for one of its quadrants. -/
def M.tierFloor (m : M) (t : Nat) : Bool := (tierLqs t).any m.lqFloor

/-- The state a core is to run in. -/
def M.wantedCore (m : M) (i : Nat) : Nat :=
  if m.floorHeld || m.coreFloor i then 7
  else max (max m.common m.fastest) (max (m.objFld 0x4030 (i + 1) 11 8) (max (Tab.get m.dev.power.holds 0 i) (Tab.get m.dev.power.holds 0 (i + 100))))

/-- The state a tier (0 to 5) is to run in. -/
def M.wantedTier (m : M) (t : Nat) : Nat :=
  if m.floorHeld || m.tierFloor t then 7 else max (max m.dev.power.tierCommon m.fastest) (Tab.get m.dev.power.holds 0 (24 + t))

/-- CEILING of a tier's activity budget (R205). -/
def M.budgetCeiling (m : M) (t : Nat) : Nat := m.objFld 0x3140 (t + 1) 15 0

/-- Nine tenths of a budget in whole steps of 2,048, and never below 2,048 (R409). -/
def tenthOff (b : Nat) : Nat := max 2048 (b * 9 / 10 / 2048 * 2048)

/-- A sensor of the tier's quadrants, or of the base die, has failed (R409). -/
def M.budgetDerated (m : M) (t : Nat) : Bool := (tierLqs t).any (fun n => m.objBit 0x4031 (n + 1) 2) || m.objBit 0x4032 1 2

/-- The budget of a tier (0 to 5) that its limits leave, before pinned mode. -/
def M.budgetFree (m : M) (t : Nat) : Nat :=
  let c := m.budgetCeiling t
  let c := if m.budgetDerated t then min c (tenthOff c) else c
  let c := min c (Tab.get m.dev.power.budgetHolds c t)
  let c := (tierLqs t).foldl (fun b n => min b (Tab.get m.dev.heat.budgets b n)) c
  if (tierLqs t).any fun n => m.objBit 0x4031 (n + 1) 1 then min c 2048 else c

/-- The budget that pinned mode holds. -/
def M.budgetPinned (m : M) (t : Nat) : Nat := min 16384 (m.budgetCeiling t)

/-- The applied budget of a tier (0 to 5). -/
def M.budgetWanted (m : M) (t : Nat) : Nat := if m.pinned then min (m.budgetFree t) (m.budgetPinned t) else m.budgetFree t

/-- Pinned mode does not hold all it promises (R402). -/
def M.pinLost (m : M) : Bool :=
  m.pinned && ((List.range 24).any (fun i => !m.fusedOff i && !m.fenced i && 2 < m.wantedCore i) ||
    (List.range 6).any fun t => 2 < m.wantedTier t || m.budgetWanted t < m.budgetPinned t)

/-- LIMITER while a forced floor holds (R414). -/
def M.floorLimiter (m : M) : Nat :=
  if m.dev.power.alertLow then 5 else if m.dev.heat.coolantFloor || m.dev.heat.baseFloor || m.dev.tripped then 6 else 5

/-- A floor is in force without a relock (R395, R412): cores. -/
def M.settleCores (m : M) : M :=
  (List.range 24).foldl (fun (m : M) i => if m.floorHeld || m.coreFloor i then m.setObjFld 0x3051 (i + 1) 3 0 7 else m) m

/-- Tiers, and the budgets that apply (R205, R411, R412). -/
def M.settleTiers (m : M) : M :=
  (List.range 6).foldl (fun (m : M) t =>
    let m := if m.floorHeld || m.tierFloor t then m.setObjFld 0x3052 (t + 1) 3 0 7 else m
    m.setObjFld 0x3141 (t + 1) 15 0 (m.budgetWanted t)) m

/-- LIMITER says so while a forced floor holds (R399). -/
def M.settleLimiter (m : M) : M := if m.floorHeld then m.setObjFld 0x3020 4 7 4 m.floorLimiter else m

/-- PIN_BROKEN and its count say whether pinned mode holds what it promises (R402). -/
def M.settlePin (m : M) : M :=
  if m.pinLost then
    if m.objBit 0x3030 1 1 then m else (m.setObjBit 0x3030 1 1 true).satObj 0x3030 1 31 16 1
  else m.setObjBit 0x3030 1 1 false

/-- What follows at once from a change of floors, limits or budgets. -/
def M.settle (m : M) : M := m.settleCores.settleTiers.settleLimiter.settlePin

/-- The forced floor is entered, or left: the controller goes on from P7 (R395, R400, R414). -/
def M.toFloor (m : M) : M := ((m.setCommon 7).modPower fun p => { p with tierCommon := 7, overPeriods := 0, lowering := false }).settle

/-- PSTATE_CHANGE_DONE: core `unit`, or tier `unit` - 24, runs in the state it is to run in. -/
def M.pstateDone (m : M) (unit : Nat) : M :=
  if unit < 24 then m.setObjFld 0x3051 (unit + 1) 3 0 (m.wantedCore unit) else m.setObjFld 0x3052 (unit - 23) 3 0 (m.wantedTier (unit - 24))

/-- PSTATE_CHANGE_DONE. -/
def execPstateChangeDone (unit : Fin 30) (s : State) : Host.Outcome State Fault Refusal :=
  s.run fun m => m.when (m.live && m.pllRuns (unit.val + 1)) fun m => m.pstateDone unit

/-! ## Capping (R397 to R399) -/

/-- The applied cap: CAP, or the coolant limit of R413. -/
def M.appliedCap (m : M) : Nat := min (m.objFld 0x3020 1 31 0) (min (m.obj 0x4020 2) (m.obj 0x4020 3))

/-- The state is lowered by one, or raised by one, cores and tiers together. -/
def M.slower (m : M) : M := (m.setCommon (min 7 (m.common + 1))).modPower fun p => { p with tierCommon := min 7 (p.tierCommon + 1) }
def M.faster (m : M) : M :=
  let f := m.fastest
  (if f < m.common then m.setCommon (m.common - 1) else m).modPower fun p =>
    { p with tierCommon := if f < p.tierCommon then p.tierCommon - 1 else p.tierCommon }

/-- No excursion is permitted (R398). -/
def M.noExcursion (m : M) : Bool := m.pinned || m.appliedCap < m.objFld 0x3020 1 31 0

/-- LIMITER where no floor holds: an ended excursion, the coolant, a regulator derate, the cap, nothing. -/
def M.limiter (m : M) (ended : Bool) : Nat :=
  if ended then 3
  else if m.appliedCap < m.objFld 0x3020 1 31 0 then 2
  else if m.dev.power.holds.any (fun e => e.1 < 100) || !m.dev.power.budgetHolds.isEmpty then 4
  else if m.fastest < m.common then 1
  else 0

/-- What a period above the cap does: an excursion begins, goes on, or ends; or the state is lowered. -/
def M.overCap (m : M) (power : Nat) : M × Bool :=
  let p := m.dev.power
  let n := p.overPeriods + 1
  let runs := !m.noExcursion && !p.lowering && (p.overPeriods != 0 || 1800 ≤ p.okPeriods) && n < 200
  let ended := !m.noExcursion && (p.lowering || (p.overPeriods != 0 && 200 ≤ n))
  let m := m.modPower fun p => { p with
    okPeriods := 0, overPeriods := if runs then n else 0, lowering := ended }
  (if runs && power ≤ 7200 then m else m.slower, ended)

/-- One period of the capping controller: modelled power of the last period, and power predicted for the next faster state. -/
def M.capPeriod (m : M) (power next : Nat) : M :=
  let m := m.modPower fun p => { p with powers := (power :: p.powers).take 20 }
  let ps := m.dev.power.powers
  let m := (m.setObj 0x3020 3 (ps.foldl (· + ·) 0 / max 1 ps.length)).setObj 0x3020 2 m.appliedCap
  if m.floorHeld then m
  else
    let r :=
      if m.appliedCap < power then m.overCap power
      else
        let m := m.modPower fun p => { p with overPeriods := 0, lowering := false, okPeriods := min 1800 (p.okPeriods + 1) }
        (if 100 * next ≤ 97 * m.appliedCap then m.faster else m, false)
    -- nothing runs faster than FASTEST
    let m := (r.1.setCommon (max r.1.common r.1.fastest)).modPower fun p => { p with tierCommon := max p.tierCommon r.1.fastest }
    (m.setObjFld 0x3020 4 7 4 (m.limiter r.2)).settle

/-- CAP_PERIOD. -/
def execCapPeriod (power next : BitVec 16) (s : State) : Host.Outcome State Fault Refusal :=
  s.run fun m => m.when m.live fun m => m.capPeriod power.toNat next.toNat

/-! ## Feeds (R382 to R384) -/

def M.feedOk (m : M) (f : Nat) : Bool := m.objBit 0x3010 1 f

/-- A change of a feed's judgement (R383). -/
def M.feedChange (m : M) (f : Nat) (ok : Bool) : M :=
  let other := m.feedOk (1 - f)
  let m := m.setObjBit 0x3010 1 f ok
  let m := m.setObjBit 0x3010 1 3 (ok && other)
  let m := if !ok && other then m.satObj 0x3010 1 23 16 1 else m
  (m.logFault 0x3001 (m.obj 0x3010 1) 0 0 clkWatch).raise 387

/-- FEED_OUT_OF_RANGE: the loss of both is recorded and FAILSAFE is sent (R384). -/
def M.feedLost (m : M) (f : Nat) : M :=
  if !m.feedOk f then m
  else
    let m := m.feedChange f false
    if m.feedOk 0 || m.feedOk 1 then m else (m.modMgmt fun g => { g with powerAsked := true }).askFailsafe

/-- FEED_OUT_OF_RANGE. -/
def execFeedOutOfRange (feed : Fin 2) (s : State) : Host.Outcome State Fault Refusal :=
  s.run fun m => m.when m.dev.powered fun m => m.feedLost feed

/-- FEED_RESTORE. -/
def execFeedRestore (feed : Fin 2) (s : State) : Host.Outcome State Fault Refusal :=
  s.run fun m => m.when (m.dev.powered && !m.feedOk feed) fun m => m.feedChange feed true

/-- HOLD_UP_EXPIRY: with both feeds gone the module is unpowered. -/
def execHoldUpExpiry (s : State) : Host.Outcome State Fault Refusal :=
  s.run fun m => m.when (m.dev.powered && !m.feedOk 0 && !m.feedOk 1) fun m => { m with dev := { m.dev with powered := false } }

/-! ## The alert wire (R400) -/

/-- PWR_ALERT_N is asserted, with the converters' causes. -/
def M.alertAssert (m : M) (causes : Nat) : M :=
  if m.dev.power.alertLow then m
  else
    let m := (m.setObjBit 0x3010 1 2 true).setObjFld 0x3400 1 4 0 (if causes % 32 = 0 then 1 else causes)
    let m := (m.satObj 0x3400 1 31 16 1).modPower fun p => { p with alertLow := true, alertHold := false }
    ((m.toFloor).logFault 0x3002 (m.obj 0x3400 1) 0 0 clkWatch).raise 387

/-- PWR_ALERT_ASSERT. -/
def execPwrAlertAssert (causes : BitVec 5) (s : State) : Host.Outcome State Fault Refusal :=
  s.run fun m => m.when m.watchRuns fun m => m.alertAssert causes.toNat

/-- PWR_ALERT_RELEASE: the floor holds on for 1 ms. -/
def execPwrAlertRelease (s : State) : Host.Outcome State Fault Refusal :=
  s.run fun m => m.when (m.watchRuns && m.dev.power.alertLow) fun m =>
    (((m.setObjBit 0x3010 1 2 false).modPower fun p => { p with alertLow := false, alertHold := true }).modMgmt fun g =>
      { g with powerAsked := false }).settle

/-- FLOOR_HOLD_END. -/
def execFloorHoldEnd (s : State) : Host.Outcome State Fault Refusal :=
  s.run fun m => m.when (m.watchRuns && m.dev.power.alertHold) fun m => (m.modPower fun p => { p with alertHold := false }).settle

/-- PWR_ALERT_LONG. -/
def execPwrAlertLong (s : State) : Host.Outcome State Fault Refusal :=
  s.run fun m => m.when (m.watchRuns && m.dev.power.alertLow) fun m => (m.modMgmt fun g => { g with powerAsked := true }).askFailsafe

/-! ## Trips and lost sessions -/

/-- The trip of R416: floor, clocks stopped, log, count, FAILSAFE; the thermal watch processor serves the Ledger. THERM_TRIP_N
stays asserted while `tripped` holds. -/
def M.trip (m : M) (subject reading : Nat) : M :=
  if m.dev.tripped then m
  else
    let m : M := { m with dev := { m.dev with tripped := true } }
    let m := ((m.setObjFld 0x4020 1 3 0 3).satObj 0x4020 4 31 0 1).modMgmt fun g => { g with responder := true, failsafe := none }
    ((m.toFloor.logFault 0x4004 subject reading 0 clkWatch).raise 387).askFailsafe

/-- The processors of the update session: 1 management controller, 2 link training controller, 3 thermal watch (R491). -/
def M.proc (m : M) (p : Nat) : Proc := if p = 1 then m.dev.sec.mc else if p = 2 then m.dev.sec.ltc else m.dev.sec.twp
def M.modProc (m : M) (p : Nat) (f : Proc → Proc) : M :=
  m.modSec fun q => if p = 1 then { q with mc := f q.mc } else if p = 2 then { q with ltc := f q.ltc } else { q with twp := f q.twp }

/-- The update session takes a state and an error (R494); its key goes with IDLE. -/
def M.endSession (m : M) (st err : Nat) : M :=
  ((m.setObjFld 0x9020 2 3 0 st).setObjFld 0x9020 2 23 16 err).modSec fun q =>
    { q with owner := if st = 0 then none else q.owner, applying := none }

/-! ## Switched domains (R391, R392) -/

/-- The links of quadrant `g`. -/
def quadLinks (g : Nat) : List Nat := (List.range 8).map (8 * g + ·)

def M.setDom (m : M) (d st : Nat) : M := m.setObjFld 0x3100 (d + 1) 7 4 st

/-- An open session is cancelled (R484, R494): the inactive slot becomes invalid. A PENDING image stays pending until it is
confirmed, reverted or expired (R496). -/
def M.cancelSession (m : M) : M :=
  let st := m.objFld 0x9020 2 3 0
  if st = 0 || st = 4 then m
  else (m.modProc (m.objFld 0x9020 2 9 8) fun p => { p with other := none }).endSession 0 0

/-- A domain begins to turn off, or on. -/
def M.domBegin (m : M) (d : Nat) (on : Bool) : M :=
  if on then m.setDom d 3
  else
    let m := m.setDom d 1
    if d < 24 then (m.disable d .switchOff).judgeBarriers
    else if 30 ≤ d && d < 34 then (quadLinks (d - 30)).foldl (fun (m : M) l => m.linkDrain l) m
    else if d = 36 then m.cancelSession
    else m

/-- Acts on a REQUEST for a domain (R391). -/
def M.domRequest (m : M) (d : Nat) (off : Bool) : M :=
  let st := m.domState d
  if st = 1 || st = 3 then m.modPower fun p => { p with heldReq := Tab.put p.heldReq d off.toNat }
  else if d < 24 && m.fenced d then m
  else if st = 0 && off then m.domBegin d false
  else if st = 2 && !off then m.domBegin d true
  else m

/-- REF100 is STABLE and PERST# released: the PCIe block trains (R443). -/
def M.pcieStart (m : M) : M :=
  { m with dev := { m.dev with pcieUp := !m.dev.perst && m.objBit 0x2001 1 2 && m.domOn 34 } }

def M.pcieStop (m : M) : M := { m with dev := { m.dev with pcieUp := false } }

/-- Manifests of other cores that touch the columns of tier `t` (0 to 5) are stopped at the drain limit (R392, R439). -/
def M.stopTouching (m : M) (t : Nat) : M :=
  (List.range 24).foldl (fun (m : M) i =>
    let touches (s : Slot) : Bool := s.fixed.isNone && s.stop.isNone && s.phase != .done && s.phase != .mirrorWait &&
      ((m.spans s.words).any fun p => p.lo < (4 * t + 4) * columnSize && 4 * t * columnSize ≤ p.hi)
    let c := m.core i
    if (c.run.toList ++ c.ready.toList).any touches || ((c.run.toList.any fun s => (s.kind == kConvoy || s.kind == kKv) && s.phase == .waiting) && tierOf i = t)
    then m.stopSlots i .drain else m) m

/-- A domain has turned off. A core must have drained first. -/
def M.domOff (m : M) (d : Nat) : M :=
  if d < 24 then
    if (m.core d).run.isNone && (m.core d).ready.isNone then ((m.clearCore d).setDom d 2).judgeBarriers else m
  else if d < 30 then
    let m := (tierLqs (d - 24)).foldl (fun (m : M) n => (m.serveAll n).clearLq n) (m.stopTouching (d - 24))
    m.setDom d 2
  else if d < 34 then ((quadLinks (d - 30)).foldl (fun (m : M) l => m.linkOff l) m).setDom d 2
  else if d = 34 then (m.setDom d 2).pcieStop
  else m.setDom d 2

/-- A domain has turned on. -/
def M.domNowOn (m : M) (d : Nat) : M :=
  let m := m.setDom d 0
  if d < 24 then ((m.clearCore d).clearCis d).judgeBarriers
  else if 30 ≤ d && d < 34 then (quadLinks (d - 30)).foldl (fun (m : M) l => m.linkWake l) m
  else if d = 34 then m.pcieStart
  else m

/-- A transition completes, and a held request is acted on (R391). -/
def M.domDone (m : M) (d : Nat) : M :=
  let st := m.domState d
  let held := Tab.find? m.dev.power.heldReq d
  let m := if st = 1 then m.domOff d else if st = 3 then m.domNowOn d else m
  if m.domState d = 1 || m.domState d = 3 then m
  else match held with
    | some r => (m.modPower fun p => { p with heldReq := Tab.erase p.heldReq d }).domRequest d (r == 1)
    | none => m

/-- DOMAIN_TRANSITION_DONE. -/
def execDomainTransitionDone (dom : Fin 38) (s : State) : Host.Outcome State Fault Refusal :=
  s.run fun m => m.when m.live fun m => m.domDone dom

/-! ## Regulator clusters (R385 to R390) -/

/-- Tier (0 to 5) and ordinal of the memory layer at position `p` (R10). -/
def layerAt (p : Nat) : Nat × Nat := ((p - 1) / 5, let k := (p - 1) % 5; if k < 2 then k else k - 1)

/-- Layer quadrants go dark with their bank rail, or their data is lost with their cell rail. -/
def M.darkenLq (m : M) (n : Nat) : M := ({ m with dev := { m.dev with darkLqs := addOnce m.dev.darkLqs n } } : M).clearLq n
def M.loseLq (m : M) (n : Nat) : M :=
  if m.dev.lostLqs.contains n then m
  else (({ m with dev := { m.dev with lostLqs := addOnce m.dev.lostLqs n } } : M).clearLq n).logFault 0x5001 n 0 0 clkMgmt

/-- Both spine clusters at position `p` are DARK (R388). -/
def M.breakSpine (m : M) (p : Nat) : M :=
  let m : M := { m with dev := { m.dev with startBlocked := true } }
  (List.range 24).foldl (fun (m : M) i =>
    if p ≤ 5 * (i / 4) + 3 then
      ({ m with dev := { m.dev with unreach := addOnce m.dev.unreach i } } : M).fence i 4
    else m) m

def M.clusterDark (m : M) (p k : Nat) : Bool := m.objFld (0x3200 + p) (k + 1) 1 0 == 3

/-- The spine clusters of position `p`: the last two, but for the always-on pair of the base die. -/
def spinePair (p : Nat) : Nat := if p = 0 then 16 else clusterCount p - 2

/-- The region that cluster `k` at position `p` serves goes dark (R385). -/
def M.goDark (m : M) (p k : Nat) : M :=
  let sp := spinePair p
  if k = sp || k = sp + 1 then (if m.clusterDark p sp && m.clusterDark p (sp + 1) then m.breakSpine p else m)
  else if p = 0 then
    if k < 8 then (quadLinks (k / 2)).foldl (fun (m : M) l => m.linkOff l) (m.setDom (30 + k / 2) 4)
    else if k < 10 then (m.setDom 34 4).pcieStop
    else if k < 14 then m.setDom 35 4
    else if k = 14 then (m.setDom 36 4).cancelSession
    else if k = 15 then m.setDom 37 4
    else if m.clusterDark 0 18 && m.clusterDark 0 19 then m.trip 0 0 else m
  else if isComputePos p then
    if k < 64 then ((m.setDom (4 * (p / 5) + k / 16) 4).fence (4 * (p / 5) + k / 16) 3)
    else (tierLqs (p / 5)).foldl (fun (m : M) n => m.darkenLq n) (m.setDom (24 + p / 5) 4)
  else
    let x := layerAt p
    let n := 16 * x.1 + 4 * (k / 4) + x.2
    if k % 4 < 2 then m.darkenLq n else m.loseLq n

/-- A DERATED cluster lowers its region's limit (R387): the state or budget that fits it is a free value. -/
def M.derate (m : M) (p k : Nat) : M :=
  let hold (m : M) (key : Nat) : M :=
    let f := m.free 3
    f.2.modPower fun q => { q with holds := Tab.put q.holds key (max f.1 (Tab.get q.holds 0 key)) }
  let budget (m : M) (t : Nat) : M :=
    let f := m.free 4
    let b := 2048 * (f.1 + 1)
    f.2.modPower fun q => { q with budgetHolds := Tab.put q.budgetHolds t (min b (Tab.get q.budgetHolds 32768 t)) }
  if p = 0 || k = spinePair p || k = spinePair p + 1 then m
  else if isComputePos p then
    if k < 64 then hold m (4 * (p / 5) + k / 16) else budget (hold m (24 + p / 5)) (p / 5)
  else
    let t := (layerAt p).1
    if k % 4 < 2 then budget (hold m (24 + t)) t else budget m t

/-- One more phase of a cluster is judged failed: it steps down its ladder (R386). -/
def M.regulatorFail (m : M) (p k : Nat) : M :=
  if clusterCount p ≤ k || m.clusterDark p k then m
  else
    let n := m.objFld (0x3200 + p) (k + 1) 3 2 + 1
    let m := (m.setObjFld (0x3200 + p) (k + 1) 3 2 n).setObjFld (0x3200 + p) (k + 1) 1 0 n
    let m := m.logFault 0x3003 (256 * p + k) n 0 clkMgmt
    let m := if n = 2 then m.derate p k else if n = 3 then m.goDark p k else m
    m.settle

/-- PHASE_FAULT. -/
def execPhaseFault (pos : Fin 31) (cluster : Fin 70) (s : State) : Host.Outcome State Fault Refusal :=
  s.run fun m => m.when m.live fun m => m.regulatorFail pos cluster

/-- CURRENT_LIMIT_TRIP: the third in the phase's bucket fails the phase. -/
def execCurrentLimitTrip (pos : Fin 31) (cluster : Fin 70) (phase : Fin 9) (s : State) : Host.Outcome State Fault Refusal :=
  s.run fun m => m.when (m.live && cluster.val < clusterCount pos) fun m =>
    let r := m.bucketEvent 6 ((256 * pos.val + cluster.val) * 16 + phase.val)
    if r.1 then r.2.regulatorFail pos cluster else r.2

/-- SENSE_EVENT. -/
def execSenseEvent (pos : Fin 31) (cluster : Fin 70) (s : State) : Host.Outcome State Fault Refusal :=
  s.run fun m => m.when (m.live && cluster.val < clusterCount pos) fun m =>
    let r := (m.satObj (0x3200 + pos.val) (cluster.val + 1) 31 16 1).bucketEvent 5 (256 * pos.val + cluster.val)
    if r.1 then r.2.regulatorFail pos cluster else r.2

/-! ## The Toll meter (R404, R405) -/

def M.addEnergy (m : M) (idx sub n : Nat) : M := m.setObj idx sub ((m.obj idx sub + n) % 2 ^ 64)

/-- One interval: the sixteen contexts' energy and the unattributed energy; the device total is their sum. -/
def M.toll (m : M) (es : List Nat) (un : Nat) : M :=
  let es := es.take 16
  let m := es.zipIdx.foldl (fun (m : M) e => m.addEnergy 0xA011 (e.2 + 1) e.1) m
  (m.addEnergy 0xA010 2 un).addEnergy 0xA010 1 (es.foldl (· + ·) 0 + un)

/-- TOLL_INTEGRATE. -/
def execTollIntegrate (contexts : List W64) (unattributed : W64) (s : State) : Host.Outcome State Fault Refusal :=
  s.run fun m => m.when m.live fun m => m.toll (contexts.map (·.toNat)) unattributed.toNat

end Sys2Proof.Machine
end

