-- ==== Sys2Proof/Machine/Heat.lean ====
section
/-! DEFINITION. Heat and coolant: sensor pairs and regions, throttles, region floors, the trip (18_thermal_coolant.md R406 to
R412, R416), tray reports, the coolant limit, the device floor and its release (R413 to R415; 16_ledger.md R376). Time passes in
samples of 100 µs. -/

namespace Sys2Proof.Machine

/-! ## STATE of the coolant status (R420) and the base die's floor (R410, R412) -/

/-- STATE where the device has not tripped: FLOOR while this chapter's floor holds, DERATED under a coolant limit. -/
def M.coolState (m : M) : Nat :=
  if m.dev.heat.coolantFloor || m.dev.heat.baseFloor then 2
  else if m.obj 0x4020 2 < 6000 || m.obj 0x4020 3 < 6000 then 1 else 0

def M.showCoolState (m : M) : M := if m.dev.tripped then m else m.setObjFld 0x4020 1 3 0 m.coolState

/-- The base die calls for the device floor, or no longer does. An entry counts where the coolant does not hold the floor
already; it has no cause of R414. -/
def M.setBaseFloor (m : M) (on : Bool) : M :=
  if on == m.dev.heat.baseFloor then m
  else
    let entry := on && !m.dev.heat.coolantFloor
    let m := (m.modHeat fun h => { h with baseFloor := on })
    let m := if entry then ((m.satObj 0x4020 1 31 24 1).setObjFld 0x4020 1 7 4 0).toFloor.raise 387 else m
    m.showCoolState

/-! ## Sensor pairs (R408) -/

/-- 1/256 °C of a whole number of degrees. -/
def degC (t : Int) : Int := 256 * t

/-- A 16-bit reading as a temperature. -/
def temp (v : Nat) : Int := toSigned 16 v

/-- Pairs and their regions: object index of the pair is 0x4040 + position, and 0x4040 is a multiple of 64. -/
def pairRegion (p sub : Nat) : Nat × Nat :=
  if p = 0 then (0x4032, 1)
  else if isComputePos p then (0x4030, 4 * (p / 5) + (sub - 1) / 8 + 1)
  else
    let x := layerAt p
    (0x4031, 16 * x.1 + 4 * ((sub - 1) / 4) + x.2 + 1)

/-- Pairs of a region. -/
def regionPairs (idx sub : Nat) : List (Nat × Nat) :=
  let n := sub - 1
  if idx = 0x4032 then (List.range 4).map fun j => (0x4040, j + 1)
  else if idx = 0x4030 then (List.range 8).map fun j => (0x4040 + 5 * (n / 4) + 3, 8 * (n % 4) + j + 1)
  else
    let l := n % 4
    (List.range 4).map fun j => (0x4040 + 5 * (n / 16) + (if l < 2 then l + 1 else l + 2), 4 * (n / 4 % 4) + j + 1)

/-- A sensor fails on this sample: none, out of range, or a change of more than 10 K from the sample before. -/
def sensorBad (old : Option Nat) (v : Option Nat) : Bool :=
  match v with
  | none => true
  | some x =>
    temp x < degC (-40) || degC 150 < temp x ||
      (match old with | some o => degC 10 < temp x - temp o || degC 10 < temp o - temp x | none => false)

/-- The higher of two readings. -/
def hotter (a b : Nat) : Nat := if temp a < temp b then b else a

/-- A sensor is judged FAILED, or both of a pair: the region is DERATED or HELD, logged, and a HELD region sends FAILSAFE
(R408 to R410). -/
def M.sensorFailed (m : M) (idx sub : Nat) (both : Bool) : M :=
  let r := pairRegion (idx % 64) sub
  let m := m.setObjBit r.1 r.2 2 true
  let m := (m.logFault 0x4001 (256 * idx + sub) (m.objFld idx sub 3 0) 0 clkWatch).raise 387
  if !both || m.objBit r.1 r.2 3 then m
  else
    let m := m.setObjBit r.1 r.2 3 true
    let m := (m.logFault 0x4001 (256 * r.1 + r.2) (m.objFld r.1 r.2 3 0) 0 clkWatch).raise 387
    let m := if r.1 = 0x4031 then m.setObjBit 0x5021 r.2 4 true else if r.1 = 0x4032 then m.setBaseFloor true else m
    m.askFailsafe

/-- A 10 % derate of a core lowers its power limit (R409): the state that fits it is a free value. -/
def M.derateCore (m : M) (idx sub : Nat) : M :=
  let r := pairRegion (idx % 64) sub
  if r.1 = 0x4030 then
    let f := m.free 3
    f.2.modPower fun q => { q with holds := Tab.put q.holds (r.2 + 99) (max f.1 (Tab.get q.holds 0 (r.2 + 99))) }
  else m

/-- SUSPECT: more than 5 K apart for more than 10 ms; cleared after 1 s within 5 K. -/
def M.suspect (m : M) (idx sub : Nat) (apart : Bool) : M :=
  let k := objKey idx sub
  let run := Tab.get m.dev.heat.suspectRun 0 k
  let calm := Tab.get m.dev.heat.calmRun 0 k
  if apart then
    let m := m.modHeat fun h => { h with suspectRun := Tab.put h.suspectRun k (min 101 (run + 1)), calmRun := Tab.erase h.calmRun k }
    if 100 ≤ run && !m.objBit idx sub 1 then (m.setObjBit idx sub 1 true).satObj idx sub 15 8 1 else m
  else
    let m := m.modHeat fun h => { h with suspectRun := Tab.erase h.suspectRun k }
    if !m.objBit idx sub 1 then m
    else if 10000 ≤ calm + 1 then (m.setObjBit idx sub 1 false).modHeat fun h => { h with calmRun := Tab.erase h.calmRun k }
    else m.modHeat fun h => { h with calmRun := Tab.put h.calmRun k (calm + 1) }

/-- One sample of a pair. `first`: no sample of it has been taken since reset. -/
def M.samplePair (m : M) (idx sub : Nat) (first : Bool) (a b : Option Nat) : M :=
  let old := m.obj idx sub
  let was (v : Nat) : Option Nat := if first then none else some v
  let badA := !old.testBit 2 && sensorBad (was (fld old 63 48)) a
  let badB := !old.testBit 3 && sensorBad (was (fld old 47 32)) b
  let outA := old.testBit 2 || badA
  let outB := old.testBit 3 || badB
  let va := a.getD (fld old 63 48)
  let vb := b.getD (fld old 47 32)
  let pair := if outA && outB then fld old 31 16 else if outA then vb else if outB then va else hotter va vb
  let v := setFld (setFld (setFld old 63 48 va) 47 32 vb) 31 16 pair
  let m := m.setObj idx sub (setBit (setBit v 2 outA) 3 outB)
  let m := if badA then (m.sensorFailed idx sub (outA && outB)).derateCore idx sub else m
  let m := if badB then (m.sensorFailed idx sub (outA && outB)).derateCore idx sub else m
  if outA || outB then m
  else m.suspect idx sub (degC 5 < temp va - temp vb || degC 5 < temp vb - temp va)

/-! ## Regions (R406, R408, R411, R412, R416, R201) -/

/-- Limits of a region: throttle, release, floor, floor release, trip. -/
def regionLimits (idx : Nat) : Int × Int × Int × Int × Int :=
  if idx = 0x4030 then (102, 98, 105, 100, 110) else (92, 88, 95, 90, 100)

/-- The hottest protective reading among a region's pairs. -/
def M.regionReading (m : M) (idx sub : Nat) : Nat :=
  match (regionPairs idx sub).map fun p => m.objFld p.1 p.2 31 16 with
  | [] => 0
  | x :: xs => xs.foldl hotter x

/-- Judges a region at a sample: its reading, its floor, the refresh interval of a memory-layer quadrant; the reading that trips
the device, where it does. -/
def M.judgeRegion (m : M) (idx sub : Nat) : M :=
  let v := m.regionReading idx sub
  let lim := regionLimits idx
  let m := m.setObjFld idx sub 31 16 v
  let t := temp v
  let floor := if degC lim.2.2.1 ≤ t then true else if t ≤ degC lim.2.2.2.1 then false else m.objBit idx sub 1
  let m := m.setObjBit idx sub 1 floor
  let m := if idx = 0x4031 then
      let hot := if degC 85 ≤ t then true else if t < degC 83 then false else m.objBit 0x5021 sub 4
      m.setObjBit 0x5021 sub 4 (hot || m.objBit 0x4031 sub 3)
    else if idx = 0x4032 then m.setBaseFloor (floor || m.objBit 0x4032 1 3) else m
  -- CEILING of a quadrant: its tier's state ceiling
  let m := if idx = 0x4031 then m.setObjFld idx sub 11 8 (if floor || m.objBit idx sub 3 then 7 else 0) else m
  if degC lim.2.2.2.2 ≤ t then m.trip (256 * idx + sub) v else m

/-- The regions that some of the sampled pairs lie in. -/
def regionsOf (ps : List (Nat × Nat)) : List (Nat × Nat) := (ps.map fun p => pairRegion (p.1 % 64) p.2).eraseDups

/-- The pair exists. -/
def pairOk (idx sub : Nat) : Bool := 0x4040 ≤ idx && idx ≤ 0x405E && 1 ≤ sub && sub ≤ pairCount (idx % 64)

/-- One sample of every sensor: the pairs listed with their readings; a pair not listed reads as before. Time advances by
100 µs. -/
def M.sensorSample (m : M) (first : Bool) (rs : List (Nat × Nat × Option (BitVec 16) × Option (BitVec 16))) : M :=
  let rs := rs.filter fun r => pairOk r.1 r.2.1
  let named := rs.map fun r => (r.1, r.2.1)
  let m := rs.foldl (fun (m : M) r =>
    m.samplePair r.1 r.2.1 first (r.2.2.1.map (·.toNat)) (r.2.2.2.map (·.toNat))) m
  let others := ((m.dev.heat.suspectRun ++ m.dev.heat.calmRun).map fun e => (e.1 / 256, e.1 % 256)).eraseDups.filter fun p => !named.contains p
  let m := others.foldl (fun (m : M) p => m.samplePair p.1 p.2 false (some (m.objFld p.1 p.2 63 48)) (some (m.objFld p.1 p.2 47 32))) m
  let m := (regionsOf named).foldl (fun (m : M) r => m.judgeRegion r.1 r.2) m
  (m.modMgmt fun g => { g with
    age := g.age + 1, inletAge := g.inletAge + 1
    flows := (g.flows.map fun f => (f.1 + 1, f.2)).filter fun f => f.1 ≤ 1000 }).settle

/-- SENSOR_SAMPLE. -/
def execSensorSample (first : Bool) (readings : List (Nat × Nat × Option (BitVec 16) × Option (BitVec 16))) (s : State) :
    Host.Outcome State Fault Refusal :=
  s.run fun m => m.when m.watchRuns fun m => m.sensorSample first readings

/-- R411 on a core region. -/
def M.tickCore (m : M) (i : Nat) : M :=
  let t := temp (m.objFld 0x4030 (i + 1) 31 16)
  let c := m.objFld 0x4030 (i + 1) 11 8
  let c := if degC 102 ≤ t then min 7 (c + 1) else if t ≤ degC 98 && m.common < c then c - 1 else if t ≤ degC 98 && m.common = 0 then c - 1 else c
  (m.setObjFld 0x4030 (i + 1) 11 8 c).setObjBit 0x4030 (i + 1) 0 (m.common < c)

/-- R411 on a memory-layer quadrant. -/
def M.tickLq (m : M) (n : Nat) : M :=
  let t := temp (m.objFld 0x4031 (n + 1) 31 16)
  let top := m.budgetCeiling (n / 16)
  let now := m.objFld 0x3141 (n / 16 + 1) 15 0
  let b := Tab.get m.dev.heat.budgets top n
  let b := if degC 92 ≤ t then max 2048 (min b now - 2048) else if t ≤ degC 88 then b + 2048 else b
  (m.modHeat fun h => { h with budgets := if top ≤ b then Tab.erase h.budgets n else Tab.put h.budgets n b }).setObjBit 0x4031 (n + 1) 0 (b < top)

/-- What the tick gives quadrant `n` in `a`, by the budgets that applied before it, those of `m`. -/
def M.tickQuad (m a : M) (n : Nat) : M :=
  let r := m.tickLq n
  (a.modHeat fun h => { h with budgets := match Tab.find? r.dev.heat.budgets n with
    | some b => Tab.put h.budgets n b
    | none => Tab.erase h.budgets n }).setObj 0x4031 (n + 1) (r.obj 0x4031 (n + 1))

/-- One thermal tick: every region by its protective reading. -/
def M.thermalTick (m : M) : M :=
  let m := (List.range 24).foldl (fun (m : M) i => m.tickCore i) m
  ((List.range 96).foldl m.tickQuad m).settle

/-- THERMAL_TICK. -/
def execThermalTick (s : State) : Host.Outcome State Fault Refusal := s.run fun m => m.when m.watchRuns M.thermalTick

/-! ## Coolant (R376, R413 to R415) -/

/-- The device floor is entered for a cause (R414); a floor that holds goes on. -/
def M.coolantFloorOn (m : M) (cause : Nat) : M :=
  let m := if m.dev.heat.coolantFloor then m
    else
      let m := if m.dev.heat.baseFloor then m else m.satObj 0x4020 1 31 24 1
      let m := m.modHeat fun h => { h with coolantFloor := true }
      let m := (m.setObjFld 0x4020 1 7 4 cause).showCoolState
      (m.toFloor.logFault 0x4002 cause 0 0 clkWatch).raise 387
  if cause ≤ 3 then m.askFailsafe else m

/-- Flow limit of R413, in W, from mL/min. -/
def flowLimit (f : Nat) : Nat := if 5000 ≤ f then 6000 else 1200 * f / 1000

/-- Inlet limit of R413, in W, from 1/256 °C. -/
def inletLimit (t : Int) : Nat :=
  if t ≤ degC 32 then 6000
  else if t ≤ degC 40 then 6000 - ((250 * (t - degC 32) + 255) / 256).toNat
  else 2400

/-- A tray entry: flow, outlet, inlet, node. -/
def entryFlow (e : Nat) : Option Nat := if fld e 63 48 = 0xFFFF then none else some (fld e 63 48)
def entryInlet (e : Nat) : Option Int := if fld e 31 16 = 0x8000 then none else some (temp (fld e 31 16))

/-- Causes of R414 that a report shows. -/
def M.reportCauses (m : M) (flow : Option Nat) (inlet : Option Int) (leak : Bool) : List Nat :=
  let drop (f : Nat) : Bool := m.dev.mgmt.flows.any fun x => f + 1000 < x.2
  let one := match flow with | some f => decide (f < 2000) | none => false
  let two := match flow with | some f => drop f | none => m.dev.heat.causes.contains 2
  -- no valid flow reading keeps what the last one showed
  let one := one || (flow.isNone && m.dev.heat.causes.contains 1)
  let three := flow.isNone && m.dev.heat.causes.contains 3
  let five := match inlet with | some t => decide (degC 45 ≤ t) | none => m.dev.heat.causes.contains 5
  (if one then [1] else []) ++ (if two then [2] else []) ++ (if three then [3] else []) ++ (if leak then [4] else []) ++ (if five then [5] else [])

/-- The tray's report is accepted: readings, limits, causes. -/
def M.takeReport (m : M) (status entry : Nat) : M :=
  let flow := entryFlow entry
  let inlet := entryInlet entry
  let m := (m.setObj 0x4010 2 (setFld entry 15 8 status)).modMgmt fun g => { g with age := 0 }
  let cs := m.reportCauses flow inlet (status.testBit 1)
  let stale := inlet.isNone && 500 ≤ m.dev.mgmt.inletAge
  let m := m.modMgmt fun g => { g with
    inletAge := if inlet.isSome then 0 else g.inletAge
    flows := (match flow with | some f => [(0, f)] | none => []) ++ g.flows }
  let m := match flow with | some f => m.setObj 0x4020 2 (flowLimit f) | none => m
  let m := match inlet with
    | some t => m.setObj 0x4020 3 (inletLimit t)
    | none => if stale then m.setObj 0x4020 3 (inletLimit (degC 40)) else m
  let low := match inlet with | some t => decide (t < degC 15) | none => m.objBit 0x4020 1 11
  let m := if low && !m.objBit 0x4020 1 11 then m.raise 387 else m
  let m := ((m.setObjBit 0x4020 1 11 low).setObjBit 0x4020 1 10 (stale || (inlet.isNone && m.objBit 0x4020 1 10))).setObjBit 0x4020 1 9 flow.isNone
  let m := (m.setObjBit 0x4020 1 8 (cs.contains 3)).modHeat fun h => { h with causes := cs }
  let m := cs.foldl (fun (m : M) c => if c = 3 then m else m.coolantFloorOn c) m
  m.showCoolState

/-- A tray report arrives: source, tray word, module entries (R376). -/
def M.trayReport (m : M) (source word : Nat) (entries : List Nat) : M :=
  let q := fld word 15 0
  let ahead := match m.dev.mgmt.traySeq with
    | none => true
    | some o => 1 ≤ (q + 65536 - o) % 65536 && (q + 65536 - o) % 65536 ≤ 32767
  match (entries.take (fld word 23 16)).find? fun e => e % 256 == m.nodeId with
  | none => m
  | some e =>
    if (m.trayMac ≠ 0 && m.trayMac ≠ source) || !ahead then m
    else (m.modMgmt fun g => { g with traySeq := some q }).takeReport (fld word 31 24) e

/-- TRAY_REPORT. -/
def execTrayReport (source : BitVec 48) (word : W64) (entries : List W64) (s : State) : Host.Outcome State Fault Refusal :=
  s.run fun m => m.when m.watchRuns fun m => m.trayReport source.toNat word.toNat (entries.map (·.toNat))

/-- TRAY_SILENCE_TIMEOUT: 50 ms without an accepted report that holds a valid flow. -/
def M.traySilent (m : M) : M :=
  let m := (m.setObjBit 0x4020 1 8 true).modHeat fun h => { h with causes := addOnce h.causes 3 }
  m.coolantFloorOn 3

/-- TRAY_SILENCE_TIMEOUT. -/
def execTraySilenceTimeout (s : State) : Host.Outcome State Fault Refusal := s.run fun m => m.when m.watchRuns M.traySilent

/-- The readings meet every release condition of R414 now. -/
def M.coolantWell (m : M) : Bool :=
  let e := m.obj 0x4010 2
  let flow := match entryFlow e with | some f => decide (2500 ≤ f) | none => false
  let inlet := match entryInlet e with | some t => decide (t ≤ degC 43) | none => true
  m.dev.mgmt.traySeq.isSome && m.dev.heat.causes.isEmpty && flow && inlet && !e.testBit 9

/-- The device floor ends; the controller goes on from P7. -/
def M.coolantRelease (m : M) : M :=
  if !m.dev.heat.coolantFloor || !m.coolantWell || m.dev.tripped then m
  else
    let m := m.toFloor.modHeat fun h => { h with coolantFloor := false }
    m.showCoolState.settle

/-- COOLANT_RELEASE. -/
def execCoolantRelease (s : State) : Host.Outcome State Fault Refusal := s.run fun m => m.when m.watchRuns M.coolantRelease

end Sys2Proof.Machine
end

