-- ==== Sys2Proof/Machine/Clock.lean ====
section
/-! DEFINITION. Clock sources and PLLs: judgement, loss, automatic and requested switches, the thermal watch oscillator
(19_clocks_reset_bringup.md R423 to R434). -/

namespace Sys2Proof.Machine

/-! ## Sources (R427, R428, R430) -/

/-- Bits of 0x2001.01 by source, 0 REF100 and 1 MGMT_REF: stable, present; its loss count. -/
def srcStableBit (src : Nat) : Nat := 2 + src
def M.srcStable (m : M) (src : Nat) : Bool := m.objBit 0x2001 1 (srcStableBit src)
def M.srcPresent (m : M) (src : Nat) : Bool := m.objBit 0x2001 1 src

/-- Subindex of the management PLL. -/
def mgmtPll : Nat := 0x24

/-- Source in use by PLL `n`: 0 SYN100, 1 REF100, 2 MGMT_REF. -/
def M.pllSrc (m : M) (n : Nat) : Nat := m.objFld 0x2010 n 5 4

/-- A source as SRC names it is ready (R429); MGMT_REF is while it is STABLE. -/
def M.srcReady (m : M) (s : Nat) : Bool :=
  if s = 0 then m.objBit 0x2001 1 4 else if s = 1 then m.srcStable 0 else m.srcStable 1

/-- PLLs that can run from REF100: cores, tiers, base (R424). -/
def pllSwitches (n : Nat) : Bool := n ≤ 0x1F

def M.setPll (m : M) (n st : Nat) : M :=
  (m.setObjFld 0x2010 n 2 0 st).modClocks fun c => { c with runs := Tab.erase c.runs (n + 1) }

/-- PLL `n` relocks on source `s` (R429). SRC names the new source from the start of the switch (log entry 34). -/
def M.pllSwitch (m : M) (n s : Nat) : M := (m.setObjFld 0x2010 n 5 4 s).setPll n 4

/-! ## What a lost clock does (R431, R432) -/

/-- Steps of a tier (0 to 5) are cut with its bank clock: the manifest each belongs to ends DRAINED_ABORT, reason DRAIN. -/
def M.cutSteps (m : M) (t : Nat) : M :=
  (List.range 4).foldl (fun (m : M) k =>
    let i := 4 * t + k
    let ns := (List.range 4).map (4 * i + ·)
    if ns.any fun n => (m.lq n).stepping.isSome then
      let m := ns.foldl (fun (m : M) n => m.modLq n fun q => { Lq.zero with scrubUnit := q.scrubUnit, held := q.held, queue := q.queue }) m
      m.modRun i fun s => if (s.kind == kConvoy || s.kind == kKv) && s.phase == .waiting then s.halt .drain else s
    else m) m

/-- What the loss of PLL `n`'s output does beside holding its clocks. -/
def M.pllSafe (m : M) (n : Nat) : M :=
  if 0x19 ≤ n && n ≤ 0x1E then m.cutSteps (n - 0x19)
  else if n = mgmtPll then (m.setObjBit 0x2001 1 4 false).modMgmt fun g => { g with responder := true }
  else m

/-- PLL `n` loses its clock: with AUTO it goes to the other source where that is ready, else it waits, LOST (R431, R433). -/
def M.pllLose (m : M) (n : Nat) (source : Bool) : M :=
  let st := m.pllState n
  if st = 0 || st = 3 then m
  else
    let m := if st = 2 then m.pllSafe n else m
    let other := 1 - m.pllSrc n
    if source && pllSwitches n && m.objBit 0x2010 n 10 && m.srcReady other then m.pllSwitch n other
    else (m.setPll n 3).satObj 0x2010 n 31 24 1

/-- Every PLL on source `s` loses it. -/
def M.dropSource (m : M) (s : Nat) : M :=
  ((List.range 0x24).map (· + 1)).foldl (fun (m : M) n => if m.pllSrc n = s then m.pllLose n true else m) m

/-- The management PLL's loss takes SYN100 with it, so its consumers are judged in turn. -/
def M.loseSyn (m : M) : M := if m.objBit 0x2001 1 4 then m else m.dropSource 0

/-- A source, 0 REF100 or 1 MGMT_REF, is lost: by a missing edge, or by its count. -/
def M.sourceLost (m : M) (src : Nat) (edge : Bool) : M :=
  let m := m.setObjBit 0x2001 1 (srcStableBit src) false
  let m := if edge then m.setObjBit 0x2001 1 src false else m
  let m := (if src = 0 then m.satObj 0x2001 1 31 24 1 else m.satObj 0x2001 1 23 16 1).modClocks fun c =>
    { c with runs := Tab.erase c.runs src }
  if src = 0 then (m.dropSource 1).pcieStop else (m.dropSource 2).loseSyn

/-- The thermal watch oscillator is lost (R434): every clock stops; only removal of power ends it. -/
def M.oscLoss (m : M) : M :=
  if m.dev.oscLost then m
  else ({ m with dev := { m.dev with oscLost := true } } : M).setObjBit 0x2001 1 5 false

/-- TWP_OSC_LOSS. -/
def execTwpOscLoss (s : State) : Host.Outcome State Fault Refusal := s.run fun m => m.when m.dev.powered M.oscLoss

/-- MISSING_EDGE: `src` 0 REF100, 1 MGMT_REF, 2 the thermal watch oscillator. -/
def execMissingEdge (src : Fin 3) (s : State) : Host.Outcome State Fault Refusal :=
  s.run fun m =>
    if src.val = 2 then m.when m.dev.powered M.oscLoss
    else m.when (m.watchRuns && m.srcPresent src) fun m => m.sourceLost src true

/-! ## Judgement (R427) -/

/-- Good windows in a row that make a clock stable, and bad ones that make it lost. -/
def goodRuns (clock : Nat) : Nat := if clock ≤ 1 then 4 else 8
def badRuns (clock : Nat) : Nat := if clock ≤ 1 then 2 else 3

/-- Windows of one kind in a row, this one included. -/
def M.judgeRun (m : M) (clock : Nat) (within : Bool) : Nat × M :=
  let v := Tab.get m.dev.clocks.runs 0 clock
  let before := if within then (if v < 2 ^ 16 then v else 0) else (if v < 2 ^ 16 then 0 else v - 2 ^ 16)
  let n := min (before + 1) 255
  (n, m.modClocks fun c => { c with runs := Tab.put c.runs clock (if within then n else 2 ^ 16 + n) })

/-- A source is ready again: every PLL that waits for it relocks (R431, R433). -/
def M.wakePlls (m : M) (s : Nat) : M :=
  ((List.range 0x24).map (· + 1)).foldl (fun (m : M) n =>
    if m.pllState n ≠ 3 then m
    else if m.pllSrc n = s then m.setPll n 1
    else if pllSwitches n && m.objBit 0x2010 n 10 && s ≤ 1 && !m.srcReady (m.pllSrc n) then m.pllSwitch n s
    else m) m

/-- A tier's clock is back: what was held at its banks is served. -/
def M.tierBack (m : M) (t : Nat) : M :=
  (tierLqs t).foldl (fun (m : M) n => if (m.lq n).stepping.isNone && !(m.lq n).refreshing then m.serveAll n else m) m

/-- PLL `n` is judged STABLE: its clocks run. The management clock brings SYN100 and the management controller with it. -/
def M.pllStable (m : M) (n : Nat) : M :=
  let m := m.setObjFld 0x2010 n 2 0 2
  if n = mgmtPll then
    ((m.setObjBit 0x2001 1 4 true).modMgmt fun g => { g with responder := m.dev.faults.mcDown || m.dev.tripped }).wakePlls 0
  else if 0x19 ≤ n && n ≤ 0x1E then m.tierBack (n - 0x19)
  else m

/-- A source is judged STABLE. The management PLL starts on MGMT_REF; the PCIe block starts on REF100 (R443). -/
def M.sourceStable (m : M) (src : Nat) : M :=
  let m := m.setObjBit 0x2001 1 (srcStableBit src) true
  if src = 0 then (m.wakePlls 1).pcieStart
  else if m.pllState mgmtPll = 0 then m.setPll mgmtPll 1 else m.wakePlls 2

/-- A judgement window of source `src` ends. -/
def M.judgeSource (m : M) (src : Nat) (within : Bool) : M :=
  let r := m.judgeRun src within
  if within then
    let m := r.2.setObjBit 0x2001 1 src true
    if goodRuns src ≤ r.1 && !m.srcStable src then m.sourceStable src else m
  else if badRuns src ≤ r.1 && r.2.srcStable src then r.2.sourceLost src false
  else r.2

/-- A judgement window of PLL `n` ends. A PLL that is LOST is judged afresh where its source is ready. -/
def M.judgePll (m : M) (n : Nat) (within : Bool) : M :=
  let st := m.pllState n
  if st = 0 || (st = 3 && !m.srcReady (m.pllSrc n)) then m
  else
    let r := m.judgeRun (n + 1) within
    if within then (if goodRuns (n + 1) ≤ r.1 && st ≠ 2 then r.2.pllStable n else r.2)
    else if badRuns (n + 1) ≤ r.1 && st = 2 then
      let m := r.2.pllLose n false
      if n = mgmtPll then m.loseSyn else m
    else r.2

/-- A judgement window ends: `clock` 0 REF100, 1 MGMT_REF, n + 1 the PLL at 0x2010.n. What is judged against MGMT_REF is not judged
while that is absent. -/
def M.judgeClock (m : M) (clock : Nat) (within : Bool) : M :=
  if clock = 1 then m.judgeSource 1 within
  else if !m.srcPresent 1 then m
  else if clock = 0 then m.judgeSource 0 within
  else m.judgePll (clock - 1) within

/-! ## Requested switches (R429) -/

/-- A write of SRC_REQ to PLL `n` names source `s`: none where the write is rejected, with REFUSED set. -/
def M.srcRequest (m : M) (n s : Nat) : Option M :=
  if s = 1 && !pllSwitches n then none
  else if s = m.pllSrc n || !pllSwitches n then some (m.setObjBit 0x2010 n 11 false)
  else if m.srcReady s then some ((m.setObjBit 0x2010 n 11 false).pllSwitch n s)
  else none

end Sys2Proof.Machine
end

