-- ==== Sys2Proof/Machine/Security.lean ====
section
/-! DEFINITION. Identity, attestation and firmware update (22_security_firmware.md R483 to R499). What keys, hashes and signatures
are is opaque (Config); whether a signature, a tag or a digest verifies comes with the command. -/

namespace Sys2Proof.Machine

/-! ## Views (R485, R487, R499) -/

/-- 64-byte chunk `k` of a byte string, zero beyond its end. -/
def chunkOf (bs : List Byte) (k : Nat) : List Byte :=
  let c := (bs.drop (64 * k)).take 64
  c ++ List.replicate (64 - c.length) 0

/-- `n` bytes of a function of the byte number. -/
def bytesFrom (n : Nat) (f : Nat → Byte) : List Byte := (List.range n).map f

def M.publicKey (m : M) : List Byte := bytesFrom 1952 (Config.identityByte m.fuse.serial)

/-- The identity certificate (R485). -/
def M.certificate (m : M) : List Byte :=
  let body := bytesOf m.fuse.serial.toNat 8 ++ bytesOf m.fuse.grade.toNat 4 ++ bytesOf (Config.mfgKeyIndex m.fuse.serial).toNat 4 ++
    List.replicate 48 0 ++ m.publicKey ++ List.replicate 32 0
  body ++ bytesFrom 3309 (Config.certByte m.fuse.serial) ++ List.replicate 19 0

/-- 0x9030.`p` (R499). -/
def Proc.status (p : Proc) : Nat :=
  p.active.version % 2 ^ 32 * 2 ^ 32 + p.floor % 256 * 2 ^ 24 + p.active.svn % 256 * 2 ^ 16 + p.pending.toNat * 2 ^ 7 +
    p.fellBack.toNat * 2 ^ 6 + p.other.isSome.toNat * 2 ^ 5 + p.slotB.toNat * 2 ^ 4

/-- Digest of processor `p`'s active image. -/
def M.imageDigest (m : M) (p : Nat) : Nat :=
  (m.proc p).active.digest.getD (Config.madeDigest m.fuse.serial p).toNat

def M.anyPending (m : M) : Bool := m.dev.sec.mc.pending || m.dev.sec.ltc.pending || m.dev.sec.twp.pending

/-- RESPONDER: the thermal watch processor serves the Ledger (R378). -/
def M.responder (m : M) : Bool := m.dev.mgmt.responder

/-! ## Attestation (R486, R487) -/

/-- The body of a report taken now with a DEVSEQ. -/
def M.attestBody (m : M) (seq : Nat) : List Byte :=
  let ps := [m.dev.sec.mc, m.dev.sec.ltc, m.dev.sec.twp]
  let state := m.anyPending.toNat + 2 * (ps.any (·.fellBack)).toNat + 4 * (m.domOn 37).toNat + 8 * m.responder.toNat +
    16 * m.dev.sec.mc.slotB.toNat + 32 * m.dev.sec.ltc.slotB.toNat + 64 * m.dev.sec.twp.slotB.toNat
  bytesOf 1 4 ++ bytesOf m.fuse.serial.toNat 8 ++ bytesOf m.fuse.grade.toNat 4 ++ bytesOf m.fuse.romVersion 4 ++ bytesOf (seq % 2 ^ 48) 8 ++
    bytesOf (m.obj 0x9010 1) 32 ++ [1, 2, 3].flatMap (fun p => bytesOf (m.imageDigest p) 32) ++
    ps.flatMap (fun p => bytesOf p.active.version 4) ++ ps.flatMap (fun p => bytesOf p.floor 4) ++ bytesOf state 4 ++
    bytesFrom 32 (Config.shakeByte m.publicKey) ++ List.replicate 40 0

/-- A report is being formed. -/
def M.attestBusy (m : M) : Bool := m.objBit 0x9010 3 0

/-- REQUEST: the report describes the device as it stands now. -/
def M.attestRequest (m : M) : M :=
  let q := m.nextSeq
  let body := q.2.attestBody q.1
  (((q.2.setObjBit 0x9010 3 0 true).setObjBit 0x9010 3 1 false).modSec fun k => { k with forming := some body })

/-- The report is complete and signed. -/
def M.attestReady (m : M) : M :=
  match m.dev.sec.forming with
  | none => m
  | some body =>
    let report := body ++ bytesFrom 3309 (Config.signByte m.fuse.serial 0 body) ++ List.replicate 19 0
    let m := m.modSec fun k => { k with forming := none, report := report }
    ((m.setObjBit 0x9010 3 0 false).setObjBit 0x9010 3 1 true).satObj 0x9010 3 31 16 1

/-- ATTEST_REPORT_READY. -/
def execAttestReportReady (s : State) : Host.Outcome State Fault Refusal := s.run fun m => m.when (m.live && m.domOn 36) M.attestReady

/-! ## Compatibility (R493) -/

/-- An image accepts a version by the `k`-th range of its COMPAT. -/
def Image.accepts (g : Image) (k v : Nat) : Bool := g.compat.getD (2 * k) 0 ≤ v && v ≤ g.compat.getD (2 * k + 1) 0

/-- The three images accept each other's versions. -/
def compatible (mc ltc twp : Image) : Bool :=
  mc.accepts 0 ltc.version && mc.accepts 1 twp.version && ltc.accepts 0 mc.version && ltc.accepts 1 twp.version &&
    twp.accepts 0 mc.version && twp.accepts 1 ltc.version

/-- The triple with `g` as the image of processor `p` is compatible. -/
def M.fits (m : M) (p : Nat) (g : Image) : Bool :=
  let pick (q : Nat) : Image := if q = p then g else (m.proc q).active
  compatible (pick 1) (pick 2) (pick 3)

/-! ## The update session (R494 to R497) -/

def M.sessState (m : M) : Nat := m.objFld 0x9020 2 3 0
def M.sessProc (m : M) : Nat := m.objFld 0x9020 2 9 8

/-- BEGIN: a new key pair and nonce; the session is the party's. -/
def M.sessBegin (m : M) (party : Party) (p : Nat) : M :=
  ((m.setObjFld 0x9020 2 9 8 p).endSession 1 0).modSec fun q => { q with owner := some party, sessions := q.sessions + 1 }

/-- The session blob at 0x9021, while a session's key lives. -/
def M.sessBlob (m : M) : List Byte :=
  if m.sessState = 0 then List.replicate 4992 0
  else
    let n := m.dev.sec.sessions
    let body := bytesFrom 32 (Config.sessionNonceByte m.fuse.serial n) ++ bytesOf m.fuse.serial.toNat 8 ++ List.replicate 24 0 ++
      bytesFrom 1568 (Config.sessionKeyByte m.fuse.serial n)
    body ++ bytesFrom 3309 (Config.signByte m.fuse.serial 1 body) ++ List.replicate 51 0

/-- Byte `k` of the package, in memory or in flash staging. -/
def M.pkgByte (m : M) (k : Nat) : Byte :=
  let a := m.obj 0x9020 3
  if a = 0 then Tab.get m.dev.sec.staging 0 k else m.byte (a + k)

def M.pkgNum (m : M) (k n : Nat) : Nat := natOf ((List.range n).map fun i => m.pkgByte (k + i))

/-- The package in memory holds a poisoned unit, or one that does not answer (log entry 36). -/
def M.pkgPoisoned (m : M) : Bool :=
  let a := m.obj 0x9020 3
  a != 0 && (m.anyMark a (m.obj 0x9020 4) || !m.reachAll none a (m.obj 0x9020 4))

/-- The image that a package's header names (R491). -/
def M.pkgImage (m : M) : Image :=
  { key := m.pkgNum 3 1, version := m.pkgNum 4 4, svn := m.pkgNum 8 1, fmt := m.pkgNum 10 1, revoke := m.pkgNum 9 1 % 16,
    compat := [m.pkgNum 80 4, m.pkgNum 84 4, m.pkgNum 88 4, m.pkgNum 92 4], size := m.pkgNum 12 4, digest := some (m.pkgNum 48 32) }

/-- Slot size of a processor, in bytes (R488). -/
def slotSize (p : Nat) : Nat := if p = 1 then 0x1000000 else if p = 2 then 0x800000 else 0x400000

/-- The checks of R495 that need no key: an error, or the image. A header that names no key or no known layout carries no
signature that verifies; one for another processor has no base here (log entry 36). -/
def M.pkgChecks (m : M) : Nat ⊕ Image :=
  let p := m.sessProc
  let g := m.pkgImage
  if m.pkgPoisoned then .inl 9
  else if m.pkgNum 0 2 ≠ 1 || 3 < g.key then .inl 1
  else if m.dev.sec.revoked.testBit g.key then .inl 2
  else if g.svn < (m.proc p).floor then .inl 3
  else if m.pkgNum 2 1 ≠ p || m.pkgNum 16 32 ≠ m.imageDigest p then .inl 4
  else if !m.fits p g then .inl 7
  else if slotSize p < g.size then .inl 8
  else .inr g

/-- APPLY: the package is taken as it stands; the inactive slot is being written. -/
def M.sessApply (m : M) : M :=
  let found := m.pkgChecks
  let m := m.modProc m.sessProc fun p => { p with other := none }
  (m.endSession 2 0).modSec fun q => { q with applying := some found }

/-- APPLY ends: `sig` the header's signature verifies, `tag` the GCM tag, `digest` the written slot's digest (R495). -/
def M.sessApplied (m : M) (sig tag digest : Bool) : M :=
  if m.sessState ≠ 2 then m
  else match m.dev.sec.applying with
    | none => m
    | some r =>
      let m := m.modSec fun q => { q with applying := none }
      match r with
      | .inl 9 => m.endSession 5 9
      | .inl e => m.endSession 5 (if sig then e else 1)
      | .inr g =>
        if !sig then m.endSession 5 1
        else if !tag then m.endSession 5 5
        else if !digest then m.endSession 5 6
        else (m.modProc m.sessProc fun p => { p with other := some g }).endSession 3 0

/-- APPLY_DONE. -/
def execApplyDone (sigOk tagOk digestOk : Bool) (s : State) : Host.Outcome State Fault Refusal :=
  s.run fun m => m.when (m.live && m.domOn 36) fun m => m.sessApplied sigOk tagOk digestOk

/-- A device reset is asked for (R441): it takes the place of a lower one. -/
def M.askDeviceReset (m : M) : M :=
  { m with dev := { m.dev with reset := some { level := 4, target := 0, fullLayer := false, begun := false, asserted := false } } }

/-- Every active link retrains, reason COMMAND. -/
def M.retrainAll (m : M) : M := (List.range 32).foldl (fun (m : M) l => m.wantRetrain l 6) m

/-- Processor `p` restarts (R496). -/
def M.restartProc (m : M) (p : Nat) : M :=
  if p = 1 then
    (m.modFaults fun f => { f with mcDown := true, mcRestarted := true }).modMgmt fun g => { g with responder := true }
  else if p = 2 then m.retrainAll
  else m.askDeviceReset

/-- Processor `p` changes to its other slot. -/
def M.swapSlots (m : M) (p : Nat) : M :=
  match (m.proc p).other with
  | none => m
  | some g => m.modProc p fun q => { q with active := g, other := some q.active, slotB := !q.slotB }

/-- Settings of the area in force: saved objects, link settings, tier settings (R498). -/
def M.settingsArea (m : M) : Tab Nat × Tab (List Nat) × Tab (List Nat) :=
  (m.dev.led.saved, (List.range 32).filterMap (fun l => (m.link l).saved.map fun f => (l, f)), m.dev.faults.tierSaved)

/-- The old area is in force again. -/
def M.restoreArea (m : M) : M :=
  match m.dev.sec.oldArea with
  | none => m
  | some a =>
    let m := (m.modLed fun d => { d with saved := a.1 }).modFaults fun f => { f with tierSaved := a.2.2 }
    let m := (List.range 32).foldl (fun (m : M) l => m.modLink l fun k => { k with saved := Tab.find? a.2.1 l }) m
    m.modSec fun q => { q with oldArea := none }

/-- ACTIVATE: the new slot starts and awaits confirmation. -/
def M.sessActivate (m : M) : M :=
  let p := m.sessProc
  let old := (m.proc p).active.fmt
  let m := (m.swapSlots p).modProc p fun q => { q with pending := true }
  let m := if (m.proc p).active.fmt = old then m else m.modSec fun q => { q with oldArea := some m.settingsArea }
  (m.endSession 4 0).restartProc p

/-- CONFIRM (R497). -/
def M.sessConfirm (m : M) : M :=
  let p := m.sessProc
  let g := (m.proc p).active
  let m := m.modProc p fun q => { q with pending := false, fellBack := false, floor := min 64 (max q.floor g.svn) }
  (m.modSec fun q => { q with revoked := q.revoked ||| g.revoke, oldArea := none }).endSession 0 0

/-- The pending processor `p` goes back to its old slot, with FELL_BACK and an error (R494, R496). -/
def M.revertProc (m : M) (p err : Nat) : M :=
  if !(m.proc p).pending then m
  else
    let m := (m.swapSlots p).modProc p fun q => { q with pending := false, fellBack := true }
    ((m.restoreArea).endSession 0 err).restartProc p

/-- The processor that is pending, where one is. -/
def M.pendingProc (m : M) : Option Nat := [1, 2, 3].find? fun p => (m.proc p).pending

/-- START_FAIL_TIMEOUT: for the management controller it is due while its heartbeat has not come. -/
def execStartFailTimeout (s : State) : Host.Outcome State Fault Refusal :=
  s.run fun m => m.when m.watchRuns fun m =>
    match m.pendingProc with
    | some p => if p = 1 && !m.dev.faults.mcDown then m else m.revertProc p 10
    | none => m

/-- CONFIRM_LIMIT_EXPIRY. -/
def execConfirmLimitExpiry (s : State) : Host.Outcome State Fault Refusal :=
  s.run fun m => m.when m.watchRuns fun m =>
    match m.pendingProc with
    | some p => m.revertProc p 11
    | none => m

/-- A command that 0x9020.01 takes in the session's state (R494): whether it does. -/
def M.sessTakes (m : M) (cmd : Nat) : Bool :=
  let st := m.sessState
  match cmd with
  | 1 => st == 0 && !m.anyPending
  | 2 => st == 1
  | 3 => st == 3
  | 4 => st == 4
  | 5 => st == 4
  | 6 => st == 1 || st == 3 || st == 5
  | _ => false

/-- The command's effect. -/
def M.sessCommand (m : M) (party : Party) (cmd p : Nat) : M :=
  match cmd with
  | 1 => m.sessBegin party p
  | 2 => m.sessApply
  | 3 => m.sessActivate
  | 4 => m.sessConfirm
  | 5 => m.revertProc m.sessProc 0
  | _ => m.cancelSession

/-- CHUNK: 64 bytes go to CHUNK_OFFSET in flash staging, which holds 48 MiB; the offset moves on (R488, R494). -/
def M.putChunk (m : M) (v : Nat) : M :=
  let o := m.obj 0x9020 6
  let m := if 0x3000000 ≤ o then m else m.modSec fun q => { q with
    staging := (bytesOf v 64).zipIdx.foldl (fun t b => Tab.put t (o + b.2) b.1) q.staging }
  m.setObj 0x9020 6 ((o + 64) % 2 ^ 32)

/-! ## Bring-up (R490) -/

/-- An image passes the checks of its slot: its key unrevoked, its SVN at or above the floor. -/
def M.imagePasses (m : M) (p : Nat) (g : Image) : Bool := !m.dev.sec.revoked.testBit g.key && (m.proc p).floor ≤ g.svn

/-- Processor `p` takes its other slot. -/
def M.fallBack (m : M) (p : Nat) : M :=
  let m := if (m.proc p).pending then m.restoreArea else m
  (m.swapSlots p).modProc p fun q => { q with pending := false, fellBack := true, other := none }

/-- The ROM verifies the active slots; `bad` names processors (bits 0 to 2) whose active slot fails its digest or signature.
Answers whether a passing combination was found. -/
def M.verifyImages (m : M) (bad : Nat) : Bool × M :=
  let r := [1, 2, 3].foldl (fun (a : Bool × M) p =>
    let m := a.2
    let q := m.proc p
    if !bad.testBit (p - 1) && m.imagePasses p q.active then a
    else match q.other with
      | some g => if m.imagePasses p g && m.fits p g then (a.1, m.fallBack p) else (false, m)
      | none => (false, m)) (true, m)
  if r.1 && compatible r.2.dev.sec.mc.active r.2.dev.sec.ltc.active r.2.dev.sec.twp.active then r else (false, r.2)

/-- What a reset leaves of the session: a pending image's, or none (R494 to R496). -/
def M.sessionAfterReset (m : M) : M :=
  let m := m.modSec fun q => { q with owner := none, applying := none, forming := none, report := [] }
  match m.pendingProc with
  | some p => (m.setObjFld 0x9020 2 3 0 4).setObjFld 0x9020 2 9 8 p
  | none => m

end Sys2Proof.Machine
end

