-- ==== Sys2Proof/Machine/Reset.lean ====
section
/-! DEFINITION. Resets and bring-up: what a reset covers, its drain, quiesce and release, the device reset, PERST#, power-on and
the bring-up stages (19_clocks_reset_bringup.md R438 to R446; 15 R352, R354; 20 R460). -/

namespace Sys2Proof.Machine

/-! ## What a reset covers (R438, R441) -/

/-- Cores that a reset covers, fused-off ones left out. -/
def M.resetCores (m : M) (r : ResetReq) : List Nat :=
  (match r.level with
   | 1 => [r.target]
   | 2 => (List.range 4).map (4 * (r.target - 1) + ·)
   | 3 => (List.range 12).map (12 * r.target + ·)
   | _ => List.range 24).filter fun i => !m.fusedOff i

/-- Tiers (0 to 5) that a reset covers. -/
def ResetReq.tiers (r : ResetReq) : List Nat :=
  match r.level with
  | 2 => [r.target - 1]
  | 3 => (List.range 3).map (3 * r.target + ·)
  | 4 => List.range 6
  | _ => []

/-- The reset touches spine stages (R440). -/
def ResetReq.spine (r : ResetReq) : Bool := r.level == 3 || r.level == 4 || (r.level == 2 && r.fullLayer)

/-- A TARGET exists at its LEVEL, and FULL_LAYER is 0 but for a tier. -/
def resetExists (level target : Nat) (full : Bool) : Bool :=
  match level with
  | 1 => target < 24 && !full
  | 2 => 1 ≤ target && target ≤ 6
  | 3 => target < 2 && !full
  | 4 => target == 0 && !full
  | _ => false

/-- The device takes a reset request now. -/
def M.mayReset (m : M) (level target : Nat) : Bool := m.dev.reset.isNone && !(level == 1 && m.fusedOff target)

/-- A reset is asked for: PHASE leaves idle (R441, log entry 37). -/
def M.askReset (m : M) (level target : Nat) (full : Bool) : M :=
  { m with dev := { m.dev with reset := some { level, target, fullLayer := full, begun := false, asserted := false } } }

/-- Every core that the reset covers has drained. -/
def M.resetDrained (m : M) (r : ResetReq) : Bool := (m.resetCores r).all fun i => (m.core i).run.isNone && (m.core i).ready.isNone

/-- PHASE (R441). -/
def M.resetPhase (m : M) : Nat :=
  match m.dev.reset with
  | none => 0
  | some r => if r.asserted then 3 else if r.begun && r.spine && m.resetDrained r then 2 else 1

/-! ## The drain (R439) -/

/-- The reset begins: its cores enter DISABLING; at a device reset the links drain and the PCIe link goes down. -/
def M.beginReset (m : M) : M :=
  match m.dev.reset with
  | none => m
  | some r =>
    if r.begun then m
    else
      let m : M := { m with dev := { m.dev with reset := some { r with begun := true } } }
      let m := (m.resetCores r).foldl (fun (m : M) i => m.disable i .reset) m
      if r.level = 4 then ((List.range 32).foldl (fun (m : M) l => m.linkDrain l) m).pcieStop else m

/-- RESET_BEGIN. -/
def execResetBegin (s : State) : Host.Outcome State Fault Refusal := s.run fun m => m.when m.live M.beginReset

/-- What still touches the reset columns is stopped; accesses already admitted at their banks are served. -/
def M.endDrain (m : M) (r : ResetReq) : M :=
  r.tiers.foldl (fun (m : M) t => (tierLqs t).foldl (fun (m : M) n => m.serveAll n) (m.stopTouching t)) m

/-- The quiesce of a reset that touches spine stages ends: `absorbed` transfers complete TARGET_RESET; reset is asserted. -/
def M.quiesceEnd (m : M) (absorbed : Nat) : M :=
  match m.dev.reset with
  | none => m
  | some r =>
    if !r.begun || r.asserted || !r.spine || !m.resetDrained r then m
    else
      let m := (m.endDrain r).wrapObj 0x2100 2 63 32 absorbed
      { m with dev := { m.dev with reset := some { r with asserted := true } } }

/-- SPINE_QUIESCE_END. -/
def execSpineQuiesceEnd (absorbed : BitVec 32) (s : State) : Host.Outcome State Fault Refusal :=
  s.run fun m => m.when m.live fun m => m.quiesceEnd absorbed.toNat

/-! ## Core, tier and partition resets (R438) -/

/-- A core comes out of reset: all that the level clears is clear, its Cistern too. -/
def M.resetCore (m : M) (i : Nat) : M := ((m.clearCore i).clearCis i).modCore i fun c => { c with inReset := false }

/-- A tier (0 to 5) comes out of reset: its NBUs, buffers and refresh state are clear, its PLL relocks. -/
def M.resetTier (m : M) (t : Nat) : M :=
  let m := (tierLqs t).foldl (fun (m : M) n => (m.clearLq n).setObjFld 0x5021 (n + 1) 4 0 0) m
  if m.pllState (0x19 + t) = 2 then m.setPll (0x19 + t) 1 else m

/-- A reset has been performed (0x2100.02). -/
def M.countReset (m : M) (r : ResetReq) : M :=
  let m := (m.satObj 0x2100 2 31 16 1).setObjFld 0x2100 2 15 8 r.target
  ((m.setObjBit 0x2100 2 7 r.fullLayer).setObjFld 0x2100 2 6 4 r.level)

/-! ## The device reset (R438, R460) -/

/-- What an object holds after a device reset (R438, R408, log entry 35): sources, feeds and readings as they are, without their
counts and judgements; what the repair map, the flash and the fences hold; everything else at its reset value. -/
def keptValue (key v : Nat) : Option Nat :=
  let i := key / 256
  if i = 0x2001 || i = 0x5041 || i = 0x5070 || i = 0x7001 || i = 0x7100 || key = objKey 0x4020 4 then some v
  else if i = 0x3010 then some (setFld v 23 16 0)
  else if 0x3200 ≤ i && i ≤ 0x321E then some (v % 2 ^ 16)
  else if 0x4030 ≤ i && i ≤ 0x4032 then some (setFld v 3 2 0)
  else if 0x4040 ≤ i && i ≤ 0x405E then some (v / 2 ^ 16 * 2 ^ 16)
  else none

/-- Highest DEVSEQ in the fault log. -/
def M.lastLogged (m : M) : Nat := (List.range 240).foldl (fun b k => max b (m.obj 0x7100 (k + 1) / 2 ^ 208)) 0

/-- Repairs of one kind (1 row, 2 column) that the map holds for bank `b` (R285). -/
def mapped (map : List Nat) (kind b : Nat) : Nat := (map.filter fun e => fld e 63 62 == kind && fld e 61 44 == b).length

/-- A bank after the repair map has been applied. -/
def Bank.restored (k : Bank) (map : List Nat) (b : Nat) : Bank :=
  { Bank.zero with rowsUsed := mapped map 1 b, colsUsed := mapped map 2 b, exhausted := k.exhausted }

/-- State of a domain as the device comes up (R391, R443): fused and dark domains as they are, those of fenced cores OFF. -/
def M.bootDomain (m : M) (d : Nat) : Nat :=
  if d < 24 && m.fusedOff d then 5 else if m.domState d = 4 then 4 else if d < 24 && m.fenced d then 2 else 0

/-- The device after a reset of everything but the thermal watch processor: flash, fuses and broken hardware stand. -/
def M.wiped (m : M) : Dev :=
  let d := m.dev
  { Dev.zero with
    fresh := d.fresh, sent := d.sent, devSeq := 2 ^ 32 + m.lastLogged, powered := d.powered, tripped := d.tripped
    oscLost := d.oscLost, perst := d.perst
    objs := d.objs.filterMap fun e => (keptValue e.1 e.2).bind fun v =>
      if v = objReset m.fuse (e.1 / 256) (e.1 % 256) then none else some (e.1, v)
    banks := d.banks.map fun e => (e.1, e.2.restored d.repairMap e.1)
    lostLqs := d.lostLqs, darkLqs := d.darkLqs, outGroups := d.outGroups, portClosed := d.portClosed, unreach := d.unreach
    repairMap := d.repairMap
    links := d.links.map fun e => (e.1, { Link.zero with saved := e.2.saved })
    led := { Led.zero with saved := d.led.saved }
    mgmt := { d.mgmt with
      inEffect := none, applyDue := false, kept := [], responder := d.tripped
      traySeq := none, flows := [], age := 0, inletAge := 0 }
    power := { Power.zero with
      holds := d.power.holds.filter (fun e => e.1 < 100), budgetHolds := d.power.budgetHolds
      alertLow := d.power.alertLow, alertHold := d.power.alertHold }
    heat := { Heat.zero with budgets := d.heat.budgets, baseFloor := m.objBit 0x4032 1 1 }
    clocks := { runs := d.clocks.runs.filter fun e => e.1 ≤ 1 }
    faults := { Faults.zero with
      unsaved := d.faults.unsaved, read := d.faults.read, groupsOut := d.faults.groupsOut, trunkBad := d.faults.trunkBad
      coldOk := d.faults.coldOk, tierSaved := d.faults.tierSaved }
    sec := d.sec }

/-- The device is reset, and bring-up starts from STAGE 0x00: memory is cleared, every port of it closed until then. -/
def M.deviceReset (m : M) : M :=
  let doms := (List.range 38).map fun d => (d, m.bootDomain d)
  let groups := (List.range 24).map fun i => (i, m.objFld 0x7061 (i + 1) 55 48)
  let maps := (List.range 24).map fun i => (i, m.obj 0x7040 (i + 1), m.obj 0x7041 (i + 1))
  let ready := m.obj 0x1010 1 != 0
  let m : M := ({ m with dev := m.wiped } : M).zero 0 (2 ^ 48 - 1)
  let m := doms.foldl (fun (m : M) d => if d.2 = 0 then m else m.setDom d.1 d.2) m
  let m := groups.foldl (fun (m : M) g => if g.2 = 0 then m else m.setObjFld 0x7061 (g.1 + 1) 55 48 g.2) m
  let m := maps.foldl (fun (m : M) g => if g.2.1 = 0 then m else (m.setObj 0x7040 (g.1 + 1) g.2.1).setObj 0x7041 (g.1 + 1) g.2.2) m
  let m := (m.setObjBit 0x2001 1 4 false).sessionAfterReset
  let m := if m.srcStable 1 then m.setPll mgmtPll 1 else m
  let m := if m.dev.tripped then m.setObjFld 0x4020 1 3 0 3 else m
  let m := (if m.dev.power.alertLow || m.dev.power.alertHold then m.toFloor else m.settle).pcieStart
  if ready then m.raise 389 else m

/-- Reset ends (R440 step 5): a core or non-spine tier reset is asserted and released at once. -/
def M.releaseReset (m : M) : M :=
  match m.dev.reset with
  | none => m
  | some r =>
    if !r.begun || !m.resetDrained r || (r.spine && !r.asserted) then m
    else if r.level = 4 then m.deviceReset
    else
      let m := if r.asserted then m else m.endDrain r
      let m := (m.resetCores r).foldl (fun (m : M) i => m.resetCore i) m
      let m := r.tiers.foldl (fun (m : M) t => m.resetTier t) m
      let m := m.countReset r
      ({ m with dev := { m.dev with reset := none } } : M).judgeBarriers

/-- RESET_RELEASE. -/
def execResetRelease (s : State) : Host.Outcome State Fault Refusal := s.run fun m => m.when m.live M.releaseReset

/-! ## PERST# and Function Level Reset (R442, R354) -/

/-- The chain of context `x` is aborted as though CORE.ABORT had been written for it and had latched (R354, R141). -/
def M.forceAbort (m : M) (i x : Nat) : M :=
  let r := m.abortChain i x
  if r.1 = 0 then r.2.2.modCore i fun c => { c with abortCtx := x, abortRes := 1, abortLatched := true }
  else (r.2.2.modCore i fun c => { c with abortCtx := x, abortRes := r.1, abortAddr := r.2.1, abortLatched := false }).afterDrain i

/-- Every active chain is aborted, and the host-port registers, IRQ_MODE, MSI-X state and BAR2 size return to reset; the Ledger and its
mailbox stand. -/
def M.functionReset (m : M) : M :=
  let m := (List.range 24).foldl (fun (m : M) i =>
    let cur := (m.core i).current
    (((List.range 16).filter (· != cur)) ++ [cur]).foldl (fun (m : M) x =>
      if bit16 (m.core i).active x then m.forceAbort i x else m) m) m
  m.modHost fun h => { HostPort.zero with
    mboxBusy := h.mboxBusy, mboxDone := h.mboxDone, mboxOverrun := h.mboxOverrun, mboxIrqEn := h.mboxIrqEn
    mboxLastSeq := h.mboxLastSeq, mboxReq := h.mboxReq, mboxRep := h.mboxRep }

/-- PERST# is asserted. Until the device is ready nothing is there to drain. -/
def M.perstOn (m : M) : M :=
  let m : M := { m with dev := { m.dev with perst := true } }
  if !m.objBit 0x2100 3 0 then m.functionReset.pcieStop
  else if m.ready then m.askDeviceReset.beginReset
  else m.deviceReset

/-- PERST. -/
def execPerst (s : State) : Host.Outcome State Fault Refusal := s.run fun m => m.when (m.live && !m.dev.perst) M.perstOn

/-- PERST_RELEASE. -/
def execPerstRelease (s : State) : Host.Outcome State Fault Refusal :=
  s.run fun m => m.when m.dev.perst fun m =>
    let m : M := { m with dev := { m.dev with perst := false } }
    m.when m.live M.pcieStart

/-! ## Power-on (R442, R443) -/

/-- Fault-log entries that had not reached the flash are gone (R462). -/
def M.dropUnsaved (m : M) : M :=
  let m := m.dev.faults.unsaved.foldl (fun (m : M) k => m.setObj 0x7100 k 0) m
  let found := (List.range 240).filterMap fun k => if m.obj 0x7100 (k + 1) = 0 then none else some (m.obj 0x7100 (k + 1) / 2 ^ 208, k + 1)
  let newest := found.foldl (fun b e => if b.1 < e.1 then e else b) (0, 0)
  let m := (m.setObjFld 0x7100 0xF1 7 0 found.length).setObjFld 0x7100 0xF1 15 8 newest.2
  m.modFaults fun f => { f with unsaved := [], read := f.read.filter fun k => m.obj 0x7100 k != 0 }

/-- A cold boot: as a device reset, and the thermal watch processor starts afresh too; TRIPS is kept (R420). -/
def M.coldBoot (m : M) : M :=
  let trips := m.obj 0x4020 4
  let m := m.dropUnsaved
  let keep (k : Nat) : Bool := let i := k / 256
    i != 0x2001 && i != 0x3010 && !(0x4010 ≤ i && i ≤ 0x405E)
  let m : M := { m with dev := { m.dev with
    powered := true, tripped := false, oscLost := false
    objs := m.dev.objs.filter fun e => keep e.1
    mgmt := Mgmt.zero, heat := Heat.zero, clocks := Clocks.zero
    power := { m.dev.power with alertLow := false, alertHold := false } } }
  m.deviceReset.setObj 0x4020 4 trips

/-- POWER_ON: where power is absent, or is removed to end a trip or the loss of the thermal watch oscillator (R417, R434). -/
def execPowerOn (s : State) : Host.Outcome State Fault Refusal :=
  s.run fun m => m.when (!m.dev.powered || m.dev.tripped || m.dev.oscLost) M.coldBoot

/-! ## Bring-up (R443 to R446) -/

/-- STAGE changes: the host is told (R348). -/
def M.setStage (m : M) (n : Nat) : M := (m.setObj 0x1010 1 n).raise 389

/-- Bring-up stops: STAGE 0xFF, with its reason in the fault log. -/
def M.bringupStop (m : M) : M := (m.logFault 0x1003 (m.obj 0x1010 1) 0 0 clkMgmt).setStage 0xFF

/-- Saved values replace reset values; ROLE is not kept (R367). The management port runs on its setting. -/
def M.restoreSaved (m : M) : M :=
  let m := m.dev.led.saved.foldl (fun (m : M) e => m.setObj (e.1 / 256) (e.1 % 256) e.2) m
  let m := m.setObjFld 0x6500 1 25 24 0
  m.modMgmt fun g => { g with inEffect := some (m.obj 0x1060 1) }

/-- PLLs that are off start (STAGE 0x03). -/
def M.startPlls (m : M) : M :=
  ((List.range 0x23).map (· + 1)).foldl (fun (m : M) n =>
    if m.pllState n = 0 && !(n ≤ 24 && m.fusedOff (n - 1)) then m.setPll n 1 else m) m

/-- What a tier's training fingerprint covers (R444): serial, tier, lane map, repairs, settings format. -/
def M.tierPrint (m : M) (t : Nat) : List Nat :=
  let mine (i : Nat) : Bool := 4 * t ≤ i && i < 4 * t + 4
  [m.fuse.serial.toNat, t, m.dev.sec.ltc.active.fmt] ++
    (m.dev.faults.spares.filter fun e => mine (e.1 / 32 / 8)).flatMap (fun e => [e.1, e.2]) ++
    m.dev.faults.groupsOut.filter (fun g => mine (g / 64 / 4)) ++
    m.dev.repairMap.filter fun e => mine (fld e 61 44 / 8192)

/-- Clocks that STAGE 0x03 waits for are STABLE, and no link is in training. -/
def M.stage3Ready (m : M) : Bool :=
  (((List.range 0x23).map (· + 1)).all fun n => m.pllRuns n || (n ≤ 24 && m.fusedOff (n - 1))) &&
    (List.range 32).all fun l => m.linkState l != lsTrain && m.linkState l != lsNegotiate

/-- A tier (0 to 5) has failed cold training: its cores are fenced, its columns do not answer. -/
def M.tierUntrained (m : M) (t : Nat) : M :=
  let m : M := { m with dev := { m.dev with untrained := addOnce m.dev.untrained t } }
  let m := m.modFaults fun f => { f with coldOk := f.coldOk.filter (· != t), tierSaved := Tab.erase f.tierSaved t }
  let m := m.logFault 0x7006 (t + 1) 0 0 clkMgmt
  (List.range 4).foldl (fun (m : M) k => m.fence (4 * t + k) 5) m

/-- A tier has trained: cold where verification of its saved settings failed or its fingerprint does not match. -/
def M.tierTrained (m : M) (t : Nat) (cold : Bool) : M :=
  let fp := m.tierPrint t
  if cold || Tab.find? m.dev.faults.tierSaved t ≠ some fp then
    m.modFaults fun f => { f with coldOk := addOnce f.coldOk t, tierSaved := Tab.put f.tierSaved t fp }
  else m

/-- STAGE 0x03 ends: memory and SRAM read zero and clean (R445), every domain that may be is ON. -/
def M.becomeReady (m : M) (bad cold : Nat) : M :=
  let m := (List.range 6).foldl (fun (m : M) t => if bad.testBit t then m.tierUntrained t else m.tierTrained t (cold.testBit t)) m
  let m := m.zero 0 (2 ^ 48 - 1)
  let m := (List.range 38).foldl (fun (m : M) d => m.setDom d (m.bootDomain d)) m
  m.setStage 4

/-- The bring-up stage at hand completes, or fails. `bad`: at STAGE 0x01 the processors (bits 0 to 2) whose active slot fails its
digest or signature; at 0x02 the cores whose trunk fails beyond its spares; at 0x03 the tiers that fail cold training. `cold`: the
tiers whose saved settings fail verification. -/
def M.stageEnd (m : M) (ok : Bool) (bad cold : Nat) : M :=
  match m.obj 0x1010 1 with
  | 0 => if !ok then m.bringupStop.modMgmt fun g => { g with responder := true }
         else if m.srcStable 1 && m.objBit 0x2001 1 4 then m.setStage 1 else m
  | 1 =>
    let r := m.verifyImages bad
    if !ok || !r.1 then r.2.bringupStop
    else (r.2.restoreSaved.setObjBit 0x7060 3 0 true).setStage 2
  | 2 =>
    if !ok then m.bringupStop
    else
      let m := (List.range 24).foldl (fun (m : M) i => if bad.testBit i then m.fence i 2 else m) m
      let m := m.modFaults fun f => { f with
        trunkBad := f.trunkNow ++ ((bitsSet bad 24).filter fun i => !f.trunkNow.contains i), trunkNow := [] }
      let m := (m.setObjBit 0x7060 3 0 false).satObj 0x7060 3 31 16 1
      (List.range 32).foldl (fun (m : M) l => m.linkWake l) (m.startPlls.setStage 3)
  | 3 => if !ok then m.bringupStop else if m.stage3Ready then m.becomeReady bad cold else m
  | _ => m

/-- BRINGUP_STAGE_END. -/
def execBringupStageEnd (ok : Bool) (bad : BitVec 24) (cold : BitVec 6) (s : State) : Host.Outcome State Fault Refusal :=
  s.run fun m => m.when m.live fun m => m.stageEnd ok bad.toNat cold.toNat

end Sys2Proof.Machine
end

