-- ==== Sys2Proof/Machine/Faults.lean ====
section
/-! DEFINITION. The watchdog, the bond self-test with its spares, unfencing, and the fault log's flash copy
(20_faults_fencing.md R449 to R462). -/

namespace Sys2Proof.Machine

/-! ## The watchdog (R459, R460) -/

/-- The management controller's heartbeat: it serves the Ledger again (R378). -/
def M.mcBeat (m : M) : M :=
  (m.modFaults fun f => { f with mcDown := false, mcRestarted := false }).modMgmt fun g => { g with responder := m.dev.tripped }

/-- MC_HEARTBEAT. -/
def execMcHeartbeat (s : State) : Host.Outcome State Fault Refusal := s.run fun m => m.when (m.live && m.pllRuns mgmtPll) M.mcBeat

/-- ACTION of 0x7050.03. -/
def M.mcAction (m : M) : Nat := m.objFld 0x7050 3 1 0

/-- The management controller is unresponsive. A pending image of it reverts. -/
def M.mcLost (m : M) : M :=
  let a := m.mcAction
  let m := (m.modFaults fun f => { f with mcDown := true, mcRestarted := a != 0 }).modMgmt fun g => { g with responder := true }
  (m.logFault 0x7005 a 0 0 clkWatch).revertProc 1 10

/-- MC_TIMEOUT. -/
def execMcTimeout (s : State) : Host.Outcome State Fault Refusal := s.run fun m => m.when (m.live && !m.dev.faults.mcDown) M.mcLost

/-- The watchdog reset: a device reset without its drain (R460); for a pending image of the management controller, its reversal
comes first (R496). -/
def M.watchdog (m : M) : M :=
  if m.dev.sec.mc.pending then m.revertProc 1 10 else (m.logFault 0x7005 2 0 0 clkWatch).deviceReset

/-- RESTART_LIMIT: no heartbeat since the restart. -/
def execRestartLimit (s : State) : Host.Outcome State Fault Refusal :=
  s.run fun m => m.when (m.live && m.dev.faults.mcDown && m.dev.faults.mcRestarted && m.mcAction == 2) M.watchdog

/-- LTC_TIMEOUT: the link training controller restarts and its links retrain; a pending image of it reverts. -/
def M.ltcLost (m : M) : M := if m.dev.sec.ltc.pending then m.revertProc 2 10 else m.retrainAll

/-- LTC_TIMEOUT. -/
def execLtcTimeout (s : State) : Host.Outcome State Fault Refusal := s.run fun m => m.when (m.live && !m.dev.faults.mcDown) M.ltcLost

/-! ## Segments (R449) -/

/-- Segments of a core: 0 to 3 the vertical channel's S0 to S3, 4 its trunk, 5 its column's spine port; data lanes and spares. -/
def segData (seg : Nat) : Nat := if seg < 4 then 1024 else if seg = 4 then 2048 else 512
def segSpares (seg : Nat) : Nat := if seg < 4 then 64 else if seg = 4 then 128 else 32

/-- Crossings of a segment: one of the channel's; every one from position 0 to 5t - 2 of a trunk or a port. -/
def segCrossings (i seg : Nat) : Nat := if seg < 4 then 1 else 5 * (tierOf i + 1) - 2

def spareKey (i seg cross : Nat) : Nat := (i * 8 + seg) * 32 + cross

/-- Spares used at a crossing. -/
def M.sparesUsed (m : M) (i seg cross : Nat) : Nat := Tab.get m.dev.faults.spares 0 (spareKey i seg cross)

/-- Fewest spares left at any crossing of a segment. -/
def M.sparesLeft (m : M) (i seg : Nat) : Nat :=
  (List.range (segCrossings i seg)).foldl (fun b k => min b (segSpares seg - m.sparesUsed i seg k)) (segSpares seg)

/-- Ordinals that a channel segment leads to (R452). -/
def segOrdinals : Nat → List Nat
  | 0 => [0, 1]
  | 1 => [0]
  | 2 => [2, 3]
  | _ => [3]

/-! ## Lanes (R450, R452 to R454) -/

/-- A spare is used up at a crossing. -/
def M.useSpare (m : M) (i seg cross lane : Nat) : M :=
  let m := m.modFaults fun f => { f with spares := Tab.put f.spares (spareKey i seg cross) (m.sparesUsed i seg cross + 1) }
  (m.setObjFld 0x7061 (i + 1) (8 * seg + 7) (8 * seg) (m.sparesLeft i seg)).logFault 0x7003 (i * 256 + seg) lane 0 clkMgmt

/-- A lane group of a channel segment is mapped out: bank groups `2j` and `2j + 1` of every layer quadrant it leads to. -/
def M.mapOut (m : M) (i seg j : Nat) : M :=
  let key := (i * 4 + seg) * 64 + j
  if m.dev.faults.groupsOut.contains key then m
  else
    let m := (m.modFaults fun f => { f with groupsOut := f.groupsOut ++ [key] }).satObj 0x7061 (i + 1) 55 48 1
    let m := (segOrdinals seg).foldl (fun (m : M) l => [2 * j, 2 * j + 1].foldl (fun (m : M) g =>
      let k := 128 * (4 * i + l) + g
      if m.dev.outGroups.contains k then m
      else
        let m : M := { m with dev := { m.dev with outGroups := m.dev.outGroups ++ [k] } }
        (m.setObjBit 0x7040 (i + 1) (128 * l + g) true).setObj 0x7041 (i + 1) (m.obj 0x7041 (i + 1) - 16)) m) m
    m.logFault 0x5002 (i * 256 + seg) (j * 2 ^ 58 + (segOrdinals seg).foldl (fun v l => v + 2 ^ l) 0) 0 clkMgmt

/-- A column's spine port is closed; with no core to reach it by, its data is lost. -/
def M.closePort (m : M) (c : Nat) : M :=
  if m.dev.portClosed.contains c then m
  else
    let m : M := { m with dev := { m.dev with portClosed := m.dev.portClosed ++ [c] } }
    if m.fenced c || m.fusedOff c then (List.range 4).foldl (fun (m : M) l => m.logFault 0x5001 (4 * c + l) 0 0 clkMgmt) m else m

/-- A failed lane where no spare is left. -/
def M.noSpare (m : M) (i seg lane : Nat) : M :=
  if seg < 4 then m.mapOut i seg (lane / 16)
  else if seg = 4 then (m.modFaults fun f => { f with trunkNow := addOnce f.trunkNow i }).fence i 2
  else m.closePort i

/-- A lane's test ends. -/
def M.laneDone (m : M) (i seg cross lane : Nat) (ok last : Bool) : M :=
  if !m.objBit 0x7060 3 0 || segCrossings i seg ≤ cross || segData seg + segSpares seg ≤ lane then m
  else
    let m := if ok then m
      else if m.sparesUsed i seg cross < segSpares seg then m.useSpare i seg cross lane
      else if lane < segData seg then m.noSpare i seg lane
      else m
    -- at bring-up the stage's own end closes the pass
    if last && m.ready then
      ((m.setObjBit 0x7060 3 0 false).satObj 0x7060 3 31 16 1).modFaults fun f => { f with trunkBad := f.trunkNow, trunkNow := [] }
    else m

/-- LANE_TEST_DONE. -/
def execLaneTestDone (core : Fin 24) (segment : Fin 6) (crossing : Fin 28) (lane : BitVec 12) (ok last : Bool) (s : State) :
    Host.Outcome State Fault Refusal :=
  s.run fun m => m.when m.live fun m => m.laneDone core segment crossing lane.toNat ok last

/-- A pass begins in service: segments with no free spare are skipped (R450). -/
def M.beginPass (m : M) : M :=
  let m := (m.setObjBit 0x7060 3 0 true).modFaults fun f => { f with trunkNow := [] }
  (List.range 24).foldl (fun (m : M) i => (List.range 6).foldl (fun (m : M) seg =>
    if m.sparesLeft i seg = 0 then (m.satObj 0x7060 3 63 48 1).logFault 0x7007 (i * 256 + seg) 0 0 clkMgmt else m) m) m

/-- BOND_TEST_PERIOD. -/
def execBondTestPeriod (s : State) : Host.Outcome State Fault Refusal :=
  s.run fun m => m.when (m.live && m.ready && !m.objBit 0x7060 3 0) M.beginPass

/-! ## Unfencing (R457) -/

/-- An UNFENCE of a fenced core is accepted. -/
def M.mayUnfence (m : M) (i : Nat) : Bool :=
  m.fenced i && (match m.objFld 0x7001 (i + 1) 15 8 with
    | 1 => true
    | 2 => !m.dev.faults.trunkBad.contains i
    | 5 => m.dev.faults.coldOk.contains (tierOf i)
    | _ => false)

/-- The fence is cleared, and the core's domain turns on. -/
def M.unfence (m : M) (i : Nat) : M :=
  let m := (m.setObjFld 0x7001 (i + 1) 15 8 0).setObjBit 0x7001 (i + 1) 0 false
  (m.logFault 0x7002 i 0 0 clkMgmt).domRequest i false

/-! ## The logs (R462, R280) -/

/-- FAULT_LOG_PERSIST: the entry at subindex `sub` + 1 is in the flash. -/
def execFaultLogPersist (sub : Fin 240) (s : State) : Host.Outcome State Fault Refusal :=
  s.run fun m => m.when m.dev.powered fun m => m.modFaults fun f => { f with unsaved := f.unsaved.filter (· != sub.val + 1) }

/-- CLEAR of the fault log: it holds no entry; LOST stays (R462). -/
def M.clearFaultLog (m : M) : M :=
  let m := (List.range 240).foldl (fun (m : M) k => if m.obj 0x7100 (k + 1) = 0 then m else m.setObj 0x7100 (k + 1) 0) m
  (m.setObjFld 0x7100 0xF1 15 0 0).modFaults fun f => { f with unsaved := [], read := [] }

/-- CLEAR of a memory layer's log (R280). -/
def M.clearMemLog (m : M) (idx : Nat) : M :=
  let m := (List.range 64).foldl (fun (m : M) k => if m.obj idx (k + 1) = 0 then m else m.setObj idx (k + 1) 0) m
  let m := m.setObjFld idx 65 22 0 0
  { m with dev := { m.dev with memLogRead := m.dev.memLogRead.filter fun k => k / 256 != idx } }

end Sys2Proof.Machine
end

