-- ==== Sys2Proof/Machine/HostPort.lean ====
section
/-! DEFINITION. The host port: BAR0 registers and buffers, MSI-X, BAR2 accesses and atomics, the mailbox's submission, Function
Level Reset (15_host_interface.md R338 to R354; 16 R370, R371; 06 R119 to R123; 19 R432). -/

namespace Sys2Proof.Machine

/-! ## BAR0 reads (R119, R123, R340, R343, R349, R370) -/

/-- HOST.STATUS, HOST.ERR, MBOX.STATUS. -/
def M.hostStatus (m : M) : Nat := m.dev.host.b2Log2 * 2 ^ 24 + m.obj 0x1010 1 * 256 + m.ready.toNat
def M.hostErr (m : M) : Nat := m.dev.host.caReads * 2 ^ 48 + m.dev.host.discarded * 2 ^ 32 + m.dev.host.poisonRx * 2 ^ 16
def M.mboxStatus (m : M) : Nat :=
  let h := m.dev.host
  h.mboxLastSeq % 65536 * 65536 + 8 * m.responder.toNat + 4 * h.mboxOverrun.toNat + 2 * h.mboxDone.toNat + h.mboxBusy.toNat

/-- Register at offset `o` of a core's window. -/
def M.coreReg (m : M) (i o : Nat) : Nat :=
  let c := m.core i
  if m.windowDead i then 0
  else if o = 0x08 then c.abortCtx * 16 + c.abortRes * 2
  else if o = 0x10 then c.ctrl.toNat
  else if o = 0x18 then m.statusWord i
  else if o = 0x20 then c.stopAfter.toNat
  else if o = 0x28 then c.orHit.toNat
  else if o = 0x30 then c.orMiss.toNat
  else if o = 0x38 then c.abortAddr.toNat
  else if 0x100 ≤ o && o < 0x500 then
    let r := c.ctx ((o - 0x100) / 0x40)
    match o % 0x40 with
    | 0x00 => r.programBase.toNat
    | 0x08 => r.recordBase.toNat
    | 0x10 => r.recordSlots.toNat
    | 0x18 => r.recordHead.toNat
    | 0x20 => r.recordTail.toNat
    | 0x28 => r.nextPtr.toNat
    | _ => 0
  else 0

/-- Eight bytes of BAR0 at an aligned offset, as a host read returns them; a 4-byte read takes its half (R344). -/
def M.bar0 (m : M) (o : Nat) : Nat :=
  let h := m.dev.host
  let dwords (t : Tab Nat) (reset : Nat → Nat) (k : Nat) : Nat :=
    Tab.get t (reset k) k + 2 ^ 32 * Tab.get t (reset (k + 1)) (k + 1)
  if o = 0 then m.hostStatus
  else if o = 8 then h.b2Base.toNat
  else if o = 16 then m.hostErr
  else if 0x1000 ≤ o && o < 0x1C00 then Tab.get h.irqMode 0 ((o - 0x1000) / 8)
  else if 0x10000 ≤ o && o < 0x28000 then m.coreReg ((o - 0x10000) / 0x1000) (o % 0x1000)
  else if o = 0x100008 then m.mboxStatus
  else if o = 0x100010 then h.mboxIrqEn.toNat
  else if 0x101000 ≤ o && o < 0x108000 then natOf ((List.range 8).map fun k => Tab.get h.mboxReq 0 (o - 0x101000 + k))
  else if 0x108000 ≤ o && o < 0x110000 then natOf ((List.range 8).map fun k => Tab.get h.mboxRep 0 (o - 0x108000 + k))
  else if 0x200000 ≤ o && o < 0x208000 then
    dwords h.msixTable (fun k => if k % 4 = 3 then 1 else 0) ((o - 0x200000) / 4)
  else if 0x208000 ≤ o && o < 0x208100 then
    (List.range 64).foldl (fun v k => if h.msixPending.contains (8 * (o - 0x208000) + k) then v + 2 ^ k else v) 0
  else 0

/-! ## BAR0 writes -/

/-- A write is discarded and counted (R344). -/
def M.discard (m : M) : M := m.modHost fun h => { h with discarded := min (h.discarded + 1) 0xFFFF }

/-- MBOX.SUBMIT with GO = 1 (R371): the PDU in the request buffer is queued. -/
def M.mboxSubmit (m : M) : M :=
  let h := m.dev.host
  if h.mboxBusy then m.modHost fun h => { h with mboxOverrun := true }
  else
    let get (k : Nat) : Byte := Tab.get h.mboxReq 0 k
    let len := natOf [get 6, get 7]
    let pdu := (List.range (max 16 (min len 0x7000))).map get
    (m.modHost fun h => { h with mboxBusy := true }).modLed fun d => { d with queue := d.queue ++ [{ party := .mailbox, pdu }] }

/-- MBOX_SUBMIT. -/
def execMboxSubmit (s : State) : Host.Outcome State Fault Refusal := s.run fun m => m.when m.hostUp M.mboxSubmit

/-- A write of MBOX.CTRL (R370). -/
def M.mboxCtrl (m : M) (clr irqEn : Bool) : M :=
  m.modHost fun h => { h with mboxDone := h.mboxDone && !clr, mboxOverrun := h.mboxOverrun && !clr, mboxIrqEn := irqEn }

/-- MBOX_CLEAR. -/
def execMboxClear (irqEn : Bool) (s : State) : Host.Outcome State Fault Refusal :=
  s.run fun m => m.when m.hostUp fun m => m.mboxCtrl true irqEn

/-- CORE.CTRL as written: numbers above their limit take it (R122). -/
def ctrlOf (v : Nat) : Nat := min (fld v 15 8) 16 * 256 + min (fld v 7 4) 8 * 16 + v % 4

/-- A 64-bit write to offset `o` of a core's window (R119 to R123, R141, R500). -/
def M.writeCore (m : M) (i o : Nat) (v : W64) : M :=
  let n := v.toNat
  if m.windowDead i then m
  else if o = 0 then m.writeStart i (n % 16) (n.testBit 31) (n.testBit 32)
  else if o = 8 then (if n.testBit 0 then m.writeAbort i (fld n 7 4) else m)
  else if o = 0x10 then
    m.modCore i fun c =>
      let w := BitVec.ofNat 64 (ctrlOf n)
      if c.active = 0 then { c with ctrl := w, ctrlNext := none } else { c with ctrlNext := some w }
  else if o = 0x20 then m.modCore i fun c => { c with stopAfter := BitVec.ofNat 64 (n % 2 ^ 36) }
  else if 0x100 ≤ o && o < 0x500 then
    let x := (o - 0x100) / 0x40
    let act := bit16 (m.core i).active x
    m.modCtx i x fun r =>
      match o % 0x40 with
      | 0x00 => if act then r else { r with programBase := v }
      | 0x08 => if act then r else { r with recordBase := v }
      | 0x10 => if act then r else { r with recordSlots := v }
      | 0x20 => { r with recordTail := BitVec.ofNat 64 (n % 2 ^ 32) }
      | _ => r
  else m

/-- The MSI-X table takes dwords; a vector that is unmasked sends what was pending (R348). -/
def M.writeMsix (m : M) (k v : Nat) : M :=
  let m := m.modHost fun h => { h with msixTable := Tab.put h.msixTable k (v % 2 ^ 32) }
  let vec := k / 4
  if k % 4 = 3 && !v.testBit 0 && m.dev.host.msixPending.contains vec then
    (m.modHost fun h => { h with msixPending := h.msixPending.filter (· != vec) }).send (.msix vec)
  else m

/-- BAR0 offsets that hold 64-bit registers; those of a dead window hold nothing. -/
def M.isReg (m : M) (o : Nat) : Bool :=
  o < 0x18 || (0x1000 ≤ o && o < 0x1C00) || (0x10000 ≤ o && o < 0x28000 && o % 0x1000 < 0x500 && !m.windowDead ((o - 0x10000) / 0x1000)) ||
    (0x100000 ≤ o && o < 0x100018)

/-- Stores bytes of a mailbox buffer. -/
def putBytes (t : Tab Byte) (o n v : Nat) : Tab Byte := (bytesOf v n).zipIdx.foldl (fun t b => Tab.put t (o + b.2) b.1) t

/-- A write of BAR0 of 4 or 8 bytes (R340, R344, R351). -/
def M.writeBar0 (m : M) (o : Nat) (wide : Bool) (value : W64) (poisoned : Bool) : M :=
  let v := value.toNat
  let n := if wide then 8 else 4
  if poisoned then ((m.modHost fun h => { h with poisonRx := min (h.poisonRx + 1) 0xFFFF }).discard).send (.aer true)
  else if m.isReg o then
    if !wide || o % 8 ≠ 0 then m.discard
    else if o = 8 then
      m.modHost fun h => { h with b2Base := BitVec.ofNat 64 (fld v 43 30 * 2 ^ 30 / 2 ^ h.b2Log2 * 2 ^ h.b2Log2) }
    else if 0x1000 ≤ o && o < 0x1C00 then
      m.modHost fun h =>
        let e := Tab.get h.irqMode 0 ((o - 0x1000) / 8)
        { h with irqMode := Tab.put h.irqMode ((o - 0x1000) / 8) (setFld (setFld e 31 16 (fld v 31 16)) 1 0 v) }
    else if 0x10000 ≤ o && o < 0x28000 then m.writeCore ((o - 0x10000) / 0x1000) (o % 0x1000) value
    else if o = 0x100000 then (if v.testBit 0 then m.mboxSubmit else m)
    else if o = 0x100010 then m.mboxCtrl (v.testBit 1) (v.testBit 0)
    else m
  else if o % n ≠ 0 then m
  else if 0x101000 ≤ o && o < 0x108000 then m.modHost fun h => { h with mboxReq := putBytes h.mboxReq (o - 0x101000) n v }
  else if 0x108000 ≤ o && o < 0x110000 then m.modHost fun h => { h with mboxRep := putBytes h.mboxRep (o - 0x108000) n v }
  else if 0x200000 ≤ o && o < 0x208000 then
    let k := (o - 0x200000) / 4
    let m := m.writeMsix k v
    if wide then m.writeMsix (k + 1) (v / 2 ^ 32) else m
  else m

/-- REGISTER_WRITE. -/
def execRegisterWrite (offset : Nat) (wide : Bool) (value : W64) (poisoned : Bool) (s : State) : Host.Outcome State Fault Refusal :=
  s.run fun m => m.when m.hostUp fun m => m.writeBar0 offset wide value poisoned

/-! ## BAR2 (R342, R344, R351) -/

/-- Local address of a window address. -/
def windowMap (a : Nat) : Option Nat :=
  if a < memEnd then some a
  else if 0xF0000000000 ≤ a && a < 0xF0200000000 then some (bazBase + (a - 0xF0000000000))
  else none

/-- A local address lies in the Waystation of a fused-off core. -/
def M.fusedWs (m : M) (a : Nat) : Bool := match placeOf a with | .waystation i _ => m.fusedOff i | _ => false

/-- The clock of some domain on the path to a local address is held (R431, R432). -/
def M.pathHeld (m : M) (a : Nat) : Bool :=
  match placeOf a with
  | .memory n => !m.fabricRuns || (m.domOn (24 + n / 16) && !m.tierRuns (n / 16))
  | .none => false
  | _ => !m.fabricRuns

/-- The 64-byte lines of a request: their local addresses, none where the window address is reserved or a line does not answer. -/
def M.hostLines (m : M) (w n : Nat) : Option (List Nat) :=
  if !m.ready then none
  else
    let ls := linesOf w n
    let as_ := ls.filterMap fun l => windowMap (max l w)
    if as_.length = ls.length && as_.all (fun a => m.fusedWs a || m.reach none a) then some as_ else none

def M.completerAbort (m : M) : M := (m.modHost fun h => { h with caReads := min (h.caReads + 1) 0xFFFF }).send .completerAbort

/-- A write that ends TARGET_RESET: discarded, counted, and in the fault log. -/
def M.writeLost (m : M) (offset : Nat) : M := m.discard.logFault 0x1002 0 offset 0 clkMgmt

/-- A read (R344, R351): its bytes, and EP for each 64-byte unit it touches. -/
def M.hostRead (m : M) (w n : Nat) : M :=
  match m.hostLines w n, windowMap w with
  | some ls, some a =>
    let data := (List.range n).map fun k => if m.fusedWs (a + k) then 0 else m.byte (a + k)
    m.send (.completion data (ls.map fun l => !m.fusedWs l && m.marked l))
  | _, _ => m.completerAbort

/-- A write: applied with its marks; on a secondary's mirror range discarded and counted (R334). -/
def M.hostWrite (m : M) (offset w : Nat) (data : List Byte) (poisoned : Bool) : M :=
  let m := if poisoned then (m.modHost fun h => { h with poisonRx := min (h.poisonRx + 1) 0xFFFF }).send (.aer false) else m
  match m.hostLines w data.length, windowMap w with
  | some ls, some a =>
    if ls.any m.fusedWs then m
    else
      let m := if m.mirrorRole = 2 && ls.any m.inMirror then m.discard else m
      m.putLocal m.deviceId a (data.map fun b => (some b, poisoned))
  | _, _ => m.writeLost offset

/-- The new value of a PCIe AtomicOp on `k` bytes. -/
def pcieAtomic (op k old operand compare : Nat) : Nat :=
  match op with
  | 0 => (old + operand) % 2 ^ (8 * k)
  | 1 => operand % 2 ^ (8 * k)
  | _ => if old = compare % 2 ^ (8 * k) then operand % 2 ^ (8 * k) else old

/-- An AtomicOp to memory or the Bazaar: the old value comes back; a poisoned unit does not change, and EP says so. -/
def M.hostAtom (m : M) (w op : Nat) (wide : Bool) (operand compare : Nat) : M :=
  let k := if wide then 8 else 4
  match m.hostLines w k, windowMap w with
  | some ls, some a =>
    if w % k ≠ 0 || !remoteSpace a then m.completerAbort
    else
      let old := m.num a k
      let bad := m.marked a
      let m := if bad then m
        else
          let m := if m.mirrorRole = 2 && ls.any m.inMirror then m.discard else m
          m.putLocal m.deviceId a ((bytesOf (pcieAtomic op k old operand compare) k).map fun b => (some b, false))
      m.send (.completion (bytesOf old k) [bad])
  | _, _ => m.completerAbort

/-- Serves a request by its window address. -/
def M.hostServe (m : M) (h : HeldRequest) : M :=
  match h.req with
  | .read n => m.hostRead h.window n
  | .write d p => m.hostWrite h.offset h.window d p
  | .atomic op wide x c => m.hostAtom h.window op wide x c

def HostRequest.size : HostRequest → Nat
  | .read n => n
  | .write d _ => d.length
  | .atomic _ wide _ _ => if wide then 8 else 4

/-- Some line of a request lies behind a held clock. -/
def M.reqHeld (m : M) (h : HeldRequest) : Bool :=
  m.ready && (linesOf h.window h.req.size).any fun l => match windowMap (max l h.window) with
    | some a => m.pathHeld a
    | none => false

/-- A BAR2 request arrives: it is given its window address now (R342), and is served, or held. -/
def M.hostAccess (m : M) (offset : Nat) (req : HostRequest) : M :=
  let h : HeldRequest := { offset, window := m.dev.host.b2Base.toNat + offset, req }
  if !m.hostUp || 2 ^ m.dev.host.b2Log2 < offset + req.size then m
  else if m.reqHeld h then m.modHost fun p => { p with held := p.held ++ [h] }
  else m.hostServe h

/-- HOST_BAR2_READ. -/
def execHostBar2Read (offset length : Nat) (s : State) : Host.Outcome State Fault Refusal :=
  s.run fun m => m.hostAccess offset (.read length)

/-- HOST_BAR2_WRITE. -/
def execHostBar2Write (offset : Nat) (data : List Byte) (poisoned : Bool) (s : State) : Host.Outcome State Fault Refusal :=
  s.run fun m => m.hostAccess offset (.write data poisoned)

/-- HOST_ATOMIC. -/
def execHostAtomic (offset : Nat) (op : Fin 3) (wide : Bool) (operand compare : W64) (s : State) : Host.Outcome State Fault Refusal :=
  s.run fun m => m.hostAccess offset (.atomic op wide operand.toNat compare.toNat)

/-- FUNCTION_LEVEL_RESET. -/
def execFunctionLevelReset (s : State) : Host.Outcome State Fault Refusal := s.run fun m => m.when m.hostUp M.functionReset

/-! ## Held requests (R432) -/

/-- HELD_DOMAIN_TIMEOUT: the oldest held request completes with Completer Abort, or its write is discarded. -/
def M.heldTimeout (m : M) : M :=
  match m.dev.host.held with
  | [] => m
  | h :: rest =>
    let m := m.modHost fun p => { p with held := rest }
    match h.req with
    | .write _ _ => m.writeLost h.offset
    | _ => m.completerAbort

/-- HELD_DOMAIN_TIMEOUT. -/
def execHeldDomainTimeout (s : State) : Host.Outcome State Fault Refusal := s.run fun m => m.when m.live M.heldTimeout

/-- Requests whose path runs again are served in order. -/
def M.serveHostHeld (m : M) : M :=
  m.dev.host.held.foldl (fun (m : M) h =>
    if m.reqHeld h then m else (m.modHost fun p => { p with held := p.held.erase h }).hostServe h) m

/-- CLOCK_JUDGE_WINDOW: `clock` 0 REF100, 1 MGMT_REF, n + 1 the PLL at 0x2010.n. -/
def execClockJudgeWindow (clock : Fin 38) (within : Bool) (s : State) : Host.Outcome State Fault Refusal :=
  s.run fun m => m.when (m.watchRuns && !m.dev.tripped) fun m => (m.judgeClock clock within).serveHostHeld

end Sys2Proof.Machine
end

