-- ==== Sys2Proof/Machine/Owner.lean ====
section
/-! DEFINITION. The Ledger's objects as they are read and written: views of other state, what each written field does beside
being stored, and the owner (16_ledger.md R355 to R367, with the rules of the chapters that lay the objects out). -/

namespace Sys2Proof.Machine

/-! ## Reasons (R363) -/

def rnUnknown : Nat := 1
def rnReadOnly : Nat := 2
def rnNotOwner : Nat := 3
def rnSize : Nat := 4
def rnRange : Nat := 5
def rnReserved : Nat := 6
def rnState : Nat := 7
def rnHeld : Nat := 8
def rnWouldClamp : Nat := 9
def rnUnavailable : Nat := 0xA

/-! ## Reads (R358) -/

/-- KIND and STATION of a party, as 0x1040.01 names them (R365). -/
def Party.kind : Party → Nat
  | .mailbox => 1
  | .port _ => 2
def Party.mac : Party → Nat
  | .mailbox => 0
  | .port a => a.toNat

/-- 0x1040.01. -/
def M.ownerWord (m : M) : Nat :=
  match m.dev.led.owner with
  | none => 0
  | some p => p.kind * 2 ^ 62 + p.mac

/-- Objects that are views of other state; none where the object is stored. -/
def M.view (m : M) (idx sub : Nat) : Option Nat :=
  match idx with
  | 0x1030 => some (natOf ((Tab.get m.dev.led.lastReports [] sub).take 64))
  | 0x1040 => if sub = 1 then some m.ownerWord else none
  | 0x2100 => if sub = 2 then some (setFld (m.obj idx sub) 1 0 m.resetPhase) else none
  | 0x4010 => if sub = 3 then some (min (100 * m.dev.mgmt.age) (2 ^ 32 - 1)) else none
  | 0x8060 => some ((m.core (sub - 1)).flags.toNat % 2 ^ 512)
  | 0x8063 => some ((m.core (sub - 1)).flags.toNat / 2 ^ 512)
  | 0x9001 => some (m.fuse.romVersion * 2 ^ 16 + m.dev.sec.revoked % 16)
  | 0x9002 => some (natOf (chunkOf m.publicKey (sub - 1)))
  | 0x9003 => some (natOf (chunkOf m.certificate (sub - 1)))
  | 0x9011 => some (natOf (chunkOf m.dev.sec.report (sub - 1)))
  | 0x9021 => some (natOf (chunkOf m.sessBlob (sub - 1)))
  | 0x9030 => some (m.proc sub).status
  | 0xB010 => some (m.core (sub - 1)).halted.toNat
  | _ =>
    if 0x6400 ≤ idx && idx ≤ 0x640F && sub = 2 then
      some (match m.collRank (idx - 0x6400) with | some r => 2 ^ 16 + r | none => 0)
    else none

/-- Objects whose value no rule states: a counter's count, the lease left (log entries 12, 17, 38). -/
def M.freeView (m : M) (idx sub : Nat) : Option (Nat × M) :=
  if idx = 0x1040 && sub = 5 then
    let f := m.free 32
    some (if m.dev.led.owner.isNone then (0, m) else (f.1 % (m.obj 0x1040 4 + 1), f.2))
  else if idx = 0x2050 || (0xB020 ≤ idx && idx ≤ 0xB025) then some (m.free 64)
  else none

/-- What a read of an object that exists returns: zero for a trigger. -/
def M.readObj (m : M) (idx sub : Nat) (o : ObjSpec) : Nat × M :=
  if sub = 0 then ((topSub idx).getD 0, m)
  else if !o.r then (0, m)
  else match m.freeView idx sub with
    | some r => r
    | none => ((m.view idx sub).getD (m.obj idx sub), m)

/-- The field cannot be served: its domain is not on (R484; 23 R506 for reads of the counters). -/
def M.unavailable (m : M) (idx : Nat) (read : Bool) : Bool :=
  (idx / 4096 = 9 && idx != 0x9001 && idx != 0x9030 && !m.domOn 36) || (read && 0xB020 ≤ idx && idx ≤ 0xB025 && !m.domOn 37)

/-- A read returns an entry of the fault log or of a memory log: its read mark is set (R280, R462). -/
def M.markRead (m : M) (idx sub : Nat) : M :=
  if m.obj idx sub = 0 then m
  else if idx = 0x7100 && sub ≤ 0xF0 then m.modFaults fun f => { f with read := addOnce f.read sub }
  else if 0x5201 ≤ idx && idx ≤ 0x5218 && sub ≤ 64 then
    { m with dev := { m.dev with memLogRead := addOnce m.dev.memLogRead (objKey idx sub) } }
  else m

/-! ## Owner (R365, R366) -/

/-- Ownership changes: a session belongs to the party that opened it (R494). -/
def M.setOwner (m : M) (p : Option Party) : M :=
  if m.dev.led.owner = p then m else (m.modLed fun d => { d with owner := p }).cancelSession

/-! ## What writes do: 0x1000 to 0x2FFF -/

/-- An object is persistent, and a SAVE copies it: TRIPS keeps itself (R367, R420). -/
def isSaved (key : Nat) : Bool :=
  match objSpec (key / 256) (key % 256) with
  | some o => o.p && key != objKey 0x4020 4
  | none => false

/-- The values a SAVE takes: every persistent object away from its reset value, device-updated fields left out. -/
def M.saveCopy (m : M) : List (Nat × Nat) :=
  (m.dev.objs.filter fun e => isSaved e.1).map fun e =>
    (e.1, match objSpec (e.1 / 256) (e.1 % 256) with | some o => o.store 0 e.2 | none => e.2)

/-- SAVE and FORGET (R367); both together erase and then save. -/
def M.writeSaving (m : M) (c : Nat) : Nat × M :=
  if c % 4 = 0 then (0, m)
  else if m.objBit 0x1020 2 0 then (rnState, m)
  else
    (0, (m.setObjBit 0x1020 2 0 true).modLed fun d => { d with
      saving := if c.testBit 0 then some m.saveCopy else none, erasing := c.testBit 1 })

/-- CLAIM (R366). -/
def M.writeClaim (m : M) (party : Party) (c : Nat) : Nat × M :=
  if c % 2 = 0 then (0, m)
  else if m.dev.led.owner.isNone || m.dev.led.owner = some party then (0, m.setOwner (some party))
  else (rnState, m)

/-- STATE of the core is IDLE and no context's chain is active on it. -/
def M.coreIdle (m : M) (i : Nat) : Bool :=
  m.coreState i = 0 && (m.core i).active = 0

/-- Clock gates of core `i` (R436). -/
def M.writeGate (m put : M) (i c : Nat) : Nat × M :=
  if c.testBit 9 && !m.coreIdle i then (rnState, m)
  else if c.testBit 8 && m.objBit 0x8040 (i + 1) 4 then (rnState, m)
  else (0, put.judgeBarriers)

/-- A reset request (R441). -/
def M.writeReset (m : M) (c : Nat) : Nat × M :=
  let level := fld c 2 0
  let target := fld c 15 8
  if !resetExists level target (c.testBit 4) then (rnRange, m)
  else if !m.mayReset level target then (rnState, m)
  else (0, m.askReset level target (c.testBit 4))

/-- SRC_REQ and AUTO of PLL `n` (R429, R433): a rejected request sets REFUSED. -/
def M.writePll (m put : M) (n c : Nat) : Nat × M :=
  match put.srcRequest n (c.testBit 8).toNat with
  | some m' => (0, m')
  | none => (if c.testBit 8 && !pllSwitches n then rnRange else rnState, m.setObjBit 0x2010 n 11 true)

def M.apply1 (m put : M) (party : Party) (idx sub c : Nat) : Nat × M :=
  match idx with
  | 0x1020 => m.writeSaving c
  | 0x1040 => if sub = 2 then m.writeClaim party c else if sub = 3 then (0, if c.testBit 0 then m.setOwner none else m) else (0, put)
  | 0x1060 => (0, put.modMgmt fun g => { g with applyDue := true })
  | _ => (0, put)

def M.apply2 (m put : M) (idx sub c : Nat) : Nat × M :=
  match idx with
  | 0x2010 => m.writePll put sub c
  | 0x2030 => if sub = 1 && fld c 15 8 ≠ 0 && c.testBit 2 then (rnState, m) else (0, put)
  | 0x2040 => m.writeGate put (sub - 1) c
  | 0x2100 => if sub = 1 then m.writeReset c else (0, put)
  | _ => (0, put)

/-! ## 0x3000 and 0x5000 -/

/-- REQUEST of domain `d` (R391). -/
def M.writeDomain (m put : M) (party : Party) (d c : Nat) : Nat × M :=
  let off := c % 4 = 1
  if m.domState d = 4 || m.domState d = 5 then (rnState, m)
  else if d = 34 && off && party = .mailbox then (rnState, m)
  else if d < 24 && m.fenced d then (if off then (0, m) else (rnState, m))
  else (0, put.domRequest d off)

def M.apply3 (m put : M) (party : Party) (idx sub c : Nat) : Nat × M :=
  match idx with
  | 0x3020 =>
    if sub = 1 && c < 6000 && m.pinned then (rnState, m)
    else if sub = 5 && 2 < c % 8 && m.pinned then (rnState, m)
    else (0, put.settle)
  | 0x3030 =>
    if c.testBit 0 && (m.objFld 0x3020 1 31 0 < 6000 || 2 < m.objFld 0x3020 5 2 0) then (rnState, m) else (0, put.settle)
  | 0x3100 => m.writeDomain put party (sub - 1) c
  | 0x3140 => (0, put.settle)
  | _ => (0, put)

/-- Tract modes of a column (R187, R188): every changed bit starts a conversion. -/
def M.writeTracts (m put : M) (column sub c : Nat) : Nat × M :=
  let old := m.obj (0x5110 + column) sub
  let changed := bitsSet (old ^^^ c) 64
  let tract (i : Nat) : Nat := 64 * (sub - 1) + i
  if changed.any fun i => m.converting column (tract i) then (rnState, m)
  else
    let convs := m.dev.convs ++ changed.map fun i => { column, tract := tract i, toOpen := c.testBit i, begun := false }
    let m' : M := { put with dev := { put.dev with convs } }
    (0, m'.setObj (0x5110 + column) 25 (convs.filter fun x => x.column == column).length)

def M.apply5 (m put : M) (idx sub c : Nat) : Nat × M :=
  if 0x5110 ≤ idx && idx ≤ 0x5127 then m.writeTracts put (idx - 0x5110) sub c
  else if 0x5201 ≤ idx && idx ≤ 0x5218 then (0, if c.testBit 31 then m.clearMemLog idx else m)
  else (0, put)

/-! ## 0x6000 -/

/-- Control of link `l` (R310, R307). -/
def M.writeLink (put : M) (l c : Nat) : M :=
  let m := if c.testBit 4 then put.linkWake l else put.linkDrain l
  if !c.testBit 7 then m
  else if m.linkState l = lsFailed then m.setLinkState l lsDetect 0
  else m.wantRetrain l 6

/-- ROLE changes (R328, R333): what waited on the old role is let go. -/
def M.writePair (m put : M) (c : Nat) : M :=
  let role := fld c 25 24
  if role = m.mirrorRole then put
  else
    let m' := if m.mirrorRole = 1 then put.dropDeltas.finishCovered (2 ^ 48) else put
    (m'.setMirrorState (if role = 2 then 1 else 0)).modMirror fun r => { Mirror.zero with nextMseq := r.nextMseq }

/-- TAKEOVER, RESYNC, END_PAIR (R332 to R335). -/
def M.writePairCommand (m : M) (c : Nat) : Nat × M :=
  match c % 8 with
  | 0 => (0, m)
  | 1 => if m.mirrorRole = 2 && m.mirrorState = 5 then (0, m.takeover) else (rnState, m)
  | 2 => if m.mirrorRole = 1 then (0, m.resync) else (rnState, m)
  | 4 => if m.mirrorRole = 1 then (0, m.enterSolo.setObjFld 0x6500 1 25 24 0) else (rnState, m)
  | _ => (rnRange, m)

def M.apply6 (m put : M) (idx sub c : Nat) : Nat × M :=
  if idx = 0x6001 then (if (List.range 24).all fun i => (m.core i).active = 0 then (0, put) else (rnState, m))
  else if 0x6100 ≤ idx && idx ≤ 0x611F then (0, put.writeLink (idx - 0x6100) c)
  else if idx = 0x6500 && sub = 1 then (0, m.writePair put c)
  else if idx = 0x6500 && sub = 3 then m.writePairCommand c
  else (0, put)

/-! ## 0x7000 -/

/-- FENCE and UNFENCE of core `i` (R455, R457). -/
def M.writeFence (m : M) (i c : Nat) : Nat × M :=
  if m.fusedOff i then (rnState, m)
  else if c.testBit 1 && c.testBit 2 then (rnRange, m)
  else if c.testBit 1 then (0, if m.fenced i || (m.core i).disabling = some .fence then m else m.fence i 1)
  else if c.testBit 2 then (if m.mayUnfence i then (0, m.unfence i) else (rnState, m))
  else (0, m)

def M.apply7 (m put : M) (idx sub c : Nat) : Nat × M :=
  match idx with
  | 0x7001 => m.writeFence (sub - 1) c
  | 0x7060 =>
    if sub ≠ 2 then (0, put)
    else if c % 2 = 0 then (0, m)
    else if m.objBit 0x7060 3 0 then (rnState, m)
    else (0, m.beginPass)
  | 0x7100 => (0, if c.testBit 63 then m.clearFaultLog else m)
  | _ => (0, put)

/-! ## 0x8000 -/

/-- OPEN bits of core `i` (R464). A bit that falls reads 1 until its drain has ended. -/
def M.writeOpen (m : M) (i c : Nat) : Nat × M :=
  let old := m.obj 0x8001 (i + 1)
  let opened := (bitsSet (c % 2 ^ 16) 16).filter fun x => !old.testBit x
  let closed := (bitsSet old 16).filter fun x => !c.testBit x
  let empty (x : Nat) : Bool := m.objFld (0x8030 + x) (i + 1) 25 16 < m.objFld (0x8030 + x) (i + 1) 9 0 || m.obj (0x8030 + x) (i + 1) = 0
  if !opened.isEmpty && (m.fusedOff i || m.fenced i || opened.any empty) then (rnState, m)
  else (0, closed.foldl (fun (m : M) x => m.closeContext i x) (opened.foldl (fun (m : M) x => m.openContext i x) m))

/-- Ownership of the Cistern of core `i` (R255, R436): a change asks for a clear. -/
def M.writeCistern (m put : M) (i c : Nat) : Nat × M :=
  if !m.fuse.gradOn then (rnState, m)
  else if c.testBit 4 && m.objBit 0x2040 (i + 1) 8 then (rnState, m)
  else if fld c 4 0 = m.objFld 0x8040 (i + 1) 4 0 then (0, put)
  else (0, put.modCore i fun k => { k with cisPending := true })

/-- The owner's flag control (R475). -/
def M.writeFlag (m : M) (i c : Nat) : Nat × M :=
  let f := fld c 9 0
  if c.testBit 16 && c.testBit 17 then (rnRange, m)
  else if c.testBit 16 then (0, (m.setFlag i f).2)
  else if c.testBit 17 then (0, m.modCore i fun k => { k with flags := BitVec.ofNat 1024 (setBit k.flags.toNat f false) })
  else (0, m)

/-- The sum of one share over all contexts, with context `x` at `v` (R472). -/
def M.shareSum (m : M) (x v hi lo : Nat) : Nat :=
  (List.range 16).foldl (fun s y => s + (if y = x then v else m.objFld 0x8070 (y + 1) hi lo)) 0

def M.apply8 (m put : M) (idx sub c : Nat) : Nat × M :=
  if idx = 0x8001 then m.writeOpen (sub - 1) c
  else if 0x8010 ≤ idx && idx ≤ 0x801F then
    (if (List.range 24).any fun i => bit16 (m.core i).active (idx - 0x8010) then (rnState, m) else (0, put))
  else if 0x8030 ≤ idx && idx ≤ 0x803F then
    (if bit16 (m.core (sub - 1)).active (idx - 0x8030) then (rnState, m) else (0, put))
  else if idx = 0x8040 then m.writeCistern put (sub - 1) c
  else if idx = 0x8050 then
    (if m.dev.cores.any fun e => e.2.waiters.any fun s => s.syncWaits (isBarrierOf (sub - 1)) then (rnState, m) else (0, put))
  else if idx = 0x8061 then m.writeFlag (sub - 1) c
  else if idx = 0x8070 then
    (if 48 < m.shareSum (sub - 1) (fld c 13 8) 13 8 || 48 < m.shareSum (sub - 1) (fld c 5 0) 5 0 then (rnState, m) else (0, put))
  else (0, put)

/-! ## 0x9000 -/

/-- CMD of the update session (R494). -/
def M.writeSession (m : M) (party : Party) (c : Nat) : Nat × M :=
  let cmd := fld c 3 0
  let p := fld c 9 8
  if cmd = 0 || 6 < cmd || (cmd = 1 && p = 0) then (rnRange, m)
  else if !m.sessTakes cmd then (rnState, m)
  else (0, m.sessCommand party cmd p)

def M.apply9 (m put : M) (party : Party) (idx sub c : Nat) : Nat × M :=
  match idx with
  | 0x9010 =>
    if m.attestBusy then (rnState, m)
    else if sub = 2 then (0, if c.testBit 0 then m.attestRequest else m)
    else (0, put)
  | 0x9020 => if sub = 1 then m.writeSession party c else if sub = 7 then (0, put.putChunk c) else (0, put)
  | _ => (0, put)

/-! ## One field (R359) -/

/-- Rows 6 (the chapters' own codes), 7 and 9: the value `c`, already in range, is refused with a reason, or stored and acted on. -/
def M.applyField (m : M) (party : Party) (idx sub : Nat) (o : ObjSpec) (c : Nat) : Nat × M :=
  let put := m.setObj idx sub (o.store (m.obj idx sub) c)
  match idx / 4096 with
  | 1 => m.apply1 put party idx sub c
  | 2 => m.apply2 put idx sub c
  | 3 => m.apply3 put party idx sub c
  | 5 => m.apply5 put idx sub c
  | 6 => m.apply6 put idx sub c
  | 7 => m.apply7 put idx sub c
  | 8 => m.apply8 put idx sub c
  | 9 => m.apply9 put party idx sub c
  | _ => (0, put)

/-- Judges one field of a write and applies it: FSTATUS, REASON, and the device after it. -/
def M.writeField (m : M) (party : Party) (idx sub len v : Nat) : Nat × Nat × M :=
  match objSpec idx sub with
  | none => (2, rnUnknown, m)
  | some o =>
    if m.responder || m.unavailable idx false then (2, rnUnavailable, m)
    else if !o.w then (2, rnReadOnly, m)
    else if o.o && m.dev.led.owner ≠ some party then (2, rnNotOwner, m)
    else if len ≠ o.size then (2, rnSize, m)
    else if o.reservedSet v then (2, rnReserved, m)
    else if o.badCode v then (2, rnRange, m)
    else
      let c := o.clampAll v
      let r := m.applyField party idx sub o c
      if r.1 ≠ 0 then (2, r.1, r.2) else (if c = v then 0 else 1, 0, r.2)

/-! ## A field written by itself -/

/-- The Ledger is served: by the management controller, or by the thermal watch processor (R378). -/
def M.ledgerRuns (m : M) : Bool := if m.responder then m.watchRuns else m.live && m.pllRuns mgmtPll

/-- A party's path to the Ledger is there. -/
def M.hears (m : M) (p : Party) : Bool :=
  m.ledgerRuns && (match p with | .mailbox => m.hostUp | .port _ => true)

/-- One party writes one field: the report stands in `lastField`. -/
def M.partyWrite (m : M) (party : Party) (idx sub v : Nat) : M :=
  if !m.hears party then m
  else match objSpec idx sub with
    | none => m
    | some o =>
      let w := m.writeField party idx sub o.size v
      let r := w.2.2.readObj idx sub o
      r.2.modLed fun d => { d with lastField := some { fstatus := w.1, reason := w.2.1, requested := v, inForce := r.1 } }

/-- Value of an object with a change to it. -/
def M.withBit (m : M) (idx sub i : Nat) (b : Bool) : Nat := setBit (m.obj idx sub) i b

/-- TRACT_MODE_WRITE. -/
def execTractModeWrite (party : Party) (column : Fin 24) (sub : Fin 24) (value : W64) (s : State) : Host.Outcome State Fault Refusal :=
  s.run fun m => m.partyWrite party (0x5110 + column.val) (sub.val + 1) value.toNat

/-- CISTERN_OWNER_WRITE. -/
def execCisternOwnerWrite (party : Party) (core : Fin 24) (value : BitVec 32) (s : State) : Host.Outcome State Fault Refusal :=
  s.run fun m => m.partyWrite party 0x8040 (core.val + 1) value.toNat

/-- RETRAIN. -/
def execRetrain (party : Party) (link : Fin 32) (s : State) : Host.Outcome State Fault Refusal :=
  s.run fun m => m.partyWrite party (0x6100 + link.val) 1 (m.withBit (0x6100 + link.val) 1 7 true)

/-- LINK_ENABLE. -/
def execLinkEnable (party : Party) (link : Fin 32) (enable : Bool) (s : State) : Host.Outcome State Fault Refusal :=
  s.run fun m => m.partyWrite party (0x6100 + link.val) 1 (m.withBit (0x6100 + link.val) 1 4 enable)

/-- END_PAIR. -/
def execEndPair (party : Party) (s : State) : Host.Outcome State Fault Refusal := s.run fun m => m.partyWrite party 0x6500 3 4

/-- RESYNC. -/
def execResync (party : Party) (s : State) : Host.Outcome State Fault Refusal := s.run fun m => m.partyWrite party 0x6500 3 2

/-- TAKEOVER. -/
def execTakeover (party : Party) (s : State) : Host.Outcome State Fault Refusal := s.run fun m => m.partyWrite party 0x6500 3 1

/-- CONTEXT_OPEN. -/
def execContextOpen (party : Party) (core : Fin 24) (ctx : Fin 16) (s : State) : Host.Outcome State Fault Refusal :=
  s.run fun m => m.partyWrite party 0x8001 (core.val + 1) (m.withBit 0x8001 (core.val + 1) ctx true)

/-- CONTEXT_CLOSE. -/
def execContextClose (party : Party) (core : Fin 24) (ctx : Fin 16) (s : State) : Host.Outcome State Fault Refusal :=
  s.run fun m => m.partyWrite party 0x8001 (core.val + 1) (m.withBit 0x8001 (core.val + 1) ctx false)

/-- LEDGER_FLAG_SET. -/
def execLedgerFlagSet (party : Party) (core : Fin 24) (flag : Fin 1024) (s : State) : Host.Outcome State Fault Refusal :=
  s.run fun m => m.partyWrite party 0x8061 (core.val + 1) (2 ^ 16 + flag.val)

/-- LEDGER_FLAG_CLEAR. -/
def execLedgerFlagClear (party : Party) (core : Fin 24) (flag : Fin 1024) (s : State) : Host.Outcome State Fault Refusal :=
  s.run fun m => m.partyWrite party 0x8061 (core.val + 1) (2 ^ 17 + flag.val)

/-- FENCE. -/
def execFence (party : Party) (core : Fin 24) (s : State) : Host.Outcome State Fault Refusal :=
  s.run fun m => m.partyWrite party 0x7001 (core.val + 1) 2

/-- UNFENCE. -/
def execUnfence (party : Party) (core : Fin 24) (s : State) : Host.Outcome State Fault Refusal :=
  s.run fun m => m.partyWrite party 0x7001 (core.val + 1) 4

/-- DOMAIN_ON. -/
def execDomainOn (party : Party) (dom : Fin 38) (s : State) : Host.Outcome State Fault Refusal :=
  s.run fun m => m.partyWrite party 0x3100 (dom.val + 1) 0

/-- DOMAIN_OFF. -/
def execDomainOff (party : Party) (dom : Fin 38) (s : State) : Host.Outcome State Fault Refusal :=
  s.run fun m => m.partyWrite party 0x3100 (dom.val + 1) 1

/-- SRC_REQ: PLL `pll` + 1 of 0x2010; `src` 0 SYN100, 1 REF100. -/
def execSrcReq (party : Party) (pll : Fin 36) (src : Bool) (s : State) : Host.Outcome State Fault Refusal :=
  s.run fun m => m.partyWrite party 0x2010 (pll.val + 1) (m.withBit 0x2010 (pll.val + 1) 8 src)

/-- RESET_CORE. -/
def execResetCore (party : Party) (target : BitVec 8) (s : State) : Host.Outcome State Fault Refusal :=
  s.run fun m => m.partyWrite party 0x2100 1 (target.toNat * 256 + 1)

/-- RESET_TIER. -/
def execResetTier (party : Party) (target : BitVec 8) (fullLayer : Bool) (s : State) : Host.Outcome State Fault Refusal :=
  s.run fun m => m.partyWrite party 0x2100 1 (target.toNat * 256 + fullLayer.toNat * 16 + 2)

/-- RESET_PARTITION. -/
def execResetPartition (party : Party) (target : BitVec 8) (s : State) : Host.Outcome State Fault Refusal :=
  s.run fun m => m.partyWrite party 0x2100 1 (target.toNat * 256 + 3)

/-- RESET_DEVICE. -/
def execResetDevice (party : Party) (s : State) : Host.Outcome State Fault Refusal := s.run fun m => m.partyWrite party 0x2100 1 4

/-- CLAIM. -/
def execClaim (party : Party) (s : State) : Host.Outcome State Fault Refusal := s.run fun m => m.partyWrite party 0x1040 2 1

/-- RELEASE. -/
def execRelease (party : Party) (s : State) : Host.Outcome State Fault Refusal := s.run fun m => m.partyWrite party 0x1040 3 1

/-- SAVE. -/
def execSave (party : Party) (s : State) : Host.Outcome State Fault Refusal := s.run fun m => m.partyWrite party 0x1020 1 1

/-- FORGET. -/
def execForget (party : Party) (s : State) : Host.Outcome State Fault Refusal := s.run fun m => m.partyWrite party 0x1020 1 2

/-- RUN. -/
def execRunTest (party : Party) (s : State) : Host.Outcome State Fault Refusal := s.run fun m => m.partyWrite party 0x7060 2 1

/-- FAULT_LOG_CLEAR. -/
def execFaultLogClear (party : Party) (s : State) : Host.Outcome State Fault Refusal := s.run fun m => m.partyWrite party 0x7100 0xF1 (2 ^ 63)

/-- MEMORY_LOG_CLEAR: the log of memory layer `layer` + 1. -/
def execMemoryLogClear (party : Party) (layer : Fin 24) (s : State) : Host.Outcome State Fault Refusal :=
  s.run fun m => m.partyWrite party (0x5201 + layer.val) 65 (2 ^ 31)

/-- REQUEST. -/
def execAttestRequest (party : Party) (s : State) : Host.Outcome State Fault Refusal := s.run fun m => m.partyWrite party 0x9010 2 1

/-- BEGIN. -/
def execBeginUpdate (party : Party) (proc : Fin 4) (s : State) : Host.Outcome State Fault Refusal :=
  s.run fun m => m.partyWrite party 0x9020 1 (256 * proc.val + 1)

/-- APPLY. -/
def execApplyPackage (party : Party) (s : State) : Host.Outcome State Fault Refusal := s.run fun m => m.partyWrite party 0x9020 1 2

/-- ACTIVATE. -/
def execActivate (party : Party) (s : State) : Host.Outcome State Fault Refusal := s.run fun m => m.partyWrite party 0x9020 1 3

/-- CONFIRM. -/
def execConfirm (party : Party) (s : State) : Host.Outcome State Fault Refusal := s.run fun m => m.partyWrite party 0x9020 1 4

/-- REVERT. -/
def execRevert (party : Party) (s : State) : Host.Outcome State Fault Refusal := s.run fun m => m.partyWrite party 0x9020 1 5

/-- CANCEL. -/
def execCancel (party : Party) (s : State) : Host.Outcome State Fault Refusal := s.run fun m => m.partyWrite party 0x9020 1 6

/-- CHUNK. -/
def execChunk (party : Party) (data : BitVec 512) (s : State) : Host.Outcome State Fault Refusal :=
  s.run fun m => m.partyWrite party 0x9020 7 data.toNat

/-! ## Lease, saving, port settings -/

/-- LEASE_EXPIRY: the fallback responder holds the lease unchanged (R378). -/
def execLeaseExpiry (s : State) : Host.Outcome State Fault Refusal :=
  s.run fun m => m.when (m.ledgerRuns && !m.responder) fun m =>
    match m.dev.led.owner with
    | none => m
    | some p => (m.logFault 0x1001 p.kind p.mac 0 clkMgmt).setOwner none

/-- A save or erase ends (R367). One that fails leaves the flash as it was. -/
def M.saveDone (m : M) (ok : Bool) : M :=
  if !m.objBit 0x1020 2 0 then m
  else
    let d := m.dev.led
    let m := (m.setObjBit 0x1020 2 0 false).setObjBit 0x1020 2 1 (!ok)
    let m := if ok && d.saving.isSome then m.satObj 0x1020 2 31 16 1 else m
    m.modLed fun e => { e with
      saving := none, erasing := false
      saved := if ok then d.saving.getD (if d.erasing then [] else e.saved) else e.saved }

/-- SAVE_DONE. -/
def execSaveDone (ok : Bool) (s : State) : Host.Outcome State Fault Refusal := s.run fun m => m.when m.live fun m => m.saveDone ok

/-- MGMT_SETTINGS_APPLY: the port runs on what 0x1060.01 holds (R372). -/
def execMgmtSettingsApply (s : State) : Host.Outcome State Fault Refusal :=
  s.run fun m => m.when (m.live && m.dev.mgmt.applyDue) fun m =>
    m.modMgmt fun g => { g with inEffect := some (m.obj 0x1060 1), applyDue := false }

end Sys2Proof.Machine
end

