-- ==== Sys2Proof/Machine/Ledger.lean ====
section
/-! DEFINITION. The Ledger's protocol: requests parsed and judged, replies formed, the mailbox's and the management port's ends of
it, kept replies, the fallback responder (16_ledger.md R359 to R364, R368 to R378). -/

namespace Sys2Proof.Machine

/-! ## Requests (R368, R369) -/

/-- One field entry of a request: its word's fields, and the value that follows (of a WRITE). -/
structure PduEntry where
  idx : Nat
  sub : Nat
  len : Nat
  value : Nat
deriving DecidableEq, Repr

/-- `n` rounded up to a multiple of 8. -/
def pad8 (n : Nat) : Nat := (n + 7) / 8 * 8

def pduRead : Nat := 0x01
def pduWrite : Nat := 0x02
def pduDescribe : Nat := 0x03
def pduDiscover : Nat := 0x10
def pduTrayReport : Nat := 0x20
def pduFailsafeAck : Nat := 0x22

/-- The number in `n` bytes of a PDU from byte `k`, zero beyond its end. -/
def pduNum (p : List Byte) (k n : Nat) : Nat := natOf ((p.drop k).take n)

def pduWord (p : List Byte) : Nat := pduNum p 0 8
def pduOp (p : List Byte) : Nat := fld (pduWord p) 7 0
def pduSeq (p : List Byte) : Nat := fld (pduWord p) 47 32
def pduLength (p : List Byte) : Nat := fld (pduWord p) 63 48
def pduCount (p : List Byte) : Nat := fld (pduWord p) 31 24
def pduAon (p : List Byte) : Bool := (pduWord p).testBit 14

/-- The `n` entries in the bytes after a header; none where they do not fill them exactly, or a reserved bit, a reply's field or
a padding byte is not zero. Only a WRITE's entries carry a value. -/
def entriesOf (isWrite : Bool) : Nat → List Byte → Option (List PduEntry)
  | 0, p => if p.isEmpty then some [] else none
  | n + 1, p =>
    let w := pduNum p 0 8
    let len := fld w 31 24
    let k := if isWrite then pad8 len else 0
    if p.length < 8 + k || w / 2 ^ 32 ≠ 0 || pduNum p (8 + len) (k - len) ≠ 0 then none
    else (entriesOf isWrite n (p.drop (8 + k))).map fun es =>
      { idx := fld w 15 0, sub := fld w 23 16, len, value := if isWrite then pduNum p 8 len else 0 } :: es

/-- The header of a request is one that R368 knows, and its LENGTH is the PDU's. -/
def headerOk (p : List Byte) : Bool :=
  let w := pduWord p
  16 ≤ p.length && pduNum p 8 8 = 0 && fld w 11 8 = 1 && fld w 13 12 = 0 && !w.testBit 15 && fld w 23 16 = 0 &&
    (!pduAon p || pduOp p = pduWrite) && pduLength p = p.length && p.length % 8 = 0

/-- Header word of a reply. -/
def replyWord (p : List Byte) (length count status : Nat) : Nat :=
  length * 2 ^ 48 + pduSeq p * 2 ^ 32 + count * 2 ^ 24 + status * 2 ^ 16 + 2 ^ 15 + (pduAon p).toNat * 2 ^ 14 + 2 ^ 8 + pduOp p

/-- A reply: its body's entries, each a list of bytes. -/
def replyPdu (p : List Byte) (status : Nat) (body : List (List Byte)) : List Byte :=
  let bs := body.flatMap id
  bytesOf (replyWord p (16 + bs.length) body.length status) 8 ++ List.replicate 8 0 ++ bs

/-- A value padded to a multiple of 8 bytes. -/
def valueBytes (v n : Nat) : List Byte := bytesOf v n ++ List.replicate (pad8 n - n) 0

/-- A reply's entry. -/
def replyEntry (idx sub len fst reason : Nat) (values : List Nat) : List Byte :=
  bytesOf (reason * 2 ^ 40 + fst * 2 ^ 32 + len * 2 ^ 24 + sub * 2 ^ 16 + idx) 8 ++ values.flatMap fun v => valueBytes v len

def stOk : Nat := 0
def stPartial : Nat := 1
def stMalformed : Nat := 2
def stTooLarge : Nat := 3
def stUnavailable : Nat := 4

/-! ## READ and DESCRIBE -/

/-- Fields that the fallback responder serves (R378). -/
def fallbackServes (idx sub : Nat) : Bool :=
  idx = 0x1001 || idx = 0x1010 || (idx = 0x1040 && sub = 1) || (idx = 0x1060 && sub = 2) || (0x4000 ≤ idx && idx ≤ 0x40FF) ||
    idx = 0x9030 || idx = 0x7100

/-- Why a field of a READ or DESCRIBE is rejected; 0 where it is not. -/
def M.readReason (m : M) (e : PduEntry) (isRead : Bool) : Nat :=
  if m.responder && !fallbackServes e.idx e.sub then rnUnavailable
  else match objSpec e.idx e.sub with
    | none => rnUnknown
    | some o =>
      if m.unavailable e.idx isRead then rnUnavailable
      else if e.len ≠ 0 && e.len ≠ o.size then rnSize
      else 0

/-- One field of a READ: its reply entry. -/
def M.readEntry (m : M) (e : PduEntry) : Bool × List Byte × M :=
  match m.readReason e true, objSpec e.idx e.sub with
  | 0, some o =>
    let r := m.readObj e.idx e.sub o
    (true, replyEntry e.idx e.sub o.size 0 0 [r.1], r.2.markRead e.idx e.sub)
  | rn, _ => (false, replyEntry e.idx e.sub 0 2 rn [], m)

/-- The default that a descriptor shows (R356). -/
def M.defaultOf (m : M) (idx sub : Nat) : Nat := if sub = 0 then (topSub idx).getD 0 else objReset m.fuse idx sub

/-- One field of a DESCRIBE. -/
def M.describeEntry (m : M) (e : PduEntry) : Bool × List Byte × M :=
  match m.readReason e false, objSpec e.idx e.sub with
  | 0, some o => (true, replyEntry e.idx e.sub 32 0 0 [descriptor o (m.defaultOf e.idx e.sub)], m)
  | rn, _ => (false, replyEntry e.idx e.sub 0 2 rn [], m)

/-- Fields one after another: whether all went well, the reply's entries, the device after them. -/
def M.eachEntry (m : M) (f : M → PduEntry → Bool × List Byte × M) (es : List PduEntry) : Bool × List (List Byte) × M :=
  es.foldl (fun (a : Bool × List (List Byte) × M) e =>
    let r := f a.2.2 e
    (a.1 && r.1, a.2.1 ++ [r.2.1], r.2.2)) (true, [], m)

/-! ## WRITE (R359 to R363) -/

/-- The fields of a WRITE judged and applied one after another: FSTATUS and REASON of each. -/
def M.writeAll (m : M) (party : Party) (es : List PduEntry) : List (Nat × Nat) × M :=
  es.foldl (fun (a : List (Nat × Nat) × M) e =>
    let r := a.2.writeField party e.idx e.sub e.len e.value
    (a.1 ++ [(r.1, r.2.1)], r.2.2)) ([], m)

/-- A field's report where its request of ALL_OR_NOTHING does not apply (R362). -/
def heldReport (st : Nat × Nat) : Nat × Nat := if st.1 = 0 then (2, rnHeld) else if st.1 = 1 then (2, rnWouldClamp) else st

/-- A rejected request to a PLL sets its REFUSED flag, applied or not (R429). -/
def M.refuse (m : M) (e : PduEntry) (st : Nat × Nat) : M :=
  if e.idx = 0x2010 && st = (2, rnState) then m.setObjBit 0x2010 e.sub 11 true else m

/-- The device after the fields of a WRITE, and their reports. -/
def M.writeRequest (m : M) (party : Party) (aon : Bool) (es : List PduEntry) : List (Nat × Nat) × M :=
  let r := m.writeAll party es
  if aon && !(r.1.all fun s => s.1 = 0) then
    (r.1.map heldReport, (es.zip r.1).foldl (fun (m : M) x => m.refuse x.1 x.2) m)
  else r

/-- The value in force that a report shows: what the object reads now, or would have taken. -/
def M.inForce (m : M) (e : PduEntry) (st : Nat × Nat) : Nat × M :=
  match objSpec e.idx e.sub with
  | none => (0, m)
  | some o => if st = (2, rnWouldClamp) then (o.store (m.obj e.idx e.sub) (o.clampAll e.value), m) else m.readObj e.idx e.sub o

/-- The report's entries. -/
def M.reportEntries (m : M) (es : List (PduEntry × Nat × Nat)) : List (List Byte) × M :=
  es.foldl (fun (a : List (List Byte) × M) x =>
    let r := a.2.inForce x.1 x.2
    (a.1 ++ [replyEntry x.1.idx x.1.sub x.1.len x.2.1 x.2.2 [x.1.value, r.1]], r.2)) ([], m)

/-- A path's number in 0x1030. -/
def Party.path : Party → Nat
  | .mailbox => 1
  | .port _ => 2

/-- A WRITE is served: its report is the reply, and is kept (R363). -/
def M.ledgerWrite (m : M) (party : Party) (p : List Byte) (es : List PduEntry) : List Byte × M :=
  let r := m.writeRequest party (pduAon p) es
  let b := r.2.reportEntries (es.zip r.1)
  let reply := replyPdu p (if r.1.all fun s => s.1 = 0 then stOk else stPartial) b.1
  (reply, b.2.modLed fun d => { d with lastReports := Tab.put d.lastReports party.path (reply.take 64) })

/-! ## One request -/

/-- Bytes of the reply that a request would have. -/
def M.replySize (m : M) (op : Nat) (es : List PduEntry) : Nat :=
  es.foldl (fun n e => n + 8 +
    (if op = pduWrite then 2 * pad8 e.len
     else if m.readReason e (op = pduRead) ≠ 0 then 0
     else if op = pduDescribe then 32
     else match objSpec e.idx e.sub with | some o => pad8 o.size | none => 0)) 16

def Party.replyMax : Party → Nat
  | .mailbox => 0x8000
  | .port _ => 1488

/-- The four fields of a DISCOVER's reply (R375). -/
def discoverEntries : List PduEntry :=
  [(0x1001, 1), (0x1001, 2), (0x6001, 1), (0x1060, 1)].map fun x => { idx := x.1, sub := x.2, len := 0, value := 0 }

/-- The reply to a request, and the device after it. -/
def M.ledgerAnswer (m : M) (party : Party) (p : List Byte) : List Byte × M :=
  let op := pduOp p
  let bare (st : Nat) : List Byte × M := (replyPdu p st [], m)
  let known := op = pduRead || op = pduWrite || op = pduDescribe || (op = pduDiscover && party != .mailbox)
  match entriesOf (op = pduWrite) (pduCount p) ((p.drop 16).take (pduLength p - 16)) with
  | none => bare stMalformed
  | some es =>
    if !headerOk p || !known || (op = pduDiscover && !es.isEmpty) then bare stMalformed
    else if m.responder && op ≠ pduRead then bare stUnavailable
    else if party.replyMax < m.replySize op es then bare stTooLarge
    else if op = pduWrite then m.ledgerWrite party p es
    else
      let r := m.eachEntry (if op = pduDescribe then M.describeEntry else M.readEntry) (if op = pduDiscover then discoverEntries else es)
      (replyPdu p (if r.1 then stOk else stPartial) r.2.1, r.2.2)

/-! ## Replies (R371, R373) -/

/-- The reply reaches the mailbox: buffer, LAST_SEQ, DONE, and vector 388 if IRQ_EN. -/
def M.mailboxReply (m : M) (reply : List Byte) : M :=
  let m := m.modHost fun h => { h with
    mboxRep := reply.zipIdx.foldl (fun t b => Tab.put t b.2 b.1) h.mboxRep
    mboxLastSeq := pduSeq reply, mboxDone := true, mboxBusy := false }
  if m.dev.host.mboxIrqEn then m.raise 388 else m

/-- Replies kept: the last sixteen of each of the last eight stations. -/
def keepReply (kept : List (Nat × Nat × List Byte)) (st seq : Nat) (reply : List Byte) : List (Nat × Nat × List Byte) :=
  let mine := ((kept.filter fun k => k.1 = st && k.2.1 ≠ seq).take 15)
  let others := kept.filter fun k => k.1 ≠ st
  let stations := ((others.map (·.1)).eraseDups).take 7
  (st, seq, reply) :: mine ++ others.filter fun k => stations.contains k.1

/-- A kept reply to a station's SEQ. -/
def M.keptReply (m : M) (st seq : Nat) : Option (List Byte) :=
  (m.dev.mgmt.kept.find? fun k => k.1 = st && k.2.1 = seq).map (·.2.2)

/-- The request at the front of the queue is served. -/
def M.serveFront (m : M) (serves : Nat → Bool) : M :=
  match m.dev.led.queue with
  | [] => m
  | q :: rest =>
    if !m.ledgerRuns || !serves (pduOp q.pdu) then m
    else
      let m := m.modLed fun d => { d with queue := rest }
      match q.party with
      | .mailbox => let r := m.ledgerAnswer .mailbox q.pdu; r.2.mailboxReply r.1
      | .port a =>
        match m.keptReply a.toNat (pduSeq q.pdu) with
        | some reply => m.send (.frame a.toNat reply)
        | none =>
          let r := m.ledgerAnswer (.port a) q.pdu
          (r.2.modMgmt fun g => { g with kept := keepReply g.kept a.toNat (pduSeq q.pdu) r.1 }).send (.frame a.toNat r.1)

/-- LEDGER_READ: it also answers a request whose OP no path accepts. -/
def execLedgerRead (s : State) : Host.Outcome State Fault Refusal :=
  s.run fun m => m.serveFront fun op => op != pduWrite && op != pduDescribe && op != pduDiscover

/-- LEDGER_WRITE. -/
def execLedgerWrite (s : State) : Host.Outcome State Fault Refusal := s.run fun m => m.serveFront fun op => op == pduWrite

/-- DESCRIBE. -/
def execDescribe (s : State) : Host.Outcome State Fault Refusal := s.run fun m => m.serveFront fun op => op == pduDescribe

/-- DISCOVER. -/
def execDiscover (s : State) : Host.Outcome State Fault Refusal := s.run fun m => m.serveFront fun op => op == pduDiscover

/-! ## Frames (R373, R364) -/

/-- What a LAP frame holds: addresses, a tag, its FCS, and its PDU with what pads it. -/
structure LapFrame where
  dest : Nat
  source : Nat
  tagged : Bool
  fcsOk : Bool
  content : List Byte
deriving DecidableEq, Repr

def broadcast : Nat := 0xFFFFFFFFFFFF

/-- The management port's address. -/
def M.mac (m : M) : Nat := m.obj 0x1060 2

/-- A frame is discarded and counted in MALFORMED. -/
def M.badFrame (m : M) (f : LapFrame) : Bool :=
  f.tagged || !f.fcsOk || f.content.length < pduLength f.content || (f.dest != m.mac && f.dest != broadcast)

/-- A request joins the queue, which holds sixteen of the port's. -/
def M.enqueue (m : M) (st : Nat) (pdu : List Byte) : M :=
  if 16 ≤ (m.dev.led.queue.filter fun q => q.party != .mailbox).length then m.satObj 0x1060 3 31 16 1
  else m.modLed fun d => { d with queue := d.queue ++ [{ party := .port (BitVec.ofNat 48 st), pdu }] }

/-- A frame's PDU: coolant data and its acknowledgements act at once, a repeated request is answered again, others wait. -/
def M.takePdu (m : M) (f : LapFrame) (pdu : List Byte) : M :=
  let op := pduOp pdu
  if op = pduTrayReport then
    if !headerOk pdu || pdu.length < 24 then m
    else m.trayReport f.source (pduNum pdu 16 8) ((List.range ((pdu.length - 24) / 8)).map fun k => pduNum pdu (24 + 8 * k) 8)
  else if f.dest = broadcast && op ≠ pduDiscover then m
  else if op = pduFailsafeAck then
    if headerOk pdu && pdu.length = 24 then m.failsafeAck (pduNum pdu 16 8) else m
  else match m.keptReply f.source (pduSeq pdu) with
    | some reply => m.send (.frame f.source reply)
    | none => m.enqueue f.source pdu

/-- A LAP frame arrives, padded to the minimum. `stale`: the reply kept for its SEQ is older than 1 s. -/
def M.lapFrame (m : M) (f : LapFrame) (stale : Bool) : M :=
  let f := { f with content := f.content ++ List.replicate (46 - f.content.length) 0 }
  let m := m.wrapObj 0x1060 3 63 32 1
  if m.badFrame f then m.satObj 0x1060 3 15 0 1
  else
    let pdu := f.content.take (max 16 (pduLength f.content))
    let m := if stale then m.modMgmt fun g => { g with kept := g.kept.filter fun k => !(k.1 = f.source && k.2.1 = pduSeq pdu) } else m
    m.takePdu f pdu

/-- LAP_FRAME_RECEIVE: `lap` its EtherType is 0x88B5; any other frame is ignored. -/
def execLapFrameReceive (dest source : BitVec 48) (lap tagged fcsOk : Bool) (content : List Byte) (stale : Bool) (s : State) :
    Host.Outcome State Fault Refusal :=
  s.run fun m => m.when (lap && m.ledgerRuns) fun m =>
    m.lapFrame { dest := dest.toNat, source := source.toNat, tagged, fcsOk, content } stale

end Sys2Proof.Machine
end

