-- ==== Sys2Proof/Machine/Dispatch.lean ====
section
/-! DEFINITION. One arm per constructor of Instr: a direct call of the command's meaning, or its rejection by name. -/

namespace Sys2Proof.Machine

/-- The effect of a command on everything but the queue. -/
def exec (i : Instr) (s : State) : Host.Outcome State Fault Refusal :=
  match i with
  | .coreStart core ctx clr => Sys2Proof.Machine.execCoreStart core ctx clr s
  | .clrErr core ctx => Sys2Proof.Machine.execClrErr core ctx s
  | .coreAbort core ctx => Sys2Proof.Machine.execCoreAbort core ctx s
  | .abortLatch core => Sys2Proof.Machine.execAbortLatch core s
  | .registerWrite offset wide value poisoned => Sys2Proof.Machine.execRegisterWrite offset wide value poisoned s
  | .manifestFetchDone core => Sys2Proof.Machine.execManifestFetchDone core s
  | .recordSlotReserve core => Sys2Proof.Machine.execRecordSlotReserve core s
  | .outriderPrefetch core => Sys2Proof.Machine.execOutriderPrefetch core s
  | .matrix core => Sys2Proof.Machine.execMatrix core s
  | .convoyMac core => Sys2Proof.Machine.execConvoyMac core s
  | .convoyAdd core => Sys2Proof.Machine.execConvoyAdd core s
  | .convoyMax core => Sys2Proof.Machine.execConvoyMax core s
  | .convoyCmp core => Sys2Proof.Machine.execConvoyCmp core s
  | .convert core => Sys2Proof.Machine.execConvert core s
  | .vectorAdd core => Sys2Proof.Machine.execVectorAdd core s
  | .vectorSub core => Sys2Proof.Machine.execVectorSub core s
  | .vectorMul core => Sys2Proof.Machine.execVectorMul core s
  | .vectorMax core => Sys2Proof.Machine.execVectorMax core s
  | .vectorMin core => Sys2Proof.Machine.execVectorMin core s
  | .axpb core => Sys2Proof.Machine.execAxpb core s
  | .funcOp core => Sys2Proof.Machine.execFuncOp core s
  | .rmsnorm core => Sys2Proof.Machine.execRmsnorm core s
  | .layernorm core => Sys2Proof.Machine.execLayernorm core s
  | .rope core => Sys2Proof.Machine.execRope core s
  | .routeTop2 core => Sys2Proof.Machine.execRouteTop2 core s
  | .amax core => Sys2Proof.Machine.execAmax core s
  | .score core => Sys2Proof.Machine.execScore core s
  | .softmax core => Sys2Proof.Machine.execSoftmax core s
  | .kvAppend core => Sys2Proof.Machine.execKvAppend core s
  | .move core => Sys2Proof.Machine.execMove core s
  | .transposingMove core => Sys2Proof.Machine.execTransposingMove core s
  | .send core => Sys2Proof.Machine.execSend core s
  | .circulate core => Sys2Proof.Machine.execCirculate core s
  | .combine core => Sys2Proof.Machine.execCombine core s
  | .gather core => Sys2Proof.Machine.execGather core s
  | .broadcast core => Sys2Proof.Machine.execBroadcast core s
  | .reduceChildren core => Sys2Proof.Machine.execReduceChildren core s
  | .gradientFold core => Sys2Proof.Machine.execGradientFold core s
  | .barrier core => Sys2Proof.Machine.execBarrier core s
  | .waitFlag core => Sys2Proof.Machine.execWaitFlag core s
  | .signal core => Sys2Proof.Machine.execSignal core s
  | .xbarrier core => Sys2Proof.Machine.execXbarrier core s
  | .tableLoad core => Sys2Proof.Machine.execTableLoad core s
  | .branch core => Sys2Proof.Machine.execBranch core s
  | .checkpoint core => Sys2Proof.Machine.execCheckpoint core s
  | .manifestCommit core => Sys2Proof.Machine.execManifestCommit core s
  | .drainLimitExpiry core => Sys2Proof.Machine.execDrainLimitExpiry core s
  | .segmentArrive lq group => Sys2Proof.Machine.execSegmentArrive lq group s
  | .convoyStepEnd lq => Sys2Proof.Machine.execConvoyStepEnd lq s
  | .stepGrant tier => Sys2Proof.Machine.execStepGrant tier s
  | .bankAccess unit source data poison err => Sys2Proof.Machine.execBankAccess unit source data poison err s
  | .refreshDue lq => Sys2Proof.Machine.execRefreshDue lq s
  | .scrubUnit lq err => Sys2Proof.Machine.execScrubUnit lq err s
  | .sramScrub store block err rErr cErr => Sys2Proof.Machine.execSramScrub store block err rErr cErr s
  | .bucketLeak cls inst => Sys2Proof.Machine.execBucketLeak cls inst s
  | .sparingCopyDone bank => Sys2Proof.Machine.execSparingCopyDone bank s
  | .repairMapWrite bank => Sys2Proof.Machine.execRepairMapWrite bank s
  | .tractModeWrite party column sub value => Sys2Proof.Machine.execTractModeWrite party column sub value s
  | .tractConversionStart column tract => Sys2Proof.Machine.execTractConversionStart column tract s
  | .tractConversionDone column tract => Sys2Proof.Machine.execTractConversionDone column tract s
  | .bazaarCoreRead core line set => Sys2Proof.Machine.execBazaarCoreRead core line set s
  | .bazaarWindowClose line => Sys2Proof.Machine.execBazaarWindowClose line s
  | .bazaarAccess addr data poison => Sys2Proof.Machine.execBazaarAccess addr data poison s
  | .ringInject core => Sys2Proof.Machine.execRingInject core s
  | .ringTransferArrive core => Sys2Proof.Machine.execRingTransferArrive core s
  | .cisternOwnerWrite party core value => Sys2Proof.Machine.execCisternOwnerWrite party core value s
  | .cisternClearStart core => Sys2Proof.Machine.execCisternClearStart core s
  | .cisternClearDone core => Sys2Proof.Machine.execCisternClearDone core s
  | .flitSend link => Sys2Proof.Machine.execFlitSend link s
  | .payload link flit => Sys2Proof.Machine.execPayload link flit s
  | .idle link flit => Sys2Proof.Machine.execIdle link flit s
  | .nak link flit => Sys2Proof.Machine.execNak link flit s
  | .retrainReq link flit => Sys2Proof.Machine.execRetrainReq link flit s
  | .replayTimeout link sender => Sys2Proof.Machine.execReplayTimeout link sender s
  | .laneSignalLoss link => Sys2Proof.Machine.execLaneSignalLoss link s
  | .linkDetect link => Sys2Proof.Machine.execLinkDetect link s
  | .linkTrainPhaseEnd link lanes ok => Sys2Proof.Machine.execLinkTrainPhaseEnd link lanes ok s
  | .linkNegotiate link versions partnerId partnerLink partnerSerial lastSeq fresh => Sys2Proof.Machine.execLinkNegotiate link versions partnerId partnerLink partnerSerial lastSeq fresh s
  | .linkHoldExpiry link => Sys2Proof.Machine.execLinkHoldExpiry link s
  | .linkDrainExpiry link => Sys2Proof.Machine.execLinkDrainExpiry link s
  | .retrain party link => Sys2Proof.Machine.execRetrain party link s
  | .linkEnable party link enable => Sys2Proof.Machine.execLinkEnable party link enable s
  | .read link msg => Sys2Proof.Machine.execRead link msg s
  | .readData link msg => Sys2Proof.Machine.execReadData link msg s
  | .write link msg => Sys2Proof.Machine.execWrite link msg s
  | .writeAck link msg => Sys2Proof.Machine.execWriteAck link msg s
  | .fetchAdd link msg => Sys2Proof.Machine.execFetchAdd link msg s
  | .swap link msg => Sys2Proof.Machine.execSwap link msg s
  | .cas64 link msg => Sys2Proof.Machine.execCas64 link msg s
  | .maxU32 link msg => Sys2Proof.Machine.execMaxU32 link msg s
  | .addSatU32 link msg => Sys2Proof.Machine.execAddSatU32 link msg s
  | .or32 link msg => Sys2Proof.Machine.execOr32 link msg s
  | .atomicData link msg => Sys2Proof.Machine.execAtomicData link msg s
  | .flagSet link msg => Sys2Proof.Machine.execFlagSet link msg s
  | .barrierArrive link msg => Sys2Proof.Machine.execBarrierArrive link msg s
  | .barrierRelease link msg => Sys2Proof.Machine.execBarrierRelease link msg s
  | .heartbeat link msg => Sys2Proof.Machine.execHeartbeat link msg s
  | .collReady link msg => Sys2Proof.Machine.execCollReady link msg s
  | .collData link msg => Sys2Proof.Machine.execCollData link msg s
  | .mirrorDelta link msg => Sys2Proof.Machine.execMirrorDelta link msg s
  | .mirrorAck link msg => Sys2Proof.Machine.execMirrorAck link msg s
  | .takeoverNotice link msg => Sys2Proof.Machine.execTakeoverNotice link msg s
  | .requestTimeout tag => Sys2Proof.Machine.execRequestTimeout tag s
  | .tagRelease tag => Sys2Proof.Machine.execTagRelease tag s
  | .collTimeout core => Sys2Proof.Machine.execCollTimeout core s
  | .xtimeout group => Sys2Proof.Machine.execXtimeout group s
  | .heartbeatSend => Sys2Proof.Machine.execHeartbeatSend s
  | .partnerLost => Sys2Proof.Machine.execPartnerLost s
  | .mirrorLag => Sys2Proof.Machine.execMirrorLag s
  | .soloTimeout => Sys2Proof.Machine.execSoloTimeout s
  | .endPair party => Sys2Proof.Machine.execEndPair party s
  | .resync party => Sys2Proof.Machine.execResync party s
  | .takeover party => Sys2Proof.Machine.execTakeover party s
  | .hostBar2Read offset length => Sys2Proof.Machine.execHostBar2Read offset length s
  | .hostBar2Write offset data poisoned => Sys2Proof.Machine.execHostBar2Write offset data poisoned s
  | .hostAtomic offset op wide operand compare => Sys2Proof.Machine.execHostAtomic offset op wide operand compare s
  | .functionLevelReset => Sys2Proof.Machine.execFunctionLevelReset s
  | .perst => Sys2Proof.Machine.execPerst s
  | .mboxSubmit => Sys2Proof.Machine.execMboxSubmit s
  | .mboxClear irqEn => Sys2Proof.Machine.execMboxClear irqEn s
  | .lapFrameReceive dest source lap tagged fcsOk content stale => Sys2Proof.Machine.execLapFrameReceive dest source lap tagged fcsOk content stale s
  | .ledgerRead => Sys2Proof.Machine.execLedgerRead s
  | .ledgerWrite => Sys2Proof.Machine.execLedgerWrite s
  | .describe => Sys2Proof.Machine.execDescribe s
  | .discover => Sys2Proof.Machine.execDiscover s
  | .trayReport source word entries => Sys2Proof.Machine.execTrayReport source word entries s
  | .failsafeRepeat => Sys2Proof.Machine.execFailsafeRepeat s
  | .failsafeAck word => Sys2Proof.Machine.execFailsafeAck word s
  | .claim party => Sys2Proof.Machine.execClaim party s
  | .release party => Sys2Proof.Machine.execRelease party s
  | .leaseExpiry => Sys2Proof.Machine.execLeaseExpiry s
  | .save party => Sys2Proof.Machine.execSave party s
  | .forget party => Sys2Proof.Machine.execForget party s
  | .saveDone ok => Sys2Proof.Machine.execSaveDone ok s
  | .mgmtSettingsApply => Sys2Proof.Machine.execMgmtSettingsApply s
  | .faultLogClear party => Sys2Proof.Machine.execFaultLogClear party s
  | .memoryLogClear party layer => Sys2Proof.Machine.execMemoryLogClear party layer s
  | .faultLogPersist sub => Sys2Proof.Machine.execFaultLogPersist sub s
  | .ledgerFlagSet party core flag => Sys2Proof.Machine.execLedgerFlagSet party core flag s
  | .ledgerFlagClear party core flag => Sys2Proof.Machine.execLedgerFlagClear party core flag s
  | .contextOpen party core ctx => Sys2Proof.Machine.execContextOpen party core ctx s
  | .contextClose party core ctx => Sys2Proof.Machine.execContextClose party core ctx s
  | .quantumExpiry core => Sys2Proof.Machine.execQuantumExpiry core s
  | .contextSwitch core => Sys2Proof.Machine.execContextSwitch core s
  | .parkedResume core => Sys2Proof.Machine.execParkedResume core s
  | .fence party core => Sys2Proof.Machine.execFence party core s
  | .unfence party core => Sys2Proof.Machine.execUnfence party core s
  | .domainOn party dom => Sys2Proof.Machine.execDomainOn party dom s
  | .domainOff party dom => Sys2Proof.Machine.execDomainOff party dom s
  | .domainTransitionDone dom => Sys2Proof.Machine.execDomainTransitionDone dom s
  | .capPeriod power next => Sys2Proof.Machine.execCapPeriod power next s
  | .pstateChangeDone unit => Sys2Proof.Machine.execPstateChangeDone unit s
  | .feedOutOfRange feed => Sys2Proof.Machine.execFeedOutOfRange feed s
  | .feedRestore feed => Sys2Proof.Machine.execFeedRestore feed s
  | .pwrAlertAssert causes => Sys2Proof.Machine.execPwrAlertAssert causes s
  | .pwrAlertRelease => Sys2Proof.Machine.execPwrAlertRelease s
  | .floorHoldEnd => Sys2Proof.Machine.execFloorHoldEnd s
  | .pwrAlertLong => Sys2Proof.Machine.execPwrAlertLong s
  | .phaseFault pos cluster => Sys2Proof.Machine.execPhaseFault pos cluster s
  | .currentLimitTrip pos cluster phase => Sys2Proof.Machine.execCurrentLimitTrip pos cluster phase s
  | .senseEvent pos cluster => Sys2Proof.Machine.execSenseEvent pos cluster s
  | .sensorSample first readings => Sys2Proof.Machine.execSensorSample first readings s
  | .thermalTick => Sys2Proof.Machine.execThermalTick s
  | .traySilenceTimeout => Sys2Proof.Machine.execTraySilenceTimeout s
  | .coolantRelease => Sys2Proof.Machine.execCoolantRelease s
  | .missingEdge src => Sys2Proof.Machine.execMissingEdge src s
  | .clockJudgeWindow clock within => Sys2Proof.Machine.execClockJudgeWindow clock within s
  | .srcReq party pll src => Sys2Proof.Machine.execSrcReq party pll src s
  | .twpOscLoss => Sys2Proof.Machine.execTwpOscLoss s
  | .heldDomainTimeout => Sys2Proof.Machine.execHeldDomainTimeout s
  | .resetCore party target => Sys2Proof.Machine.execResetCore party target s
  | .resetTier party target fullLayer => Sys2Proof.Machine.execResetTier party target fullLayer s
  | .resetPartition party target => Sys2Proof.Machine.execResetPartition party target s
  | .resetDevice party => Sys2Proof.Machine.execResetDevice party s
  | .resetBegin => Sys2Proof.Machine.execResetBegin s
  | .spineQuiesceEnd absorbed => Sys2Proof.Machine.execSpineQuiesceEnd absorbed s
  | .resetRelease => Sys2Proof.Machine.execResetRelease s
  | .powerOn => Sys2Proof.Machine.execPowerOn s
  | .bringupStageEnd ok bad cold => Sys2Proof.Machine.execBringupStageEnd ok bad cold s
  | .mcHeartbeat => Sys2Proof.Machine.execMcHeartbeat s
  | .mcTimeout => Sys2Proof.Machine.execMcTimeout s
  | .restartLimit => Sys2Proof.Machine.execRestartLimit s
  | .bondTestPeriod => Sys2Proof.Machine.execBondTestPeriod s
  | .runTest party => Sys2Proof.Machine.execRunTest party s
  | .laneTestDone core segment crossing lane ok last => Sys2Proof.Machine.execLaneTestDone core segment crossing lane ok last s
  | .tollIntegrate contexts unattributed => Sys2Proof.Machine.execTollIntegrate contexts unattributed s
  | .attestRequest party => Sys2Proof.Machine.execAttestRequest party s
  | .attestReportReady => Sys2Proof.Machine.execAttestReportReady s
  | .beginUpdate party proc => Sys2Proof.Machine.execBeginUpdate party proc s
  | .applyPackage party => Sys2Proof.Machine.execApplyPackage party s
  | .applyDone sigOk tagOk digestOk => Sys2Proof.Machine.execApplyDone sigOk tagOk digestOk s
  | .activate party => Sys2Proof.Machine.execActivate party s
  | .startFailTimeout => Sys2Proof.Machine.execStartFailTimeout s
  | .confirm party => Sys2Proof.Machine.execConfirm party s
  | .revert party => Sys2Proof.Machine.execRevert party s
  | .cancel party => Sys2Proof.Machine.execCancel party s
  | .chunk party data => Sys2Proof.Machine.execChunk party data s
  | .confirmLimitExpiry => Sys2Proof.Machine.execConfirmLimitExpiry s
  | .alignLoss link => Sys2Proof.Machine.execAlignLoss link s
  | .flitProtocolError link flit => Sys2Proof.Machine.execFlitProtocolError link flit s
  | .messageProtocolError link msg => Sys2Proof.Machine.execMessageProtocolError link msg s
  | .flagSetReturn link msg => Sys2Proof.Machine.execFlagSetReturn link msg s
  | .perstRelease => Sys2Proof.Machine.execPerstRelease s
  | .ltcTimeout => Sys2Proof.Machine.execLtcTimeout s
  | .holdUpExpiry => Sys2Proof.Machine.execHoldUpExpiry s
  | .refreshDone lq => Sys2Proof.Machine.execRefreshDone lq s

end Sys2Proof.Machine
end

