-- ==== Sys2Proof/Safety.lean ====
section
/-! DEFINITION. What counts as a safe state and a safe run, and the terms the statements are written in: what a command ends in,
and what it leaves as it was. -/

namespace Sys2Proof.Machine

/-- A state whose memory is in canonical form. -/
def State.sound (s : State) : Prop := s.mem.wf = true

/-- A step from `s` that neither faults nor refuses. -/
def State.steps (s s' : State) : Prop := step s = .next s'

/-- The command `c` in state `s` answers a next state, and that state, read through the views of `M`, has property `P`. -/
def Ends (c : Instr) (s : State) (P : M → Prop) : Prop := ∃ t, exec c s = .next t ∧ P (M.of t)

/-- The state that `g` makes of `s`: memory with `g`'s effects, the device as `g` leaves it; fuses and the queue stand. -/
def State.after (s : State) (g : M → M) : State :=
  { s with mem := s.mem.applyAll (g (M.of s)).ops, dev := (g (M.of s)).dev }

/-- The command `c` in state `s` answers exactly the next state that `g` makes of it. -/
def Does (c : Instr) (s : State) (g : M → M) : Prop := exec c s = .next (s.after g)

/-- Every byte of memory and every poison mark reads as before. -/
def M.SameMem (a b : M) : Prop := (∀ x, b.byte x = a.byte x) ∧ ∀ x, b.marked x = a.marked x

/-- Every byte outside `n` bytes from `lo` reads as before. -/
def M.SameOutside (a b : M) (lo n : Nat) : Prop := ∀ x, x < lo ∨ lo + n ≤ x → b.byte x = a.byte x

/-- Every object reads as before, but for the fault log (index 0x7100) and those listed. -/
def M.SameObjs (a b : M) (but : List (Nat × Nat)) : Prop :=
  ∀ i j, j < 256 → i ≠ 0x7100 → (i, j) ∉ but → b.obj i j = a.obj i j

/-- Every core but those listed stands as before. -/
def M.SameCores (a b : M) (but : List Nat) : Prop := ∀ i, i ∉ but → b.core i = a.core i

/-- Every link but those listed stands as before. -/
def M.SameLinks (a b : M) (but : List Nat) : Prop := ∀ l, l ∉ but → b.link l = a.link l

/-- Every layer quadrant but those listed stands as before. -/
def M.SameLqs (a b : M) (but : List Nat) : Prop := ∀ n, n ∉ but → b.lq n = a.lq n

/-- Core `i` runs; its run slot is free; its ready slot holds `sl`, a valid manifest of kind `k` that nothing has stopped; the
clocks of all it touches run (06_manifest_execution.md R125; 19 R431). -/
def M.MayRun (m : M) (i : Nat) (sl : Slot) (k : Nat) : Prop :=
  m.coreRuns i = true ∧ (m.core i).run = none ∧ (m.core i).ready = some sl ∧ sl.fixed = none ∧ sl.stop = none ∧ sl.kind = k ∧
    m.pathsRun i sl.words = true

/-- `sl` has moved into core `i`'s run slot and is done there: its PROGRESS is that of a manifest run to its end; only its counts
and merges differ. The core's chains, flags and fetch stand; so do every object, every other core, the links and the layer
quadrants. -/
def M.StandsDone (m m' : M) (i : Nat) (sl : Slot) : Prop :=
  (m'.core i).ready = none ∧
  (∃ tr ps ex mg, (m'.core i).run = some { sl with
    phase := .done, progress := totalIters sl.words, trCount := tr, poisonCount := ps, excCount := ex, merges := mg }) ∧
  ((m'.core i).active = (m.core i).active ∧ (m'.core i).halted = (m.core i).halted ∧ (m'.core i).flags = (m.core i).flags ∧
    (m'.core i).fetch = (m.core i).fetch ∧ (m'.core i).wait = (m.core i).wait) ∧
  m.SameObjs m' [] ∧ m.SameCores m' [i] ∧ m.SameLinks m' [] ∧ m.SameLqs m' []

/-- Message `x` stands first in the receive buffer of link `l` and is for this device; no field of it is reserved; the fabric's
clocks run (13_itril_link.md R302; 14_fabric_mirroring.md R313, R316). -/
def M.Arrives (m : M) (l : Nat) (x : Msg) : Prop :=
  m.live = true ∧ m.fabricRuns = true ∧ m.msgFirst l x = true ∧ x.foreign = false ∧ x.dest = m.deviceId

/-- The management controller serves party `p`, which owns the Ledger (16_ledger.md R365). -/
def M.Serves (m : M) (p : Party) : Prop := m.hears p = true ∧ m.responder = false ∧ m.dev.led.owner = some p

/-- The report of a field written by itself (R363): FSTATUS, REASON, the value requested, and what a read of the object now gives. -/
def M.reported (m : M) (idx sub v fstatus reason : Nat) : M :=
  match objSpec idx sub with
  | none => m
  | some o =>
    let r := m.readObj idx sub o
    r.2.modLed fun d => { d with lastField := some { fstatus, reason, requested := v, inForce := r.1 } }

/-- The command `c` writes `v` to the object at `idx`.`sub`; the write is APPLIED, with the effect `g`. -/
def Applies (c : Instr) (s : State) (idx sub v : Nat) (g : M → M) : Prop := Does c s fun m => (g m).reported idx sub v 0 0

/-- The command `c` writes `v` to the object at `idx`.`sub`; the write is REJECTED with a reason, and changes nothing but its
report. -/
def Rejects (c : Instr) (s : State) (idx sub v reason : Nat) : Prop := Does c s fun m => m.reported idx sub v 2 reason

/-- CODE, SUBJECT and DATA of the newest fault-log entry (20_faults_fencing.md R462). -/
def M.newestFault (m : M) : Nat × Nat × Nat :=
  let e := m.obj 0x7100 (m.objFld 0x7100 0xF1 15 8)
  (fld e 15 0, fld e 103 72, fld e 167 104)

/-- The device-wide forced floor is in force (17_power.md R395): the common state, every core and every tier are at P7. -/
def M.AtFloor (m : M) : Prop :=
  m.objFld 0x3020 4 3 0 = 7 ∧ (∀ i, i < 24 → m.objFld 0x3051 (i + 1) 3 0 = 7) ∧ ∀ t, t < 6 → m.objFld 0x3052 (t + 1) 3 0 = 7

/-- Nothing of memory, the cores, the links or the layer quadrants differs. -/
def M.SameWork (a b : M) : Prop := a.SameMem b ∧ a.SameCores b [] ∧ a.SameLinks b [] ∧ a.SameLqs b []

/-- Every object reads as before, but for those at the indices listed. -/
def M.SameIndices (a b : M) (but : List Nat) : Prop := ∀ i j, j < 256 → i ∉ but → b.obj i j = a.obj i j

end Sys2Proof.Machine
end

