-- ==== Sys2Proof/Certificates/Slice0/Obligations.lean ====
section
/-! DEFINITION. The statements for the provers: what each command does, what it leaves as it was, and what every step keeps. -/

open Sys2Proof Sys2Proof.Machine

/-- A step takes the command at the front of the queue and runs it with the queue's rest. -/
def Obligations.StepRunsTheFrontCommand : Prop :=
  ∀ (c : Instr) (s : State), step { s with pending := c :: s.pending } = exec c s

/-- MODEL's choice (log entry 14): on an empty queue the block idles. -/
def Obligations.EmptyQueueIdles : Prop := ∀ s : State, s.pending = [] → step s = .next s

/-- Every step keeps memory's canonical form: addresses rise, no listed byte is 0x00, marks rise. -/
def Obligations.StepKeepsMemoryForm : Prop := ∀ s t : State, s.sound → step s = .next t → t.sound

/-- The state after reset has that form. -/
def Obligations.ResetHasMemoryForm : Prop := State.reset.sound

/-- No command ends in a fault or a refusal; every one leaves the fuses and the commands that wait behind it as they were. -/
def Obligations.EveryCommandCompletes : Prop :=
  ∀ (c : Instr) (s : State), ∃ t, exec c s = .next t ∧ t.fuse = s.fuse ∧ t.pending = s.pending

/-- After reset every byte reads 0x00 without a mark (19 R445), the coolant status shows FLOOR for cause 3 with SILENT (18 R420),
objects 0x3020.01, 0x1010.01, 0x1040.04, 0x5020.01 and 0x7050.01 hold 6,000, 0, 10,000, 8 and 50; CORE.CTRL reads 0x800 and every core's
chains and flags are zero; every link is down. -/
def Obligations.ResetValuesOfTheManual : Prop :=
  let m := M.of State.reset
  (∀ a, m.byte a = 0 ∧ m.marked a = false) ∧
  m.objFld 0x4020 1 3 0 = 2 ∧ m.objFld 0x4020 1 7 4 = 3 ∧ m.objBit 0x4020 1 8 = true ∧
  m.obj 0x3020 1 = 6000 ∧ m.obj 0x1010 1 = 0 ∧ m.obj 0x1040 4 = 10000 ∧ m.obj 0x5020 1 = 8 ∧ m.obj 0x7050 1 = 50 ∧
  (∀ i, m.core i = Core.zero) ∧ (Core.zero.ctrl = 0x800 ∧ Core.zero.active = 0 ∧ Core.zero.flags = 0) ∧
  (∀ l, m.link l = Link.zero)

/-- R120: a START that is taken. An idle chain begins at CORE.PROGRAM_BASE with an empty record ring; a halted one goes on from
CORE.NEXT_PTR. Only this core changes. -/
def Obligations.StartTakesTheChain : Prop :=
  ∀ (core : Fin 24) (ctx : Fin 16) (clr : Bool) (s : State),
    let m := M.of s
    m.windowDead core = false → m.mayStart core ctx = true →
    Ends (.coreStart core ctx clr) s fun m' =>
      bit16 (m'.core core).active ctx = true ∧ bit16 (m'.core core).halted ctx = false ∧
      (bit16 (m.core core).halted ctx = false →
        (m'.ctx core ctx).recordHead = 0 ∧ (m'.ctx core ctx).recordTail = 0 ∧
        (m'.ctx core ctx).nextPtr = (m.ctx core ctx).programBase) ∧
      (bit16 (m.core core).halted ctx = true →
        (m'.ctx core ctx).recordHead = (m.ctx core ctx).recordHead ∧ (m'.ctx core ctx).nextPtr = (m.ctx core ctx).nextPtr) ∧
      m.SameObjs m' [] ∧ m.SameCores m' [core] ∧ m.SameLinks m' [] ∧ m.SameLqs m' []

/-- R120, R121: a START that may not be taken sets START_ERR of its context and starts nothing; CLR_ERR clears it. -/
def Obligations.StartErrorIsSetAndCleared : Prop :=
  (∀ (core : Fin 24) (ctx : Fin 16) (clr : Bool) (s : State),
    let m := M.of s
    m.windowDead core = false → m.mayStart core ctx = false →
    Ends (.coreStart core ctx clr) s fun m' =>
      bit16 (m'.core core).startErr ctx = true ∧ (m'.core core).active = (m.core core).active ∧
      (m'.core core).fetch = (m.core core).fetch ∧ (m'.core core).run = (m.core core).run ∧
      m.SameObjs m' [] ∧ m.SameCores m' [core]) ∧
  (∀ (core : Fin 24) (ctx : Fin 16) (s : State),
    let m := M.of s
    m.windowDead core = false →
    Ends (.clrErr core ctx) s fun m' =>
      bit16 (m'.core core).startErr ctx = false ∧
      (∀ x, x ≠ ctx.val → x < 16 → bit16 (m'.core core).startErr x = bit16 (m.core core).startErr x) ∧
      (m'.core core).active = (m.core core).active ∧ m.SameObjs m' [] ∧ m.SameCores m' [core])

/-- R141: an ABORT write with REQ = 1 names its context and sets RESULT to PENDING. The request that latches on an idle chain ends
NOT_ACTIVE (5) and stops nothing. One that latches on a chain with no manifest in the slots ends the chain: RESULT is 3 with the
last committed manifest's address, or 4 where none has committed. One that latches on a chain with a manifest in the slots stops
what stands there, and the outcome waits for that manifest's end. -/
def Obligations.AbortIsRequestedAndLatches : Prop :=
  (∀ (core : Fin 24) (ctx : Fin 16) (s : State), (M.of s).windowDead core = false → ((M.of s).core core).abortRes ≠ 1 →
    Ends (.coreAbort core ctx) s fun m' =>
      m'.core core = { (M.of s).core core with abortCtx := ctx, abortRes := 1, abortLatched := false } ∧
      (M.of s).SameObjs m' [] ∧ (M.of s).SameCores m' [core]) ∧
  (∀ (core : Fin 24) (s : State), (M.of s).live = true → (M.of s).clockHeld core = false →
    ((M.of s).core core).abortRes = 1 → ((M.of s).core core).abortLatched = false → ((M.of s).core core).disabling = none →
    let c := (M.of s).core core
    let r := (M.of s).ctx core c.abortCtx
    (bit16 c.active c.abortCtx = false → Ends (.abortLatch core) s fun m' =>
      m'.core core = { c with abortRes := 5 } ∧ (M.of s).SameCores m' [core]) ∧
    (bit16 c.active c.abortCtx = true → c.current = c.abortCtx → c.run = none → c.ready = none → r.parkedRun = none →
      Ends (.abortLatch core) s fun m' =>
        (m'.core core).abortRes = (if r.lastCommit.isSome then 3 else 4) ∧
        (m'.core core).abortAddr = ((r.lastCommit.map (BitVec.ofNat 64)).getD r.programBase)) ∧
    (bit16 c.active c.abortCtx = true → c.current = c.abortCtx → (c.run.isSome || c.ready.isSome) = true →
      Does (.abortLatch core) s fun m => (m.stopSlots core .hostAbort).modCore core fun c => { c with abortLatched := true }))

/-- R119, R122, R136, R349: what a host's 64-bit write to a register does. CORE.PROGRAM_BASE of a context keeps its value while that
context's chain is active; CORE.CTRL waits while any chain is active; CORE.RECORD_TAIL takes 32 bits at once; IRQ_MODE takes its
COALESCE and MODE fields and keeps its count. Nothing else changes. -/
def Obligations.RegisterWritesTakeEffect : Prop :=
  ∀ (core : Fin 24) (ctx : Fin 16) (v : W64) (s : State), (M.of s).hostUp = true → (M.of s).windowDead core = false →
    let c := (M.of s).core core
    let o := 0x10000 + 0x1000 * core.val
    let oc := o + 0x100 + 0x40 * ctx.val
    Ends (.registerWrite oc true v false) s (fun m' =>
      m'.ctx core ctx = (if bit16 c.active ctx then c.ctx ctx else { c.ctx ctx with programBase := v }) ∧
      (∀ y, y ≠ ctx.val → m'.ctx core y = c.ctx y) ∧ (M.of s).SameObjs m' [] ∧ (M.of s).SameCores m' [core]) ∧
    Ends (.registerWrite (oc + 0x20) true v false) s (fun m' =>
      m'.ctx core ctx = { c.ctx ctx with recordTail := BitVec.ofNat 64 (v.toNat % 2 ^ 32) } ∧
      (M.of s).SameObjs m' [] ∧ (M.of s).SameCores m' [core]) ∧
    Ends (.registerWrite (o + 0x10) true v false) s (fun m' =>
      m'.core core = (if c.active = 0 then { c with ctrl := BitVec.ofNat 64 (ctrlOf v.toNat), ctrlNext := none }
        else { c with ctrlNext := some (BitVec.ofNat 64 (ctrlOf v.toNat)) }) ∧ (M.of s).SameCores m' [core]) ∧
    (∀ k : Fin 384, Ends (.registerWrite (0x1000 + 8 * k.val) true v false) s fun m' =>
      let e := Tab.get m'.dev.host.irqMode 0 k
      fld e 1 0 = fld v.toNat 1 0 ∧ fld e 31 16 = fld v.toNat 31 16 ∧
        fld e 47 32 = fld (Tab.get (M.of s).dev.host.irqMode 0 k) 47 32 ∧ (M.of s).SameObjs m' [] ∧ (M.of s).SameCores m' [])

/-- R344, R351: a 4-byte write to a 64-bit register, and any poisoned write, is discarded and counted; a poisoned one is reported
as an uncorrectable error too. -/
def Obligations.BadRegisterWritesAreDiscarded : Prop :=
  ∀ (o : Nat) (wide : Bool) (v : W64) (s : State), (M.of s).hostUp = true → (M.of s).dev.host.discarded < 0xFFFF →
    ((M.of s).isReg o = true → Ends (.registerWrite o false v false) s fun m' =>
      m'.dev = { (M.of s).dev with host := { (M.of s).dev.host with discarded := (M.of s).dev.host.discarded + 1 } }) ∧
    ((M.of s).dev.host.poisonRx < 0xFFFF → Ends (.registerWrite o wide v true) s fun m' =>
      m'.dev.host = { (M.of s).dev.host with
        discarded := (M.of s).dev.host.discarded + 1, poisonRx := (M.of s).dev.host.poisonRx + 1 } ∧
      m'.dev.sent = .aer true :: (M.of s).dev.sent ∧ (M.of s).SameObjs m' [] ∧ (M.of s).SameCores m' [])

/-- R127, R136, R522: the fetch at hand completes; the manifest is judged, stands waiting for its record slot, sends the reads of
records on another device, and takes a slot where one is free. A header line in no window that allows reading is REJECTED with
reason ADDRESS. A manifest that waits takes the slot at RECORD_HEAD once one is free, and RECORD_HEAD rises by one modulo 2^32. -/
def Obligations.FetchAndReservation : Prop :=
  (∀ (core : Fin 24) (addr : Nat) (s : State), (M.of s).coreRuns core = true → ((M.of s).core core).fetch = some addr →
    ((M.of s).core core).empty = true → ((M.of s).core core).disabling = none →
    Does (.manifestFetchDone core) s fun m =>
      let sl := m.validate core (m.fetchSlot core (m.core core).current addr)
      ((m.modCore core fun c => { c with fetch := none, wait := some sl }).sendRecordReads core sl).reserve core) ∧
  (∀ (m : M) (i x addr : Nat), m.lineFails i x (addr % 2 ^ 48) (addr % 2 ^ 48) = some 0 →
    (m.validate i (m.fetchSlot i x addr)).fixed = some (7, rsAddress) ∧ (m.validate i (m.fetchSlot i x addr)).addr = addr) ∧
  (∀ (core : Fin 24) (sl : Slot) (s : State), (M.of s).coreRuns core = true → ((M.of s).core core).wait = some sl →
    (M.of s).mayReserve core sl = true → ((M.of s).core core).ready = none → ((M.of s).core core).disabling = none →
    (sl.fixed.isSome || sl.kind != kExchange || xop sl.words != 3) = true →
    Ends (.recordSlotReserve core) s fun m' =>
      (m'.core core).wait = none ∧
      (m'.core core).ready = some { sl with recNo := some ((M.of s).ctx core sl.ctx).recordHead.toNat } ∧
      (m'.ctx core sl.ctx).recordHead = BitVec.ofNat 64 ((((M.of s).ctx core sl.ctx).recordHead.toNat + 1) % 2 ^ 32) ∧
      (m'.core core).run = ((M.of s).core core).run ∧ (M.of s).SameObjs m' [] ∧ (M.of s).SameCores m' [core])

/-- R137: the fields of a completion record. R140: the manifest that is due commits; merges of records on another device go out
first. -/
def Obligations.CommitAndRecord : Prop :=
  (∀ (sl : Slot) (i st reason next seq count : Nat), st < 256 → i < 24 → reason < 256 →
    let r := sl.form i st reason next seq count
    fld r 7 0 = st ∧ r.testBit 15 = sl.branchDefault ∧ fld r 23 20 = sl.kind % 16 ∧ fld r 27 24 = sl.ctx % 16 ∧
    fld r 35 28 = reason ∧ fld r 41 36 = sl.reasonWord % 64 ∧ fld r 55 48 = min sl.clampCount 255 ∧ fld r 63 56 = 0x40 + i ∧
    fld r 95 64 = count % 2 ^ 32 ∧ fld r 143 96 = seq % 2 ^ 48 ∧ fld r 159 144 = min sl.excCount 0xFFFF ∧
    fld r 191 160 = min sl.poisonCount 0xFFFFFFFF ∧ fld r 207 192 = min sl.trCount 0xFFFF ∧
    fld r 447 384 = next % 2 ^ 64 ∧ fld r 511 448 = sl.addr % 2 ^ 64) ∧
  (∀ (core : Fin 24) (sl : Slot) (s : State), (M.of s).coreRuns core = true → ((M.of s).core core).due = some sl →
    ((sl.stop.isSome || sl.fixed.isSome || !namesRecord sl.words || (M.of s).recordsHere sl.words) = true →
      Does (.manifestCommit core) s fun m => (m.commit core sl false).afterDrain core) ∧
    ((sl.stop.isNone && sl.fixed.isNone && namesRecord sl.words && !(M.of s).recordsHere sl.words) = true →
      sl.commitStep = 0 → Does (.manifestCommit core) s fun m => m.sendMerges core sl))

/-- R144: at the drain limit of a core that is DISABLING, or of a context being closed, what has not committed is stopped to end
DRAINED_ABORT (no device reset being under way). -/
def Obligations.DrainLimitStopsManifests : Prop :=
  (∀ (core : Fin 24) (s : State), (M.of s).live = true → (M.of s).dev.reset = none →
    (((M.of s).core core).disabling.isSome || bit16 ((M.of s).core core).closing ((M.of s).core core).current) = true →
    Does (.drainLimitExpiry core) s fun m => m.stopSlots core .drain) ∧
  (∀ sl : Slot, sl.stop = none → sl.phase ≠ .mirrorWait → (sl.halt .drain).ending = (6, rsDrain))

/-- R147, R148: the Outrider, within its depth, looks at the next manifest of the chain; where that is a valid one of no kind at
which it stops and no BRANCH, it stands one further ahead, at that manifest's next pointer, and nothing but the Outrider of the
core changes. -/
def Obligations.OutriderGoesAhead : Prop :=
  ∀ (core : Fin 24) (sl : Slot) (p : Nat) (s : State), (M.of s).coreRuns core = true →
    let c := (M.of s).core core
    let o := c.outrider
    let t := (M.of s).fetchSlot core sl.ctx p
    c.run = some sl → sl.stop = none → o.ahead < c.horizon sl →
    (if o.ahead = 0 then ((M.of s).aheadOf core sl.ctx sl.addr sl.words sl.target).map (·.1) else o.at?) = some p → p ≠ 0 →
    (M.of s).pointerOk sl.ctx p = true → t.fixed = none → checkForm t.words = none →
    t.kind ∉ [kSync, kCheckpoint, kTable] → hKind t.words ≠ kBranch →
    Ends (.outriderPrefetch core) s fun m' =>
      (m'.core core).outrider.ahead = o.ahead + 1 ∧ (m'.core core).outrider.at? = some (hNext t.words) ∧
      (∃ staged followed writes, m'.core core = { c with outrider := { (m'.core core).outrider with
        staged := staged, followed := followed, writes := writes } }) ∧
      (M.of s).SameObjs m' [] ∧ (M.of s).SameCores m' [core] ∧ (M.of s).SameLqs m' []

/-- R342, R344, R351, R270, R274: a BAR2 write that lies in memory and is served stores its bytes at BAR2's base plus the offset.
A line written whole takes the write's poison, one written in part keeps its mark and gains it. Nothing else changes. -/
def Obligations.HostWritesLand : Prop :=
  ∀ (offset : Nat) (data : List Byte) (p : Bool) (s : State), s.sound → (M.of s).hostUp = true → (M.of s).ready = true →
    0 < data.length → offset + data.length ≤ 2 ^ (M.of s).dev.host.b2Log2 → (M.of s).mirrorRole ≠ 2 →
    let a := (M.of s).dev.host.b2Base.toNat + offset
    a + data.length ≤ memEnd → (M.of s).reqHeld { offset, window := a, req := .write data p } = false →
    (∀ l ∈ linesOf a data.length, (M.of s).reach none (max l a) = true) →
    Ends (.hostBar2Write offset data p) s fun m' =>
      (∀ k, k < data.length → m'.byte (a + k) = data.getD k 0) ∧ (M.of s).SameOutside m' a data.length ∧
      (∀ x, m'.marked x = if lineOf a ≤ x ∧ lineOf x < a + data.length then
        p || (!(a ≤ lineOf x && lineOf x + 64 ≤ a + data.length) && (M.of s).marked x) else (M.of s).marked x) ∧
      (M.of s).SameObjs m' [] ∧ (M.of s).SameCores m' [] ∧ (M.of s).SameLinks m' [] ∧ (M.of s).SameLqs m' []

/-- R344, R351, R432: a BAR2 read answers its bytes, and EP for each line it touches; where a line is not there it completes with
Completer Abort, which is counted; where a clock on its path is held it waits. HELD_DOMAIN_TIMEOUT ends the oldest request that
waits: a read with Completer Abort, a write by discarding it, with fault-log code 0x1002. -/
def Obligations.HostReadsAnswer : Prop :=
  (∀ (offset n : Nat) (s : State), (M.of s).hostUp = true → offset + n ≤ 2 ^ (M.of s).dev.host.b2Log2 →
    let a := (M.of s).dev.host.b2Base.toNat + offset
    ((M.of s).reqHeld { offset, window := a, req := .read n } = true → Does (.hostBar2Read offset n) s fun m =>
      m.modHost fun h => { h with held := h.held ++ [{ offset, window := a, req := .read n }] }) ∧
    ((M.of s).reqHeld { offset, window := a, req := .read n } = false →
      ((M.of s).hostLines a n = none → Does (.hostBar2Read offset n) s fun m =>
        (m.modHost fun h => { h with caReads := min (h.caReads + 1) 0xFFFF }).send .completerAbort) ∧
      ((M.of s).ready = true → a + n ≤ memEnd → 0 < n → (∀ l ∈ linesOf a n, (M.of s).reach none (max l a) = true) →
        Does (.hostBar2Read offset n) s fun m => m.send (.completion (m.bytes a n) ((linesOf a n).map m.marked))))) ∧
  (∀ (h : HeldRequest) (rest : List HeldRequest) (s : State), (M.of s).live = true → (M.of s).dev.host.held = h :: rest →
    ((∃ n, h.req = .read n) → Does .heldDomainTimeout s fun m => (m.modHost fun p =>
      { p with held := rest, caReads := min (p.caReads + 1) 0xFFFF }).send .completerAbort) ∧
    ((∃ d p, h.req = .write d p) → Does .heldDomainTimeout s fun m => (m.modHost fun p =>
      { p with held := rest, discarded := min (p.discarded + 1) 0xFFFF }).logFault 0x1002 0 h.offset 0 clkMgmt))

/-- R344, R351: a PCIe AtomicOp on memory returns the old value; an unpoisoned unit takes the sum (0), the operand (1), or the
operand where the old value is the compare value (2); a poisoned one keeps its value and answers EP. A misaligned one completes
with Completer Abort. -/
def Obligations.HostAtomicsAnswer : Prop :=
  ∀ (offset : Nat) (op : Fin 3) (wide : Bool) (x c : W64) (s : State), (M.of s).hostUp = true → (M.of s).ready = true →
    (M.of s).mirrorRole ≠ 2 →
    let k := if wide then 8 else 4
    let a := (M.of s).dev.host.b2Base.toNat + offset
    let old := (M.of s).num a k
    offset + k ≤ 2 ^ (M.of s).dev.host.b2Log2 → a + k ≤ memEnd →
    (M.of s).reqHeld { offset, window := a, req := .atomic op wide x.toNat c.toNat } = false →
    (∀ l ∈ linesOf a k, (M.of s).reach none (max l a) = true) →
    (a % k ≠ 0 → Does (.hostAtomic offset op wide x c) s fun m =>
      (m.modHost fun h => { h with caReads := min (h.caReads + 1) 0xFFFF }).send .completerAbort) ∧
    (a % k = 0 → (M.of s).marked a = true → Does (.hostAtomic offset op wide x c) s fun m =>
      m.send (.completion (bytesOf old k) [true])) ∧
    (a % k = 0 → (M.of s).marked a = false → Does (.hostAtomic offset op wide x c) s fun m =>
      let v := match op with
        | 0 => (old + x.toNat) % 2 ^ (8 * k)
        | 1 => x.toNat % 2 ^ (8 * k)
        | _ => if old = c.toNat % 2 ^ (8 * k) then x.toNat % 2 ^ (8 * k) else old
      (((m.closeWindows a k).storeMask a ((bytesOf v k).map fun b => (some b, false)))).send (.completion (bytesOf old k) [false]))

/-- R354: a Function Level Reset returns the host port's registers, IRQ_MODE, MSI-X and the BAR2 size to their reset values; the
mailbox stands. Every active chain is aborted: where one alone is active, it ends as an abort that has latched ends it. -/
def Obligations.FunctionLevelResetClearsThePort : Prop :=
  let port (h : HostPort) : HostPort := { HostPort.zero with
    mboxBusy := h.mboxBusy, mboxDone := h.mboxDone, mboxOverrun := h.mboxOverrun, mboxIrqEn := h.mboxIrqEn
    mboxLastSeq := h.mboxLastSeq, mboxReq := h.mboxReq, mboxRep := h.mboxRep }
  (∀ s : State, (M.of s).hostUp = true → (∀ i : Fin 24, ((M.of s).core i).active = 0) →
    Does .functionLevelReset s fun m => m.modHost port) ∧
  (∀ (i : Fin 24) (x : Fin 16) (s : State), (M.of s).hostUp = true → (∀ j : Fin 24, j ≠ i → ((M.of s).core j).active = 0) →
    ((M.of s).core i).active = BitVec.ofNat 16 (2 ^ x.val) → ((M.of s).core i).current = x → ((M.of s).core i).run.isSome = true →
    (∀ sl, ((M.of s).core i).run = some sl → sl.kind ≠ kSync) →
    Does .functionLevelReset s fun m => ((m.stopSlots i .hostAbort).modCore i fun c =>
      { c with abortCtx := x, abortRes := 1, abortLatched := true }).modHost port)

/-- R370, R371: MBOX.SUBMIT queues the PDU of the request buffer and sets BUSY, or sets OVERRUN while BUSY; MBOX.CTRL clears DONE
and OVERRUN. -/
def Obligations.MailboxTakesOneRequest : Prop :=
  (∀ (len : Nat) (s : State), (M.of s).hostUp = true → (M.of s).dev.host.mboxBusy = false →
    len = natOf [Tab.get (M.of s).dev.host.mboxReq 0 6, Tab.get (M.of s).dev.host.mboxReq 0 7] → 16 ≤ len → len ≤ 0x7000 →
    Ends .mboxSubmit s fun m' =>
      m'.dev.host = { (M.of s).dev.host with mboxBusy := true } ∧
      m'.dev.led = { (M.of s).dev.led with queue := (M.of s).dev.led.queue ++
        [{ party := .mailbox, pdu := (List.range len).map fun k => Tab.get (M.of s).dev.host.mboxReq 0 k }] } ∧
      (M.of s).SameObjs m' [] ∧ (M.of s).SameCores m' []) ∧
  (∀ s : State, (M.of s).hostUp = true → (M.of s).dev.host.mboxBusy = true → Ends .mboxSubmit s fun m' =>
      m'.dev = { (M.of s).dev with host := { (M.of s).dev.host with mboxOverrun := true } }) ∧
  (∀ (irqEn : Bool) (s : State), (M.of s).hostUp = true → Ends (.mboxClear irqEn) s fun m' =>
      m'.dev = { (M.of s).dev with host := { (M.of s).dev.host with
        mboxDone := false, mboxOverrun := false, mboxIrqEn := irqEn } })

/-- R125, R126, R132, R137: a MATRIX, SCORE, SOFTMAX, COMBINE, GRADIENT_FOLD or VECTOR manifest in the ready slot that may run
moves to the run slot and is done there, with the PROGRESS of its last iteration. Beside its counts, its merges, its Cistern and
memory nothing of the device changes (on a secondary, the fault log). -/
def Obligations.ManifestsRunToTheirEnd : Prop :=
  ∀ (core : Fin 24) (sl : Slot) (s : State),
    let done (c : Instr) : Prop := Ends c s fun m' => (M.of s).StandsDone m' core sl
    ((M.of s).MayRun core sl kMatrix → done (.matrix core)) ∧
    ((M.of s).MayRun core sl kScore → done (.score core)) ∧
    ((M.of s).MayRun core sl kSoftmax → done (.softmax core)) ∧
    ((M.of s).MayRun core sl kExchange → xop sl.words = 2 → done (.combine core)) ∧
    ((M.of s).MayRun core sl kFold → done (.gradientFold core)) ∧
    ((M.of s).MayRun core sl kVector → ∀ c ∈ [(0, Instr.convert core), (1, .vectorAdd core), (2, .vectorSub core),
      (3, .vectorMul core), (4, .vectorMax core), (5, .vectorMin core), (6, .axpb core), (7, .funcOp core), (8, .rmsnorm core),
      (9, .layernorm core), (10, .rope core), (11, .routeTop2 core), (12, .amax core)], vop sl.words = c.1 → done c.2)

/-- R169, R69, R229: the rows that the elementwise VECTOR operations write, element by element: a, a + b, a - b, a × b, the
greater, the lesser, and a × imm0 + imm1 in one rounding. Of zeros of both signs, MAX gives +0 and MIN gives -0. -/
def Obligations.VectorElementsFollowTheTable : Prop :=
  (∀ (core : Fin 24) (s : State),
    let rows (op : Nat) (f : Job → Elem → Elem → Elem) : M → M := fun m =>
      m.runKind core kVector (fun ws => vop ws == op) fun j => j.each fun j k =>
        j.vecOut k ((j.vecA k).zipWith (f j) (j.vecB k))
    let marked (f : Val → Val → Val) (_ : Job) (a b : Elem) : Elem := ⟨f a.val b.val, a.poison || b.poison⟩
    Does (.convert core) s (fun m => m.runKind core kVector (fun ws => vop ws == 0) fun j => j.each fun j k => j.vecOut k (j.vecA k)) ∧
    Does (.vectorAdd core) s (rows 1 (marked fun a b => finalF32 (Val.add a b))) ∧
    Does (.vectorMul core) s (rows 3 (marked fun a b => finalF32 (Val.mul a b))) ∧
    Does (.vectorMax core) s (rows 4 (marked maxV)) ∧
    Does (.vectorMin core) s (rows 5 (marked minV)) ∧
    Does (.axpb core) s (fun m => m.runKind core kVector (fun ws => vop ws == 6) fun j => j.each fun j k =>
      j.vecOut k ((j.vecA k).map fun a =>
        ⟨finalF32 (Val.add (Val.mul a.val (imm0 j.s.words)) (imm1 j.s.words)), a.poison⟩))) ∧
  (∀ (n p : Bool) (a b : Frac), a.isZero = true → b.isZero = true →
    BinOp.sub.apply (.fin n a) (.fin p b) = finalF32 (Val.add (.fin n a) (Val.neg (.fin p b))) ∧
    maxV (.fin n a) (.fin p b) = .fin (n && p) Frac.zero ∧ minV (.fin n a) (.fin p b) = .fin (n || p) Frac.zero)

/-- R36, whole: no conversion into INT8 or INT4 gives the code of -128 or -8; a magnitude that rounds past 127 or 7 gives the code
of ±127 or ±7. -/
def Obligations.IntegerConversionIsSymmetric : Prop :=
  (∀ (e8m0 : Bool) (c : RCtl) (floorClip : Bool) (r : Nat) (q : Val),
    -127 ≤ signedOf 8 (writeElem .int8 e8m0 c floorClip r q).code ∧ signedOf 8 (writeElem .int8 e8m0 c floorClip r q).code ≤ 127 ∧
    -7 ≤ signedOf 4 (writeElem .int4 e8m0 c floorClip r q).code ∧ signedOf 4 (writeElem .int4 e8m0 c floorClip r q).code ≤ 7) ∧
  (∀ (e8m0 : Bool) (c : RCtl) (r : Nat) (neg : Bool) (mag : Frac),
    (127 < roundInt c.mode neg r (Frac.shift mag (if e8m0 then 6 else 0)) →
      signedOf 8 (writeElem .int8 e8m0 c false r (.fin neg mag)).code = if neg then -127 else 127) ∧
    (7 < roundInt c.mode neg r (Frac.shift mag 0) →
      signedOf 4 (writeElem .int4 e8m0 c false r (.fin neg mag)).code = if neg then -7 else 7))

/-- R43, whole: the E8M0 scale of pattern E is 2^(E - 127); 0xFF is NaN; no pattern is zero. -/
def Obligations.PowerOfTwoScales : Prop :=
  ∀ b : Nat,
    (b % 256 < 127 → ScaleFmt.e8m0.decode b = .pos ⟨1, 2 ^ (127 - b % 256)⟩) ∧
    (127 ≤ b % 256 → b % 256 ≤ 0xFE → ScaleFmt.e8m0.decode b = .pos ⟨((2 ^ (b % 256 - 127) : Nat) : Int), 1⟩) ∧
    (b % 256 = 0xFF → ScaleFmt.e8m0.decode b = .nan false) ∧ ScaleFmt.e8m0.decode b ≠ .zero

/-- R33, whole: in FP8 E4M3 only 0x7F and 0xFF are NaN, none is an infinity, and exponent 0xF with mantissa 0 to 6 is an ordinary
number; in FP6 E3M2, FP6 E2M3 and FP4 E2M1 every pattern is finite, and the largest exponent is ordinary. -/
def Obligations.SmallFloatPatterns : Prop :=
  ∀ code : Nat,
    ((ElemFmt.e4m3.decode false code).isNaN = true ↔ code % 128 = 0x7F) ∧ (ElemFmt.e4m3.decode false code).isInf = false ∧
    (code / 8 % 16 = 15 → code % 8 < 7 →
      ElemFmt.e4m3.decode false code = .fin (code / 128 % 2 == 1) (Frac.shift (Frac.ofNat (8 + code % 8)) 5)) ∧
    (∀ f ∈ [ElemFmt.e3m2, .e2m3, .e2m1], ∃ n q, f.decode false code = .fin n q) ∧
    (code / 4 % 8 = 7 → ElemFmt.e3m2.decode false code = .fin (code / 32 % 2 == 1) (Frac.shift (Frac.ofNat (4 + code % 4)) 2)) ∧
    (code / 8 % 4 = 3 → ElemFmt.e2m3.decode false code = .fin (code / 32 % 2 == 1) (Frac.shift (Frac.ofNat (8 + code % 8)) (-1))) ∧
    (code / 2 % 4 = 3 → ElemFmt.e2m1.decode false code = .fin (code / 8 % 2 == 1) (Frac.shift (Frac.ofNat (2 + code % 2)) 1))

/-- R189, R190, R191: a convoy that may run gives each selected layer quadrant its bank work, one entry per segment and iteration,
with the banks it selects and both buffer halves empty, and waits in the run slot for the banks. Beside memory, its counts and
the other layer quadrants' nothing changes. -/
def Obligations.ConvoysGoToTheBanks : Prop :=
  ∀ (core : Fin 24) (sl : Slot) (s : State), (M.of s).MayRun core sl kConvoy →
    ∀ c ∈ [(0, Instr.convoyMac core), (1, .convoyAdd core), (2, .convoyMax core), (3, .convoyCmp core)], nbuOp sl.words = c.1 →
    Ends c.2 s fun m' =>
      (m'.core core).ready = none ∧
      (∃ tr ps ex mg, (m'.core core).run = some { sl with
        phase := .waiting, progress := totalIters sl.words, trCount := tr, poisonCount := ps, excCount := ex, merges := mg }) ∧
      (∀ l ∈ cLqs sl.words, m'.lq (4 * core + l) = { (M.of s).lq (4 * core + l) with
        work := convoyWork sl.words, arrived := [], halves := 0, readyAt := none, firstBank := cFirst sl.words
        banks := cBanks sl.words }) ∧
      (M.of s).SameLqs m' ((cLqs sl.words).map (4 * core.val + ·)) ∧ (M.of s).SameObjs m' [] ∧ (M.of s).SameCores m' [core] ∧
      (M.of s).SameLinks m' []

/-- R172, R209, R224: a KV_APPEND that may run stores its vectors and gives every layer quadrant of the column in which it has bank
work that work as one step; it waits for it, or is done where there is none. -/
def Obligations.AppendsGoToTheBanks : Prop :=
  ∀ (core : Fin 24) (sl : Slot) (s : State), (M.of s).MayRun core sl kKv →
    let work (l : Nat) : List Nat :=
      ((List.range (totalIters sl.words)).map fun k => (M.of s).kvWork sl.words (4 * core + l) k).filter (0 < ·)
    Ends (.kvAppend core) s fun m' =>
      (m'.core core).ready = none ∧
      (∃ tr ps ex mg, (m'.core core).run = some { sl with
        phase := if (List.range 4).all (fun l => (work l).isEmpty) then .done else .waiting
        progress := totalIters sl.words, trCount := tr, poisonCount := ps, excCount := ex, merges := mg }) ∧
      (∀ l : Fin 4, (m'.lq (4 * core + l)).work = if (work l).isEmpty then ((M.of s).lq (4 * core + l)).work else [(work l).foldl (· + ·) 0]) ∧
      (M.of s).SameLqs m' [4 * core.val, 4 * core.val + 1, 4 * core.val + 2, 4 * core.val + 3] ∧
      (M.of s).SameObjs m' [] ∧ (M.of s).SameCores m' [core] ∧ (M.of s).SameLinks m' []

/-- R173, R174, R314: a MOVE or transposing MOVE between places of this device is done at once. One with an end on another device
stands in the run slot with the requests it waits for, and leaves every object, every other core and the layer quadrants alone. -/
def Obligations.MovesRun : Prop :=
  ∀ (core : Fin 24) (sl : Slot) (s : State), (M.of s).MayRun core sl kMove →
    ∀ c ∈ [(false, Instr.move core), (true, .transposingMove core)], mvT sl.words = c.1 →
    ((∀ i, i < 2 → regSpace sl.words i = 2 → regBase sl.words i / 2 ^ 48 = (M.of s).deviceId) →
      Ends c.2 s fun m' => (M.of s).StandsDone m' core sl) ∧
    Ends c.2 s (fun m' => (m'.core core).ready = none ∧
      (∃ ph tr ps ex mg rq, (m'.core core).run = some { sl with
        phase := ph, progress := totalIters sl.words, trCount := tr, poisonCount := ps, excCount := ex, merges := mg
        pendingReqs := rq }) ∧
      (M.of s).SameObjs m' [] ∧ (M.of s).SameCores m' [core] ∧ (M.of s).SameLqs m' [])

/-- R116, R175: a SEND or CIRCULATE puts its transfers, of at most 256 bytes each and in order, at its core's ring stop and waits for
as many ends as there are transfers. -/
def Obligations.RingSendersWait : Prop :=
  ∀ (core : Fin 24) (sl : Slot) (s : State), (M.of s).MayRun core sl kExchange →
    ∀ c ∈ [(0, some (wf sl.words 8 5 4), Instr.send core), (1, none, .circulate core)], xop sl.words = c.1 →
    Ends c.2.2 s fun m' =>
      let xs := Tab.get m'.dev.ringOut [] core
      xs.length = totalIters sl.words * ((xU sl.words + 255) / 256) ∧
      (∀ x ∈ xs, x.sender = core ∧ x.manifest = sl.addr ∧ x.dest = c.2.1 ∧ x.returning = false ∧ x.at_ = core ∧ x.data.length ≤ 256) ∧
      (m'.core core).ready = none ∧
      (∃ ps, (m'.core core).run = some { sl with
        phase := .waiting, progress := totalIters sl.words, pendingReqs := xs.length, poisonCount := ps }) ∧
      (∀ i, i ≠ core.val → Tab.get m'.dev.ringOut [] i = Tab.get (M.of s).dev.ringOut [] i) ∧
      (M.of s).SameObjs m' [] ∧ (M.of s).SameCores m' [core] ∧ (M.of s).SameLinks m' [] ∧ (M.of s).SameLqs m' []

/-- R116, R117, R118: the first waiting transfer of a stop goes on the ring once every stop it is for has a place free, and takes
that place. A transfer for the stop it reaches is written into that core's Waystation, gives its place back and answers its
sender; one for a later stop goes on; at an absent stop it turns round; back at its sender it ends, TARGET_RESET where it turned
round. A circulated one is written at every present stop and goes on. -/
def Obligations.RingTransfersTravel : Prop :=
  (∀ (core : Fin 24) (x : RingXfer) (rest : List RingXfer) (s : State), (M.of s).live = true → (M.of s).fabricRuns = true →
    Tab.get (M.of s).dev.ringOut [] core = x :: rest →
    (∀ t ∈ (M.of s).ringTargets x, Tab.get (M.of s).dev.ringCredits 0 t < 128) →
    Does (.ringInject core) s fun m =>
      let m := ((M.of s).ringTargets x).foldl (fun (m : M) t => { m with dev := { m.dev with
        ringCredits := Tab.put m.dev.ringCredits t (Tab.get m.dev.ringCredits 0 t + 1) } }) m
      { m with dev := { m.dev with ring := m.dev.ring ++ [x], ringOut := Tab.put m.dev.ringOut core rest } }) ∧
  (∀ (core : Fin 24) (x : RingXfer) (s : State), (M.of s).live = true → (M.of s).fabricRuns = true →
    (M.of s).dev.ring.find? (fun y => nextStop y.at_ == core.val) = some x →
    let off (m : M) : M := { m with dev := { m.dev with ring := m.dev.ring.erase x } }
    let on (m : M) (x : RingXfer) : M := { m with dev := { m.dev with ring := m.dev.ring ++ [{ x with at_ := core }] } }
    (core.val = x.sender → Does (.ringTransferArrive core) s fun m => (off m).ringEnd x (if x.returning then respTarget else respOk)) ∧
    (core.val ≠ x.sender → x.returning = true → Does (.ringTransferArrive core) s fun m => on (off m) x) ∧
    (core.val ≠ x.sender → x.returning = false → (M.of s).coreAbsent core = true → x.dest = some 1 →
      Does (.ringTransferArrive core) s fun m => (on (off m) { x with returning := true }).ringGive core) ∧
    (core.val ≠ x.sender → x.returning = false → ∀ h, x.dest = some (h + 2) →
      Does (.ringTransferArrive core) s fun m => on (off m) { x with dest := some (h + 1) }) ∧
    (core.val ≠ x.sender → x.returning = false → x.dest = none → (M.of s).coreAbsent core = true →
      Does (.ringTransferArrive core) s fun m => on (off m) x) ∧
    (core.val ≠ x.sender → x.returning = false → (M.of s).coreAbsent core = false → (x.dest = some 1 ∨ x.dest = none) → s.sound →
      Ends (.ringTransferArrive core) s fun m' =>
        (∀ k, k < x.data.length → m'.byte (wsBase core + x.wsOff % wsSize + k) = x.data.getD k 0) ∧
        (M.of s).SameOutside m' (wsBase core + x.wsOff % wsSize) x.data.length ∧
        m'.dev.ring = (M.of s).dev.ring.erase x ++ (if x.dest = none then [{ x with at_ := core.val }] else []) ∧
        Tab.get m'.dev.ringCredits 0 core = Tab.get (M.of s).dev.ringCredits 0 core - 1 ∧
        (M.of s).SameObjs m' [] ∧ (M.of s).SameCores m' (if x.dest = none then [] else [x.sender]) ∧ (M.of s).SameLinks m' []))

/-- R324, R325, R326, R327: a GATHER, BROADCAST or REDUCE_CHILDREN that may run. One whose collective has failed already is done
with TARGET_RESET counted. One that has sent all it sends and received all it receives is done, with the PROGRESS of its last
iteration, and its place is free. One that still owes a contribution while no member is ready for it waits. -/
def Obligations.CollectivesRun : Prop :=
  ∀ (core : Fin 24) (sl : Slot) (s : State), (M.of s).MayRun core sl kExchange → xop sl.words = 3 →
    ∀ p ∈ [(0, Instr.gather core), (1, .broadcast core), (2, .reduceChildren core)], collCop sl.words = p.1 →
    let ws := sl.words
    let n := (M.of s).collSize (collGroup ws)
    let r := ((M.of s).collRank (collGroup ws)).getD 0
    let ends (ph : Phase) (pr tr : Nat) (more : M → Prop) : Prop := Ends p.2 s fun m' =>
      (m'.core core).ready = none ∧
      (∃ ps ex, (m'.core core).run = some { sl with
        phase := ph, progress := pr, trCount := sl.trCount + tr, poisonCount := ps, excCount := ex }) ∧
      more m' ∧ (M.of s).SameCores m' [core] ∧ (M.of s).SameLinks m' [] ∧ (M.of s).SameLqs m' [] ∧ (M.of s).SameObjs m' []
    (Tab.find? (M.of s).dev.fab.colls core = none → ends .done 0 1 fun m' => m'.dev.fab = (M.of s).dev.fab) ∧
    (∀ c, Tab.find? (M.of s).dev.fab.colls core = some c →
      let formed := if p.1 = 2 then ((List.range (totalIters ws)).foldl (fun c k => Coll.form ws r k (planOf ws).s (r, r) c) (c, 0)).1 else c
      ((collReceivers ws n r).all c.sentTo.contains = true →
        (∀ q ∈ collSenders ws n r, ∀ x, x < collMsgs ws → c.got.contains (collKey q x) = true) →
        (p.1 = 2 → ∀ k, k < totalIters ws → (formed.node ws r ((planOf ws).gives r) k).isSome = true) →
        ∃ tr, ends .done (totalIters ws) tr fun m' => Tab.find? m'.dev.fab.colls core = none) ∧
      (c.readyFrom = [] → (collReceivers ws n r).all c.sentTo.contains = false →
        ends .waiting 0 0 fun m' => Tab.find? m'.dev.fab.colls core = some formed))

/-- R473, R477, R478: BARRIER and XBARRIER mark their core's arrival and wait while a member of the group is missing; the last
arrival of a group in which nobody waits with XBARRIER releases every waiter and advances GEN modulo 4,096. WAIT takes a set flag
and is done, and waits for a clear one. A SIGNAL to this device is done (its flag is set at its commit). -/
def Obligations.SyncsRun : Prop :=
  ∀ (core : Fin 24) (sl : Slot) (s : State), (M.of s).MayRun core sl kSync →
    let g := wf sl.words 8 7 4
    let f := wf sl.words 8 17 8
    let arr := setBit (Tab.get (M.of s).dev.fab.arrivals 0 g) core true
    let stands (m' : M) (ph : Phase) (t : Nat) : Prop := (m'.core core).ready = none ∧
      (m'.core core).run = some { sl with phase := ph, progress := 0, since := t }
    (∀ p ∈ [(0, Instr.barrier core), (3, .xbarrier core)], syncOp sl.words = p.1 →
      (∃ i ∈ (M.of s).members g, arr.testBit i = false) → Ends p.2 s fun m' =>
        stands m' .waiting (M.of s).dev.readyCtr ∧ m'.dev.fab = { (M.of s).dev.fab with
          arrivals := Tab.put (M.of s).dev.fab.arrivals g arr } ∧
        (M.of s).SameObjs m' [] ∧ (M.of s).SameCores m' [core] ∧ (M.of s).SameLinks m' [] ∧ (M.of s).SameLqs m' []) ∧
    (syncOp sl.words = 0 → (∀ i ∈ (M.of s).members g, arr.testBit i = true) → (M.of s).dev.fab.xlocal.contains g = false →
      (∀ i, i < 24 → ∀ q ∈ ((M.of s).core i).waiters, q.syncWaits (isXBarrierOf g) = false) → Ends (.barrier core) s fun m' =>
        stands m' .done (M.of s).dev.readyCtr ∧
        m'.objFld 0x8050 (g + 1) 35 24 = ((M.of s).objFld 0x8050 (g + 1) 35 24 + 1) % 4096 ∧
        Tab.get m'.dev.fab.arrivals 0 g = 0 ∧
        (∀ i, i ≠ core.val → m'.core i = ((M.of s).core i).mapWaiters (fun q => q.syncWaits (isBarrierOf g)) fun q =>
          { q with phase := .done }) ∧
        (M.of s).SameObjs m' [(0x8050, g + 1)] ∧ (M.of s).SameLinks m' [] ∧ (M.of s).SameLqs m' []) ∧
    (syncOp sl.words = 1 → ((M.of s).core core).flags.toNat.testBit f = true → Ends (.waitFlag core) s fun m' =>
        stands m' .done sl.since ∧ (m'.core core).flags = BitVec.ofNat 1024 (setBit ((M.of s).core core).flags.toNat f false) ∧
        (M.of s).SameObjs m' [] ∧ (M.of s).SameCores m' [core]) ∧
    (syncOp sl.words = 1 → ((M.of s).core core).flags.toNat.testBit f = false → Ends (.waitFlag core) s fun m' =>
        stands m' .waiting (M.of s).dev.readyCtr ∧ (m'.core core).flags = ((M.of s).core core).flags ∧
        (M.of s).SameObjs m' [] ∧ (M.of s).SameCores m' [core]) ∧
    (syncOp sl.words = 2 → signalDevice sl.words = (M.of s).deviceId → Ends (.signal core) s fun m' =>
        stands m' .done sl.since ∧ (m'.core core).flags = ((M.of s).core core).flags ∧
        (M.of s).SameObjs m' [] ∧ (M.of s).SameCores m' [core])

/-- R145, R146, R179, R180, R181, R502: TABLE_LOAD, BRANCH and CHECKPOINT have no iterations and are done with PROGRESS 0. TABLE_LOAD
fills its table's shadow copy with as many entries as it names. BRANCH sets the pointer its chain follows: that of the target its
router word selects, the header's where the index is not among its targets, or 0 where the word is poisoned. CHECKPOINT takes one
DEVSEQ (no mirror range on this device being discarded). -/
def Obligations.ControlManifestsRun : Prop :=
  ∀ (core : Fin 24) (sl : Slot) (s : State),
    let ws := sl.words
    let stands (m' : M) (t : Option Nat) (d : Bool) : Prop := (m'.core core).ready = none ∧
      (∃ tr ps, (m'.core core).run = some { sl with
        phase := .done, progress := 0, trCount := tr, poisonCount := ps, target := t, branchDefault := d }) ∧
      (M.of s).SameObjs m' [] ∧ (M.of s).SameCores m' [core] ∧ (M.of s).SameLinks m' [] ∧ (M.of s).SameLqs m' []
    ((M.of s).MayRun core sl kTable → Ends (.tableLoad core) s fun m' =>
      stands m' sl.target sl.branchDefault ∧
      (Tab.get (m'.ctx core sl.ctx).shadow [] (tableKey ws)).map (·.1) = List.range (tbCount ws) ∧ m'.dev.objs = (M.of s).dev.objs) ∧
    ((M.of s).MayRun core sl kBranch → Ends (.branch core) s fun m' =>
      stands m' (some 0) sl.branchDefault ∨
      ∃ index, (index = 64 ∨ index < brCount ws) ∧ stands m' (some (branchPointer (M.of s).deviceId ws index)) (index == 64)) ∧
    ((M.of s).MayRun core sl kCheckpoint → Ends (.checkpoint core) s fun m' =>
      stands m' sl.target sl.branchDefault ∧ ((M.of s).mirrorRole ≠ 2 → m'.dev.devSeq = (M.of s).dev.devSeq + 1))

/-- R324, R325, R327: COLL_READY of a collective that this device does not know yet is kept, and otherwise tells its sender to be
ready; COLL_DATA of a message not received yet is recorded, and in a GATHER or a BROADCAST its bytes go to their place in A1; after
either the collective goes on. One that comes back unserved, and COLL_TIMEOUT, end the collective: its manifest is done with
TARGET_RESET counted once more. -/
def Obligations.CollectiveMessagesAct : Prop :=
  (∀ (l : Fin 32) (x : Msg) (s : State), (M.of s).Arrives l x →
    let g := bitsAt x.addr 36 4
    let id := bitsAt x.addr 40 8
    let q := bitsAt x.addr 20 16
    let known := (M.of s).dev.fab.colls.find? fun e => e.2.group == g && e.2.id == id
    (x.op = opCollReady → x.resp = 0 → known = none → Does (.collReady l x) s fun m =>
      (m.consumeMsg l x).modFab fun f => { f with earlyReady := addOnce f.earlyReady ((g * 256 + id) * 65536 + q) }) ∧
    (∀ i c, known = some (i, c) →
      (x.op = opCollReady → x.resp = 0 → Does (.collReady l x) s fun m =>
        ((m.consumeMsg l x).modColl i fun c => { c with readyFrom := addOnce c.readyFrom q }).collAdvance i) ∧
      (x.op = opCollReady → x.resp ≠ 0 → Does (.collReady l x) s fun m => (m.consumeMsg l x).collFail i) ∧
      (x.op = opCollData → x.resp ≠ 0 → Does (.collData l x) s fun m => (m.consumeMsg l x).collFail i) ∧
      (∀ sl r, x.op = opCollData → x.resp = 0 → (M.of s).collSlot i = some sl → (M.of s).rankOf g x.src = some r →
        let index := bitsAt x.addr 0 20
        index < collMsgs sl.words → c.got.contains (collKey r index) = false → collCop sl.words < 2 →
        Does (.collData l x) s fun m =>
          let m := (m.consumeMsg l x).modColl i fun c => { c with got := c.got ++ [collKey r index] }
          (m.collPlace i sl (index / unitMsgs sl.words)
            ((if collCop sl.words = 0 then r else 0) * xU sl.words + 1024 * (index % unitMsgs sl.words)) (flatUnits x.data)).collAdvance i))) ∧
  (∀ (core : Fin 24) (s : State), (M.of s).live = true → (Tab.find? (M.of s).dev.fab.colls core).isSome = true →
    Ends (.collTimeout core) s fun m' =>
      m'.core core = { (M.of s).core core with run := ((M.of s).core core).run.map fun t =>
        if t.kind == kExchange && t.phase == .waiting then { t with trCount := t.trCount + 1, phase := .done } else t } ∧
      m'.dev.fab = { (M.of s).dev.fab with colls := Tab.erase (M.of s).dev.fab.colls core } ∧
      (M.of s).SameObjs m' [] ∧ (M.of s).SameCores m' [core] ∧ (M.of s).SameLinks m' [] ∧ (M.of s).SameLqs m' [])

/-- R469, R470, R471: with rivals on the core, the end of a quantum is noted, and a waiting SYNC of the current context is parked with
the manifest in the ready slot; without rivals it is noted only. A switch goes to the next eligible context: its parked manifests
resume, or its next manifest is fetched. A parked context may be switched to once its SYNC is done. -/
def Obligations.ContextsTakeTurns : Prop :=
  ∀ (core : Fin 24) (s : State), (M.of s).coreRuns core = true →
    let c := (M.of s).core core
    let r := c.ctx c.current
    (bit16 c.active c.current = true → c.rivals = [] → Does (.quantumExpiry core) s fun m =>
      m.modCore core fun c => { c with quantumUp := true }) ∧
    (∀ sl, bit16 c.active c.current = true → c.rivals ≠ [] → c.disabling = none → bit16 c.closing c.current = false →
      c.run = some sl → sl.kind = kSync → sl.phase = .waiting → sl.stop = none → syncOp sl.words ≠ 2 →
      Ends (.quantumExpiry core) s fun m' =>
        m'.core core = { c.setCtx c.current { r with parkedRun := some sl, parkedReady := c.ready, parkReady := false } with
          run := none, ready := none, quantumUp := true } ∧
        (M.of s).SameObjs m' [] ∧ (M.of s).SameCores m' [core] ∧ (M.of s).SameLinks m' [] ∧ (M.of s).SameLqs m' []) ∧
    (∀ x, c.run = none → c.ready = none → c.wait = none → c.disabling = none → c.quantumUp = true → c.nextContext = some x →
      x ≠ c.current → Ends (.contextSwitch core) s fun m' =>
        (m'.core core).current = x ∧ (m'.core core).quantumUp = false ∧
        ((c.ctx x).parkedRun = none → (m'.core core).run = none ∧ (m'.core core).ctxs = c.ctxs ∧
          (m'.core core).fetch = if (c.ctx x).nextPtr = 0 then none else some (c.ctx x).nextPtr.toNat) ∧
        (∀ sl, (c.ctx x).parkedRun = some sl → (m'.core core).run = some sl ∧ (m'.core core).ready = (c.ctx x).parkedReady ∧
          m'.ctx core x = { c.ctx x with parkedRun := none, parkedReady := none, parkReady := false } ∧
          ∀ y, y ≠ x → m'.ctx core y = c.ctx y) ∧
        (M.of s).SameObjs m' [] ∧ (M.of s).SameCores m' [core] ∧ (M.of s).SameLinks m' [] ∧ (M.of s).SameLqs m' []) ∧
    Ends (.parkedResume core) s fun m' =>
      (∀ x, m'.ctx core x = { c.ctx x with
        parkReady := match (c.ctx x).parkedRun with | some sl => sl.phase == .done | none => (c.ctx x).parkReady }) ∧
      (m'.core core).run = c.run ∧ (m'.core core).ready = c.ready ∧
      (M.of s).SameObjs m' [] ∧ (M.of s).SameCores m' [core] ∧ (M.of s).SameLinks m' [] ∧ (M.of s).SameLqs m' []

/-- R464: the owner opens a context on a core that is present and not fenced where the context has an admitted slice of memory there:
its registers read zero. Closing one whose chain is idle there, that nothing parks and that does not own the Cistern, takes
effect at once. -/
def Obligations.ContextsOpenAndClose : Prop :=
  ∀ (p : Party) (core : Fin 24) (x : Fin 16) (s : State), (M.of s).Serves p → (M.of s).obj 0x8001 (core + 1) < 2 ^ 16 →
    ((M.of s).objBit 0x8001 (core + 1) x = false → (M.of s).fusedOff core = false → (M.of s).fenced core = false →
      (M.of s).objFld (0x8030 + x) (core + 1) 9 0 ≤ (M.of s).objFld (0x8030 + x) (core + 1) 25 16 →
      (M.of s).obj (0x8030 + x) (core + 1) ≠ 0 →
      Applies (.contextOpen p core x) s 0x8001 (core + 1) (setBit ((M.of s).obj 0x8001 (core + 1)) x true) fun m =>
        (m.modCore core fun c => c.setCtx x CtxRegs.zero).setObjBit 0x8001 (core + 1) x true) ∧
    ((M.of s).objBit 0x8001 (core + 1) x = true → bit16 ((M.of s).core core).active x = false →
      ((M.of s).ctx core x).parkedRun = none → ((M.of s).core core).run = none → ((M.of s).core core).ready = none →
      (M.of s).ownsCistern core x = false →
      Applies (.contextClose p core x) s 0x8001 (core + 1) (setBit ((M.of s).obj 0x8001 (core + 1)) x false) fun m =>
        ((m.modCore core fun c => { c with closing := setBit16 c.closing x true }).setObjBit 0x8001 (core + 1) x false).modCore
          core fun c => { c with closing := setBit16 c.closing x false })

/-- R191, R192, R193, R204: a segment that has a free buffer half is noted group by group, and once every selected group holds it a
step may be granted. The tier's longest-waiting step is granted where the applied budget has room, for as many bank cycles as
STEP_MAX and its work allow. At its end, with no refresh owed and no access held, the work done is gone. -/
def Obligations.BankStepsFollowTheirSegments : Prop :=
  (∀ (n : Fin 96) (g : Fin 128) (s : State), (M.of s).banksRun n = true →
    let q := (M.of s).lq n
    g.val ∈ q.groups → g.val ∉ q.arrived → q.halves < min 2 q.work.length →
    (q.groups.all (q.arrived ++ [g.val]).contains = false →
      Does (.segmentArrive n g) s fun m => m.modLq n fun q => { q with arrived := q.arrived ++ [g.val] }) ∧
    (q.groups.all (q.arrived ++ [g.val]).contains = true → Ends (.segmentArrive n g) s fun m' =>
      m'.lq n = { q with
        arrived := [], halves := q.halves + 1
        readyAt := if q.stepping.isSome || q.readyAt.isSome then q.readyAt else some (M.of s).dev.readyCtr } ∧
      (M.of s).SameLqs m' [n] ∧ (M.of s).SameObjs m' [] ∧ (M.of s).SameCores m' [])) ∧
  (∀ (t : Fin 6) (n : Nat) (s : State), (M.of s).live = true → (M.of s).domUp (24 + t) = true → (M.of s).tierRuns t = true →
    (M.of s).firstReady t = some n →
    let q := (M.of s).lq n
    let busy := (((tierLqs t).filter fun k => ((M.of s).lq k).stepping.isSome).map fun k => ((M.of s).lq k).banks).foldl (· + ·) 0
    q.refreshing = false → (M.of s).objFld 0x5021 (n + 1) 3 0 ≤ (M.of s).obj 0x5020 1 →
    q.banks + busy ≤ (M.of s).objFld 0x3141 (t + 1) 15 0 →
    Does (.stepGrant t) s fun m => m.modLq n fun q => { q with
      readyAt := none, stepping := some (min (stepMax (bankMHz (m.tierState t))) (q.work.headD 0)) }) ∧
  (∀ (n : Fin 96) (c w : Nat) (rest : List Nat) (s : State), (M.of s).live = true → (M.of s).tierRuns (tierOf (n / 4)) = true →
    let q := (M.of s).lq n
    q.stepping = some c → q.work = w :: rest → q.held = [] → q.queue = [] → (M.of s).objFld 0x5021 (n + 1) 3 0 = 0 →
    (c < w → Ends (.convoyStepEnd n) s fun m' =>
      (m'.lq n).stepping = none ∧ (m'.lq n).work = (w - c) :: rest ∧ (m'.lq n).halves = q.halves ∧ (M.of s).SameLqs m' [n] ∧
      (M.of s).SameObjs m' [] ∧ (M.of s).SameCores m' []) ∧
    (w ≤ c → Ends (.convoyStepEnd n) s fun m' =>
      (m'.lq n).stepping = none ∧ (m'.lq n).work = rest ∧ (m'.lq n).halves = (if rest = [] then 0 else q.halves - 1) ∧
      (M.of s).SameLqs m' [n] ∧ (M.of s).SameObjs m' [] ∧ (M.of s).SameCores m' [n / 4]))

/-- R201, R202, R203: the refresh timer adds one to the refreshes owed, eight at most, and where no step runs one begins; its end
takes one off, serves what waited (here nothing), and begins the next one owed. -/
def Obligations.RefreshesAreOwedAndTaken : Prop :=
  ∀ (n : Fin 96) (s : State), (M.of s).banksRun n = true →
    let owed := (M.of s).objFld 0x5021 (n + 1) 3 0
    let q := (M.of s).lq n
    Ends (.refreshDue n) s (fun m' =>
      m'.objFld 0x5021 (n + 1) 3 0 = min 8 (owed + 1) ∧ m'.lq n = { q with refreshing := q.refreshing || q.stepping.isNone } ∧
      (M.of s).SameLqs m' [n] ∧ (M.of s).SameObjs m' [(0x5021, n + 1)] ∧ (M.of s).SameCores m' []) ∧
    (q.refreshing = true → q.held = [] → q.queue = [] → Ends (.refreshDone n) s fun m' =>
      m'.objFld 0x5021 (n + 1) 3 0 = owed - 1 ∧
      m'.lq n = { q with refreshing := q.stepping.isNone && decide (1 < owed) } ∧
      (M.of s).SameLqs m' [n] ∧ (M.of s).SameObjs m' [(0x5021, n + 1)] ∧ (M.of s).SameCores m' [])

/-- R197, R198, R202, R268, R270, R275: an access to a bank in mid-step, or in a layer quadrant that refreshes, is held, eight to a
bank and the rest in order behind them. One to a free bank is served: a whole unit is stored with its mark; a read of a unit
without an error changes nothing. The scrubber, on such a unit without a mark, goes on to the next. -/
def Obligations.BanksServeAccesses : Prop :=
  (∀ (u source : Nat) (data : Option (List (Option Byte))) (p : Bool) (err : UnitErr) (s : State),
    (u % 64 = 0) → u < memEnd → (M.of s).reach (if source = 1 then some (u / columnSize) else none) u = true →
    (M.of s).tierRuns (u / columnSize / 4) = true →
    let n := u / lqSize
    let q := (M.of s).lq n
    let h : HeldAccess := { unit := u, source, data := data.map (·.take 64), poison := p, err }
    ((q.busyBank (bankOf u) || q.refreshing) = true → Does (.bankAccess u source data p err) s fun m =>
      if heldAt q.held (bankOf u) < 8 then m.modLq n fun q => { q with held := q.held ++ [h] }
      else m.modLq n fun q => { q with queue := q.queue ++ [h] }) ∧
    ((q.busyBank (bankOf u) || q.refreshing) = false →
      (∀ bs : List Byte, bs.length = 64 → data = some (bs.map some) → s.sound → Ends (.bankAccess u source data p err) s fun m' =>
        (∀ k, k < 64 → m'.byte (u + k) = bs.getD k 0) ∧ m'.marked u = p ∧ (M.of s).SameOutside m' u 64 ∧
        (M.of s).SameObjs m' [] ∧ (M.of s).SameCores m' [] ∧ (M.of s).SameLqs m' []) ∧
      (data = none → err = [] → source ≠ 0 → Does (.bankAccess u source data p err) s id))) ∧
  (∀ (n : Fin 96) (s : State), (M.of s).banksRun n = true →
    let q := (M.of s).lq n
    let u := n * lqSize + 64 * q.scrubUnit
    q.scrubUnit < lqUnits → (q.busyBank (bankOf u) || q.refreshing) = false → (M.of s).marked u = false →
    (M.of s).dev.convs.any (fun c => c.begun && c.column == n / 4 && c.tract == 384 * (n % 4) + tractOf u) = false →
    Ends (.scrubUnit n []) s fun m' =>
      m'.lq n = { q with scrubUnit := (q.scrubUnit + 1) % lqUnits } ∧
      m'.objFld 0x5031 (n + 1) 8 0 = (q.scrubUnit + 1) % lqUnits / 4194304 ∧
      (q.scrubUnit + 1 < lqUnits → m'.objFld 0x5031 (n + 1) 63 32 = (M.of s).objFld 0x5031 (n + 1) 63 32) ∧
      (q.scrubUnit + 1 = lqUnits → m'.objFld 0x5031 (n + 1) 63 32 = ((M.of s).objFld 0x5031 (n + 1) 63 32 + 1) % 2 ^ 32) ∧
      (M.of s).SameMem m' ∧ (M.of s).SameLqs m' [n] ∧ (M.of s).SameObjs m' [(0x5031, n + 1)] ∧ (M.of s).SameCores m' [])

/-- R273, R274, R279: a clean block of a Waystation or of the Bazaar with one wrong data bit is mended and counted; its bytes and its mark
read as before. -/
def Obligations.SramScrubMendsOneBit : Prop :=
  ∀ (store block : Nat) (w b : Fin 16) (s : State), s.sound → (M.of s).live = true →
    let owner := if store = 96 then 24 else store / 4
    let a := if store = 96 then bazBase + 32 * block % bazSize else wsBase (store / 4) + 32 * block % wsSize
    (store = 96 ∧ (M.of s).bazUp = true) ∨
      (store < 96 ∧ store % 4 = 0 ∧ (M.of s).coreDown (store / 4) = false ∧ (M.of s).fusedOff (store / 4) = false) →
    (M.of s).marked a = false → Ends (.sramScrub store block [(w, BitVec.ofNat 16 (2 ^ b.val))] 0 0) s fun m' =>
      (M.of s).SameMem m' ∧ m'.objFld 0x5050 (owner + 1) 63 32 = ((M.of s).objFld 0x5050 (owner + 1) 63 32 + 1) % 2 ^ 32 ∧
      (M.of s).SameObjs m' [(0x5050, owner + 1)] ∧ (M.of s).SameCores m' [] ∧ (M.of s).SameLqs m' []

/-- R279, R284, R285, R447: a sparing copy that is done puts the spare in use: the bank's counts follow, its repair waits to be
written, the layer quadrant's lowest counts of spares left follow. A repair written takes the next place of the repair map. A
bucket that leaks loses one, down to none. -/
def Obligations.RepairsAreRecorded : Prop :=
  (∀ (b : Fin 196608) (c : SparingCopy) (s : State), (M.of s).live = true → ((M.of s).bank b).copy = some c →
    let k := (M.of s).bank b
    let n := b.val / 2048
    Ends (.sparingCopyDone b) s fun m' =>
      m'.bank b = { k with
        copy := none
        unwritten := k.unwritten ++ [(if c.isRow then 1 else 2) * 2 ^ 62 + b * 2 ^ 44 + c.index * 2 ^ 31 + c.slot * 2 ^ 26]
        rowsUsed := k.rowsUsed + c.isRow.toNat, colsUsed := k.colsUsed + (!c.isRow).toNat } ∧
      m'.objFld 0x5041 (n + 1) 15 8 =
        min ((M.of s).objFld 0x5041 (n + 1) 15 8) ((M.of s).fuse.minRows - (k.rowsUsed + c.isRow.toNat)) ∧
      m'.objFld 0x5041 (n + 1) 7 0 =
        min ((M.of s).objFld 0x5041 (n + 1) 7 0) ((M.of s).fuse.minCols - (k.colsUsed + (!c.isRow).toNat)) ∧
      (M.of s).SameMem m' ∧ (M.of s).SameCores m' [] ∧ (M.of s).SameLqs m' [] ∧ (M.of s).SameLinks m' [] ∧
      ∀ i j, j < 256 → i ≠ 0x5041 → i ≠ 0x5200 + layerOf n → m'.obj i j = (M.of s).obj i j) ∧
  (∀ (b : Fin 196608) (e : Nat) (rest : List Nat) (s : State), (M.of s).live = true → ((M.of s).bank b).unwritten = e :: rest →
    (M.of s).dev.repairMap.length < 32768 → Ends (.repairMapWrite b) s fun m' =>
      m'.dev.repairMap = (M.of s).dev.repairMap ++ [e] ∧ m'.bank b = { (M.of s).bank b with unwritten := rest } ∧
      m'.objFld 0x5070 1 15 0 = (M.of s).dev.repairMap.length + 1 ∧
      m'.objBit 0x5070 1 16 = decide ((M.of s).dev.repairMap.length + 1 = 32768) ∧
      (M.of s).SameMem m' ∧ (M.of s).SameObjs m' [(0x5070, 1)] ∧ (M.of s).SameCores m' [] ∧ (M.of s).SameLqs m' []) ∧
  (∀ (cls : Fin 8) (inst : Nat) (s : State), Ends (.bucketLeak cls inst) s fun m' =>
    Tab.get m'.dev.buckets 0 (bucketKey cls inst) = Tab.get (M.of s).dev.buckets 0 (bucketKey cls inst) - 1 ∧
    (∀ k, k ≠ bucketKey cls inst → Tab.get m'.dev.buckets 0 k = Tab.get (M.of s).dev.buckets 0 k) ∧
    (M.of s).SameMem m' ∧ (M.of s).SameObjs m' [] ∧ (M.of s).SameCores m' [] ∧ (M.of s).SameLqs m' [])

/-- R187, R188: the owner may write the mode word of 64 tracts none of which is under conversion: every tract whose bit changes waits
for its conversion. One that nothing uncommitted touches begins it; at its end the tract is no longer under conversion, and
subindex 0x19 counts those of the column that are left. -/
def Obligations.TractModesConvert : Prop :=
  (∀ (p : Party) (c sub : Fin 24) (v : W64) (s : State), (M.of s).Serves p →
    let old := (M.of s).obj (0x5110 + c) (sub + 1)
    let changed := bitsSet (old ^^^ v.toNat) 64
    changed.any (fun i => (M.of s).converting c (64 * sub + i)) = false →
    Applies (.tractModeWrite p c sub v) s (0x5110 + c) (sub + 1) v.toNat fun m =>
      let convs := m.dev.convs ++ changed.map fun i =>
        { column := c, tract := 64 * sub + i, toOpen := v.toNat.testBit i, begun := false }
      ({ m.setObj (0x5110 + c) (sub + 1) v.toNat with dev := { (m.setObj (0x5110 + c) (sub + 1) v.toNat).dev with convs } } : M).setObj
        (0x5110 + c) 25 (convs.filter fun x => x.column == c.val).length) ∧
  (∀ (c : Fin 24) (t : Fin 1536) (s : State), (M.of s).banksRun (4 * c + t / 384) = true →
    ((M.of s).dev.cores.any (fun e => e.2.slots.any ((M.of s).slotTouches e.1 c t)) = false →
      Ends (.tractConversionStart c t) s fun m' =>
        m'.dev.convs = (M.of s).dev.convs.map (fun x => { x with begun := x.begun || (x.column == c.val && x.tract == t.val) }) ∧
        (M.of s).SameMem m' ∧ (M.of s).SameObjs m' [] ∧ (M.of s).SameCores m' [] ∧ (M.of s).SameLqs m' []) ∧
    ((M.of s).dev.convs.any (fun x => x.column == c.val && x.tract == t.val && x.begun) = true →
      Ends (.tractConversionDone c t) s fun m' =>
        m'.dev.convs = (M.of s).dev.convs.filter (fun x => !(x.column == c.val && x.tract == t.val)) ∧
        m'.obj (0x5110 + c) 25 = (m'.dev.convs.filter fun x => x.column == c.val).length ∧
        (M.of s).SameMem m' ∧ (M.of s).SameObjs m' [(0x5110 + c, 25)] ∧ (M.of s).SameCores m' [] ∧ (M.of s).SameLqs m' []))

/-- R255: the owner gives a Cistern to another context, on a device that has one whose clock is not gated off: a clear is asked for.
It begins once no manifest of the old owner is uncommitted, and at its end every entry is zero and clean and CLEARING falls. -/
def Obligations.CisternsAreCleared : Prop :=
  (∀ (p : Party) (i : Fin 24) (v : BitVec 32) (s : State), (M.of s).Serves p → (M.of s).fuse.gradOn = true → v.toNat < 32 →
    (M.of s).objBit 0x2040 (i + 1) 8 = false → v.toNat ≠ (M.of s).objFld 0x8040 (i + 1) 4 0 →
    Applies (.cisternOwnerWrite p i v) s 0x8040 (i + 1) v.toNat fun m =>
      (m.setObj 0x8040 (i + 1) (setFld v.toNat 5 5 ((M.of s).objFld 0x8040 (i + 1) 5 5))).modCore i fun c => { c with cisPending := true }) ∧
  (∀ (i : Fin 24) (s : State), (M.of s).live = true → (M.of s).coreDown i = false →
    (((M.of s).core i).cisPending = true → (M.of s).cisFree i = true → Ends (.cisternClearStart i) s fun m' =>
      m'.core i = { (M.of s).core i with cisPending := false } ∧ m'.objBit 0x8040 (i + 1) 5 = true ∧
      m'.objFld 0x8040 (i + 1) 4 0 = (M.of s).objFld 0x8040 (i + 1) 4 0 ∧
      (M.of s).SameMem m' ∧ (M.of s).SameObjs m' [(0x8040, i + 1)] ∧ (M.of s).SameCores m' [i] ∧ (M.of s).SameLqs m' []) ∧
    ((M.of s).objBit 0x8040 (i + 1) 5 = true → Ends (.cisternClearDone i) s fun m' =>
      (∀ e, m'.cis i e = (0, false)) ∧ m'.objBit 0x8040 (i + 1) 5 = false ∧
      m'.core i = { (M.of s).core i with cistern := [], cisPoison := [] } ∧
      m'.objFld 0x8040 (i + 1) 4 0 = (M.of s).objFld 0x8040 (i + 1) 4 0 ∧
      (M.of s).SameMem m' ∧ (M.of s).SameObjs m' [(0x8040, i + 1)] ∧ (M.of s).SameCores m' [i] ∧ (M.of s).SameLqs m' []))

/-- R110 to R113: a core read of a Bazaar line that no window holds opens one for its set, or, alone in its set, gets its line; a read of
an open window joins it, and the last of the set closes it: every core that joined gets the line as it is. A window may close
before that. An access outside merging reads its line, or stores its bytes after the windows on them have closed. -/
def Obligations.BazaarMergesReads : Prop :=
  (∀ (i : Fin 24) (line : Nat) (set : BitVec 24) (s : State), inBazaar line = true → (M.of s).bazUp = true →
    (M.of s).fabricRuns = true → (M.of s).coreRuns i = true →
    let l := line / 256 * 256
    let want := if set = 0 then 2 ^ i.val else set.toNat
    let ws := (M.of s).dev.windows
    (ws.find? (fun w => w.line == l) = none → (ws.filter fun w => bazBank w.line == bazBank l).length < 16 →
      (bitsSet want 24 ≠ [] ∧ (bitsSet want 24).all [i.val].contains = false → Does (.bazaarCoreRead i line set) s fun m =>
        { m with dev := { m.dev with windows := ws ++ [{ line := l, set := want, joined := [i] }] } }) ∧
      (want = 2 ^ i.val → Does (.bazaarCoreRead i line set) s fun m => m.deliverLine l [i])) ∧
    (∀ w, ws.find? (fun w => w.line == l) = some w →
      ((bitsSet w.set 24).all (addOnce w.joined i.val).contains = true → Does (.bazaarCoreRead i line set) s fun m =>
        ({ m with dev := { m.dev with windows := ws.filter fun x => x.line != l } } : M).deliverLine l (addOnce w.joined i)) ∧
      ((bitsSet w.set 24).all (addOnce w.joined i.val).contains = false → Does (.bazaarCoreRead i line set) s fun m =>
        { m with dev := { m.dev with windows := ws.map fun x => if x.line = l then { w with joined := addOnce w.joined i } else x } }))) ∧
  (∀ (line : Nat) (w : Window) (s : State), (M.of s).live = true → (M.of s).bazUp = true → (M.of s).fabricRuns = true →
    (M.of s).dev.windows.find? (fun w => w.line == line / 256 * 256) = some w → Does (.bazaarWindowClose line) s fun m =>
      ({ m with dev := { m.dev with windows := m.dev.windows.filter fun x => x.line != line / 256 * 256 } } : M).deliverLine
        (line / 256 * 256) w.joined) ∧
  (∀ (a : Nat) (p : Bool) (s : State), inBazaar a = true → (M.of s).live = true → (M.of s).bazUp = true → (M.of s).fabricRuns = true →
    Does (.bazaarAccess a none p) s (fun m => m.deliverLine (a / 256 * 256) []) ∧
    (∀ ds : List Byte, ds ≠ [] → a + ds.length ≤ bazBase + bazSize → (M.of s).mirrorRole ≠ 2 → s.sound →
      Ends (.bazaarAccess a (some ds) p) s fun m' =>
        (∀ k, k < ds.length → m'.byte (a + k) = ds.getD k 0) ∧ (M.of s).SameOutside m' a ds.length ∧
        (∀ x, (∀ k, k < ds.length → lineOf (a + k) ≠ lineOf x) → m'.marked x = (M.of s).marked x) ∧
        m'.dev.windows = (M.of s).dev.windows.filter (fun w => !(a < w.line + 256 && w.line < a + ds.length)) ∧
        (M.of s).SameObjs m' [] ∧ (M.of s).SameCores m' [] ∧ (M.of s).SameLqs m' []))

/-- R299, R300, R303, R304, R306: an ACTIVE link takes a whole PAYLOAD flit that is next in number: its slots go to the receive buffers,
its credits and its ACK count; one out of order is NAKed once. IDLE gives credits and ACK; a NAK begins a replay of all that is
unacknowledged; RETRAIN_REQ retrains. A flit that is not whole is NAKed; a foreign one asks for a retrain too. -/
def Obligations.FlitsAreTaken : Prop :=
  ∀ (l : Fin 32) (f : LFlit) (s : State), (M.of s).linkUp l = true → ((M.of s).link l).draining = false → f.fecSyms = 0 →
    let k := (M.of s).link l
    (f.good = false → f.fecBad = false → Does (.payload l f) s fun m => m.modLink l fun k =>
      { k with nakDue := k.nakDue || !k.nakOut, nakOut := true }) ∧
    (f.whole = true → f.foreign = true → k.reqDue = 0 → Does (.flitProtocolError l f) s fun m => m.modLink l fun k =>
      { k with nakDue := k.nakDue || !k.nakOut, nakOut := true, reqDue := 3, reqReason := 7 }) ∧
    (f.whole = true → f.foreign = false →
      (f.kind = 1 → f.seq = (k.rxLast + 1) % 4096 → Does (.payload l f) s fun m => m.modLink l fun k =>
        { k.credit f with
          rxLast := f.seq, nakDue := false, nakOut := false, rxSb := k.rxSb ++ f.classSlots true,
          rxBulk := k.rxBulk ++ f.classSlots false }) ∧
      (f.kind = 1 → f.seq ≠ (k.rxLast + 1) % 4096 → Does (.payload l f) s fun m => m.modLink l fun k =>
        { k with nakDue := k.nakDue || !k.nakOut, nakOut := true }) ∧
      (f.kind = 0 → Does (.idle l f) s fun m => m.modLink l fun k => k.credit f) ∧
      (f.kind = 2 → (k.credit f).replaying = (k.credit f).replay.length → Does (.nak l f) s fun m => m.modLink l fun k => k.credit f) ∧
      (f.kind = 2 → (k.credit f).replaying ≠ (k.credit f).replay.length →
        Tab.get (M.of s).dev.buckets 0 (bucketKey 3 l) + 1 < (M.of s).objFld 0x7030 3 31 0 →
        Does (.nak l f) s fun m => ((m.modLink l fun k => { k.credit f with replaying := (k.credit f).replay.length }).satObj
          (0x6100 + l) 3 15 0 1).modBuckets fun b => Tab.put b (bucketKey 3 l) (Tab.get m.dev.buckets 0 (bucketKey 3 l) + 1)) ∧
      (f.kind = 3 → Ends (.retrainReq l f) s fun m' =>
        m'.linkState l = lsRetrain ∧ m'.objFld (0x6100 + l) 2 23 16 = 5 ∧
        m'.objFld (0x6100 + l) 4 15 0 = min ((M.of s).objFld (0x6100 + l) 4 15 0 + 1) 65535 ∧
        m'.link l = { k.credit f with
          reqDue := 0, phase := 1, mode := 2, repeats := 0, lanes := (M.of s).objFld (0x6100 + l) 2 35 32, nakDue := false } ∧
        (M.of s).SameMem m' ∧ (M.of s).SameObjs m' [(0x6100 + l, 2), (0x6100 + l, 4)] ∧ (M.of s).SameCores m' [] ∧
        (M.of s).SameLinks m' [l] ∧ (M.of s).SameLqs m' []))

/-- R297, R298, R302, R304, R333: an ACTIVE link, with the next part of a copy in its queue where a resync is due, sends, in this order, a NAK that is owed, RETRAIN_REQ, what is replayed, a PAYLOAD flit of what
waits and fits the credits (which the replay buffer keeps until it is acknowledged), and else IDLE. The sender's timer replays;
the receiver's repeats the NAK. -/
def Obligations.FlitsGoOut : Prop :=
  ∀ (l : Fin 32) (s : State), (M.of s).linkUp l = true →
    let copied := fun m : M => if m.mirrorRole = 1 && m.bundle.contains l.val && (m.link l).txMirror.isEmpty then m.copyNext else m
    let k := (copied (M.of s)).link l
    (k.nakDue = true → Does (.flitSend l) s fun m =>
      ((copied m).modLink l fun k => { k.reported (k.blank 2 0) with nakDue := false }).send (.flit l (k.blank 2 0))) ∧
    (k.nakDue = false → 1 < k.reqDue → Does (.flitSend l) s fun m =>
      ((copied m).modLink l fun k => { k.reported (k.blank 3 0) with reqDue := k.reqDue - 1 }).send (.flit l (k.blank 3 0))) ∧
    (k.nakDue = false → k.reqDue = 0 → k.replaying ≠ 0 → k.replaying ≤ k.replay.length →
      ∃ f, k.replay[k.replay.length - k.replaying]? = some f ∧ Does (.flitSend l) s fun m =>
        ((copied m).modLink l fun k => { k with replaying := k.replaying - 1 }).send (.flit l f.flit)) ∧
    (k.nakDue = false → k.reqDue = 0 → k.replaying = 0 → (k.replay.length < 1024 → k.txSb = [] ∧ k.txMirror = [] ∧ k.txBulk = []) →
      Does (.flitSend l) s fun m => ((copied m).modLink l fun k => k.reported (k.blank 0 0)).send (.flit l (k.blank 0 0))) ∧
    (∀ x r, k.nakDue = false → k.reqDue = 0 → k.replaying = 0 → k.replay.length < 1024 → k.txSb = x :: r →
      0 < x.slots.length → x.slots.length ≤ min 15 k.crSb → copied (M.of s) = M.of s → Ends (.flitSend l) s fun m' =>
        ∃ f rest, (m'.link l).replay = k.replay ++ [rest] ∧ rest.flit = f ∧ m'.dev.sent = .flit l f :: (M.of s).dev.sent ∧
          f.kind = 1 ∧ f.seq = k.txSeq ∧ f.slots.take x.slots.length = x.slots.map (·.bits) ∧
          (m'.link l).txSeq = (k.txSeq + 1) % 4096 ∧
          (M.of s).SameMem m' ∧ (M.of s).SameObjs m' [] ∧ (M.of s).SameCores m' [] ∧ (M.of s).SameLinks m' [l]) ∧
    (((M.of s).link l).nakOut = true → Does (.replayTimeout l false) s fun m => m.modLink l fun k => { k with nakDue := true }) ∧
    (((M.of s).link l).replaying = ((M.of s).link l).replay.length → Does (.replayTimeout l true) s id) ∧
    (((M.of s).link l).replaying ≠ ((M.of s).link l).replay.length → Tab.get (M.of s).dev.buckets 0 (bucketKey 3 l) + 1 < (M.of s).objFld 0x7030 3 31 0 →
      Does (.replayTimeout l true) s fun m => ((m.modLink l fun k => { k with replaying := k.replay.length }).satObj
        (0x6100 + l) 3 15 0 1).modBuckets fun b => Tab.put b (bucketKey 3 l) (Tab.get m.dev.buckets 0 (bucketKey 3 l) + 1))

/-- R292, R293, R296, R305 to R308, R310: a lost lane or lost alignment asks for a retrain; a partner that is seen starts a training,
cold where no settings are kept or FORCE_COLD asks for it; lock and equalise pass to the next phase, verify to NEGOTIATE, the last
phase to ACTIVE; an exchange that agrees on a version goes on from SEQ 0 where the link was down, one that does not fails the link
with reason 8. The end of the hold time loses what was kept; the end of a drain disables the link. -/
def Obligations.LinksTrain : Prop :=
  ∀ (l : Fin 32) (s : State), (M.of s).live = true →
    let k := (M.of s).link l
    let st := (M.of s).linkState l
    (st = lsActive → k.reqDue = 0 →
      Does (.laneSignalLoss l) s (fun m => m.modLink l fun k => { k with reqDue := 3, reqReason := 3 }) ∧
      Does (.alignLoss l) s (fun m => m.modLink l fun k => { k with reqDue := 3, reqReason := 4 })) ∧
    (st = lsDetect →
      let fast := k.saved.isSome && !(M.of s).objBit (0x6100 + l) 1 6
      Ends (.linkDetect l) s fun m' =>
        m'.linkState l = lsTrain ∧ m'.objBit (0x6100 + l) 1 6 = false ∧ m'.objBit (0x6100 + l) 2 4 = fast ∧
        m'.link l = { k with
          phase := 1, mode := fast.toNat, repeats := 0, lanes := if fast then (k.saved.getD []).getD 4 0xF else 0xF } ∧
        (M.of s).SameMem m' ∧ (M.of s).SameObjs m' [(0x6100 + l, 1), (0x6100 + l, 2)] ∧ (M.of s).SameCores m' [] ∧
        (M.of s).SameLinks m' [l]) ∧
    (∀ lanes : BitVec 4,
      (1 ≤ k.phase → k.phase ≤ 2 → lanes.toNat &&& k.lanes = k.lanes → Does (.linkTrainPhaseEnd l lanes true) s fun m =>
        m.modLink l fun k => { k with phase := if k.mode = 0 then k.phase + 1 else 3 }) ∧
      (k.phase = 3 → Does (.linkTrainPhaseEnd l lanes true) s fun m => m.modLink l fun k => { k with phase := 4 }) ∧
      (k.phase = 4 → st ≠ lsActive → Ends (.linkTrainPhaseEnd l lanes true) s fun m' =>
        m'.linkState l = lsNegotiate ∧ m'.link l = { k with phase := 5 } ∧
        (M.of s).SameMem m' ∧ (M.of s).SameObjs m' [(0x6100 + l, 2)] ∧ (M.of s).SameCores m' [] ∧ (M.of s).SameLinks m' [l]) ∧
      (k.phase = 6 → k.lanes < 16 → Ends (.linkTrainPhaseEnd l lanes true) s fun m' =>
        m'.linkState l = lsActive ∧ m'.objFld (0x6100 + l) 2 35 32 = k.lanes ∧
        m'.objFld (0x6100 + l) 2 25 24 = (if k.lanes = 0xF then 2 else 1) ∧
        (m'.link l).phase = 0 ∧ (m'.link l).downHeld = false ∧ (k.mode ≠ 0 → (m'.link l).saved = k.saved) ∧
        (M.of s).SameMem m' ∧ (M.of s).SameObjs m' [(0x6100 + l, 2)] ∧ (M.of s).SameCores m' [] ∧ (M.of s).SameLinks m' [l])) ∧
    (∀ (versions partner : BitVec 16) (plink : BitVec 5) (serial : W64) (last : BitVec 12) (fresh : Bool), k.phase = 5 →
      (versions.getLsbD 1 = true → k.mode = 0 → k.downHeld = true → st ≠ lsActive →
        Ends (.linkNegotiate l versions partner plink serial last fresh) s fun m' =>
          m'.linkState l = lsTrain ∧ m'.objFld (0x6100 + l) 2 63 48 = partner.toNat ∧ m'.objFld (0x6100 + l) 2 44 40 = plink.toNat ∧
          m'.objFld (0x6100 + l) 2 39 36 = 1 ∧ m'.link l = { k.restart with partnerSerial := serial.toNat, phase := 6 } ∧
          (M.of s).SameMem m' ∧ (M.of s).SameObjs m' [(0x6100 + l, 2)] ∧ (M.of s).SameCores m' [] ∧ (M.of s).SameLinks m' [l]) ∧
      (versions.getLsbD 1 = false → k.replay = [] → k.mid = 0 →
        Ends (.linkNegotiate l versions partner plink serial last fresh) s fun m' =>
          m'.linkState l = lsFailed ∧ m'.objFld (0x6100 + l) 2 23 16 = 8 ∧ (m'.link l).phase = 0 ∧ (m'.link l).downHeld = true ∧
          (M.of s).SameMem m' ∧ (M.of s).SameObjs m' [(0x6100 + l, 2)] ∧ (M.of s).SameCores m' [] ∧ (M.of s).SameLinks m' [l])) ∧
    ((st = lsTrain ∨ st = lsNegotiate ∨ st = lsRetrain) → k.downHeld = false → k.replay = [] → k.mid = 0 →
      Does (.linkHoldExpiry l) s fun m => m.modLink l fun k => { k with
        replaying := 0, rxSb := [], rxBulk := [], freeSb := 0, freeBulk := 0, nakDue := false, nakOut := false
        reqDue := 0, downHeld := true }) ∧
    (k.draining = true → k.replay = [] → k.mid = 0 → k.txSb = [] → k.txMirror = [] → k.txBulk = [] →
      Ends (.linkDrainExpiry l) s fun m' =>
        m'.linkState l = lsDisabled ∧ (m'.link l).draining = false ∧ (m'.link l).downHeld = true ∧ (m'.link l).phase = 0 ∧
        (M.of s).SameMem m' ∧ (M.of s).SameObjs m' [(0x6100 + l, 2)] ∧ (M.of s).SameCores m' [] ∧ (M.of s).SameLinks m' [l]) ∧
    (∀ (p : Party) (e : Nat), (M.of s).Serves p → e < 8 → (M.of s).obj (0x6100 + l) 1 = 16 * e → e % 2 = 1 → st = lsActive →
      k.reqDue = 0 → Applies (.retrain p l) s (0x6100 + l) 1 (16 * e + 128) fun m =>
        ((m.setObj (0x6100 + l) 1 (16 * e)).modLink l fun k => { k with draining := false }).modLink l fun k =>
          { k with reqDue := 3, reqReason := 6 }) ∧
    (∀ (p : Party) (e : Nat), (M.of s).Serves p → e < 8 → (M.of s).obj (0x6100 + l) 1 = 16 * e → st = lsDisabled →
      (M.of s).domOn (30 + l / 8) = true → Applies (.linkEnable p l true) s (0x6100 + l) 1 (setBit (16 * e) 4 true) fun m =>
        (m.setObj (0x6100 + l) 1 (setBit (16 * e) 4 true)).setLinkState l lsDetect 0)

/-- R312 to R314, R319, R322: a READ, WRITE or ATOMIC that a remote window permits, of memory or the Bazaar where it answers, is served
and answered OK: a read with its units, a write after its bytes are stored, an atomic with the old value after the new one is
stored; a poisoned unit is answered poisoned and does not change. One that no window permits is answered DENIED. A message with a
reserved OP or bit is counted, and its link retrains. -/
def Obligations.RemoteRequestsAreServed : Prop :=
  (∀ (l : Fin 32) (x : Msg) (s : State), (M.of s).Arrives l x →
    let n := 64 * (x.lenM1 + 1)
    let ds := flatUnits x.data
    (x.op = opRead → x.addr % 64 = 0 → (M.of s).windowAllows 0 x.addr n = true → remoteSpace x.addr = true →
      (M.of s).reachAll none x.addr n = true → Does (.read l x) s fun m =>
        (m.consumeMsg l x).answer x respOk (unitsOf (m.readP x.addr n))) ∧
    (x.op = opRead → (M.of s).windowAllows 0 x.addr n = false → Does (.read l x) s fun m => (m.consumeMsg l x).answerBad x respDenied) ∧
    (x.op = opWrite → (M.of s).windowAllows 1 x.addr n = false → Does (.write l x) s fun m =>
      (m.consumeMsg l x).answer x respDenied []) ∧
    (x.op = opWrite → x.addr % 64 = 0 → (M.of s).windowAllows 1 x.addr n = true → remoteSpace x.addr = true →
      (M.of s).reachAll none x.addr n = true → (M.of s).mirrorRole ≠ 2 → s.sound → ds.length = n →
      (Does (.write l x) s fun m => ((m.consumeMsg l x).putLocal x.src x.addr (ds.map fun b => (some b.1, b.2))).answer x respOk []) ∧
      Ends (.write l x) s fun m' =>
        (∀ k, k < n → m'.byte (x.addr + k) = (ds.getD k (0, false)).1) ∧ (M.of s).SameOutside m' x.addr n ∧
        (M.of s).SameCores m' [] ∧ (M.of s).SameLqs m' []) ∧
    (∀ c ∈ [(Instr.fetchAdd l x, 0), (.swap l x, 1), (.cas64 l x, 2), (.maxU32 l x, 3), (.addSatU32 l x, 4), (.or32 l x, 5)],
      let w := if c.2 < 3 then 8 else 4
      let old := (M.of s).num x.addr w
      ∀ slot, x.op = opAtomic → x.atom = c.2 → x.data = [(slot, false)] → x.addr % w = 0 → (M.of s).windowAllows 2 x.addr w = true →
        remoteSpace x.addr = true → (M.of s).reachAll none x.addr w = true →
        let v := natOf slot
        let new := if c.2 = 0 then (old + v % 2 ^ 64) % 2 ^ 64 else if c.2 = 1 then v % 2 ^ 64
          else if c.2 = 2 then (if old = v % 2 ^ 64 then v / 2 ^ 64 % 2 ^ 64 else old)
          else if c.2 = 3 then max old (v % 2 ^ 32) else if c.2 = 4 then min (old + v % 2 ^ 32) (2 ^ 32 - 1) else old ||| v % 2 ^ 32
        ((M.of s).marked x.addr = false → Does c.1 s fun m =>
          ((m.consumeMsg l x).putLocal x.src x.addr ((bytesOf new w).map fun b => (some b, false))).answer x respOk [(bytesOf old 16, false)]) ∧
        ((M.of s).marked x.addr = true → Does c.1 s fun m => (m.consumeMsg l x).answer x respOk [(bytesOf old 16, true)]))) ∧
  (∀ (l : Fin 32) (x : Msg) (s : State), (M.of s).live = true → (M.of s).fabricRuns = true → (M.of s).msgFirst l x = true →
    x.foreign = true → (M.of s).linkState l = lsActive → ((M.of s).link l).reqDue = 0 → Does (.messageProtocolError l x) s fun m =>
      ((m.consumeMsg l x).satObj 0x6520 1 31 0 1).modLink l fun k => { k with reqDue := 3, reqReason := 7 })

/-- R313 to R315, R320, R474: an OK response completes the request of its tag, and the manifest that waits for it goes on; a remote
SIGNAL whose FLAG_SET comes back with another RESP counts a line that TARGET_RESET ended; a tag that is not outstanding counts as
stray. A request that times out completes LOST, and its tag rests until it is released. -/
def Obligations.ResponsesComplete : Prop :=
  (∀ (l : Fin 32) (x : Msg) (s : State), (M.of s).Arrives l x → (M.of s).dev.fab.waiting = [] →
    let gone := fun m : M => (m.consumeMsg l x).modFab fun f => { f with outstanding := Tab.erase f.outstanding x.tag }
    (∀ o core, Tab.find? (M.of s).dev.fab.outstanding x.tag = some o → o.lost = false →
      (x.op = opWriteAck → o.op = opWrite → x.resp = 0 → o.issuer = .manifest core → Does (.writeAck l x) s fun m =>
        (gone m).modRun core fun t => t.answered 0) ∧
      (x.op = opAtomicData → o.op = opAtomic → x.resp = 0 → o.issuer = .amaxMerge core → Does (.atomicData l x) s fun m =>
        (gone m).modRun core fun t => t.answered 0) ∧
      (x.op = opFlagSet → o.op = opFlagSet → o.issuer = .signal core → Does (.flagSetReturn l x) s fun m =>
        (gone m).modRun core fun t => t.answered x.resp) ∧
      (x.op = opReadData → o.op = opRead → x.resp ≠ 0 → o.issuer = .manifest core → Does (.readData l x) s fun m =>
        (gone m).modRun core fun t => t.answered x.resp) ∧
      (∀ g, x.op = opReadData → o.op = opRead → x.resp = 0 → o.issuer = .amaxRead core g → Does (.readData l x) s fun m =>
        (gone m).modWait core fun t => t.recordRead g 0 x.data) ∧
      (∀ bs p, x.op = opReadData → o.op = opRead → x.resp = 0 → o.issuer = .manifest core → x.data = [(bs, p)] → o.into < 2 ^ 64 →
        o.into / 2 ^ 48 = (M.of s).deviceId → o.into % 64 = 0 → (M.of s).reach (some core) (o.into % 2 ^ 48) = true →
        Does (.readData l x) s fun m =>
          (((gone m).modRun core fun t => { t with poisonCount := t.poisonCount + p.toNat }).putLocal m.deviceId (o.into % 2 ^ 48)
            (bs.map fun b => (some b, p))).modRun core fun t => { t with trCount := t.trCount + 0 }.answered 0)) ∧
    (x.op = opWriteAck → Tab.find? (M.of s).dev.fab.outstanding x.tag = none → Does (.writeAck l x) s fun m =>
      (m.consumeMsg l x).satObj 0x6520 3 31 0 1)) ∧
  (∀ (t : Fin 4096) (o : Outstanding) (s : State), (M.of s).live = true → Tab.find? (M.of s).dev.fab.outstanding t = some o →
    (∀ core, o.lost = false → o.issuer = .manifest core → Does (.requestTimeout t) s fun m =>
      (m.modFab fun f => { f with outstanding := Tab.put f.outstanding t { o with lost := true } }).modRun core fun x => x.answered 4) ∧
    (o.lost = true → (M.of s).dev.fab.waiting = [] → Does (.tagRelease t) s fun m =>
      m.modFab fun f => { f with outstanding := Tab.erase f.outstanding t }))

/-- R474, R477, R479, R480: a FLAG_SET for a flag of a permitted block and a core that is there sets it, where nothing waits for it and
it is clear, and is returned OK; a block that is not permitted returns DENIED. An arrival for a barrier of the current GEN is held
by rank 0 until the last; a release of the current GEN, or the end of XTIMEOUT, which counts a line ended by TARGET_RESET, lets the
waiting members go, and GEN advances. -/
def Obligations.FlagsAndBarriersArrive : Prop :=
  (∀ (l : Fin 32) (x : Msg) (s : State), (M.of s).Arrives l x →
    let i := bitsAt x.addr 10 5
    let f := bitsAt x.addr 0 10
    let g := barrierGroup x.addr
    (x.op = opFlagSet → x.resp = 0 → (M.of s).objBit 0x8080 1 (f / 64) = false → Does (.flagSet l x) s fun m =>
      (m.consumeMsg l x).answer x respDenied []) ∧
    (x.op = opFlagSet → x.resp = 0 → (M.of s).objBit 0x8080 1 (f / 64) = true → i < 24 → (M.of s).coreAbsent i = false →
      ((M.of s).core i).waiters.filter (fun t => t.syncWaits (isWaitOn f)) = [] → ((M.of s).core i).flags.toNat.testBit f = false →
      Does (.flagSet l x) s fun m => ((m.consumeMsg l x).modCore i fun c =>
        { c with flags := BitVec.ofNat 1024 (setBit c.flags.toNat f true) }).answer x respOk []) ∧
    (barrierGen x.addr = (M.of s).objFld 0x8050 (g + 1) 35 24 → x.resp = 0 →
      let ranks := addOnce (Tab.get (M.of s).dev.fab.xranks [] g) (barrierRank x.addr)
      (x.op = opArrive → (M.of s).collRank ((M.of s).objFld 0x8050 (g + 1) 43 40) = some 0 →
        (List.range ((M.of s).collSize ((M.of s).objFld 0x8050 (g + 1) 43 40))).all ranks.contains = false →
        Does (.barrierArrive l x) s fun m => (m.consumeMsg l x).modFab fun f => { f with xranks := Tab.put f.xranks g ranks }) ∧
      (x.op = opRelease → Ends (.barrierRelease l x) s fun m' =>
        m'.objFld 0x8050 (g + 1) 35 24 = ((M.of s).objFld 0x8050 (g + 1) 35 24 + 1) % 4096 ∧
        Tab.get m'.dev.fab.arrivals 0 g = 0 ∧ m'.dev.fab.xlocal.contains g = false ∧
        (∀ c, m'.core c = ((M.of s).core c).mapWaiters (fun q => q.syncWaits (isBarrierOf g)) fun q => { q with phase := .done }) ∧
        (M.of s).SameMem m' ∧ (M.of s).SameObjs m' [(0x8050, g + 1)] ∧ (M.of s).SameLinks m' [l] ∧ (M.of s).SameLqs m' []))) ∧
  (∀ (g : Fin 16) (s : State), (M.of s).live = true → (M.of s).dev.fab.xlocal.contains g.val = true → Ends (.xtimeout g) s fun m' =>
    m'.objFld 0x8050 (g + 1) 35 24 = ((M.of s).objFld 0x8050 (g + 1) 35 24 + 1) % 4096 ∧
    Tab.get m'.dev.fab.arrivals 0 g = 0 ∧ m'.dev.fab.xlocal.contains g.val = false ∧
    (∀ c, m'.core c = ((M.of s).core c).mapWaiters (fun q => q.syncWaits (isBarrierOf g)) fun q =>
      { q with phase := .done, trCount := q.trCount + 1 }) ∧
    (M.of s).SameMem m' ∧ (M.of s).SameObjs m' [(0x8050, g + 1)] ∧ (M.of s).SameLinks m' [] ∧ (M.of s).SameLqs m' [])

/-- R328 to R335: a HEARTBEAT of the partner takes PARTNER_LOST back; its absence sets it and raises the mirror interrupt. A delta whose
number is applied already, or that leaves a gap, changes no memory and is answered with what is applied; the next one is applied. An
acknowledgement advances ACKED. A delta that waits too long makes the pair LAGGING, a lag that lasts makes it SOLO, logged and
signalled; END_PAIR does so at once and ends the role; RESYNC begins a full copy; TAKEOVER on a secondary makes it the primary; its
notice ends the old primary's role. (No commit waits for the partner here.) -/
def Obligations.MirrorPairsFollowTheirMessages : Prop :=
  (∀ (l : Fin 32) (x : Msg) (s : State), (M.of s).Arrives l x → (M.of s).fromPartner l x = true →
    let d := x.delta
    let r := (M.of s).dev.mirror
    (x.op = opHeartbeat → Does (.heartbeat l x) s fun m => (m.consumeMsg l x).setObjBit 0x6500 4 8 false) ∧
    (x.op = opDelta → x.badDelta = false → (M.of s).takesParts = true → r.heldParts = [] →
      (d.mseq ≤ r.applied → Does (.mirrorDelta l x) s fun m =>
        (m.consumeMsg l x).emitMirror .none (m.message m.partner opMirrorAck r.applied 0)) ∧
      (r.applied + 1 < d.mseq → d.part ≠ 3 → Does (.mirrorDelta l x) s fun m =>
        ((m.consumeMsg l x).modMirror fun r => { r with heldParts := [d] }).emitMirror .none (m.message m.partner opMirrorAck r.applied 0)) ∧
      (r.applied + 1 = d.mseq → d.part = 0 → Does (.mirrorDelta l x) s fun m =>
        (((m.consumeMsg l x).modMirror fun r => { r with applied := d.mseq }).writeUnits d.addr d.data).emitMirror .none
          (m.message m.partner opMirrorAck d.mseq 0))) ∧
    (x.op = opMirrorAck → (M.of s).mirrorRole = 1 → (M.of s).mirrorState = 2 →
      (∀ i, i < 24 → ∀ t ∈ ((M.of s).core i).waiters, t.phase ≠ .mirrorWait) → Does (.mirrorAck l x) s fun m =>
        ((m.consumeMsg l x).setObjFld 0x6500 4 63 16 (max m.acked x.addr)).modMirror fun r => { r with
          unacked := r.unacked.filter fun d => max m.acked x.addr < d.mseq }) ∧
    (x.op = opTakeover → (M.of s).mirrorRole = 1 →
      (∀ i, i < 24 → (∀ t ∈ ((M.of s).core i).waiters, t.phase ≠ .mirrorWait) ∧
        ∀ c ∈ (M.of s).mirrorContexts, bit16 ((M.of s).core i).active c = false) → Does (.takeoverNotice l x) s fun m =>
        (((((m.consumeMsg l x).setObjFld 0x6500 1 25 24 0).setMirrorState 0).modMirror fun r => { r with
          unacked := [], resyncAt := none, copyLast := none })).dropDeltas)) ∧
  (∀ s : State, (M.of s).live = true →
    ((M.of s).mirrorRole ≠ 0 → Does .heartbeatSend s fun m => (m.bundle.filter m.linkActive).foldl (fun (m : M) l =>
      m.post l .none (m.message m.partner opHeartbeat 0 0)) m) ∧
    ((M.of s).mirrorRole ≠ 0 → (M.of s).objBit 0x6500 4 8 = false →
      Does .partnerLost s fun m => (m.setObjBit 0x6500 4 8 true).raise 385) ∧
    ((M.of s).mirrorRole = 1 → (M.of s).mirrorState = 2 → (M.of s).dev.mirror.unacked ≠ [] →
      Does .mirrorLag s fun m => m.setObjFld 0x6500 4 3 0 3)) ∧
  (∀ (p : Party) (s : State), (M.of s).mirrorRole = 1 →
    (∀ i, i < 24 → ∀ t ∈ ((M.of s).core i).waiters, t.phase ≠ .mirrorWait) →
    let solo := fun m : M => (((((m.setObjFld 0x6500 4 3 0 4).modMirror fun r => { r with
      unacked := [], resyncAt := none, copyLast := none })).dropDeltas).logFault 0x6002 m.partner m.acked 0 clkMgmt).raise 385
    ((M.of s).live = true → (M.of s).mirrorState = 3 → (M.of s).obj 0x6500 2 ≠ 0 → Does .soloTimeout s solo) ∧
    ((M.of s).Serves p → Applies (.endPair p) s 0x6500 3 4 fun m => (solo m).setObjFld 0x6500 1 25 24 0) ∧
    ((M.of s).Serves p → (M.of s).mirrorRanges ≠ [] → Applies (.resync p) s 0x6500 3 2 fun m =>
      (m.setObjFld 0x6500 4 3 0 1).modMirror fun r => { r with resyncAt := some 0, copyFirst := true, copyLast := none })) ∧
  (∀ (p : Party) (s : State), (M.of s).Serves p → (M.of s).mirrorRole = 2 → (M.of s).mirrorState = 5 →
    (M.of s).dev.mirror.images = [] → (M.of s).bundle.filter (M.of s).linkActive = [] → Applies (.takeover p) s 0x6500 3 1 fun m =>
      (((m.modMirror fun r => { r with heldParts := [], nextMseq := r.applied, unacked := [], images := [] }).setObjFld
        0x6500 1 25 24 1).setObjFld 0x6500 4 3 0 6).raise 385)

/-- R356, R359, R363, R368, R369, R371, R373, R375: the request at the front of the queue is answered where it came from. One with one
field is answered with it: the field read, its descriptor, or a report of its write with the value requested and that in force. A
DISCOVER is answered with serial, grade, device ID and port settings, and its reply is kept. -/
def Obligations.LedgerRequestsAreAnswered : Prop :=
  ∀ (q : LedgerReq) (rest : List LedgerReq) (s : State), (M.of s).dev.led.queue = q :: rest → (M.of s).ledgerRuns = true →
    (M.of s).responder = false → headerOk q.pdu = true →
    let next := fun m : M => m.modLed fun d => { d with queue := rest }
    let body := (q.pdu.drop 16).take (pduLength q.pdu - 16)
    let entries := fun w => entriesOf w (pduCount q.pdu) body
    (∀ (e : PduEntry) (o : ObjSpec), q.party = .mailbox → objSpec e.idx e.sub = some o →
      (pduOp q.pdu = pduRead → entries false = some [e] → (M.of s).readReason e true = 0 → o.size ≤ 64 →
        Does .ledgerRead s fun m =>
          let r := (next m).readObj e.idx e.sub o
          (r.2.markRead e.idx e.sub).mailboxReply (replyPdu q.pdu 0 [replyEntry e.idx e.sub o.size 0 0 [r.1]])) ∧
      (pduOp q.pdu = pduDescribe → entries false = some [e] → (M.of s).readReason e false = 0 → Does .describe s fun m =>
        (next m).mailboxReply (replyPdu q.pdu 0
          [replyEntry e.idx e.sub 32 0 0 [descriptor o (if e.sub = 0 then (topSub e.idx).getD 0 else objReset m.fuse e.idx e.sub)]])) ∧
      (pduOp q.pdu = pduWrite → entries true = some [e] → pduAon q.pdu = false → e.len ≤ 255 → Does .ledgerWrite s fun m =>
        let w := (next m).writeField .mailbox e.idx e.sub e.len e.value
        let b := w.2.2.inForce e (w.1, w.2.1)
        let reply := replyPdu q.pdu (if w.1 = 0 then 0 else 1) [replyEntry e.idx e.sub e.len w.1 w.2.1 [e.value, b.1]]
        (b.2.modLed fun d => { d with lastReports := Tab.put d.lastReports 1 (reply.take 64) }).mailboxReply reply)) ∧
    (∀ a : BitVec 48, q.party = .port a → pduOp q.pdu = pduDiscover → entries false = some [] →
      (M.of s).keptReply a.toNat (pduSeq q.pdu) = none →
      let m := M.of s
      let reply := replyPdu q.pdu 0 [replyEntry 0x1001 1 8 0 0 [m.obj 0x1001 1], replyEntry 0x1001 2 4 0 0 [m.obj 0x1001 2],
        replyEntry 0x6001 1 2 0 0 [m.obj 0x6001 1], replyEntry 0x1060 1 8 0 0 [m.obj 0x1060 1]]
      Does .discover s fun m =>
        ((next m).modMgmt fun g => { g with kept := keepReply g.kept a.toNat (pduSeq q.pdu) reply }).send (.frame a.toNat reply))

/-- R352, R354, R373, R442, R443: a whole LAP frame for the management port that holds a request joins the queue of requests and is
counted; one that asks again for a reply still kept gets it again; a frame that is not whole is counted, any other EtherType
ignored. PERST# alone, with no chain active, resets the host port and takes the PCIe link down; its release starts the link where
the source is stable and the port's domain on. -/
def Obligations.PortsTakeFramesAndPerst : Prop :=
  (∀ (dest source : BitVec 48) (content : List Byte) (s : State), (M.of s).ledgerRuns = true →
    let pdu := content.take (max 16 (pduLength content))
    (∀ tagged fcsOk stale, Does (.lapFrameReceive dest source false tagged fcsOk content stale) s id) ∧
    (∀ stale, 46 ≤ content.length → Does (.lapFrameReceive dest source true false false content stale) s fun m =>
      (m.wrapObj 0x1060 3 63 32 1).satObj 0x1060 3 15 0 1) ∧
    (46 ≤ content.length → pduLength content ≤ content.length → dest.toNat = (M.of s).mac → dest.toNat ≠ broadcast →
      pduOp pdu ≠ pduTrayReport → pduOp pdu ≠ pduFailsafeAck →
      ((M.of s).keptReply source.toNat (pduSeq pdu) = none →
        ((M.of s).dev.led.queue.filter fun q => q.party != .mailbox).length < 16 →
        Does (.lapFrameReceive dest source true false true content false) s fun m =>
          (m.wrapObj 0x1060 3 63 32 1).modLed fun d => { d with queue := d.queue ++ [{ party := .port source, pdu }] }) ∧
      (∀ reply, (M.of s).keptReply source.toNat (pduSeq pdu) = some reply →
        Does (.lapFrameReceive dest source true false true content false) s fun m =>
          (m.wrapObj 0x1060 3 63 32 1).send (.frame source.toNat reply)))) ∧
  (∀ s : State, (M.of s).live = true → (M.of s).dev.perst = false → (M.of s).objBit 0x2100 3 0 = false →
    (∀ i : Fin 24, ((M.of s).core i).active = 0) → Ends .perst s fun m' =>
      m'.dev.perst = true ∧ m'.dev.pcieUp = false ∧ m'.dev.host.b2Log2 = HostPort.zero.b2Log2 ∧
      m'.dev.host.msixTable = HostPort.zero.msixTable ∧ m'.dev.host.mboxReq = (M.of s).dev.host.mboxReq ∧
      (M.of s).SameMem m' ∧ (M.of s).SameObjs m' [] ∧ (M.of s).SameCores m' [] ∧ (M.of s).SameLinks m' [] ∧ (M.of s).SameLqs m' []) ∧
  (∀ s : State, (M.of s).dev.perst = true → (M.of s).live = true → Does .perstRelease s fun m =>
    { m with dev := { m.dev with perst := false, pcieUp := m.objBit 0x2001 1 2 && m.domOn 34 } })

/-- R376, R377, R408, R411, R413 to R415: an accepted tray report sets the flow and inlet limits; 50 ms without one is cause 3 and enters
the device floor; the floor ends once no cause is left and the readings meet the release conditions. FAILSAFE is repeated, changes with
its cause, and ends after 10 s or with its acknowledgement. A sample of a pair sets its protective reading, the higher of two good
sensors or that of the good one; a failed one is flagged, logged and signalled. A thermal tick moves a hot core's ceiling and a hot
quadrant's budget by one step, and a cool one's back. (Time passes in samples of 100 µs: log entry 21.) -/
def Obligations.HeatIsJudgedAndCooled : Prop :=
  (∀ (source : BitVec 48) (word e : W64) (rest : List W64) (s : State),
    let f := fld e.toNat 63 48
    let t := toSigned 16 (fld e.toNat 31 16)
    let st := fld word.toNat 31 24
    (M.of s).watchRuns = true → (M.of s).trayMac = 0 → (M.of s).dev.mgmt.traySeq = none → (M.of s).dev.mgmt.flows = [] →
    1 ≤ fld word.toNat 23 16 → e.toNat % 256 = (M.of s).nodeId → f ≠ 0xFFFF → 2000 ≤ f → fld e.toNat 31 16 ≠ 0x8000 →
    256 * 15 ≤ t → t < 256 * 45 → st.testBit 1 = false →
    Ends (.trayReport source word (e :: rest)) s fun m =>
      m.obj 0x4010 2 = setFld e.toNat 15 8 st ∧
      m.obj 0x4020 2 = (if 5000 ≤ f then 6000 else 1200 * f / 1000) ∧
      m.obj 0x4020 3 = (if t ≤ 256 * 32 then 6000 else if t ≤ 256 * 40 then 6000 - ((250 * (t - 256 * 32) + 255) / 256).toNat else 2400) ∧
      m.dev.mgmt.traySeq = some (fld word.toNat 15 0) ∧ m.dev.mgmt.age = 0 ∧ m.dev.heat.causes = [] ∧
      m.objFld 0x4020 1 11 8 = 0 ∧
      (M.of s).SameWork m ∧ (M.of s).SameObjs m [(0x4010, 2), (0x4020, 1), (0x4020, 2), (0x4020, 3)]) ∧
  (∀ s : State, (M.of s).watchRuns = true → (M.of s).dev.heat.coolantFloor = false →
    Ends .traySilenceTimeout s fun m =>
      m.AtFloor ∧ m.dev.heat.coolantFloor = true ∧ 3 ∈ m.dev.heat.causes ∧ m.objBit 0x4020 1 8 = true ∧
      m.objFld 0x4020 1 7 4 = 3 ∧ ((M.of s).dev.tripped = false → m.objFld 0x4020 1 3 0 = 2) ∧ m.newestFault = (0x4002, 3, 0) ∧
      (M.of s).SameWork m ∧ (M.of s).SameIndices m [0x3020, 0x3030, 0x3051, 0x3052, 0x3141, 0x4020, 0x7100]) ∧
  (∀ s : State, (M.of s).watchRuns = true → (M.of s).dev.heat.coolantFloor = true → (M.of s).dev.tripped = false →
    (M.of s).dev.mgmt.traySeq ≠ none → (M.of s).dev.heat.causes = [] →
    (∃ f, entryFlow ((M.of s).obj 0x4010 2) = some f ∧ 2500 ≤ f) →
    (∃ t, entryInlet ((M.of s).obj 0x4010 2) = some t ∧ t ≤ 256 * 43) → ((M.of s).obj 0x4010 2).testBit 9 = false →
    Does .coolantRelease s fun m => ((m.toFloor.modHeat fun h => { h with coolantFloor := false }).showCoolState).settle) ∧
  (∀ (c : Nat) (old : Nat) (s : State), (M.of s).watchRuns = true → (M.of s).dev.mgmt.failsafe = some old →
    (M.of s).failsafeCause = some c →
    let w := c * 256 + (M.of s).nodeId
    (w = old → (M.of s).dev.mgmt.failsafeCount < 1000 → Does .failsafeRepeat s fun m =>
      (m.modMgmt fun g => { g with failsafeCount := g.failsafeCount + 1 }).sendFailsafe w) ∧
    (w = old → 1000 ≤ (M.of s).dev.mgmt.failsafeCount → Does .failsafeRepeat s fun m =>
      m.modMgmt fun g => { g with failsafe := none, failsafeCount := 0 }) ∧
    (w ≠ old → Does .failsafeRepeat s fun m =>
      (m.modMgmt fun g => { g with failsafe := some w, failsafeCount := 0 }).sendFailsafe w)) ∧
  (∀ (w : W64) (s : State), (M.of s).watchRuns = true → (M.of s).dev.mgmt.failsafe = some w.toNat →
    Does (.failsafeAck w) s fun m => m.modMgmt fun g => { g with failsafe := none, failsafeCount := 0 }) ∧
  (∀ (idx sub : Nat) (a b : BitVec 16) (s : State), (M.of s).watchRuns = true → pairOk idx sub = true →
    (M.of s).dev.heat.suspectRun = [] → (M.of s).dev.heat.calmRun = [] → (M.of s).objFld idx sub 3 1 = 0 →
    -10240 ≤ b.toInt → b.toInt ≤ 38400 →
    let r := pairRegion (idx % 64) sub
    let ends := fun m : M => ((m.judgeRegion r.1 r.2).modMgmt fun g => { g with
      age := g.age + 1, inletAge := g.inletAge + 1
      flows := (g.flows.map fun f => (f.1 + 1, f.2)).filter fun f => f.1 ≤ 1000 }).settle
    (-10240 ≤ a.toInt → a.toInt ≤ 38400 → a.toInt - b.toInt ≤ 1280 → b.toInt - a.toInt ≤ 1280 →
      Does (.sensorSample true [(idx, sub, some a, some b)]) s fun m => ends (m.setObj idx sub
        (setFld (setFld (setFld (m.obj idx sub) 63 48 a.toNat) 47 32 b.toNat) 31 16 (if a.toInt < b.toInt then b.toNat else a.toNat)))) ∧
    (Does (.sensorSample true [(idx, sub, none, some b)]) s fun m =>
      let m := m.setObj idx sub (setBit (setFld (setFld (m.obj idx sub) 47 32 b.toNat) 31 16 b.toNat) 2 true)
      let m := m.setObjBit r.1 r.2 2 true
      ends (((m.logFault 0x4001 (256 * idx + sub) (m.objFld idx sub 3 0) 0 clkWatch).raise 387).derateCore idx sub))) ∧
  (∀ s : State, (M.of s).watchRuns = true → Ends .thermalTick s fun m =>
    (∀ i, i < 24 →
      let t := temp ((M.of s).objFld 0x4030 (i + 1) 31 16)
      let c := (M.of s).objFld 0x4030 (i + 1) 11 8
      m.objFld 0x4030 (i + 1) 11 8 =
        (if 256 * 102 ≤ t then min 7 (c + 1) else if t ≤ 256 * 98 ∧ (M.of s).objFld 0x3020 4 3 0 < c then c - 1 else c)) ∧
    (∀ n, n < 96 →
      let t := temp ((M.of s).objFld 0x4031 (n + 1) 31 16)
      let top := (M.of s).objFld 0x3140 (n / 16 + 1) 15 0
      let b := Tab.get (M.of s).dev.heat.budgets top n
      Tab.get m.dev.heat.budgets top n = min top
        (if 256 * 92 ≤ t then max 2048 (min b ((M.of s).objFld 0x3141 (n / 16 + 1) 15 0) - 2048) else if t ≤ 256 * 88 then b + 2048 else b)) ∧
    (M.of s).SameWork m ∧ (M.of s).SameIndices m [0x3020, 0x3030, 0x3051, 0x3052, 0x3141, 0x4030, 0x4031])

/-- R382 to R387, R393, R395, R397 to R400, R404: a capping period shows the mean and the applied cap, and moves the common state one
step down over the cap, one up where the next state fits 97 % of it, by no step else; a forced floor stops that. A change of state ends
with the state wanted. A feed's loss and return are counted, logged and signalled; with both gone FAILSAFE is sent and the hold-up's end
removes power. PWR_ALERT_N enters the floor at once, which lasts 1 ms beyond it. A failed phase steps its cluster down; current-limit and
sense events do so through their buckets. An interval of the meter adds each context's energy, the rest, and the sum. (Powers and
energies come with the commands: log entry 22.) -/
def Obligations.PowerIsCappedAndMetered : Prop :=
  (∀ (power next : BitVec 16) (s : State), (M.of s).live = true → (M.of s).floorHeld = false →
    let cap := (M.of s).appliedCap
    let now := (M.of s).objFld 0x3020 4 3 0
    let top := (M.of s).fastest
    Ends (.capPeriod power next) s fun m =>
      m.obj 0x3020 2 = cap ∧
      (let ps := (power.toNat :: (M.of s).dev.power.powers).take 20; m.obj 0x3020 3 = ps.sum / ps.length) ∧
      (power.toNat ≤ cap → 100 * next.toNat ≤ 97 * cap → m.objFld 0x3020 4 3 0 = max top (now - 1)) ∧
      (power.toNat ≤ cap → 97 * cap < 100 * next.toNat → m.objFld 0x3020 4 3 0 = max top now) ∧
      (cap < power.toNat → (M.of s).noExcursion = true → m.objFld 0x3020 4 3 0 = max top (min 7 (now + 1))) ∧
      (cap < power.toNat → (M.of s).noExcursion = false → (M.of s).dev.power.lowering = false → (M.of s).dev.power.overPeriods = 0 →
        1800 ≤ (M.of s).dev.power.okPeriods → power.toNat ≤ 7200 →
        m.objFld 0x3020 4 3 0 = max top now ∧ m.dev.power.overPeriods = 1) ∧
      (M.of s).SameWork m ∧ (M.of s).SameIndices m [0x3020, 0x3030, 0x3051, 0x3052, 0x3141]) ∧
  (∀ (power next : BitVec 16) (s : State), (M.of s).live = true → (M.of s).floorHeld = true →
    Does (.capPeriod power next) s fun m =>
      let ps := (power.toNat :: m.dev.power.powers).take 20
      ((m.modPower fun p => { p with powers := ps }).setObj 0x3020 3 (ps.sum / ps.length)).setObj 0x3020 2 m.appliedCap) ∧
  (∀ (unit : Fin 30) (s : State), (M.of s).live = true → (M.of s).pllRuns (unit.val + 1) = true →
    (unit.val < 24 → Does (.pstateChangeDone unit) s fun m => m.setObjFld 0x3051 (unit.val + 1) 3 0 (m.wantedCore unit.val)) ∧
    (24 ≤ unit.val → Does (.pstateChangeDone unit) s fun m => m.setObjFld 0x3052 (unit.val - 23) 3 0 (m.wantedTier (unit.val - 24)))) ∧
  (∀ (feed : Fin 2) (s : State), (M.of s).dev.powered = true →
    let lost := fun (m : M) => (m.setObjBit 0x3010 1 feed.val false).setObjBit 0x3010 1 3 false
    let told := fun (m : M) => (m.logFault 0x3001 (m.obj 0x3010 1) 0 0 clkWatch).raise 387
    ((M.of s).objBit 0x3010 1 feed.val = true → (M.of s).objBit 0x3010 1 (1 - feed.val) = true →
      Does (.feedOutOfRange feed) s fun m => told ((lost m).satObj 0x3010 1 23 16 1)) ∧
    ((M.of s).objBit 0x3010 1 feed.val = true → (M.of s).objBit 0x3010 1 (1 - feed.val) = false →
      Does (.feedOutOfRange feed) s fun m => ((told (lost m)).modMgmt fun g => { g with powerAsked := true }).askFailsafe) ∧
    ((M.of s).objBit 0x3010 1 feed.val = false → Does (.feedRestore feed) s fun m =>
      told ((m.setObjBit 0x3010 1 feed.val true).setObjBit 0x3010 1 3 (m.objBit 0x3010 1 (1 - feed.val)))) ∧
    ((M.of s).objBit 0x3010 1 0 = false → (M.of s).objBit 0x3010 1 1 = false →
      Does .holdUpExpiry s fun m => { m with dev := { m.dev with powered := false } })) ∧
  (∀ s : State, (M.of s).watchRuns = true →
    (∀ causes : BitVec 5, (M.of s).dev.power.alertLow = false → Ends (.pwrAlertAssert causes) s fun m =>
      m.AtFloor ∧ m.objFld 0x3020 4 7 4 = 5 ∧ m.dev.power.alertLow = true ∧ m.objBit 0x3010 1 2 = true ∧
      m.objFld 0x3400 1 4 0 = (if causes = 0 then 1 else causes.toNat) ∧
      m.objFld 0x3400 1 31 16 = min ((M.of s).objFld 0x3400 1 31 16 + 1) 0xFFFF ∧
      m.newestFault = (0x3002, m.obj 0x3400 1 % 2 ^ 32, 0) ∧
      (M.of s).SameWork m ∧ (M.of s).SameIndices m [0x3010, 0x3020, 0x3030, 0x3051, 0x3052, 0x3141, 0x3400, 0x7100]) ∧
    ((M.of s).dev.power.alertLow = true →
      (Does .pwrAlertRelease s fun m =>
        (((m.setObjBit 0x3010 1 2 false).modPower fun p => { p with alertLow := false, alertHold := true }).modMgmt fun g =>
          { g with powerAsked := false }).settle) ∧
      (Does .pwrAlertLong s fun m => (m.modMgmt fun g => { g with powerAsked := true }).askFailsafe)) ∧
    ((M.of s).dev.power.alertHold = true → Does .floorHoldEnd s fun m => (m.modPower fun p => { p with alertHold := false }).settle)) ∧
  (∀ (pos : Fin 31) (k : Fin 70) (phase : Fin 9) (s : State), (M.of s).live = true → k.val < clusterCount pos.val →
    let idx := 0x3200 + pos.val
    let steps := fun (n : Nat) (m : M) => (((m.setObjFld idx (k.val + 1) 3 2 n).setObjFld idx (k.val + 1) 1 0 n).logFault 0x3003
      (256 * pos.val + k.val) n 0 clkMgmt)
    let after := fun (m : M) (cls inst : Nat) => (m.modBuckets fun b => Tab.erase b (bucketKey cls inst)).logFault 0x7004
      (cls * 2 ^ 24 + inst) 0 0 clkMgmt
    let one := (256 * pos.val + k.val) * 16 + phase.val
    let lvl := fun cls inst : Nat => Tab.get (M.of s).dev.buckets 0 (bucketKey cls inst) + 1
    (M.of s).objFld idx (k.val + 1) 1 0 ≠ 3 →
    ((M.of s).objFld idx (k.val + 1) 3 2 = 0 → Does (.phaseFault pos k) s fun m => (steps 1 m).settle) ∧
    ((M.of s).objFld idx (k.val + 1) 3 2 = 1 → Does (.phaseFault pos k) s fun m => ((steps 2 m).derate pos.val k.val).settle) ∧
    ((M.of s).objFld idx (k.val + 1) 3 2 = 2 → isComputePos pos.val = true → k.val < 64 → Does (.phaseFault pos k) s fun m =>
      (((steps 3 m).setDom (4 * (pos.val / 5) + k.val / 16) 4).fence (4 * (pos.val / 5) + k.val / 16) 3).settle) ∧
    (lvl 6 one < (M.of s).objFld 0x7030 6 31 0 → Does (.currentLimitTrip pos k phase) s fun m =>
      m.modBuckets fun b => Tab.put b (bucketKey 6 one) (lvl 6 one)) ∧
    ((M.of s).objFld 0x7030 6 31 0 ≤ lvl 6 one → (M.of s).objFld idx (k.val + 1) 3 2 = 0 →
      Does (.currentLimitTrip pos k phase) s fun m => (steps 1 (after m 6 one)).settle) ∧
    (lvl 5 (256 * pos.val + k.val) < (M.of s).objFld 0x7030 5 31 0 → Does (.senseEvent pos k) s fun m =>
      (m.satObj idx (k.val + 1) 31 16 1).modBuckets fun b => Tab.put b (bucketKey 5 (256 * pos.val + k.val)) (lvl 5 (256 * pos.val + k.val))) ∧
    ((M.of s).objFld 0x7030 5 31 0 ≤ lvl 5 (256 * pos.val + k.val) → (M.of s).objFld idx (k.val + 1) 3 2 = 0 →
      Does (.senseEvent pos k) s fun m => (steps 1 (after (m.satObj idx (k.val + 1) 31 16 1) 5 (256 * pos.val + k.val))).settle)) ∧
  (∀ (es : List W64) (un : W64) (s : State), (M.of s).live = true → es.length ≤ 16 → Ends (.tollIntegrate es un) s fun m =>
    (∀ k, k < 16 → m.obj 0xA011 (k + 1) = if k < es.length then ((M.of s).obj 0xA011 (k + 1) + (es.getD k 0).toNat) % 2 ^ 64
      else (M.of s).obj 0xA011 (k + 1)) ∧
    m.obj 0xA010 2 = ((M.of s).obj 0xA010 2 + un.toNat) % 2 ^ 64 ∧
    m.obj 0xA010 1 = ((M.of s).obj 0xA010 1 + ((es.map (·.toNat)).sum + un.toNat)) % 2 ^ 64 ∧
    (M.of s).SameWork m ∧ (M.of s).SameIndices m [0xA010, 0xA011])

/-- R363, R365 to R367, R372, R378, R462, R475: CLAIM of an unowned Ledger makes the party its owner, of another's is rejected; RELEASE and
the lease's end leave it unowned, the latter logged. SAVE takes the values of the persistent objects into the flash when it is done,
FORGET empties it, a failed one leaves it. The port runs on its new settings. A CLEAR empties a log and leaves its count of lost entries.
The owner sets and clears flags. A party that is not the owner is rejected with reason 3 and changes nothing; while the fallback
responder serves, every write is rejected with reason 0xA. -/
def Obligations.OwnerCommandsAreApplied : Prop :=
  (∀ (p q : Party) (s : State), (M.of s).hears p = true → (M.of s).responder = false →
    ((M.of s).dev.led.owner = none → Applies (.claim p) s 0x1040 2 1 fun m => (m.modLed fun d => { d with owner := some p }).cancelSession) ∧
    ((M.of s).dev.led.owner = some p → Applies (.claim p) s 0x1040 2 1 id) ∧
    ((M.of s).dev.led.owner = some q → q ≠ p → Rejects (.claim p) s 0x1040 2 1 7)) ∧
  (∀ (p : Party) (s : State), (M.of s).Serves p →
    (Applies (.release p) s 0x1040 3 1 fun m => (m.modLed fun d => { d with owner := none }).cancelSession) ∧
    ((M.of s).objBit 0x1020 2 0 = false →
      (Applies (.save p) s 0x1020 1 1 fun m => (m.setObjBit 0x1020 2 0 true).modLed fun d => { d with
        saving := some m.saveCopy, erasing := false }) ∧
      (Applies (.forget p) s 0x1020 1 2 fun m => (m.setObjBit 0x1020 2 0 true).modLed fun d => { d with saving := none, erasing := true })) ∧
    ((M.of s).objBit 0x1020 2 0 = true → Rejects (.save p) s 0x1020 1 1 7 ∧ Rejects (.forget p) s 0x1020 1 2 7) ∧
    (Ends (.faultLogClear p) s fun m =>
      (∀ k, 1 ≤ k → k ≤ 240 → m.obj 0x7100 k = 0) ∧ m.objFld 0x7100 0xF1 15 0 = 0 ∧
      m.objFld 0x7100 0xF1 31 16 = (M.of s).objFld 0x7100 0xF1 31 16 ∧ (M.of s).SameWork m ∧ (M.of s).SameIndices m [0x7100]) ∧
    (∀ l : Fin 24, Ends (.memoryLogClear p l) s fun m =>
      (∀ k, 1 ≤ k → k ≤ 64 → m.obj (0x5201 + l.val) k = 0) ∧ m.objFld (0x5201 + l.val) 65 22 0 = 0 ∧
      (M.of s).SameWork m ∧ (M.of s).SameIndices m [0x5201 + l.val]) ∧
    (∀ (i : Fin 24) (f : Fin 1024), (M.of s).coreAbsent i.val = false →
      ((∀ t ∈ ((M.of s).core i.val).waiters, t.syncWaits (isWaitOn f.val) = false) →
        ((M.of s).core i.val).flags.toNat.testBit f.val = false →
        Applies (.ledgerFlagSet p i f) s 0x8061 (i.val + 1) (2 ^ 16 + f.val) fun m =>
          m.modCore i.val fun k => { k with flags := BitVec.ofNat 1024 (setBit k.flags.toNat f.val true) }) ∧
      (Applies (.ledgerFlagClear p i f) s 0x8061 (i.val + 1) (2 ^ 17 + f.val) fun m =>
        m.modCore i.val fun k => { k with flags := BitVec.ofNat 1024 (setBit k.flags.toNat f.val false) }))) ∧
  (∀ (p : Party) (s : State), (M.of s).ledgerRuns = true → (M.of s).responder = false → (M.of s).dev.led.owner = some p →
    Does .leaseExpiry s fun m =>
      ((m.logFault 0x1001 p.kind p.mac 0 clkMgmt).modLed fun d => { d with owner := none }).cancelSession) ∧
  (∀ s : State, (M.of s).live = true →
    ((M.of s).objBit 0x1020 2 0 = true →
      let done := fun (m : M) (fails : Bool) => (m.setObjBit 0x1020 2 0 false).setObjBit 0x1020 2 1 fails
      (∀ v, (M.of s).dev.led.saving = some v → Does (.saveDone true) s fun m =>
        ((done m false).satObj 0x1020 2 31 16 1).modLed fun d => { d with saving := none, erasing := false, saved := v }) ∧
      ((M.of s).dev.led.saving = none → (M.of s).dev.led.erasing = true → Does (.saveDone true) s fun m =>
        (done m false).modLed fun d => { d with saving := none, erasing := false, saved := [] }) ∧
      (Does (.saveDone false) s fun m => (done m true).modLed fun d => { d with saving := none, erasing := false })) ∧
    ((M.of s).dev.mgmt.applyDue = true → Does .mgmtSettingsApply s fun m =>
      m.modMgmt fun g => { g with inEffect := some (m.obj 0x1060 1), applyDue := false })) ∧
  (∀ (k : Fin 240) (s : State), (M.of s).dev.powered = true → Does (.faultLogPersist k) s fun m =>
    m.modFaults fun f => { f with unsaved := f.unsaved.filter (· != k.val + 1) }) ∧
  (∀ (p : Party) (i l : Fin 24) (f : Fin 1024) (d : Fin 38) (x : BitVec 8) (s : State), (M.of s).hears p = true →
    ((M.of s).responder = true → Rejects (.claim p) s 0x1040 2 1 0xA ∧ Rejects (.release p) s 0x1040 3 1 0xA ∧
      Rejects (.save p) s 0x1020 1 1 0xA ∧ Rejects (.fence p i) s 0x7001 (i.val + 1) 2 0xA ∧ Rejects (.resetDevice p) s 0x2100 1 4 0xA) ∧
    ((M.of s).responder = false → (M.of s).dev.led.owner ≠ some p →
      Rejects (.release p) s 0x1040 3 1 3 ∧ Rejects (.save p) s 0x1020 1 1 3 ∧ Rejects (.forget p) s 0x1020 1 2 3 ∧
      Rejects (.faultLogClear p) s 0x7100 0xF1 (2 ^ 63) 3 ∧ Rejects (.memoryLogClear p l) s (0x5201 + l.val) 65 (2 ^ 31) 3 ∧
      Rejects (.ledgerFlagSet p i f) s 0x8061 (i.val + 1) (2 ^ 16 + f.val) 3 ∧
      Rejects (.ledgerFlagClear p i f) s 0x8061 (i.val + 1) (2 ^ 17 + f.val) 3 ∧ Rejects (.fence p i) s 0x7001 (i.val + 1) 2 3 ∧
      Rejects (.unfence p i) s 0x7001 (i.val + 1) 4 3 ∧ Rejects (.domainOn p d) s 0x3100 (d.val + 1) 0 3 ∧
      Rejects (.domainOff p d) s 0x3100 (d.val + 1) 1 3 ∧ Rejects (.resetCore p x) s 0x2100 1 (x.toNat * 256 + 1) 3 ∧
      Rejects (.resetPartition p x) s 0x2100 1 (x.toNat * 256 + 3) 3 ∧ Rejects (.resetDevice p) s 0x2100 1 4 3 ∧
      Rejects (.runTest p) s 0x7060 2 1 3 ∧ Rejects (.endPair p) s 0x6500 3 4 3 ∧ Rejects (.resync p) s 0x6500 3 2 3 ∧
      Rejects (.takeover p) s 0x6500 3 1 3))

/-- R391, R392, R455 to R457: a FENCE of an idle core takes hold at once (flag, domain OFF, core cleared, logged, barriers judged), of a
busy one when it has drained; UNFENCE ends a fence whose cause allows it, logs it and turns the domain on. A request starts a switched
domain's transition, is held while one runs, and is rejected for a dark or fused domain, for a fenced core's, and for the host port's
own domain by the mailbox. The end of a transition clears what the domain holds. -/
def Obligations.FencesAndDomainsSwitch : Prop :=
  (∀ (p : Party) (i : Fin 24) (s : State), (M.of s).Serves p →
    let parked := fun m : M => ((m.modCore i.val fun c => { c with disabling := some .fence, fetch := none, wait := none }).discardStaged i.val)
    ((M.of s).fusedOff i.val = true → Rejects (.fence p i) s 0x7001 (i.val + 1) 2 7 ∧ Rejects (.unfence p i) s 0x7001 (i.val + 1) 4 7) ∧
    ((M.of s).fusedOff i.val = false →
      ((M.of s).fenced i.val = true → Applies (.fence p i) s 0x7001 (i.val + 1) 2 id) ∧
      ((M.of s).fenced i.val = false → Rejects (.unfence p i) s 0x7001 (i.val + 1) 4 7) ∧
      ((M.of s).fenced i.val = false → ((M.of s).core i.val).disabling = none →
        (((M.of s).core i.val).run ≠ none ∨ ((M.of s).core i.val).ready ≠ none) →
          Applies (.fence p i) s 0x7001 (i.val + 1) 2 fun m => parked (m.setObjFld 0x7001 (i.val + 1) 15 8 1)) ∧
      ((M.of s).fenced i.val = false → ((M.of s).core i.val).disabling = none → ((M.of s).core i.val).run = none →
        ((M.of s).core i.val).ready = none → ((M.of s).core i.val).active = 0 →
        (∀ x, x < 16 → ((M.of s).ctx i.val x).parkedRun = none) → (M.of s).domState i.val ≠ 4 →
        Applies (.fence p i) s 0x7001 (i.val + 1) 2 fun m =>
          (((((parked (m.setObjFld 0x7001 (i.val + 1) 15 8 1)).setObjBit 0x7001 (i.val + 1) 0 true).setObjFld 0x3100 (i.val + 1) 7 4 2).clearCore
            i.val).logFault 0x7001 i.val 1 0 clkMgmt).judgeBarriers) ∧
      ((M.of s).fenced i.val = true →
        ((M.of s).objFld 0x7001 (i.val + 1) 15 8 = 3 ∨ (M.of s).objFld 0x7001 (i.val + 1) 15 8 = 4 →
          Rejects (.unfence p i) s 0x7001 (i.val + 1) 4 7) ∧
        ((M.of s).objFld 0x7001 (i.val + 1) 15 8 = 1 ∨ ((M.of s).objFld 0x7001 (i.val + 1) 15 8 = 2 ∧ i.val ∉ (M.of s).dev.faults.trunkBad) →
          (M.of s).domState i.val = 2 → Applies (.unfence p i) s 0x7001 (i.val + 1) 4 fun m =>
            (((m.setObjFld 0x7001 (i.val + 1) 15 8 0).setObjBit 0x7001 (i.val + 1) 0 false).logFault 0x7002 i.val 0 0 clkMgmt).setObjFld
              0x3100 (i.val + 1) 7 4 3)))) ∧
  (∀ (p : Party) (d : Fin 38) (s : State), (M.of s).Serves p →
    let st := (M.of s).domState d.val
    let put := fun (c : Nat) (m : M) => m.setObj 0x3100 (d.val + 1) (16 * st + c)
    let state := fun (k : Nat) (m : M) => m.setObjFld 0x3100 (d.val + 1) 7 4 k
    let free := 24 ≤ d.val ∨ (M.of s).fenced d.val = false
    (st = 4 ∨ st = 5 → Rejects (.domainOn p d) s 0x3100 (d.val + 1) 0 7 ∧ Rejects (.domainOff p d) s 0x3100 (d.val + 1) 1 7) ∧
    (st = 0 → p = .mailbox → d.val = 34 → Rejects (.domainOff p d) s 0x3100 (d.val + 1) 1 7) ∧
    (st ≠ 4 → st ≠ 5 → d.val < 24 → (M.of s).fenced d.val = true →
      Rejects (.domainOn p d) s 0x3100 (d.val + 1) 0 7 ∧ Applies (.domainOff p d) s 0x3100 (d.val + 1) 1 id) ∧
    (st = 2 → free → Applies (.domainOn p d) s 0x3100 (d.val + 1) 0 fun m => state 3 (put 0 m)) ∧
    (st = 0 → free → Applies (.domainOn p d) s 0x3100 (d.val + 1) 0 (put 0)) ∧
    (st = 1 ∨ st = 3 → free → ¬ (d.val = 34 ∧ p = .mailbox) →
      (Applies (.domainOn p d) s 0x3100 (d.val + 1) 0 fun m => (put 0 m).modPower fun q => { q with heldReq := Tab.put q.heldReq d.val 0 }) ∧
      (Applies (.domainOff p d) s 0x3100 (d.val + 1) 1 fun m => (put 1 m).modPower fun q => { q with heldReq := Tab.put q.heldReq d.val 1 })) ∧
    (st = 0 → ¬ (d.val = 34 ∧ p = .mailbox) →
      (d.val < 24 → (M.of s).fenced d.val = false → Applies (.domainOff p d) s 0x3100 (d.val + 1) 1 fun m =>
        ((state 1 (put 1 m)).disable d.val .switchOff).judgeBarriers) ∧
      (24 ≤ d.val → d.val < 30 ∨ d.val = 34 ∨ d.val = 35 ∨ d.val = 37 →
        Applies (.domainOff p d) s 0x3100 (d.val + 1) 1 fun m => state 1 (put 1 m)) ∧
      (30 ≤ d.val → d.val < 34 → Applies (.domainOff p d) s 0x3100 (d.val + 1) 1 fun m =>
        ((List.range 8).map (8 * (d.val - 30) + ·)).foldl (fun (m : M) l => m.linkDrain l) (state 1 (put 1 m))) ∧
      (d.val = 36 → Applies (.domainOff p d) s 0x3100 (d.val + 1) 1 fun m => (state 1 (put 1 m)).cancelSession))) ∧
  (∀ (d : Fin 38) (s : State), (M.of s).live = true → Tab.find? (M.of s).dev.power.heldReq d.val = none →
    let state := fun (k : Nat) (m : M) => m.setObjFld 0x3100 (d.val + 1) 7 4 k
    let links := (List.range 8).map (8 * (d.val - 30) + ·)
    ((M.of s).domState d.val = 1 →
      (d.val < 24 → ((M.of s).core d.val).run = none → ((M.of s).core d.val).ready = none →
        Does (.domainTransitionDone d) s fun m => (state 2 (m.clearCore d.val)).judgeBarriers) ∧
      (d.val < 24 → ((M.of s).core d.val).run ≠ none → Does (.domainTransitionDone d) s id) ∧
      (24 ≤ d.val → d.val < 30 → Does (.domainTransitionDone d) s fun m =>
        state 2 ((tierLqs (d.val - 24)).foldl (fun (m : M) n => (m.serveAll n).clearLq n) (m.stopTouching (d.val - 24)))) ∧
      (30 ≤ d.val → d.val < 34 → Does (.domainTransitionDone d) s fun m => state 2 (links.foldl (fun (m : M) l => m.linkOff l) m)) ∧
      (d.val = 34 → Does (.domainTransitionDone d) s fun m => (state 2 m).pcieStop) ∧
      (35 ≤ d.val → Does (.domainTransitionDone d) s (state 2))) ∧
    ((M.of s).domState d.val = 3 →
      (d.val < 24 → Does (.domainTransitionDone d) s fun m => (((state 0 m).clearCore d.val).clearCis d.val).judgeBarriers) ∧
      (30 ≤ d.val → d.val < 34 → Does (.domainTransitionDone d) s fun m => links.foldl (fun (m : M) l => m.linkWake l) (state 0 m)) ∧
      (d.val = 34 → Does (.domainTransitionDone d) s fun m => (state 0 m).pcieStart) ∧
      ((24 ≤ d.val ∧ d.val < 30) ∨ 35 ≤ d.val → Does (.domainTransitionDone d) s (state 0))))

/-- R424, R427 to R434, R443: the loss of the thermal watch oscillator stops every clock. A missing edge makes a source absent and not
stable and counts it; each PLL that runs on REF100 with AUTO goes over to SYN100 where that is ready. Four good windows in a row make a
source stable, eight a PLL, two or three bad ones make it lost. A requested switch to a source that is ready starts at once; one to a
source that is not is rejected, with REFUSED set. -/
def Obligations.ClocksAreJudged : Prop :=
  (∀ s : State, (M.of s).dev.powered = true →
    let lost := fun m : M => ({ m with dev := { m.dev with oscLost := true } } : M).setObjBit 0x2001 1 5 false
    ((M.of s).dev.oscLost = false → Does .twpOscLoss s lost ∧ Does (.missingEdge 2) s lost) ∧
    ((M.of s).dev.oscLost = true → Does .twpOscLoss s id ∧ Does (.missingEdge 2) s id)) ∧
  (∀ s : State, (M.of s).watchRuns = true →
    let edge := fun (src hi lo : Nat) (m : M) => ((((m.setObjBit 0x2001 1 (2 + src) false).setObjBit 0x2001 1 src false).satObj 0x2001 1 hi lo 1).modClocks
      fun c => { c with runs := Tab.erase c.runs src })
    ((M.of s).objBit 0x2001 1 0 = true → (∀ n, 1 ≤ n → n ≤ 36 → (M.of s).pllSrc n ≠ 1) →
      Does (.missingEdge 0) s fun m => (edge 0 31 24 m).pcieStop) ∧
    ((M.of s).objBit 0x2001 1 1 = true → (M.of s).objBit 0x2001 1 4 = true → (∀ n, 1 ≤ n → n ≤ 36 → (M.of s).pllSrc n ≠ 2) →
      Does (.missingEdge 1) s (edge 1 23 16)) ∧
    ((M.of s).objBit 0x2001 1 0 = true → (M.of s).objBit 0x2001 1 4 = true → (M.of s).pllSrc 36 = 2 →
      Ends (.missingEdge 0) s fun m =>
        m.objBit 0x2001 1 0 = false ∧ m.objBit 0x2001 1 2 = false ∧
        m.objFld 0x2001 1 31 24 = min ((M.of s).objFld 0x2001 1 31 24 + 1) 0xFF ∧ m.dev.pcieUp = false ∧
        (∀ n, 1 ≤ n → n ≤ 31 → (M.of s).pllSrc n = 1 → (M.of s).pllState n ≠ 0 → (M.of s).pllState n ≠ 3 →
          (M.of s).objBit 0x2010 n 10 = true → m.pllState n = 4 ∧ m.pllSrc n = 0) ∧
        (∀ n, 1 ≤ n → n ≤ 36 → (M.of s).pllSrc n ≠ 1 → m.obj 0x2010 n = (M.of s).obj 0x2010 n) ∧
        (M.of s).SameMem m ∧ (M.of s).SameIndices m [0x2001, 0x2010])) ∧
  (∀ s : State, (M.of s).watchRuns = true → (M.of s).dev.tripped = false → (M.of s).dev.host.held = [] →
    let good := fun k => Tab.get (M.of s).dev.clocks.runs 0 k
    let count := fun (k v : Nat) (m : M) => m.modClocks fun c => { c with runs := Tab.put c.runs k v }
    (good 1 < 3 → Does (.clockJudgeWindow 1 true) s fun m => (count 1 (good 1 + 1) m).setObjBit 0x2001 1 1 true) ∧
    (good 1 = 3 → (M.of s).objBit 0x2001 1 3 = false → (M.of s).pllState 36 = 0 → Does (.clockJudgeWindow 1 true) s fun m =>
      ((((count 1 4 m).setObjBit 0x2001 1 1 true).setObjBit 0x2001 1 3 true).setObjFld 0x2010 36 2 0 1).modClocks fun c =>
        { c with runs := Tab.erase c.runs 37 }) ∧
    (good 0 < 3 → (M.of s).objBit 0x2001 1 1 = true → Does (.clockJudgeWindow 0 true) s fun m =>
      (count 0 (good 0 + 1) m).setObjBit 0x2001 1 0 true) ∧
    (good 0 = 2 ^ 16 + 1 → (M.of s).objBit 0x2001 1 1 = true → (M.of s).objBit 0x2001 1 2 = true →
      (∀ n, 1 ≤ n → n ≤ 36 → (M.of s).pllSrc n ≠ 1) → Does (.clockJudgeWindow 0 false) s fun m =>
        ((((count 0 (2 ^ 16 + 2) m).setObjBit 0x2001 1 2 false).satObj 0x2001 1 31 24 1).modClocks fun c =>
          { c with runs := Tab.erase c.runs 0 }).pcieStop) ∧
    ((M.of s).objBit 0x2001 1 1 = false → Does (.clockJudgeWindow 0 true) s id) ∧
    (∀ n : Fin 24, (M.of s).objBit 0x2001 1 1 = true →
      let clock : Fin 38 := ⟨n.val + 2, by omega⟩
      (good (n.val + 2) = 7 → (M.of s).pllState (n.val + 1) = 1 ∨ (M.of s).pllState (n.val + 1) = 4 → Does (.clockJudgeWindow clock true) s fun m =>
        (count (n.val + 2) 8 m).setObjFld 0x2010 (n.val + 1) 2 0 2) ∧
      (good (n.val + 2) < 2 ^ 16 → (M.of s).pllState (n.val + 1) = 2 → Does (.clockJudgeWindow clock false) s (count (n.val + 2) (2 ^ 16 + 1))) ∧
      (good (n.val + 2) = 2 ^ 16 + 2 → (M.of s).pllState (n.val + 1) = 2 → Does (.clockJudgeWindow clock false) s fun m =>
        (((count (n.val + 2) (2 ^ 16 + 3) m).setObjFld 0x2010 (n.val + 1) 2 0 3).modClocks fun c =>
          { c with runs := Tab.erase c.runs (n.val + 2) }).satObj 0x2010 (n.val + 1) 31 24 1) ∧
      ((M.of s).pllState (n.val + 1) = 0 → Does (.clockJudgeWindow clock true) s id))) ∧
  (∀ (p : Party) (n : Fin 36) (b : Bool) (s : State), (M.of s).Serves p →
    let old := (M.of s).obj 0x2010 (n.val + 1)
    let v := setBit old 8 b
    let from_ := (M.of s).pllSrc (n.val + 1)
    (∀ i, old.testBit i = true → i ∈ [0, 1, 2, 4, 5, 8, 10, 11] ∨ (24 ≤ i ∧ i < 32)) →
    (b = true → 31 ≤ n.val → Does (.srcReq p n b) s fun m => (m.setObjBit 0x2010 (n.val + 1) 11 true).reported 0x2010 (n.val + 1) v 2 5) ∧
    (n.val < 31 → from_ ≠ b.toNat → (M.of s).objBit 0x2001 1 (if b then 2 else 4) = true →
      Applies (.srcReq p n b) s 0x2010 (n.val + 1) v fun m => ((((m.setObj 0x2010 (n.val + 1) v).setObjBit 0x2010 (n.val + 1) 11 false).setObjFld
        0x2010 (n.val + 1) 5 4 b.toNat).setObjFld 0x2010 (n.val + 1) 2 0 4).modClocks fun c => { c with runs := Tab.erase c.runs (n.val + 2) }) ∧
    (n.val < 31 → from_ ≠ b.toNat → (M.of s).objBit 0x2001 1 (if b then 2 else 4) = false →
      Does (.srcReq p n b) s fun m => (m.setObjBit 0x2010 (n.val + 1) 11 true).reported 0x2010 (n.val + 1) v 2 7) ∧
    (n.val < 31 → from_ = b.toNat → Applies (.srcReq p n b) s 0x2010 (n.val + 1) v fun m =>
      (m.setObj 0x2010 (n.val + 1) v).setObjBit 0x2010 (n.val + 1) 11 false))

/-- R438 to R443, R446, R450, R452, R459: a reset request is taken while none is under way, for a target that exists and is not fused
off, and rejected with reason 5 or 7 otherwise; it begins by DISABLING its cores, and is not released while one of them runs. A core reset
clears the core and its Cistern and is counted; a device reset, the watchdog's and a power-on leave STAGE at 0x00 and every byte of memory
zero. Each bring-up stage that completes leads to the next; one that fails stops bring-up, logged. The watchdog's timers act as ACTION says.
A bond test pass begins where none runs; a failed lane takes a spare; with none left it closes an open spine port or maps its lane group
out. -/
def Obligations.ResetsBringUpAndTests : Prop :=
  (∀ (p : Party) (x : BitVec 8) (full : Bool) (s : State), (M.of s).Serves p →
    let ask := fun (level target : Nat) (f : Bool) (m : M) =>
      ({ m with dev := { m.dev with reset := some ⟨level, target, f, false, false⟩ } } : M)
    let vTier := x.toNat * 256 + full.toNat * 16 + 2
    (24 ≤ x.toNat → Rejects (.resetCore p x) s 0x2100 1 (x.toNat * 256 + 1) 5) ∧
    (x.toNat = 0 ∨ 7 ≤ x.toNat → Rejects (.resetTier p x full) s 0x2100 1 vTier 5) ∧
    (2 ≤ x.toNat → Rejects (.resetPartition p x) s 0x2100 1 (x.toNat * 256 + 3) 5) ∧
    ((M.of s).dev.reset ≠ none →
      (x.toNat < 24 → Rejects (.resetCore p x) s 0x2100 1 (x.toNat * 256 + 1) 7) ∧
      (1 ≤ x.toNat → x.toNat ≤ 6 → Rejects (.resetTier p x full) s 0x2100 1 vTier 7) ∧
      (x.toNat < 2 → Rejects (.resetPartition p x) s 0x2100 1 (x.toNat * 256 + 3) 7) ∧
      Rejects (.resetDevice p) s 0x2100 1 4 7) ∧
    ((M.of s).dev.reset = none →
      (x.toNat < 24 → (M.of s).fusedOff x.toNat = true → Rejects (.resetCore p x) s 0x2100 1 (x.toNat * 256 + 1) 7) ∧
      (x.toNat < 24 → (M.of s).fusedOff x.toNat = false →
        Applies (.resetCore p x) s 0x2100 1 (x.toNat * 256 + 1) (ask 1 x.toNat false)) ∧
      (1 ≤ x.toNat → x.toNat ≤ 6 → Applies (.resetTier p x full) s 0x2100 1 vTier (ask 2 x.toNat full)) ∧
      (x.toNat < 2 → Applies (.resetPartition p x) s 0x2100 1 (x.toNat * 256 + 3) (ask 3 x.toNat false)) ∧
      Applies (.resetDevice p) s 0x2100 1 4 (ask 4 0 false))) ∧
  (∀ (r : ResetReq) (n : BitVec 32) (s : State), (M.of s).live = true → (M.of s).dev.reset = some r →
    let mark := fun (q : ResetReq) (m : M) => ({ m with dev := { m.dev with reset := some q } } : M)
    let clear := fun m : M => ({ m with dev := { m.dev with reset := none } } : M)
    (r.begun = false → r.level ≠ 4 → Does .resetBegin s fun m =>
      (m.resetCores r).foldl (fun (m : M) i => m.disable i .reset) (mark { r with begun := true } m)) ∧
    (r.begun = false → r.level = 4 → Does .resetBegin s fun m =>
      ((List.range 32).foldl (fun (m : M) l => m.linkDrain l)
        ((m.resetCores r).foldl (fun (m : M) i => m.disable i .reset) (mark { r with begun := true } m))).pcieStop) ∧
    (r.begun = true → r.asserted = false → r.spine = true →
      (∀ i ∈ (M.of s).resetCores r, ((M.of s).core i).run = none ∧ ((M.of s).core i).ready = none) →
      Does (.spineQuiesceEnd n) s fun m => mark { r with asserted := true } ((m.endDrain r).wrapObj 0x2100 2 63 32 n.toNat)) ∧
    ((∃ i ∈ (M.of s).resetCores r, ((M.of s).core i).run ≠ none) → Does .resetRelease s id ∧ Does (.spineQuiesceEnd n) s id) ∧
    (r.level = 1 → r.begun = true → (M.of s).fusedOff r.target = false → ((M.of s).core r.target).run = none →
      ((M.of s).core r.target).ready = none → Does .resetRelease s fun m =>
        (clear ((((((m.clearCore r.target).clearCis r.target).modCore r.target fun c => { c with inReset := false }).satObj 0x2100 2 31 16
          1).setObjFld 0x2100 2 15 8 r.target |>.setObjBit 0x2100 2 7 r.fullLayer).setObjFld 0x2100 2 6 4 1)).judgeBarriers) ∧
    (r.level = 4 → r.begun = true → r.asserted = true → s.sound →
      (∀ i ∈ (M.of s).resetCores r, ((M.of s).core i).run = none ∧ ((M.of s).core i).ready = none) →
      Ends .resetRelease s fun m => m.obj 0x1010 1 = 0 ∧ m.dev.reset = none ∧ (∀ a, a < 2 ^ 48 → m.byte a = 0) ∧ m.dev.led.owner = none)) ∧
  (∀ s : State, s.sound → (M.of s).dev.powered = false ∨ (M.of s).dev.tripped = true ∨ (M.of s).dev.oscLost = true →
    Ends .powerOn s fun m => m.dev.powered = true ∧ m.dev.tripped = false ∧ m.dev.oscLost = false ∧ m.obj 0x1010 1 = 0 ∧
      m.obj 0x4020 4 = (M.of s).obj 0x4020 4 ∧ (∀ a, a < 2 ^ 48 → m.byte a = 0)) ∧
  (∀ (bad : BitVec 24) (cold : BitVec 6) (s : State), (M.of s).live = true →
    let stage := (M.of s).obj 0x1010 1
    let stop := fun m : M => (m.logFault 0x1003 stage 0 0 clkMgmt).setStage 0xFF
    (stage = 0 → Does (.bringupStageEnd false bad cold) s fun m => (stop m).modMgmt fun g => { g with responder := true }) ∧
    (stage = 2 ∨ stage = 3 → Does (.bringupStageEnd false bad cold) s stop) ∧
    (stage = 0 → (M.of s).srcStable 1 = true → (M.of s).objBit 0x2001 1 4 = true →
      Does (.bringupStageEnd true bad cold) s fun m => m.setStage 1) ∧
    (stage = 1 → (M.of s).verifyImages bad.toNat = (true, M.of s) → Does (.bringupStageEnd true bad cold) s fun m =>
      (m.restoreSaved.setObjBit 0x7060 3 0 true).setStage 2) ∧
    (stage = 2 → bad = 0 → Does (.bringupStageEnd true bad cold) s fun m =>
      (List.range 32).foldl (fun (m : M) l => m.linkWake l)
        (((((m.modFaults fun f => { f with trunkBad := f.trunkNow, trunkNow := [] }).setObjBit 0x7060 3 0 false).satObj 0x7060 3 31 16
          1).startPlls).setStage 3)) ∧
    (stage = 3 → (M.of s).stage3Ready = false → Does (.bringupStageEnd true bad cold) s id) ∧
    (stage = 3 → (M.of s).stage3Ready = true → s.sound → Ends (.bringupStageEnd true bad cold) s fun m =>
      m.obj 0x1010 1 = 4 ∧ (∀ a, a < 2 ^ 48 → m.byte a = 0))) ∧
  (∀ s : State, (M.of s).live = true →
    let action := (M.of s).objFld 0x7050 3 1 0
    ((M.of s).pllState 36 = 2 → Does .mcHeartbeat s fun m =>
      (m.modFaults fun f => { f with mcDown := false, mcRestarted := false }).modMgmt fun g => { g with responder := false }) ∧
    ((M.of s).dev.faults.mcDown = false → (M.of s).dev.sec.mc.pending = false → Does .mcTimeout s fun m =>
      ((m.modFaults fun f => { f with mcDown := true, mcRestarted := action != 0 }).modMgmt fun g => { g with responder := true }).logFault
        0x7005 action 0 0 clkWatch) ∧
    ((M.of s).dev.faults.mcDown = false → (M.of s).dev.sec.ltc.pending = false → Does .ltcTimeout s fun m =>
      (List.range 32).foldl (fun (m : M) l => m.wantRetrain l 6) m) ∧
    ((M.of s).dev.faults.mcDown = true → (M.of s).dev.faults.mcRestarted = true → (M.of s).dev.sec.mc.pending = false →
      (action = 2 → s.sound → Ends .restartLimit s fun m => m.obj 0x1010 1 = 0 ∧ ∀ a, a < 2 ^ 48 → m.byte a = 0) ∧
      (action ≠ 2 → Does .restartLimit s id))) ∧
  (∀ (p : Party) (s : State), (M.of s).live = true →
    let begins := fun m : M => (m.setObjBit 0x7060 3 0 true).modFaults fun f => { f with trunkNow := [] }
    ((M.of s).objBit 0x7060 3 0 = true → Does .bondTestPeriod s id ∧
      ((M.of s).Serves p → Rejects (.runTest p) s 0x7060 2 1 7)) ∧
    ((M.of s).objBit 0x7060 3 0 = false → (∀ i seg, i < 24 → seg < 6 → (M.of s).sparesLeft i seg ≠ 0) →
      ((M.of s).ready = true → Does .bondTestPeriod s begins) ∧ ((M.of s).Serves p → Applies (.runTest p) s 0x7060 2 1 begins))) ∧
  (∀ (i : Fin 24) (seg : Fin 6) (x : Fin 28) (lane : BitVec 12) (ok last : Bool) (s : State), (M.of s).live = true →
    (M.of s).objBit 0x7060 3 0 = true → x.val < segCrossings i.val seg.val → lane.toNat < segData seg.val →
    (last = false ∨ (M.of s).ready = false → ok = true → Does (.laneTestDone i seg x lane ok last) s id) ∧
    (last = true → (M.of s).ready = true → ok = true → Does (.laneTestDone i seg x lane ok last) s fun m =>
      ((m.setObjBit 0x7060 3 0 false).satObj 0x7060 3 31 16 1).modFaults fun f => { f with trunkBad := f.trunkNow, trunkNow := [] }) ∧
    (last = false → ok = false → (M.of s).sparesUsed i.val seg.val x.val < segSpares seg.val →
      Ends (.laneTestDone i seg x lane ok last) s fun m =>
        m.sparesUsed i.val seg.val x.val = (M.of s).sparesUsed i.val seg.val x.val + 1 ∧
        m.newestFault = (0x7003, i.val * 256 + seg.val, lane.toNat) ∧ (M.of s).SameWork m ∧ (M.of s).SameIndices m [0x7061, 0x7100]) ∧
    (last = false → ok = false → (M.of s).sparesUsed i.val seg.val x.val = segSpares seg.val →
      (seg.val = 5 → i.val ∉ (M.of s).dev.portClosed → (M.of s).fenced i.val = false → (M.of s).fusedOff i.val = false →
        Does (.laneTestDone i seg x lane ok last) s fun m =>
          { m with dev := { m.dev with portClosed := m.dev.portClosed ++ [i.val] } }) ∧
      (seg.val < 4 → (i.val * 4 + seg.val) * 64 + lane.toNat / 16 ∉ (M.of s).dev.faults.groupsOut →
        Ends (.laneTestDone i seg x lane ok last) s fun m =>
          (∀ l ∈ segOrdinals seg.val, ∀ g ∈ [2 * (lane.toNat / 16), 2 * (lane.toNat / 16) + 1],
            128 * (4 * i.val + l) + g ∈ m.dev.outGroups) ∧
          m.newestFault = (0x5002, i.val * 256 + seg.val, lane.toNat / 16 * 2 ^ 58 + (segOrdinals seg.val).foldl (fun v l => v + 2 ^ l) 0) ∧
          (M.of s).SameWork m ∧ (M.of s).SameIndices m [0x7061, 0x7040, 0x7041, 0x7100])))

/-- R486, R487, R489, R494 to R497: REQUEST forms a report of the device as it stands, unless one is being formed; when it is ready it is
signed and counted. BEGIN opens a session, APPLY checks the package and empties the other slot; APPLY_DONE ends APPLIED with the new image
in it, or FAILED with the error. ACTIVATE changes slots and awaits confirmation; CONFIRM ends it and raises the floor; REVERT, a failed
start and the confirm limit change back, with FELL_BACK. CANCEL ends a session. A command that the session's state does not take is
rejected with reason 7. CHUNK stores 64 bytes and moves CHUNK_OFFSET on. -/
def Obligations.ReportsAndUpdatesRun : Prop :=
  (∀ (p : Party) (n : Fin 4) (data : BitVec 512) (s : State), (M.of s).Serves p → (M.of s).domState 36 = 0 →
    let st := (M.of s).sessState
    let q := (M.of s).sessProc
    let old := (M.of s).proc q
    let at_ := fun (m : M) (state err : Nat) => m.sessState = state ∧ m.objFld 0x9020 2 23 16 = err
    ((M.of s).objBit 0x9010 3 0 = true → Rejects (.attestRequest p) s 0x9010 2 1 7) ∧
    ((M.of s).objBit 0x9010 3 0 = false → Applies (.attestRequest p) s 0x9010 2 1 fun m =>
      ((m.nextSeq.2.setObjBit 0x9010 3 0 true).setObjBit 0x9010 3 1 false).modSec fun k =>
        { k with forming := some (m.nextSeq.2.attestBody m.nextSeq.1) }) ∧
    (n.val = 0 → Rejects (.beginUpdate p n) s 0x9020 1 1 5) ∧
    (n.val ≠ 0 → st ≠ 0 ∨ (M.of s).anyPending = true → Rejects (.beginUpdate p n) s 0x9020 1 (256 * n.val + 1) 7) ∧
    (n.val ≠ 0 → st = 0 → (M.of s).anyPending = false → Ends (.beginUpdate p n) s fun m =>
      at_ m 1 0 ∧ m.sessProc = n.val ∧ m.dev.sec.owner = some p ∧ m.dev.sec.sessions = (M.of s).dev.sec.sessions + 1 ∧
      (M.of s).SameWork m ∧ (M.of s).SameIndices m [0x9020]) ∧
    (st ≠ 1 → Rejects (.applyPackage p) s 0x9020 1 2 7) ∧
    (st = 1 → Ends (.applyPackage p) s fun m =>
      at_ m 2 0 ∧ (m.proc q).other = none ∧ (m.proc q).active = old.active ∧
      ((M.of s).pkgPoisoned = true → m.dev.sec.applying = some (.inl 9)) ∧
      ((M.of s).pkgPoisoned = false → (M.of s).pkgNum 0 2 = 1 → (M.of s).pkgNum 3 1 ≤ 3 →
        ((M.of s).dev.sec.revoked.testBit ((M.of s).pkgNum 3 1) = true → m.dev.sec.applying = some (.inl 2)) ∧
        ((M.of s).dev.sec.revoked.testBit ((M.of s).pkgNum 3 1) = false → (M.of s).pkgNum 8 1 < old.floor →
          m.dev.sec.applying = some (.inl 3))) ∧
      (M.of s).SameWork m ∧ (M.of s).SameIndices m [0x9020]) ∧
    (st ≠ 3 → Rejects (.activate p) s 0x9020 1 3 7) ∧
    (∀ g, st = 3 → 1 ≤ q → old.other = some g → Ends (.activate p) s fun m =>
      at_ m 4 0 ∧ (m.proc q).active = g ∧ (m.proc q).other = some old.active ∧ (m.proc q).slotB = !old.slotB ∧ (m.proc q).pending = true ∧
      (q = 1 → m.responder = true ∧ m.dev.faults.mcDown = true) ∧ (q = 3 → m.dev.reset = some ⟨4, 0, false, false, false⟩) ∧
      (M.of s).SameMem m ∧ (M.of s).SameCores m [] ∧ (M.of s).SameIndices m [0x9020]) ∧
    (st ≠ 4 → Rejects (.confirm p) s 0x9020 1 4 7 ∧ Rejects (.revert p) s 0x9020 1 5 7) ∧
    (st = 4 → Ends (.confirm p) s fun m =>
      at_ m 0 0 ∧ (m.proc q).active = old.active ∧ (m.proc q).pending = false ∧ (m.proc q).fellBack = false ∧
      (m.proc q).floor = min 64 (max old.floor old.active.svn) ∧ m.dev.sec.revoked = (M.of s).dev.sec.revoked ||| old.active.revoke ∧
      (M.of s).SameWork m ∧ (M.of s).SameIndices m [0x9020]) ∧
    (∀ g, st = 4 → old.pending = true → old.other = some g → Ends (.revert p) s fun m =>
      at_ m 0 0 ∧ (m.proc q).active = g ∧ (m.proc q).pending = false ∧ (m.proc q).fellBack = true ∧
      (M.of s).SameMem m ∧ (M.of s).SameCores m [] ∧ (M.of s).SameIndices m [0x9020]) ∧
    (st ≠ 1 → st ≠ 3 → st ≠ 5 → Rejects (.cancel p) s 0x9020 1 6 7) ∧
    (st = 1 ∨ st = 3 ∨ st = 5 → Ends (.cancel p) s fun m =>
      at_ m 0 0 ∧ m.dev.sec.owner = none ∧ (m.proc q).active = old.active ∧ (m.proc q).other = none ∧
      (M.of s).SameWork m ∧ (M.of s).SameIndices m [0x9020]) ∧
    ((M.of s).obj 0x9020 6 + 64 ≤ 0x3000000 → Ends (.chunk p data) s fun m =>
      m.obj 0x9020 6 = (M.of s).obj 0x9020 6 + 64 ∧
      (∀ k, k < 64 → Tab.get m.dev.sec.staging 0 ((M.of s).obj 0x9020 6 + k) = BitVec.ofNat 8 (data.toNat / 2 ^ (8 * k))) ∧
      (∀ a, a < (M.of s).obj 0x9020 6 ∨ (M.of s).obj 0x9020 6 + 64 ≤ a →
        Tab.get m.dev.sec.staging 0 a = Tab.get (M.of s).dev.sec.staging 0 a) ∧
      (M.of s).SameWork m ∧ (M.of s).SameIndices m [0x9020])) ∧
  (∀ (sig tag digest : Bool) (s : State), (M.of s).live = true → (M.of s).domState 36 = 0 →
    let q := (M.of s).sessProc
    let at_ := fun (m : M) (state err : Nat) => m.sessState = state ∧ m.objFld 0x9020 2 23 16 = err
    ((M.of s).dev.sec.forming = none → Does .attestReportReady s id) ∧
    (∀ body, (M.of s).dev.sec.forming = some body → Ends .attestReportReady s fun m =>
      m.dev.sec.report = body ++ bytesFrom 3309 (Config.signByte s.fuse.serial 0 body) ++ List.replicate 19 0 ∧ m.dev.sec.forming = none ∧
      m.objBit 0x9010 3 0 = false ∧ m.objBit 0x9010 3 1 = true ∧
      m.objFld 0x9010 3 31 16 = min ((M.of s).objFld 0x9010 3 31 16 + 1) 0xFFFF ∧ (M.of s).SameWork m ∧ (M.of s).SameIndices m [0x9010]) ∧
    ((M.of s).sessState ≠ 2 → Does (.applyDone sig tag digest) s id) ∧
    ((M.of s).sessState = 2 →
      (∀ g, (M.of s).dev.sec.applying = some (.inr g) → Ends (.applyDone sig tag digest) s fun m =>
        (if sig && tag && digest then at_ m 3 0 ∧ (m.proc q).other = some g
          else at_ m 5 (if !sig then 1 else if !tag then 5 else 6) ∧ (m.proc q).other = ((M.of s).proc q).other) ∧
        (m.proc q).active = ((M.of s).proc q).active ∧ m.dev.sec.applying = none ∧ (M.of s).SameWork m ∧ (M.of s).SameIndices m [0x9020]) ∧
      (∀ e, (M.of s).dev.sec.applying = some (.inl e) → e < 256 → Ends (.applyDone sig tag digest) s fun m =>
        at_ m 5 (if e = 9 || sig then e else 1) ∧ (m.proc q).active = ((M.of s).proc q).active ∧
        (M.of s).SameWork m ∧ (M.of s).SameIndices m [0x9020]))) ∧
  (∀ s : State, (M.of s).watchRuns = true →
    ((M.of s).pendingProc = none → Does .confirmLimitExpiry s id ∧ Does .startFailTimeout s id) ∧
    (∀ p g, (M.of s).pendingProc = some p → ((M.of s).proc p).other = some g →
      let back := fun (err : Nat) (m : M) =>
        m.sessState = 0 ∧ m.objFld 0x9020 2 23 16 = err ∧ (m.proc p).active = g ∧ (m.proc p).pending = false ∧ (m.proc p).fellBack = true ∧
        (M.of s).SameMem m ∧ (M.of s).SameCores m [] ∧ (M.of s).SameIndices m [0x9020]
      Ends .confirmLimitExpiry s (back 11) ∧
      (p ≠ 1 ∨ (M.of s).dev.faults.mcDown = true → Ends .startFailTimeout s (back 10)) ∧
      (p = 1 → (M.of s).dev.faults.mcDown = false → Does .startFailTimeout s id)))
end

