-- ==== Sys2Proof/Laws/Bits.lean ====
section
/-! SUPPORT. Laws of bit fields, of bytes of numbers and of sparse tables. -/

namespace Sys2Proof.Machine

/-! ## Bit fields -/

theorem testBit_bitsAt (v lo w i : Nat) : (bitsAt v lo w).testBit i = (decide (i < w) && v.testBit (lo + i)) := by
  unfold bitsAt
  rw [Nat.testBit_mod_two_pow, Nat.testBit_div_two_pow, Nat.add_comm]

/-- A number with a field replaced, as high part, field and low part. -/
theorem putBits_eq (v lo w x : Nat) :
    putBits v lo w x = 2 ^ (lo + w) * (v / 2 ^ (lo + w)) + (2 ^ lo * (x % 2 ^ w) + v % 2 ^ lo) := by
  unfold putBits bitsAt
  have h1 : v = 2 ^ lo * (v / 2 ^ lo) + v % 2 ^ lo := (Nat.div_add_mod v (2 ^ lo)).symm
  have h2 : v / 2 ^ lo = 2 ^ w * (v / 2 ^ lo / 2 ^ w) + v / 2 ^ lo % 2 ^ w := (Nat.div_add_mod _ (2 ^ w)).symm
  have h3 : v / 2 ^ (lo + w) = v / 2 ^ lo / 2 ^ w := by rw [pow_add, Nat.div_div_eq_div_mul]
  rw [h3]
  generalize v / 2 ^ lo / 2 ^ w = a at *
  generalize v / 2 ^ lo % 2 ^ w = b at *
  have h4 : v = 2 ^ (lo + w) * a + 2 ^ lo * b + v % 2 ^ lo := by
    conv_lhs => rw [h1, h2]
    ring
  generalize v % 2 ^ lo = c at *
  have e : v - b * 2 ^ lo = 2 ^ (lo + w) * a + c := by
    rw [h4, Nat.mul_comm b]
    omega
  rw [e, Nat.mul_comm (x % 2 ^ w)]
  omega

theorem testBit_putBits (v lo w x i : Nat) :
    (putBits v lo w x).testBit i = if lo ≤ i ∧ i < lo + w then x.testBit (i - lo) else v.testBit i := by
  rw [putBits_eq]
  have hc : v % 2 ^ lo < 2 ^ lo := Nat.mod_lt _ (by positivity)
  have hx : x % 2 ^ w < 2 ^ w := Nat.mod_lt _ (by positivity)
  have hm : 2 ^ lo * (x % 2 ^ w) + v % 2 ^ lo < 2 ^ (lo + w) := by
    rw [pow_add]
    calc 2 ^ lo * (x % 2 ^ w) + v % 2 ^ lo < 2 ^ lo * (x % 2 ^ w) + 2 ^ lo := by omega
      _ = 2 ^ lo * (x % 2 ^ w + 1) := by ring
      _ ≤ 2 ^ lo * 2 ^ w := Nat.mul_le_mul_left _ hx
  rw [Nat.testBit_two_pow_mul_add _ hm]
  by_cases h1 : i < lo + w
  · rw [if_pos h1, Nat.testBit_two_pow_mul_add _ hc]
    by_cases h2 : i < lo
    · rw [if_pos h2, if_neg (by omega), Nat.testBit_mod_two_pow]
      simp [h2]
    · rw [if_neg h2, if_pos (by omega), Nat.testBit_mod_two_pow]
      have : i - lo < w := by omega
      simp [this]
  · rw [if_neg h1, if_neg (by omega), Nat.testBit_div_two_pow]
    congr 1
    omega

/-- A field reads back what was put there. -/
theorem bitsAt_putBits_same (v lo w x : Nat) : bitsAt (putBits v lo w x) lo w = x % 2 ^ w := by
  apply Nat.eq_of_testBit_eq
  intro i
  rw [testBit_bitsAt, testBit_putBits, Nat.testBit_mod_two_pow]
  by_cases h : i < w
  · rw [if_pos (by omega)]
    simp
  · simp [h]

/-- Fields that do not overlap stand. -/
theorem bitsAt_putBits_ne (v lo w x lo' w' : Nat) (h : lo' + w' ≤ lo ∨ lo + w ≤ lo') :
    bitsAt (putBits v lo w x) lo' w' = bitsAt v lo' w' := by
  apply Nat.eq_of_testBit_eq
  intro i
  rw [testBit_bitsAt, testBit_bitsAt, testBit_putBits]
  by_cases hi : i < w'
  · rw [if_neg (by omega)]
  · simp [hi]

theorem fld_setFld_same (v hi lo x : Nat) : fld (setFld v hi lo x) hi lo = x % 2 ^ (hi + 1 - lo) :=
  bitsAt_putBits_same v lo (hi + 1 - lo) x

theorem fld_setFld_below (v hi lo x hi' lo' : Nat) (h : hi' < lo) (h' : lo' ≤ hi') :
    fld (setFld v hi lo x) hi' lo' = fld v hi' lo' :=
  bitsAt_putBits_ne v lo (hi + 1 - lo) x lo' (hi' + 1 - lo') (by omega)

theorem fld_setFld_above (v hi lo x hi' lo' : Nat) (h : hi < lo') (h' : lo ≤ hi) :
    fld (setFld v hi lo x) hi' lo' = fld v hi' lo' :=
  bitsAt_putBits_ne v lo (hi + 1 - lo) x lo' (hi' + 1 - lo') (by omega)

theorem testBit_setFld_outside (v hi lo x i : Nat) (h : i < lo ∨ hi < i) (h' : lo ≤ hi) :
    (setFld v hi lo x).testBit i = v.testBit i := by
  unfold setFld
  rw [testBit_putBits, if_neg (by omega)]

/-- A field put back changes nothing. -/
theorem setFld_self (v hi lo : Nat) : setFld v hi lo (fld v hi lo) = v := by
  apply Nat.eq_of_testBit_eq
  intro i
  unfold setFld fld
  rw [testBit_putBits, testBit_bitsAt]
  by_cases h : lo ≤ i ∧ i < lo + (hi + 1 - lo)
  · rw [if_pos h]
    have : i - lo < hi + 1 - lo := by omega
    simp [this, Nat.add_sub_cancel' h.1]
  · rw [if_neg h]

theorem fld_setBit_ne (v i : Nat) (b : Bool) (hi lo : Nat) (h : i < lo ∨ hi < i) : fld (setBit v i b) hi lo = fld v hi lo := by
  unfold setBit setFld fld
  by_cases hl : lo ≤ hi
  · exact bitsAt_putBits_ne v i (i + 1 - i) b.toNat lo (hi + 1 - lo) (by omega)
  · have e : hi + 1 - lo = 0 := by omega
    rw [e]
    simp [bitsAt, Nat.mod_one]

theorem testBit_setBit (v i : Nat) (b : Bool) (j : Nat) : (setBit v i b).testBit j = if j = i then b else v.testBit j := by
  unfold setBit setFld
  rw [testBit_putBits]
  by_cases h : j = i
  · subst h
    rw [if_pos (by omega), if_pos rfl]
    cases b <;> simp
  · rw [if_neg (by omega), if_neg h]

theorem fld_lt (v hi lo : Nat) : fld v hi lo < 2 ^ (hi + 1 - lo) := by
  unfold fld bitsAt
  exact Nat.mod_lt _ (by positivity)

/-- A saturating count reads the sum, held at its greatest value. -/
theorem fld_satFld (v hi lo n : Nat) : fld (satFld v hi lo n) hi lo = satAdd (hi + 1 - lo) (fld v hi lo) n := by
  unfold satFld
  rw [fld_setFld_same, Nat.mod_eq_of_lt]
  unfold satAdd
  have : 0 < 2 ^ (hi + 1 - lo) := by positivity
  omega

/-! ## Sparse tables -/

theorem Tab.find?_put_same {α : Type} (t : Tab α) (k : Nat) (v : α) : Tab.find? (Tab.put t k v) k = some v := by
  induction t with
  | nil => simp [Tab.put, Tab.find?]
  | cons e r ih =>
    obtain ⟨k', v'⟩ := e
    simp only [Tab.put]
    split
    · simp [Tab.find?]
    · split
      · simp [Tab.find?]
      · rename_i h _
        simp [Tab.find?, h, ih]

theorem Tab.find?_put_ne {α : Type} (t : Tab α) (k j : Nat) (v : α) (h : j ≠ k) :
    Tab.find? (Tab.put t k v) j = Tab.find? t j := by
  have h' : ¬k = j := fun e => h e.symm
  induction t with
  | nil => simp [Tab.put, Tab.find?, h']
  | cons e r ih =>
    obtain ⟨k', v'⟩ := e
    simp only [Tab.put]
    split
    · rename_i hk
      subst hk
      simp [Tab.find?, h']
    · split
      · simp [Tab.find?, h']
      · simp only [Tab.find?, ih]

@[simp] theorem Tab.get_put_same {α : Type} (t : Tab α) (d : α) (k : Nat) (v : α) : Tab.get (Tab.put t k v) d k = v := by
  simp [Tab.get, Tab.find?_put_same]

theorem Tab.get_put_ne {α : Type} (t : Tab α) (d : α) (k j : Nat) (v : α) (h : j ≠ k) :
    Tab.get (Tab.put t k v) d j = Tab.get t d j := by
  simp [Tab.get, Tab.find?_put_ne t k j v h]

theorem Tab.get_erase_same {α : Type} (t : Tab α) (d : α) (k : Nat) : Tab.get (Tab.erase t k) d k = d := by
  unfold Tab.get Tab.erase
  induction t with
  | nil => rfl
  | cons e r ih =>
    obtain ⟨k', v'⟩ := e
    by_cases h : k' = k
    · simp [h] at ih ⊢
      exact ih
    · simp [h, Tab.find?] at ih ⊢
      exact ih

theorem Tab.get_erase_ne {α : Type} (t : Tab α) (d : α) (k j : Nat) (hj : j ≠ k) : Tab.get (Tab.erase t k) d j = Tab.get t d j := by
  unfold Tab.get Tab.erase
  induction t with
  | nil => rfl
  | cons e r ih =>
    obtain ⟨k', v'⟩ := e
    by_cases h : k' = k
    · subst h
      have hk : ¬k' = j := fun e => hj e.symm
      simp [Tab.find?, hk] at ih ⊢
      exact ih
    · by_cases hjk : k' = j
      · simp [hjk, hj, Tab.find?]
      · simp [h, hjk, Tab.find?] at ih ⊢
        exact ih

/-! ## Bytes of numbers -/

@[simp] theorem bytesOf_length (v n : Nat) : (bytesOf v n).length = n := by
  induction n generalizing v with
  | zero => rfl
  | succ n ih => simp [bytesOf, ih]

theorem natOf_bytesOf (v n : Nat) : natOf (bytesOf v n) = v % 2 ^ (8 * n) := by
  induction n generalizing v with
  | zero => simp [bytesOf, natOf, Nat.mod_one]
  | succ n ih =>
    simp only [bytesOf, natOf, ih, BitVec.toNat_ofNat]
    have e : 2 ^ (8 * (n + 1)) = 256 * 2 ^ (8 * n) := by rw [Nat.mul_add, pow_add]; norm_num; ring
    rw [e, Nat.mod_mul]

/-- The later of two puts stands. -/
theorem Tab.put_put {α : Type} (t : Tab α) (k : Nat) (a b : α) : Tab.put (Tab.put t k a) k b = Tab.put t k b := by
  induction t with
  | nil => simp [Tab.put]
  | cons e r ih =>
    obtain ⟨x, y⟩ := e
    by_cases h1 : x = k
    · simp [Tab.put, h1]
    · by_cases h2 : k < x
      · simp [Tab.put, h1, h2]
      · simp [Tab.put, h1, h2, ih]

/-- An entry of a table changed throughout. -/
theorem Tab.find?_map {α : Type} (t : Tab α) (k : Nat) (f : α → α) :
    Tab.find? (t.map fun e => (e.1, f e.2)) k = (Tab.find? t k).map f := by
  induction t with
  | nil => rfl
  | cons e r ih =>
    obtain ⟨a, b⟩ := e
    simp only [List.map_cons, Tab.find?]
    split
    · rfl
    · exact ih

theorem Tab.get_map {α : Type} (t : Tab α) (d : α) (k : Nat) (f : α → α) (hd : f d = d) :
    Tab.get (t.map fun e => (e.1, f e.2)) d k = f (Tab.get t d k) := by
  unfold Tab.get
  rw [Tab.find?_map]
  cases Tab.find? t k with
  | none => exact hd.symm
  | some v => rfl

/-- What a table holds after a put it held before, or is what was put. -/
theorem Tab.mem_put {α : Type} (t : Tab α) (k : Nat) (v : α) (e : Nat × α) (h : e ∈ Tab.put t k v) : e ∈ t ∨ e = (k, v) := by
  induction t with
  | nil => exact Or.inr (by simpa [Tab.put] using h)
  | cons a r ih =>
    obtain ⟨k', v'⟩ := a
    unfold Tab.put at h
    split at h
    · rcases List.mem_cons.mp h with h | h
      · exact Or.inr h
      · exact Or.inl (List.mem_cons_of_mem _ h)
    · split at h
      · rcases List.mem_cons.mp h with h | h
        · exact Or.inr h
        · exact Or.inl h
      · rcases List.mem_cons.mp h with h | h
        · exact Or.inl (by rw [h]; exact List.mem_cons_self)
        · rcases ih h with h | h
          · exact Or.inl (List.mem_cons_of_mem _ h)
          · exact Or.inr h

theorem Tab.mem_get {α : Type} (t : Tab α) (d : α) (k : Nat) : Tab.get t d k = d ∨ (k, Tab.get t d k) ∈ t := by
  unfold Tab.get
  induction t with
  | nil => exact Or.inl rfl
  | cons a r ih =>
    obtain ⟨k', v'⟩ := a
    unfold Tab.find?
    split
    · rename_i h; subst h; exact Or.inr List.mem_cons_self
    · rcases ih with h | h
      · exact Or.inl h
      · exact Or.inr (List.mem_cons_of_mem _ h)

end Sys2Proof.Machine
end

