-- ==== Sys2Proof/Laws/State.lean ====
section
/-! SUPPORT. One lemma per field per update of a command's working state: what each named update leaves as it was, and the
field it writes. -/

namespace Sys2Proof.Machine

variable (m : M)

/-! ### `setObj` -/

@[simp] theorem M.setObj_fuse (idx sub v : Nat) : (m.setObj idx sub v).fuse = m.fuse := rfl
@[simp] theorem M.setObj_base (idx sub v : Nat) : (m.setObj idx sub v).base = m.base := rfl
@[simp] theorem M.setObj_ops (idx sub v : Nat) : (m.setObj idx sub v).ops = m.ops := rfl
@[simp] theorem M.setObj_dev_fresh (idx sub v : Nat) : (m.setObj idx sub v).dev.fresh = m.dev.fresh := rfl
@[simp] theorem M.setObj_dev_sent (idx sub v : Nat) : (m.setObj idx sub v).dev.sent = m.dev.sent := rfl
@[simp] theorem M.setObj_dev_devSeq (idx sub v : Nat) : (m.setObj idx sub v).dev.devSeq = m.dev.devSeq := rfl
@[simp] theorem M.setObj_dev_powered (idx sub v : Nat) : (m.setObj idx sub v).dev.powered = m.dev.powered := rfl
@[simp] theorem M.setObj_dev_tripped (idx sub v : Nat) : (m.setObj idx sub v).dev.tripped = m.dev.tripped := rfl
@[simp] theorem M.setObj_dev_oscLost (idx sub v : Nat) : (m.setObj idx sub v).dev.oscLost = m.dev.oscLost := rfl
@[simp] theorem M.setObj_dev_perst (idx sub v : Nat) : (m.setObj idx sub v).dev.perst = m.dev.perst := rfl
@[simp] theorem M.setObj_dev_pcieUp (idx sub v : Nat) : (m.setObj idx sub v).dev.pcieUp = m.dev.pcieUp := rfl
@[simp] theorem M.setObj_dev_startBlocked (idx sub v : Nat) : (m.setObj idx sub v).dev.startBlocked = m.dev.startBlocked := rfl
@[simp] theorem M.setObj_dev_cores (idx sub v : Nat) : (m.setObj idx sub v).dev.cores = m.dev.cores := rfl
@[simp] theorem M.setObj_dev_lqs (idx sub v : Nat) : (m.setObj idx sub v).dev.lqs = m.dev.lqs := rfl
@[simp] theorem M.setObj_dev_banks (idx sub v : Nat) : (m.setObj idx sub v).dev.banks = m.dev.banks := rfl
@[simp] theorem M.setObj_dev_buckets (idx sub v : Nat) : (m.setObj idx sub v).dev.buckets = m.dev.buckets := rfl
@[simp] theorem M.setObj_dev_readyCtr (idx sub v : Nat) : (m.setObj idx sub v).dev.readyCtr = m.dev.readyCtr := rfl
@[simp] theorem M.setObj_dev_convs (idx sub v : Nat) : (m.setObj idx sub v).dev.convs = m.dev.convs := rfl
@[simp] theorem M.setObj_dev_lostLqs (idx sub v : Nat) : (m.setObj idx sub v).dev.lostLqs = m.dev.lostLqs := rfl
@[simp] theorem M.setObj_dev_darkLqs (idx sub v : Nat) : (m.setObj idx sub v).dev.darkLqs = m.dev.darkLqs := rfl
@[simp] theorem M.setObj_dev_outGroups (idx sub v : Nat) : (m.setObj idx sub v).dev.outGroups = m.dev.outGroups := rfl
@[simp] theorem M.setObj_dev_portClosed (idx sub v : Nat) : (m.setObj idx sub v).dev.portClosed = m.dev.portClosed := rfl
@[simp] theorem M.setObj_dev_unreach (idx sub v : Nat) : (m.setObj idx sub v).dev.unreach = m.dev.unreach := rfl
@[simp] theorem M.setObj_dev_untrained (idx sub v : Nat) : (m.setObj idx sub v).dev.untrained = m.dev.untrained := rfl
@[simp] theorem M.setObj_dev_repairMap (idx sub v : Nat) : (m.setObj idx sub v).dev.repairMap = m.dev.repairMap := rfl
@[simp] theorem M.setObj_dev_memLogRead (idx sub v : Nat) : (m.setObj idx sub v).dev.memLogRead = m.dev.memLogRead := rfl
@[simp] theorem M.setObj_dev_windows (idx sub v : Nat) : (m.setObj idx sub v).dev.windows = m.dev.windows := rfl
@[simp] theorem M.setObj_dev_ring (idx sub v : Nat) : (m.setObj idx sub v).dev.ring = m.dev.ring := rfl
@[simp] theorem M.setObj_dev_ringOut (idx sub v : Nat) : (m.setObj idx sub v).dev.ringOut = m.dev.ringOut := rfl
@[simp] theorem M.setObj_dev_ringCredits (idx sub v : Nat) : (m.setObj idx sub v).dev.ringCredits = m.dev.ringCredits := rfl
@[simp] theorem M.setObj_dev_links (idx sub v : Nat) : (m.setObj idx sub v).dev.links = m.dev.links := rfl
@[simp] theorem M.setObj_dev_fab (idx sub v : Nat) : (m.setObj idx sub v).dev.fab = m.dev.fab := rfl
@[simp] theorem M.setObj_dev_mirror (idx sub v : Nat) : (m.setObj idx sub v).dev.mirror = m.dev.mirror := rfl
@[simp] theorem M.setObj_dev_host (idx sub v : Nat) : (m.setObj idx sub v).dev.host = m.dev.host := rfl
@[simp] theorem M.setObj_dev_led (idx sub v : Nat) : (m.setObj idx sub v).dev.led = m.dev.led := rfl
@[simp] theorem M.setObj_dev_mgmt (idx sub v : Nat) : (m.setObj idx sub v).dev.mgmt = m.dev.mgmt := rfl
@[simp] theorem M.setObj_dev_power (idx sub v : Nat) : (m.setObj idx sub v).dev.power = m.dev.power := rfl
@[simp] theorem M.setObj_dev_heat (idx sub v : Nat) : (m.setObj idx sub v).dev.heat = m.dev.heat := rfl
@[simp] theorem M.setObj_dev_clocks (idx sub v : Nat) : (m.setObj idx sub v).dev.clocks = m.dev.clocks := rfl
@[simp] theorem M.setObj_dev_reset (idx sub v : Nat) : (m.setObj idx sub v).dev.reset = m.dev.reset := rfl
@[simp] theorem M.setObj_dev_faults (idx sub v : Nat) : (m.setObj idx sub v).dev.faults = m.dev.faults := rfl
@[simp] theorem M.setObj_dev_sec (idx sub v : Nat) : (m.setObj idx sub v).dev.sec = m.dev.sec := rfl

/-! ### `setObjFld` -/

@[simp] theorem M.setObjFld_fuse (idx sub hi lo v : Nat) : (m.setObjFld idx sub hi lo v).fuse = m.fuse := rfl
@[simp] theorem M.setObjFld_base (idx sub hi lo v : Nat) : (m.setObjFld idx sub hi lo v).base = m.base := rfl
@[simp] theorem M.setObjFld_ops (idx sub hi lo v : Nat) : (m.setObjFld idx sub hi lo v).ops = m.ops := rfl
@[simp] theorem M.setObjFld_dev_fresh (idx sub hi lo v : Nat) : (m.setObjFld idx sub hi lo v).dev.fresh = m.dev.fresh := rfl
@[simp] theorem M.setObjFld_dev_sent (idx sub hi lo v : Nat) : (m.setObjFld idx sub hi lo v).dev.sent = m.dev.sent := rfl
@[simp] theorem M.setObjFld_dev_devSeq (idx sub hi lo v : Nat) : (m.setObjFld idx sub hi lo v).dev.devSeq = m.dev.devSeq := rfl
@[simp] theorem M.setObjFld_dev_powered (idx sub hi lo v : Nat) : (m.setObjFld idx sub hi lo v).dev.powered = m.dev.powered := rfl
@[simp] theorem M.setObjFld_dev_tripped (idx sub hi lo v : Nat) : (m.setObjFld idx sub hi lo v).dev.tripped = m.dev.tripped := rfl
@[simp] theorem M.setObjFld_dev_oscLost (idx sub hi lo v : Nat) : (m.setObjFld idx sub hi lo v).dev.oscLost = m.dev.oscLost := rfl
@[simp] theorem M.setObjFld_dev_perst (idx sub hi lo v : Nat) : (m.setObjFld idx sub hi lo v).dev.perst = m.dev.perst := rfl
@[simp] theorem M.setObjFld_dev_pcieUp (idx sub hi lo v : Nat) : (m.setObjFld idx sub hi lo v).dev.pcieUp = m.dev.pcieUp := rfl
@[simp] theorem M.setObjFld_dev_startBlocked (idx sub hi lo v : Nat) : (m.setObjFld idx sub hi lo v).dev.startBlocked = m.dev.startBlocked := rfl
@[simp] theorem M.setObjFld_dev_cores (idx sub hi lo v : Nat) : (m.setObjFld idx sub hi lo v).dev.cores = m.dev.cores := rfl
@[simp] theorem M.setObjFld_dev_lqs (idx sub hi lo v : Nat) : (m.setObjFld idx sub hi lo v).dev.lqs = m.dev.lqs := rfl
@[simp] theorem M.setObjFld_dev_banks (idx sub hi lo v : Nat) : (m.setObjFld idx sub hi lo v).dev.banks = m.dev.banks := rfl
@[simp] theorem M.setObjFld_dev_buckets (idx sub hi lo v : Nat) : (m.setObjFld idx sub hi lo v).dev.buckets = m.dev.buckets := rfl
@[simp] theorem M.setObjFld_dev_readyCtr (idx sub hi lo v : Nat) : (m.setObjFld idx sub hi lo v).dev.readyCtr = m.dev.readyCtr := rfl
@[simp] theorem M.setObjFld_dev_convs (idx sub hi lo v : Nat) : (m.setObjFld idx sub hi lo v).dev.convs = m.dev.convs := rfl
@[simp] theorem M.setObjFld_dev_lostLqs (idx sub hi lo v : Nat) : (m.setObjFld idx sub hi lo v).dev.lostLqs = m.dev.lostLqs := rfl
@[simp] theorem M.setObjFld_dev_darkLqs (idx sub hi lo v : Nat) : (m.setObjFld idx sub hi lo v).dev.darkLqs = m.dev.darkLqs := rfl
@[simp] theorem M.setObjFld_dev_outGroups (idx sub hi lo v : Nat) : (m.setObjFld idx sub hi lo v).dev.outGroups = m.dev.outGroups := rfl
@[simp] theorem M.setObjFld_dev_portClosed (idx sub hi lo v : Nat) : (m.setObjFld idx sub hi lo v).dev.portClosed = m.dev.portClosed := rfl
@[simp] theorem M.setObjFld_dev_unreach (idx sub hi lo v : Nat) : (m.setObjFld idx sub hi lo v).dev.unreach = m.dev.unreach := rfl
@[simp] theorem M.setObjFld_dev_untrained (idx sub hi lo v : Nat) : (m.setObjFld idx sub hi lo v).dev.untrained = m.dev.untrained := rfl
@[simp] theorem M.setObjFld_dev_repairMap (idx sub hi lo v : Nat) : (m.setObjFld idx sub hi lo v).dev.repairMap = m.dev.repairMap := rfl
@[simp] theorem M.setObjFld_dev_memLogRead (idx sub hi lo v : Nat) : (m.setObjFld idx sub hi lo v).dev.memLogRead = m.dev.memLogRead := rfl
@[simp] theorem M.setObjFld_dev_windows (idx sub hi lo v : Nat) : (m.setObjFld idx sub hi lo v).dev.windows = m.dev.windows := rfl
@[simp] theorem M.setObjFld_dev_ring (idx sub hi lo v : Nat) : (m.setObjFld idx sub hi lo v).dev.ring = m.dev.ring := rfl
@[simp] theorem M.setObjFld_dev_ringOut (idx sub hi lo v : Nat) : (m.setObjFld idx sub hi lo v).dev.ringOut = m.dev.ringOut := rfl
@[simp] theorem M.setObjFld_dev_ringCredits (idx sub hi lo v : Nat) : (m.setObjFld idx sub hi lo v).dev.ringCredits = m.dev.ringCredits := rfl
@[simp] theorem M.setObjFld_dev_links (idx sub hi lo v : Nat) : (m.setObjFld idx sub hi lo v).dev.links = m.dev.links := rfl
@[simp] theorem M.setObjFld_dev_fab (idx sub hi lo v : Nat) : (m.setObjFld idx sub hi lo v).dev.fab = m.dev.fab := rfl
@[simp] theorem M.setObjFld_dev_mirror (idx sub hi lo v : Nat) : (m.setObjFld idx sub hi lo v).dev.mirror = m.dev.mirror := rfl
@[simp] theorem M.setObjFld_dev_host (idx sub hi lo v : Nat) : (m.setObjFld idx sub hi lo v).dev.host = m.dev.host := rfl
@[simp] theorem M.setObjFld_dev_led (idx sub hi lo v : Nat) : (m.setObjFld idx sub hi lo v).dev.led = m.dev.led := rfl
@[simp] theorem M.setObjFld_dev_mgmt (idx sub hi lo v : Nat) : (m.setObjFld idx sub hi lo v).dev.mgmt = m.dev.mgmt := rfl
@[simp] theorem M.setObjFld_dev_power (idx sub hi lo v : Nat) : (m.setObjFld idx sub hi lo v).dev.power = m.dev.power := rfl
@[simp] theorem M.setObjFld_dev_heat (idx sub hi lo v : Nat) : (m.setObjFld idx sub hi lo v).dev.heat = m.dev.heat := rfl
@[simp] theorem M.setObjFld_dev_clocks (idx sub hi lo v : Nat) : (m.setObjFld idx sub hi lo v).dev.clocks = m.dev.clocks := rfl
@[simp] theorem M.setObjFld_dev_reset (idx sub hi lo v : Nat) : (m.setObjFld idx sub hi lo v).dev.reset = m.dev.reset := rfl
@[simp] theorem M.setObjFld_dev_faults (idx sub hi lo v : Nat) : (m.setObjFld idx sub hi lo v).dev.faults = m.dev.faults := rfl
@[simp] theorem M.setObjFld_dev_sec (idx sub hi lo v : Nat) : (m.setObjFld idx sub hi lo v).dev.sec = m.dev.sec := rfl

/-! ### `setObjBit` -/

@[simp] theorem M.setObjBit_fuse (idx sub i : Nat) (b : Bool) : (m.setObjBit idx sub i b).fuse = m.fuse := rfl
@[simp] theorem M.setObjBit_base (idx sub i : Nat) (b : Bool) : (m.setObjBit idx sub i b).base = m.base := rfl
@[simp] theorem M.setObjBit_ops (idx sub i : Nat) (b : Bool) : (m.setObjBit idx sub i b).ops = m.ops := rfl
@[simp] theorem M.setObjBit_dev_fresh (idx sub i : Nat) (b : Bool) : (m.setObjBit idx sub i b).dev.fresh = m.dev.fresh := rfl
@[simp] theorem M.setObjBit_dev_sent (idx sub i : Nat) (b : Bool) : (m.setObjBit idx sub i b).dev.sent = m.dev.sent := rfl
@[simp] theorem M.setObjBit_dev_devSeq (idx sub i : Nat) (b : Bool) : (m.setObjBit idx sub i b).dev.devSeq = m.dev.devSeq := rfl
@[simp] theorem M.setObjBit_dev_powered (idx sub i : Nat) (b : Bool) : (m.setObjBit idx sub i b).dev.powered = m.dev.powered := rfl
@[simp] theorem M.setObjBit_dev_tripped (idx sub i : Nat) (b : Bool) : (m.setObjBit idx sub i b).dev.tripped = m.dev.tripped := rfl
@[simp] theorem M.setObjBit_dev_oscLost (idx sub i : Nat) (b : Bool) : (m.setObjBit idx sub i b).dev.oscLost = m.dev.oscLost := rfl
@[simp] theorem M.setObjBit_dev_perst (idx sub i : Nat) (b : Bool) : (m.setObjBit idx sub i b).dev.perst = m.dev.perst := rfl
@[simp] theorem M.setObjBit_dev_pcieUp (idx sub i : Nat) (b : Bool) : (m.setObjBit idx sub i b).dev.pcieUp = m.dev.pcieUp := rfl
@[simp] theorem M.setObjBit_dev_startBlocked (idx sub i : Nat) (b : Bool) : (m.setObjBit idx sub i b).dev.startBlocked = m.dev.startBlocked := rfl
@[simp] theorem M.setObjBit_dev_cores (idx sub i : Nat) (b : Bool) : (m.setObjBit idx sub i b).dev.cores = m.dev.cores := rfl
@[simp] theorem M.setObjBit_dev_lqs (idx sub i : Nat) (b : Bool) : (m.setObjBit idx sub i b).dev.lqs = m.dev.lqs := rfl
@[simp] theorem M.setObjBit_dev_banks (idx sub i : Nat) (b : Bool) : (m.setObjBit idx sub i b).dev.banks = m.dev.banks := rfl
@[simp] theorem M.setObjBit_dev_buckets (idx sub i : Nat) (b : Bool) : (m.setObjBit idx sub i b).dev.buckets = m.dev.buckets := rfl
@[simp] theorem M.setObjBit_dev_readyCtr (idx sub i : Nat) (b : Bool) : (m.setObjBit idx sub i b).dev.readyCtr = m.dev.readyCtr := rfl
@[simp] theorem M.setObjBit_dev_convs (idx sub i : Nat) (b : Bool) : (m.setObjBit idx sub i b).dev.convs = m.dev.convs := rfl
@[simp] theorem M.setObjBit_dev_lostLqs (idx sub i : Nat) (b : Bool) : (m.setObjBit idx sub i b).dev.lostLqs = m.dev.lostLqs := rfl
@[simp] theorem M.setObjBit_dev_darkLqs (idx sub i : Nat) (b : Bool) : (m.setObjBit idx sub i b).dev.darkLqs = m.dev.darkLqs := rfl
@[simp] theorem M.setObjBit_dev_outGroups (idx sub i : Nat) (b : Bool) : (m.setObjBit idx sub i b).dev.outGroups = m.dev.outGroups := rfl
@[simp] theorem M.setObjBit_dev_portClosed (idx sub i : Nat) (b : Bool) : (m.setObjBit idx sub i b).dev.portClosed = m.dev.portClosed := rfl
@[simp] theorem M.setObjBit_dev_unreach (idx sub i : Nat) (b : Bool) : (m.setObjBit idx sub i b).dev.unreach = m.dev.unreach := rfl
@[simp] theorem M.setObjBit_dev_untrained (idx sub i : Nat) (b : Bool) : (m.setObjBit idx sub i b).dev.untrained = m.dev.untrained := rfl
@[simp] theorem M.setObjBit_dev_repairMap (idx sub i : Nat) (b : Bool) : (m.setObjBit idx sub i b).dev.repairMap = m.dev.repairMap := rfl
@[simp] theorem M.setObjBit_dev_memLogRead (idx sub i : Nat) (b : Bool) : (m.setObjBit idx sub i b).dev.memLogRead = m.dev.memLogRead := rfl
@[simp] theorem M.setObjBit_dev_windows (idx sub i : Nat) (b : Bool) : (m.setObjBit idx sub i b).dev.windows = m.dev.windows := rfl
@[simp] theorem M.setObjBit_dev_ring (idx sub i : Nat) (b : Bool) : (m.setObjBit idx sub i b).dev.ring = m.dev.ring := rfl
@[simp] theorem M.setObjBit_dev_ringOut (idx sub i : Nat) (b : Bool) : (m.setObjBit idx sub i b).dev.ringOut = m.dev.ringOut := rfl
@[simp] theorem M.setObjBit_dev_ringCredits (idx sub i : Nat) (b : Bool) : (m.setObjBit idx sub i b).dev.ringCredits = m.dev.ringCredits := rfl
@[simp] theorem M.setObjBit_dev_links (idx sub i : Nat) (b : Bool) : (m.setObjBit idx sub i b).dev.links = m.dev.links := rfl
@[simp] theorem M.setObjBit_dev_fab (idx sub i : Nat) (b : Bool) : (m.setObjBit idx sub i b).dev.fab = m.dev.fab := rfl
@[simp] theorem M.setObjBit_dev_mirror (idx sub i : Nat) (b : Bool) : (m.setObjBit idx sub i b).dev.mirror = m.dev.mirror := rfl
@[simp] theorem M.setObjBit_dev_host (idx sub i : Nat) (b : Bool) : (m.setObjBit idx sub i b).dev.host = m.dev.host := rfl
@[simp] theorem M.setObjBit_dev_led (idx sub i : Nat) (b : Bool) : (m.setObjBit idx sub i b).dev.led = m.dev.led := rfl
@[simp] theorem M.setObjBit_dev_mgmt (idx sub i : Nat) (b : Bool) : (m.setObjBit idx sub i b).dev.mgmt = m.dev.mgmt := rfl
@[simp] theorem M.setObjBit_dev_power (idx sub i : Nat) (b : Bool) : (m.setObjBit idx sub i b).dev.power = m.dev.power := rfl
@[simp] theorem M.setObjBit_dev_heat (idx sub i : Nat) (b : Bool) : (m.setObjBit idx sub i b).dev.heat = m.dev.heat := rfl
@[simp] theorem M.setObjBit_dev_clocks (idx sub i : Nat) (b : Bool) : (m.setObjBit idx sub i b).dev.clocks = m.dev.clocks := rfl
@[simp] theorem M.setObjBit_dev_reset (idx sub i : Nat) (b : Bool) : (m.setObjBit idx sub i b).dev.reset = m.dev.reset := rfl
@[simp] theorem M.setObjBit_dev_faults (idx sub i : Nat) (b : Bool) : (m.setObjBit idx sub i b).dev.faults = m.dev.faults := rfl
@[simp] theorem M.setObjBit_dev_sec (idx sub i : Nat) (b : Bool) : (m.setObjBit idx sub i b).dev.sec = m.dev.sec := rfl

/-! ### `satObj` -/

@[simp] theorem M.satObj_fuse (idx sub hi lo n : Nat) : (m.satObj idx sub hi lo n).fuse = m.fuse := rfl
@[simp] theorem M.satObj_base (idx sub hi lo n : Nat) : (m.satObj idx sub hi lo n).base = m.base := rfl
@[simp] theorem M.satObj_ops (idx sub hi lo n : Nat) : (m.satObj idx sub hi lo n).ops = m.ops := rfl
@[simp] theorem M.satObj_dev_fresh (idx sub hi lo n : Nat) : (m.satObj idx sub hi lo n).dev.fresh = m.dev.fresh := rfl
@[simp] theorem M.satObj_dev_sent (idx sub hi lo n : Nat) : (m.satObj idx sub hi lo n).dev.sent = m.dev.sent := rfl
@[simp] theorem M.satObj_dev_devSeq (idx sub hi lo n : Nat) : (m.satObj idx sub hi lo n).dev.devSeq = m.dev.devSeq := rfl
@[simp] theorem M.satObj_dev_powered (idx sub hi lo n : Nat) : (m.satObj idx sub hi lo n).dev.powered = m.dev.powered := rfl
@[simp] theorem M.satObj_dev_tripped (idx sub hi lo n : Nat) : (m.satObj idx sub hi lo n).dev.tripped = m.dev.tripped := rfl
@[simp] theorem M.satObj_dev_oscLost (idx sub hi lo n : Nat) : (m.satObj idx sub hi lo n).dev.oscLost = m.dev.oscLost := rfl
@[simp] theorem M.satObj_dev_perst (idx sub hi lo n : Nat) : (m.satObj idx sub hi lo n).dev.perst = m.dev.perst := rfl
@[simp] theorem M.satObj_dev_pcieUp (idx sub hi lo n : Nat) : (m.satObj idx sub hi lo n).dev.pcieUp = m.dev.pcieUp := rfl
@[simp] theorem M.satObj_dev_startBlocked (idx sub hi lo n : Nat) : (m.satObj idx sub hi lo n).dev.startBlocked = m.dev.startBlocked := rfl
@[simp] theorem M.satObj_dev_cores (idx sub hi lo n : Nat) : (m.satObj idx sub hi lo n).dev.cores = m.dev.cores := rfl
@[simp] theorem M.satObj_dev_lqs (idx sub hi lo n : Nat) : (m.satObj idx sub hi lo n).dev.lqs = m.dev.lqs := rfl
@[simp] theorem M.satObj_dev_banks (idx sub hi lo n : Nat) : (m.satObj idx sub hi lo n).dev.banks = m.dev.banks := rfl
@[simp] theorem M.satObj_dev_buckets (idx sub hi lo n : Nat) : (m.satObj idx sub hi lo n).dev.buckets = m.dev.buckets := rfl
@[simp] theorem M.satObj_dev_readyCtr (idx sub hi lo n : Nat) : (m.satObj idx sub hi lo n).dev.readyCtr = m.dev.readyCtr := rfl
@[simp] theorem M.satObj_dev_convs (idx sub hi lo n : Nat) : (m.satObj idx sub hi lo n).dev.convs = m.dev.convs := rfl
@[simp] theorem M.satObj_dev_lostLqs (idx sub hi lo n : Nat) : (m.satObj idx sub hi lo n).dev.lostLqs = m.dev.lostLqs := rfl
@[simp] theorem M.satObj_dev_darkLqs (idx sub hi lo n : Nat) : (m.satObj idx sub hi lo n).dev.darkLqs = m.dev.darkLqs := rfl
@[simp] theorem M.satObj_dev_outGroups (idx sub hi lo n : Nat) : (m.satObj idx sub hi lo n).dev.outGroups = m.dev.outGroups := rfl
@[simp] theorem M.satObj_dev_portClosed (idx sub hi lo n : Nat) : (m.satObj idx sub hi lo n).dev.portClosed = m.dev.portClosed := rfl
@[simp] theorem M.satObj_dev_unreach (idx sub hi lo n : Nat) : (m.satObj idx sub hi lo n).dev.unreach = m.dev.unreach := rfl
@[simp] theorem M.satObj_dev_untrained (idx sub hi lo n : Nat) : (m.satObj idx sub hi lo n).dev.untrained = m.dev.untrained := rfl
@[simp] theorem M.satObj_dev_repairMap (idx sub hi lo n : Nat) : (m.satObj idx sub hi lo n).dev.repairMap = m.dev.repairMap := rfl
@[simp] theorem M.satObj_dev_memLogRead (idx sub hi lo n : Nat) : (m.satObj idx sub hi lo n).dev.memLogRead = m.dev.memLogRead := rfl
@[simp] theorem M.satObj_dev_windows (idx sub hi lo n : Nat) : (m.satObj idx sub hi lo n).dev.windows = m.dev.windows := rfl
@[simp] theorem M.satObj_dev_ring (idx sub hi lo n : Nat) : (m.satObj idx sub hi lo n).dev.ring = m.dev.ring := rfl
@[simp] theorem M.satObj_dev_ringOut (idx sub hi lo n : Nat) : (m.satObj idx sub hi lo n).dev.ringOut = m.dev.ringOut := rfl
@[simp] theorem M.satObj_dev_ringCredits (idx sub hi lo n : Nat) : (m.satObj idx sub hi lo n).dev.ringCredits = m.dev.ringCredits := rfl
@[simp] theorem M.satObj_dev_links (idx sub hi lo n : Nat) : (m.satObj idx sub hi lo n).dev.links = m.dev.links := rfl
@[simp] theorem M.satObj_dev_fab (idx sub hi lo n : Nat) : (m.satObj idx sub hi lo n).dev.fab = m.dev.fab := rfl
@[simp] theorem M.satObj_dev_mirror (idx sub hi lo n : Nat) : (m.satObj idx sub hi lo n).dev.mirror = m.dev.mirror := rfl
@[simp] theorem M.satObj_dev_host (idx sub hi lo n : Nat) : (m.satObj idx sub hi lo n).dev.host = m.dev.host := rfl
@[simp] theorem M.satObj_dev_led (idx sub hi lo n : Nat) : (m.satObj idx sub hi lo n).dev.led = m.dev.led := rfl
@[simp] theorem M.satObj_dev_mgmt (idx sub hi lo n : Nat) : (m.satObj idx sub hi lo n).dev.mgmt = m.dev.mgmt := rfl
@[simp] theorem M.satObj_dev_power (idx sub hi lo n : Nat) : (m.satObj idx sub hi lo n).dev.power = m.dev.power := rfl
@[simp] theorem M.satObj_dev_heat (idx sub hi lo n : Nat) : (m.satObj idx sub hi lo n).dev.heat = m.dev.heat := rfl
@[simp] theorem M.satObj_dev_clocks (idx sub hi lo n : Nat) : (m.satObj idx sub hi lo n).dev.clocks = m.dev.clocks := rfl
@[simp] theorem M.satObj_dev_reset (idx sub hi lo n : Nat) : (m.satObj idx sub hi lo n).dev.reset = m.dev.reset := rfl
@[simp] theorem M.satObj_dev_faults (idx sub hi lo n : Nat) : (m.satObj idx sub hi lo n).dev.faults = m.dev.faults := rfl
@[simp] theorem M.satObj_dev_sec (idx sub hi lo n : Nat) : (m.satObj idx sub hi lo n).dev.sec = m.dev.sec := rfl

/-! ### `wrapObj` -/

@[simp] theorem M.wrapObj_fuse (idx sub hi lo n : Nat) : (m.wrapObj idx sub hi lo n).fuse = m.fuse := rfl
@[simp] theorem M.wrapObj_base (idx sub hi lo n : Nat) : (m.wrapObj idx sub hi lo n).base = m.base := rfl
@[simp] theorem M.wrapObj_ops (idx sub hi lo n : Nat) : (m.wrapObj idx sub hi lo n).ops = m.ops := rfl
@[simp] theorem M.wrapObj_dev_fresh (idx sub hi lo n : Nat) : (m.wrapObj idx sub hi lo n).dev.fresh = m.dev.fresh := rfl
@[simp] theorem M.wrapObj_dev_sent (idx sub hi lo n : Nat) : (m.wrapObj idx sub hi lo n).dev.sent = m.dev.sent := rfl
@[simp] theorem M.wrapObj_dev_devSeq (idx sub hi lo n : Nat) : (m.wrapObj idx sub hi lo n).dev.devSeq = m.dev.devSeq := rfl
@[simp] theorem M.wrapObj_dev_powered (idx sub hi lo n : Nat) : (m.wrapObj idx sub hi lo n).dev.powered = m.dev.powered := rfl
@[simp] theorem M.wrapObj_dev_tripped (idx sub hi lo n : Nat) : (m.wrapObj idx sub hi lo n).dev.tripped = m.dev.tripped := rfl
@[simp] theorem M.wrapObj_dev_oscLost (idx sub hi lo n : Nat) : (m.wrapObj idx sub hi lo n).dev.oscLost = m.dev.oscLost := rfl
@[simp] theorem M.wrapObj_dev_perst (idx sub hi lo n : Nat) : (m.wrapObj idx sub hi lo n).dev.perst = m.dev.perst := rfl
@[simp] theorem M.wrapObj_dev_pcieUp (idx sub hi lo n : Nat) : (m.wrapObj idx sub hi lo n).dev.pcieUp = m.dev.pcieUp := rfl
@[simp] theorem M.wrapObj_dev_startBlocked (idx sub hi lo n : Nat) : (m.wrapObj idx sub hi lo n).dev.startBlocked = m.dev.startBlocked := rfl
@[simp] theorem M.wrapObj_dev_cores (idx sub hi lo n : Nat) : (m.wrapObj idx sub hi lo n).dev.cores = m.dev.cores := rfl
@[simp] theorem M.wrapObj_dev_lqs (idx sub hi lo n : Nat) : (m.wrapObj idx sub hi lo n).dev.lqs = m.dev.lqs := rfl
@[simp] theorem M.wrapObj_dev_banks (idx sub hi lo n : Nat) : (m.wrapObj idx sub hi lo n).dev.banks = m.dev.banks := rfl
@[simp] theorem M.wrapObj_dev_buckets (idx sub hi lo n : Nat) : (m.wrapObj idx sub hi lo n).dev.buckets = m.dev.buckets := rfl
@[simp] theorem M.wrapObj_dev_readyCtr (idx sub hi lo n : Nat) : (m.wrapObj idx sub hi lo n).dev.readyCtr = m.dev.readyCtr := rfl
@[simp] theorem M.wrapObj_dev_convs (idx sub hi lo n : Nat) : (m.wrapObj idx sub hi lo n).dev.convs = m.dev.convs := rfl
@[simp] theorem M.wrapObj_dev_lostLqs (idx sub hi lo n : Nat) : (m.wrapObj idx sub hi lo n).dev.lostLqs = m.dev.lostLqs := rfl
@[simp] theorem M.wrapObj_dev_darkLqs (idx sub hi lo n : Nat) : (m.wrapObj idx sub hi lo n).dev.darkLqs = m.dev.darkLqs := rfl
@[simp] theorem M.wrapObj_dev_outGroups (idx sub hi lo n : Nat) : (m.wrapObj idx sub hi lo n).dev.outGroups = m.dev.outGroups := rfl
@[simp] theorem M.wrapObj_dev_portClosed (idx sub hi lo n : Nat) : (m.wrapObj idx sub hi lo n).dev.portClosed = m.dev.portClosed := rfl
@[simp] theorem M.wrapObj_dev_unreach (idx sub hi lo n : Nat) : (m.wrapObj idx sub hi lo n).dev.unreach = m.dev.unreach := rfl
@[simp] theorem M.wrapObj_dev_untrained (idx sub hi lo n : Nat) : (m.wrapObj idx sub hi lo n).dev.untrained = m.dev.untrained := rfl
@[simp] theorem M.wrapObj_dev_repairMap (idx sub hi lo n : Nat) : (m.wrapObj idx sub hi lo n).dev.repairMap = m.dev.repairMap := rfl
@[simp] theorem M.wrapObj_dev_memLogRead (idx sub hi lo n : Nat) : (m.wrapObj idx sub hi lo n).dev.memLogRead = m.dev.memLogRead := rfl
@[simp] theorem M.wrapObj_dev_windows (idx sub hi lo n : Nat) : (m.wrapObj idx sub hi lo n).dev.windows = m.dev.windows := rfl
@[simp] theorem M.wrapObj_dev_ring (idx sub hi lo n : Nat) : (m.wrapObj idx sub hi lo n).dev.ring = m.dev.ring := rfl
@[simp] theorem M.wrapObj_dev_ringOut (idx sub hi lo n : Nat) : (m.wrapObj idx sub hi lo n).dev.ringOut = m.dev.ringOut := rfl
@[simp] theorem M.wrapObj_dev_ringCredits (idx sub hi lo n : Nat) : (m.wrapObj idx sub hi lo n).dev.ringCredits = m.dev.ringCredits := rfl
@[simp] theorem M.wrapObj_dev_links (idx sub hi lo n : Nat) : (m.wrapObj idx sub hi lo n).dev.links = m.dev.links := rfl
@[simp] theorem M.wrapObj_dev_fab (idx sub hi lo n : Nat) : (m.wrapObj idx sub hi lo n).dev.fab = m.dev.fab := rfl
@[simp] theorem M.wrapObj_dev_mirror (idx sub hi lo n : Nat) : (m.wrapObj idx sub hi lo n).dev.mirror = m.dev.mirror := rfl
@[simp] theorem M.wrapObj_dev_host (idx sub hi lo n : Nat) : (m.wrapObj idx sub hi lo n).dev.host = m.dev.host := rfl
@[simp] theorem M.wrapObj_dev_led (idx sub hi lo n : Nat) : (m.wrapObj idx sub hi lo n).dev.led = m.dev.led := rfl
@[simp] theorem M.wrapObj_dev_mgmt (idx sub hi lo n : Nat) : (m.wrapObj idx sub hi lo n).dev.mgmt = m.dev.mgmt := rfl
@[simp] theorem M.wrapObj_dev_power (idx sub hi lo n : Nat) : (m.wrapObj idx sub hi lo n).dev.power = m.dev.power := rfl
@[simp] theorem M.wrapObj_dev_heat (idx sub hi lo n : Nat) : (m.wrapObj idx sub hi lo n).dev.heat = m.dev.heat := rfl
@[simp] theorem M.wrapObj_dev_clocks (idx sub hi lo n : Nat) : (m.wrapObj idx sub hi lo n).dev.clocks = m.dev.clocks := rfl
@[simp] theorem M.wrapObj_dev_reset (idx sub hi lo n : Nat) : (m.wrapObj idx sub hi lo n).dev.reset = m.dev.reset := rfl
@[simp] theorem M.wrapObj_dev_faults (idx sub hi lo n : Nat) : (m.wrapObj idx sub hi lo n).dev.faults = m.dev.faults := rfl
@[simp] theorem M.wrapObj_dev_sec (idx sub hi lo n : Nat) : (m.wrapObj idx sub hi lo n).dev.sec = m.dev.sec := rfl

/-! ### `setCore` -/

@[simp] theorem M.setCore_fuse (i : Nat) (c : Core) : (m.setCore i c).fuse = m.fuse := rfl
@[simp] theorem M.setCore_base (i : Nat) (c : Core) : (m.setCore i c).base = m.base := rfl
@[simp] theorem M.setCore_ops (i : Nat) (c : Core) : (m.setCore i c).ops = m.ops := rfl
@[simp] theorem M.setCore_dev_fresh (i : Nat) (c : Core) : (m.setCore i c).dev.fresh = m.dev.fresh := rfl
@[simp] theorem M.setCore_dev_sent (i : Nat) (c : Core) : (m.setCore i c).dev.sent = m.dev.sent := rfl
@[simp] theorem M.setCore_dev_devSeq (i : Nat) (c : Core) : (m.setCore i c).dev.devSeq = m.dev.devSeq := rfl
@[simp] theorem M.setCore_dev_powered (i : Nat) (c : Core) : (m.setCore i c).dev.powered = m.dev.powered := rfl
@[simp] theorem M.setCore_dev_tripped (i : Nat) (c : Core) : (m.setCore i c).dev.tripped = m.dev.tripped := rfl
@[simp] theorem M.setCore_dev_oscLost (i : Nat) (c : Core) : (m.setCore i c).dev.oscLost = m.dev.oscLost := rfl
@[simp] theorem M.setCore_dev_perst (i : Nat) (c : Core) : (m.setCore i c).dev.perst = m.dev.perst := rfl
@[simp] theorem M.setCore_dev_pcieUp (i : Nat) (c : Core) : (m.setCore i c).dev.pcieUp = m.dev.pcieUp := rfl
@[simp] theorem M.setCore_dev_startBlocked (i : Nat) (c : Core) : (m.setCore i c).dev.startBlocked = m.dev.startBlocked := rfl
@[simp] theorem M.setCore_dev_objs (i : Nat) (c : Core) : (m.setCore i c).dev.objs = m.dev.objs := rfl
@[simp] theorem M.setCore_dev_lqs (i : Nat) (c : Core) : (m.setCore i c).dev.lqs = m.dev.lqs := rfl
@[simp] theorem M.setCore_dev_banks (i : Nat) (c : Core) : (m.setCore i c).dev.banks = m.dev.banks := rfl
@[simp] theorem M.setCore_dev_buckets (i : Nat) (c : Core) : (m.setCore i c).dev.buckets = m.dev.buckets := rfl
@[simp] theorem M.setCore_dev_readyCtr (i : Nat) (c : Core) : (m.setCore i c).dev.readyCtr = m.dev.readyCtr := rfl
@[simp] theorem M.setCore_dev_convs (i : Nat) (c : Core) : (m.setCore i c).dev.convs = m.dev.convs := rfl
@[simp] theorem M.setCore_dev_lostLqs (i : Nat) (c : Core) : (m.setCore i c).dev.lostLqs = m.dev.lostLqs := rfl
@[simp] theorem M.setCore_dev_darkLqs (i : Nat) (c : Core) : (m.setCore i c).dev.darkLqs = m.dev.darkLqs := rfl
@[simp] theorem M.setCore_dev_outGroups (i : Nat) (c : Core) : (m.setCore i c).dev.outGroups = m.dev.outGroups := rfl
@[simp] theorem M.setCore_dev_portClosed (i : Nat) (c : Core) : (m.setCore i c).dev.portClosed = m.dev.portClosed := rfl
@[simp] theorem M.setCore_dev_unreach (i : Nat) (c : Core) : (m.setCore i c).dev.unreach = m.dev.unreach := rfl
@[simp] theorem M.setCore_dev_untrained (i : Nat) (c : Core) : (m.setCore i c).dev.untrained = m.dev.untrained := rfl
@[simp] theorem M.setCore_dev_repairMap (i : Nat) (c : Core) : (m.setCore i c).dev.repairMap = m.dev.repairMap := rfl
@[simp] theorem M.setCore_dev_memLogRead (i : Nat) (c : Core) : (m.setCore i c).dev.memLogRead = m.dev.memLogRead := rfl
@[simp] theorem M.setCore_dev_windows (i : Nat) (c : Core) : (m.setCore i c).dev.windows = m.dev.windows := rfl
@[simp] theorem M.setCore_dev_ring (i : Nat) (c : Core) : (m.setCore i c).dev.ring = m.dev.ring := rfl
@[simp] theorem M.setCore_dev_ringOut (i : Nat) (c : Core) : (m.setCore i c).dev.ringOut = m.dev.ringOut := rfl
@[simp] theorem M.setCore_dev_ringCredits (i : Nat) (c : Core) : (m.setCore i c).dev.ringCredits = m.dev.ringCredits := rfl
@[simp] theorem M.setCore_dev_links (i : Nat) (c : Core) : (m.setCore i c).dev.links = m.dev.links := rfl
@[simp] theorem M.setCore_dev_fab (i : Nat) (c : Core) : (m.setCore i c).dev.fab = m.dev.fab := rfl
@[simp] theorem M.setCore_dev_mirror (i : Nat) (c : Core) : (m.setCore i c).dev.mirror = m.dev.mirror := rfl
@[simp] theorem M.setCore_dev_host (i : Nat) (c : Core) : (m.setCore i c).dev.host = m.dev.host := rfl
@[simp] theorem M.setCore_dev_led (i : Nat) (c : Core) : (m.setCore i c).dev.led = m.dev.led := rfl
@[simp] theorem M.setCore_dev_mgmt (i : Nat) (c : Core) : (m.setCore i c).dev.mgmt = m.dev.mgmt := rfl
@[simp] theorem M.setCore_dev_power (i : Nat) (c : Core) : (m.setCore i c).dev.power = m.dev.power := rfl
@[simp] theorem M.setCore_dev_heat (i : Nat) (c : Core) : (m.setCore i c).dev.heat = m.dev.heat := rfl
@[simp] theorem M.setCore_dev_clocks (i : Nat) (c : Core) : (m.setCore i c).dev.clocks = m.dev.clocks := rfl
@[simp] theorem M.setCore_dev_reset (i : Nat) (c : Core) : (m.setCore i c).dev.reset = m.dev.reset := rfl
@[simp] theorem M.setCore_dev_faults (i : Nat) (c : Core) : (m.setCore i c).dev.faults = m.dev.faults := rfl
@[simp] theorem M.setCore_dev_sec (i : Nat) (c : Core) : (m.setCore i c).dev.sec = m.dev.sec := rfl

/-! ### `modCore` -/

@[simp] theorem M.modCore_fuse (i : Nat) (f : Core → Core) : (m.modCore i f).fuse = m.fuse := rfl
@[simp] theorem M.modCore_base (i : Nat) (f : Core → Core) : (m.modCore i f).base = m.base := rfl
@[simp] theorem M.modCore_ops (i : Nat) (f : Core → Core) : (m.modCore i f).ops = m.ops := rfl
@[simp] theorem M.modCore_dev_fresh (i : Nat) (f : Core → Core) : (m.modCore i f).dev.fresh = m.dev.fresh := rfl
@[simp] theorem M.modCore_dev_sent (i : Nat) (f : Core → Core) : (m.modCore i f).dev.sent = m.dev.sent := rfl
@[simp] theorem M.modCore_dev_devSeq (i : Nat) (f : Core → Core) : (m.modCore i f).dev.devSeq = m.dev.devSeq := rfl
@[simp] theorem M.modCore_dev_powered (i : Nat) (f : Core → Core) : (m.modCore i f).dev.powered = m.dev.powered := rfl
@[simp] theorem M.modCore_dev_tripped (i : Nat) (f : Core → Core) : (m.modCore i f).dev.tripped = m.dev.tripped := rfl
@[simp] theorem M.modCore_dev_oscLost (i : Nat) (f : Core → Core) : (m.modCore i f).dev.oscLost = m.dev.oscLost := rfl
@[simp] theorem M.modCore_dev_perst (i : Nat) (f : Core → Core) : (m.modCore i f).dev.perst = m.dev.perst := rfl
@[simp] theorem M.modCore_dev_pcieUp (i : Nat) (f : Core → Core) : (m.modCore i f).dev.pcieUp = m.dev.pcieUp := rfl
@[simp] theorem M.modCore_dev_startBlocked (i : Nat) (f : Core → Core) : (m.modCore i f).dev.startBlocked = m.dev.startBlocked := rfl
@[simp] theorem M.modCore_dev_objs (i : Nat) (f : Core → Core) : (m.modCore i f).dev.objs = m.dev.objs := rfl
@[simp] theorem M.modCore_dev_lqs (i : Nat) (f : Core → Core) : (m.modCore i f).dev.lqs = m.dev.lqs := rfl
@[simp] theorem M.modCore_dev_banks (i : Nat) (f : Core → Core) : (m.modCore i f).dev.banks = m.dev.banks := rfl
@[simp] theorem M.modCore_dev_buckets (i : Nat) (f : Core → Core) : (m.modCore i f).dev.buckets = m.dev.buckets := rfl
@[simp] theorem M.modCore_dev_readyCtr (i : Nat) (f : Core → Core) : (m.modCore i f).dev.readyCtr = m.dev.readyCtr := rfl
@[simp] theorem M.modCore_dev_convs (i : Nat) (f : Core → Core) : (m.modCore i f).dev.convs = m.dev.convs := rfl
@[simp] theorem M.modCore_dev_lostLqs (i : Nat) (f : Core → Core) : (m.modCore i f).dev.lostLqs = m.dev.lostLqs := rfl
@[simp] theorem M.modCore_dev_darkLqs (i : Nat) (f : Core → Core) : (m.modCore i f).dev.darkLqs = m.dev.darkLqs := rfl
@[simp] theorem M.modCore_dev_outGroups (i : Nat) (f : Core → Core) : (m.modCore i f).dev.outGroups = m.dev.outGroups := rfl
@[simp] theorem M.modCore_dev_portClosed (i : Nat) (f : Core → Core) : (m.modCore i f).dev.portClosed = m.dev.portClosed := rfl
@[simp] theorem M.modCore_dev_unreach (i : Nat) (f : Core → Core) : (m.modCore i f).dev.unreach = m.dev.unreach := rfl
@[simp] theorem M.modCore_dev_untrained (i : Nat) (f : Core → Core) : (m.modCore i f).dev.untrained = m.dev.untrained := rfl
@[simp] theorem M.modCore_dev_repairMap (i : Nat) (f : Core → Core) : (m.modCore i f).dev.repairMap = m.dev.repairMap := rfl
@[simp] theorem M.modCore_dev_memLogRead (i : Nat) (f : Core → Core) : (m.modCore i f).dev.memLogRead = m.dev.memLogRead := rfl
@[simp] theorem M.modCore_dev_windows (i : Nat) (f : Core → Core) : (m.modCore i f).dev.windows = m.dev.windows := rfl
@[simp] theorem M.modCore_dev_ring (i : Nat) (f : Core → Core) : (m.modCore i f).dev.ring = m.dev.ring := rfl
@[simp] theorem M.modCore_dev_ringOut (i : Nat) (f : Core → Core) : (m.modCore i f).dev.ringOut = m.dev.ringOut := rfl
@[simp] theorem M.modCore_dev_ringCredits (i : Nat) (f : Core → Core) : (m.modCore i f).dev.ringCredits = m.dev.ringCredits := rfl
@[simp] theorem M.modCore_dev_links (i : Nat) (f : Core → Core) : (m.modCore i f).dev.links = m.dev.links := rfl
@[simp] theorem M.modCore_dev_fab (i : Nat) (f : Core → Core) : (m.modCore i f).dev.fab = m.dev.fab := rfl
@[simp] theorem M.modCore_dev_mirror (i : Nat) (f : Core → Core) : (m.modCore i f).dev.mirror = m.dev.mirror := rfl
@[simp] theorem M.modCore_dev_host (i : Nat) (f : Core → Core) : (m.modCore i f).dev.host = m.dev.host := rfl
@[simp] theorem M.modCore_dev_led (i : Nat) (f : Core → Core) : (m.modCore i f).dev.led = m.dev.led := rfl
@[simp] theorem M.modCore_dev_mgmt (i : Nat) (f : Core → Core) : (m.modCore i f).dev.mgmt = m.dev.mgmt := rfl
@[simp] theorem M.modCore_dev_power (i : Nat) (f : Core → Core) : (m.modCore i f).dev.power = m.dev.power := rfl
@[simp] theorem M.modCore_dev_heat (i : Nat) (f : Core → Core) : (m.modCore i f).dev.heat = m.dev.heat := rfl
@[simp] theorem M.modCore_dev_clocks (i : Nat) (f : Core → Core) : (m.modCore i f).dev.clocks = m.dev.clocks := rfl
@[simp] theorem M.modCore_dev_reset (i : Nat) (f : Core → Core) : (m.modCore i f).dev.reset = m.dev.reset := rfl
@[simp] theorem M.modCore_dev_faults (i : Nat) (f : Core → Core) : (m.modCore i f).dev.faults = m.dev.faults := rfl
@[simp] theorem M.modCore_dev_sec (i : Nat) (f : Core → Core) : (m.modCore i f).dev.sec = m.dev.sec := rfl

/-! ### `modCtx` -/

@[simp] theorem M.modCtx_fuse (i x : Nat) (f : CtxRegs → CtxRegs) : (m.modCtx i x f).fuse = m.fuse := rfl
@[simp] theorem M.modCtx_base (i x : Nat) (f : CtxRegs → CtxRegs) : (m.modCtx i x f).base = m.base := rfl
@[simp] theorem M.modCtx_ops (i x : Nat) (f : CtxRegs → CtxRegs) : (m.modCtx i x f).ops = m.ops := rfl
@[simp] theorem M.modCtx_dev_fresh (i x : Nat) (f : CtxRegs → CtxRegs) : (m.modCtx i x f).dev.fresh = m.dev.fresh := rfl
@[simp] theorem M.modCtx_dev_sent (i x : Nat) (f : CtxRegs → CtxRegs) : (m.modCtx i x f).dev.sent = m.dev.sent := rfl
@[simp] theorem M.modCtx_dev_devSeq (i x : Nat) (f : CtxRegs → CtxRegs) : (m.modCtx i x f).dev.devSeq = m.dev.devSeq := rfl
@[simp] theorem M.modCtx_dev_powered (i x : Nat) (f : CtxRegs → CtxRegs) : (m.modCtx i x f).dev.powered = m.dev.powered := rfl
@[simp] theorem M.modCtx_dev_tripped (i x : Nat) (f : CtxRegs → CtxRegs) : (m.modCtx i x f).dev.tripped = m.dev.tripped := rfl
@[simp] theorem M.modCtx_dev_oscLost (i x : Nat) (f : CtxRegs → CtxRegs) : (m.modCtx i x f).dev.oscLost = m.dev.oscLost := rfl
@[simp] theorem M.modCtx_dev_perst (i x : Nat) (f : CtxRegs → CtxRegs) : (m.modCtx i x f).dev.perst = m.dev.perst := rfl
@[simp] theorem M.modCtx_dev_pcieUp (i x : Nat) (f : CtxRegs → CtxRegs) : (m.modCtx i x f).dev.pcieUp = m.dev.pcieUp := rfl
@[simp] theorem M.modCtx_dev_startBlocked (i x : Nat) (f : CtxRegs → CtxRegs) : (m.modCtx i x f).dev.startBlocked = m.dev.startBlocked := rfl
@[simp] theorem M.modCtx_dev_objs (i x : Nat) (f : CtxRegs → CtxRegs) : (m.modCtx i x f).dev.objs = m.dev.objs := rfl
@[simp] theorem M.modCtx_dev_lqs (i x : Nat) (f : CtxRegs → CtxRegs) : (m.modCtx i x f).dev.lqs = m.dev.lqs := rfl
@[simp] theorem M.modCtx_dev_banks (i x : Nat) (f : CtxRegs → CtxRegs) : (m.modCtx i x f).dev.banks = m.dev.banks := rfl
@[simp] theorem M.modCtx_dev_buckets (i x : Nat) (f : CtxRegs → CtxRegs) : (m.modCtx i x f).dev.buckets = m.dev.buckets := rfl
@[simp] theorem M.modCtx_dev_readyCtr (i x : Nat) (f : CtxRegs → CtxRegs) : (m.modCtx i x f).dev.readyCtr = m.dev.readyCtr := rfl
@[simp] theorem M.modCtx_dev_convs (i x : Nat) (f : CtxRegs → CtxRegs) : (m.modCtx i x f).dev.convs = m.dev.convs := rfl
@[simp] theorem M.modCtx_dev_lostLqs (i x : Nat) (f : CtxRegs → CtxRegs) : (m.modCtx i x f).dev.lostLqs = m.dev.lostLqs := rfl
@[simp] theorem M.modCtx_dev_darkLqs (i x : Nat) (f : CtxRegs → CtxRegs) : (m.modCtx i x f).dev.darkLqs = m.dev.darkLqs := rfl
@[simp] theorem M.modCtx_dev_outGroups (i x : Nat) (f : CtxRegs → CtxRegs) : (m.modCtx i x f).dev.outGroups = m.dev.outGroups := rfl
@[simp] theorem M.modCtx_dev_portClosed (i x : Nat) (f : CtxRegs → CtxRegs) : (m.modCtx i x f).dev.portClosed = m.dev.portClosed := rfl
@[simp] theorem M.modCtx_dev_unreach (i x : Nat) (f : CtxRegs → CtxRegs) : (m.modCtx i x f).dev.unreach = m.dev.unreach := rfl
@[simp] theorem M.modCtx_dev_untrained (i x : Nat) (f : CtxRegs → CtxRegs) : (m.modCtx i x f).dev.untrained = m.dev.untrained := rfl
@[simp] theorem M.modCtx_dev_repairMap (i x : Nat) (f : CtxRegs → CtxRegs) : (m.modCtx i x f).dev.repairMap = m.dev.repairMap := rfl
@[simp] theorem M.modCtx_dev_memLogRead (i x : Nat) (f : CtxRegs → CtxRegs) : (m.modCtx i x f).dev.memLogRead = m.dev.memLogRead := rfl
@[simp] theorem M.modCtx_dev_windows (i x : Nat) (f : CtxRegs → CtxRegs) : (m.modCtx i x f).dev.windows = m.dev.windows := rfl
@[simp] theorem M.modCtx_dev_ring (i x : Nat) (f : CtxRegs → CtxRegs) : (m.modCtx i x f).dev.ring = m.dev.ring := rfl
@[simp] theorem M.modCtx_dev_ringOut (i x : Nat) (f : CtxRegs → CtxRegs) : (m.modCtx i x f).dev.ringOut = m.dev.ringOut := rfl
@[simp] theorem M.modCtx_dev_ringCredits (i x : Nat) (f : CtxRegs → CtxRegs) : (m.modCtx i x f).dev.ringCredits = m.dev.ringCredits := rfl
@[simp] theorem M.modCtx_dev_links (i x : Nat) (f : CtxRegs → CtxRegs) : (m.modCtx i x f).dev.links = m.dev.links := rfl
@[simp] theorem M.modCtx_dev_fab (i x : Nat) (f : CtxRegs → CtxRegs) : (m.modCtx i x f).dev.fab = m.dev.fab := rfl
@[simp] theorem M.modCtx_dev_mirror (i x : Nat) (f : CtxRegs → CtxRegs) : (m.modCtx i x f).dev.mirror = m.dev.mirror := rfl
@[simp] theorem M.modCtx_dev_host (i x : Nat) (f : CtxRegs → CtxRegs) : (m.modCtx i x f).dev.host = m.dev.host := rfl
@[simp] theorem M.modCtx_dev_led (i x : Nat) (f : CtxRegs → CtxRegs) : (m.modCtx i x f).dev.led = m.dev.led := rfl
@[simp] theorem M.modCtx_dev_mgmt (i x : Nat) (f : CtxRegs → CtxRegs) : (m.modCtx i x f).dev.mgmt = m.dev.mgmt := rfl
@[simp] theorem M.modCtx_dev_power (i x : Nat) (f : CtxRegs → CtxRegs) : (m.modCtx i x f).dev.power = m.dev.power := rfl
@[simp] theorem M.modCtx_dev_heat (i x : Nat) (f : CtxRegs → CtxRegs) : (m.modCtx i x f).dev.heat = m.dev.heat := rfl
@[simp] theorem M.modCtx_dev_clocks (i x : Nat) (f : CtxRegs → CtxRegs) : (m.modCtx i x f).dev.clocks = m.dev.clocks := rfl
@[simp] theorem M.modCtx_dev_reset (i x : Nat) (f : CtxRegs → CtxRegs) : (m.modCtx i x f).dev.reset = m.dev.reset := rfl
@[simp] theorem M.modCtx_dev_faults (i x : Nat) (f : CtxRegs → CtxRegs) : (m.modCtx i x f).dev.faults = m.dev.faults := rfl
@[simp] theorem M.modCtx_dev_sec (i x : Nat) (f : CtxRegs → CtxRegs) : (m.modCtx i x f).dev.sec = m.dev.sec := rfl

/-! ### `modLq` -/

@[simp] theorem M.modLq_fuse (n : Nat) (f : Lq → Lq) : (m.modLq n f).fuse = m.fuse := rfl
@[simp] theorem M.modLq_base (n : Nat) (f : Lq → Lq) : (m.modLq n f).base = m.base := rfl
@[simp] theorem M.modLq_ops (n : Nat) (f : Lq → Lq) : (m.modLq n f).ops = m.ops := rfl
@[simp] theorem M.modLq_dev_fresh (n : Nat) (f : Lq → Lq) : (m.modLq n f).dev.fresh = m.dev.fresh := rfl
@[simp] theorem M.modLq_dev_sent (n : Nat) (f : Lq → Lq) : (m.modLq n f).dev.sent = m.dev.sent := rfl
@[simp] theorem M.modLq_dev_devSeq (n : Nat) (f : Lq → Lq) : (m.modLq n f).dev.devSeq = m.dev.devSeq := rfl
@[simp] theorem M.modLq_dev_powered (n : Nat) (f : Lq → Lq) : (m.modLq n f).dev.powered = m.dev.powered := rfl
@[simp] theorem M.modLq_dev_tripped (n : Nat) (f : Lq → Lq) : (m.modLq n f).dev.tripped = m.dev.tripped := rfl
@[simp] theorem M.modLq_dev_oscLost (n : Nat) (f : Lq → Lq) : (m.modLq n f).dev.oscLost = m.dev.oscLost := rfl
@[simp] theorem M.modLq_dev_perst (n : Nat) (f : Lq → Lq) : (m.modLq n f).dev.perst = m.dev.perst := rfl
@[simp] theorem M.modLq_dev_pcieUp (n : Nat) (f : Lq → Lq) : (m.modLq n f).dev.pcieUp = m.dev.pcieUp := rfl
@[simp] theorem M.modLq_dev_startBlocked (n : Nat) (f : Lq → Lq) : (m.modLq n f).dev.startBlocked = m.dev.startBlocked := rfl
@[simp] theorem M.modLq_dev_objs (n : Nat) (f : Lq → Lq) : (m.modLq n f).dev.objs = m.dev.objs := rfl
@[simp] theorem M.modLq_dev_cores (n : Nat) (f : Lq → Lq) : (m.modLq n f).dev.cores = m.dev.cores := rfl
@[simp] theorem M.modLq_dev_banks (n : Nat) (f : Lq → Lq) : (m.modLq n f).dev.banks = m.dev.banks := rfl
@[simp] theorem M.modLq_dev_buckets (n : Nat) (f : Lq → Lq) : (m.modLq n f).dev.buckets = m.dev.buckets := rfl
@[simp] theorem M.modLq_dev_readyCtr (n : Nat) (f : Lq → Lq) : (m.modLq n f).dev.readyCtr = m.dev.readyCtr := rfl
@[simp] theorem M.modLq_dev_convs (n : Nat) (f : Lq → Lq) : (m.modLq n f).dev.convs = m.dev.convs := rfl
@[simp] theorem M.modLq_dev_lostLqs (n : Nat) (f : Lq → Lq) : (m.modLq n f).dev.lostLqs = m.dev.lostLqs := rfl
@[simp] theorem M.modLq_dev_darkLqs (n : Nat) (f : Lq → Lq) : (m.modLq n f).dev.darkLqs = m.dev.darkLqs := rfl
@[simp] theorem M.modLq_dev_outGroups (n : Nat) (f : Lq → Lq) : (m.modLq n f).dev.outGroups = m.dev.outGroups := rfl
@[simp] theorem M.modLq_dev_portClosed (n : Nat) (f : Lq → Lq) : (m.modLq n f).dev.portClosed = m.dev.portClosed := rfl
@[simp] theorem M.modLq_dev_unreach (n : Nat) (f : Lq → Lq) : (m.modLq n f).dev.unreach = m.dev.unreach := rfl
@[simp] theorem M.modLq_dev_untrained (n : Nat) (f : Lq → Lq) : (m.modLq n f).dev.untrained = m.dev.untrained := rfl
@[simp] theorem M.modLq_dev_repairMap (n : Nat) (f : Lq → Lq) : (m.modLq n f).dev.repairMap = m.dev.repairMap := rfl
@[simp] theorem M.modLq_dev_memLogRead (n : Nat) (f : Lq → Lq) : (m.modLq n f).dev.memLogRead = m.dev.memLogRead := rfl
@[simp] theorem M.modLq_dev_windows (n : Nat) (f : Lq → Lq) : (m.modLq n f).dev.windows = m.dev.windows := rfl
@[simp] theorem M.modLq_dev_ring (n : Nat) (f : Lq → Lq) : (m.modLq n f).dev.ring = m.dev.ring := rfl
@[simp] theorem M.modLq_dev_ringOut (n : Nat) (f : Lq → Lq) : (m.modLq n f).dev.ringOut = m.dev.ringOut := rfl
@[simp] theorem M.modLq_dev_ringCredits (n : Nat) (f : Lq → Lq) : (m.modLq n f).dev.ringCredits = m.dev.ringCredits := rfl
@[simp] theorem M.modLq_dev_links (n : Nat) (f : Lq → Lq) : (m.modLq n f).dev.links = m.dev.links := rfl
@[simp] theorem M.modLq_dev_fab (n : Nat) (f : Lq → Lq) : (m.modLq n f).dev.fab = m.dev.fab := rfl
@[simp] theorem M.modLq_dev_mirror (n : Nat) (f : Lq → Lq) : (m.modLq n f).dev.mirror = m.dev.mirror := rfl
@[simp] theorem M.modLq_dev_host (n : Nat) (f : Lq → Lq) : (m.modLq n f).dev.host = m.dev.host := rfl
@[simp] theorem M.modLq_dev_led (n : Nat) (f : Lq → Lq) : (m.modLq n f).dev.led = m.dev.led := rfl
@[simp] theorem M.modLq_dev_mgmt (n : Nat) (f : Lq → Lq) : (m.modLq n f).dev.mgmt = m.dev.mgmt := rfl
@[simp] theorem M.modLq_dev_power (n : Nat) (f : Lq → Lq) : (m.modLq n f).dev.power = m.dev.power := rfl
@[simp] theorem M.modLq_dev_heat (n : Nat) (f : Lq → Lq) : (m.modLq n f).dev.heat = m.dev.heat := rfl
@[simp] theorem M.modLq_dev_clocks (n : Nat) (f : Lq → Lq) : (m.modLq n f).dev.clocks = m.dev.clocks := rfl
@[simp] theorem M.modLq_dev_reset (n : Nat) (f : Lq → Lq) : (m.modLq n f).dev.reset = m.dev.reset := rfl
@[simp] theorem M.modLq_dev_faults (n : Nat) (f : Lq → Lq) : (m.modLq n f).dev.faults = m.dev.faults := rfl
@[simp] theorem M.modLq_dev_sec (n : Nat) (f : Lq → Lq) : (m.modLq n f).dev.sec = m.dev.sec := rfl

/-! ### `modBank` -/

@[simp] theorem M.modBank_fuse (b : Nat) (f : Bank → Bank) : (m.modBank b f).fuse = m.fuse := rfl
@[simp] theorem M.modBank_base (b : Nat) (f : Bank → Bank) : (m.modBank b f).base = m.base := rfl
@[simp] theorem M.modBank_ops (b : Nat) (f : Bank → Bank) : (m.modBank b f).ops = m.ops := rfl
@[simp] theorem M.modBank_dev_fresh (b : Nat) (f : Bank → Bank) : (m.modBank b f).dev.fresh = m.dev.fresh := rfl
@[simp] theorem M.modBank_dev_sent (b : Nat) (f : Bank → Bank) : (m.modBank b f).dev.sent = m.dev.sent := rfl
@[simp] theorem M.modBank_dev_devSeq (b : Nat) (f : Bank → Bank) : (m.modBank b f).dev.devSeq = m.dev.devSeq := rfl
@[simp] theorem M.modBank_dev_powered (b : Nat) (f : Bank → Bank) : (m.modBank b f).dev.powered = m.dev.powered := rfl
@[simp] theorem M.modBank_dev_tripped (b : Nat) (f : Bank → Bank) : (m.modBank b f).dev.tripped = m.dev.tripped := rfl
@[simp] theorem M.modBank_dev_oscLost (b : Nat) (f : Bank → Bank) : (m.modBank b f).dev.oscLost = m.dev.oscLost := rfl
@[simp] theorem M.modBank_dev_perst (b : Nat) (f : Bank → Bank) : (m.modBank b f).dev.perst = m.dev.perst := rfl
@[simp] theorem M.modBank_dev_pcieUp (b : Nat) (f : Bank → Bank) : (m.modBank b f).dev.pcieUp = m.dev.pcieUp := rfl
@[simp] theorem M.modBank_dev_startBlocked (b : Nat) (f : Bank → Bank) : (m.modBank b f).dev.startBlocked = m.dev.startBlocked := rfl
@[simp] theorem M.modBank_dev_objs (b : Nat) (f : Bank → Bank) : (m.modBank b f).dev.objs = m.dev.objs := rfl
@[simp] theorem M.modBank_dev_cores (b : Nat) (f : Bank → Bank) : (m.modBank b f).dev.cores = m.dev.cores := rfl
@[simp] theorem M.modBank_dev_lqs (b : Nat) (f : Bank → Bank) : (m.modBank b f).dev.lqs = m.dev.lqs := rfl
@[simp] theorem M.modBank_dev_buckets (b : Nat) (f : Bank → Bank) : (m.modBank b f).dev.buckets = m.dev.buckets := rfl
@[simp] theorem M.modBank_dev_readyCtr (b : Nat) (f : Bank → Bank) : (m.modBank b f).dev.readyCtr = m.dev.readyCtr := rfl
@[simp] theorem M.modBank_dev_convs (b : Nat) (f : Bank → Bank) : (m.modBank b f).dev.convs = m.dev.convs := rfl
@[simp] theorem M.modBank_dev_lostLqs (b : Nat) (f : Bank → Bank) : (m.modBank b f).dev.lostLqs = m.dev.lostLqs := rfl
@[simp] theorem M.modBank_dev_darkLqs (b : Nat) (f : Bank → Bank) : (m.modBank b f).dev.darkLqs = m.dev.darkLqs := rfl
@[simp] theorem M.modBank_dev_outGroups (b : Nat) (f : Bank → Bank) : (m.modBank b f).dev.outGroups = m.dev.outGroups := rfl
@[simp] theorem M.modBank_dev_portClosed (b : Nat) (f : Bank → Bank) : (m.modBank b f).dev.portClosed = m.dev.portClosed := rfl
@[simp] theorem M.modBank_dev_unreach (b : Nat) (f : Bank → Bank) : (m.modBank b f).dev.unreach = m.dev.unreach := rfl
@[simp] theorem M.modBank_dev_untrained (b : Nat) (f : Bank → Bank) : (m.modBank b f).dev.untrained = m.dev.untrained := rfl
@[simp] theorem M.modBank_dev_repairMap (b : Nat) (f : Bank → Bank) : (m.modBank b f).dev.repairMap = m.dev.repairMap := rfl
@[simp] theorem M.modBank_dev_memLogRead (b : Nat) (f : Bank → Bank) : (m.modBank b f).dev.memLogRead = m.dev.memLogRead := rfl
@[simp] theorem M.modBank_dev_windows (b : Nat) (f : Bank → Bank) : (m.modBank b f).dev.windows = m.dev.windows := rfl
@[simp] theorem M.modBank_dev_ring (b : Nat) (f : Bank → Bank) : (m.modBank b f).dev.ring = m.dev.ring := rfl
@[simp] theorem M.modBank_dev_ringOut (b : Nat) (f : Bank → Bank) : (m.modBank b f).dev.ringOut = m.dev.ringOut := rfl
@[simp] theorem M.modBank_dev_ringCredits (b : Nat) (f : Bank → Bank) : (m.modBank b f).dev.ringCredits = m.dev.ringCredits := rfl
@[simp] theorem M.modBank_dev_links (b : Nat) (f : Bank → Bank) : (m.modBank b f).dev.links = m.dev.links := rfl
@[simp] theorem M.modBank_dev_fab (b : Nat) (f : Bank → Bank) : (m.modBank b f).dev.fab = m.dev.fab := rfl
@[simp] theorem M.modBank_dev_mirror (b : Nat) (f : Bank → Bank) : (m.modBank b f).dev.mirror = m.dev.mirror := rfl
@[simp] theorem M.modBank_dev_host (b : Nat) (f : Bank → Bank) : (m.modBank b f).dev.host = m.dev.host := rfl
@[simp] theorem M.modBank_dev_led (b : Nat) (f : Bank → Bank) : (m.modBank b f).dev.led = m.dev.led := rfl
@[simp] theorem M.modBank_dev_mgmt (b : Nat) (f : Bank → Bank) : (m.modBank b f).dev.mgmt = m.dev.mgmt := rfl
@[simp] theorem M.modBank_dev_power (b : Nat) (f : Bank → Bank) : (m.modBank b f).dev.power = m.dev.power := rfl
@[simp] theorem M.modBank_dev_heat (b : Nat) (f : Bank → Bank) : (m.modBank b f).dev.heat = m.dev.heat := rfl
@[simp] theorem M.modBank_dev_clocks (b : Nat) (f : Bank → Bank) : (m.modBank b f).dev.clocks = m.dev.clocks := rfl
@[simp] theorem M.modBank_dev_reset (b : Nat) (f : Bank → Bank) : (m.modBank b f).dev.reset = m.dev.reset := rfl
@[simp] theorem M.modBank_dev_faults (b : Nat) (f : Bank → Bank) : (m.modBank b f).dev.faults = m.dev.faults := rfl
@[simp] theorem M.modBank_dev_sec (b : Nat) (f : Bank → Bank) : (m.modBank b f).dev.sec = m.dev.sec := rfl

/-! ### `modLink` -/

@[simp] theorem M.modLink_fuse (l : Nat) (f : Link → Link) : (m.modLink l f).fuse = m.fuse := rfl
@[simp] theorem M.modLink_base (l : Nat) (f : Link → Link) : (m.modLink l f).base = m.base := rfl
@[simp] theorem M.modLink_ops (l : Nat) (f : Link → Link) : (m.modLink l f).ops = m.ops := rfl
@[simp] theorem M.modLink_dev_fresh (l : Nat) (f : Link → Link) : (m.modLink l f).dev.fresh = m.dev.fresh := rfl
@[simp] theorem M.modLink_dev_sent (l : Nat) (f : Link → Link) : (m.modLink l f).dev.sent = m.dev.sent := rfl
@[simp] theorem M.modLink_dev_devSeq (l : Nat) (f : Link → Link) : (m.modLink l f).dev.devSeq = m.dev.devSeq := rfl
@[simp] theorem M.modLink_dev_powered (l : Nat) (f : Link → Link) : (m.modLink l f).dev.powered = m.dev.powered := rfl
@[simp] theorem M.modLink_dev_tripped (l : Nat) (f : Link → Link) : (m.modLink l f).dev.tripped = m.dev.tripped := rfl
@[simp] theorem M.modLink_dev_oscLost (l : Nat) (f : Link → Link) : (m.modLink l f).dev.oscLost = m.dev.oscLost := rfl
@[simp] theorem M.modLink_dev_perst (l : Nat) (f : Link → Link) : (m.modLink l f).dev.perst = m.dev.perst := rfl
@[simp] theorem M.modLink_dev_pcieUp (l : Nat) (f : Link → Link) : (m.modLink l f).dev.pcieUp = m.dev.pcieUp := rfl
@[simp] theorem M.modLink_dev_startBlocked (l : Nat) (f : Link → Link) : (m.modLink l f).dev.startBlocked = m.dev.startBlocked := rfl
@[simp] theorem M.modLink_dev_objs (l : Nat) (f : Link → Link) : (m.modLink l f).dev.objs = m.dev.objs := rfl
@[simp] theorem M.modLink_dev_cores (l : Nat) (f : Link → Link) : (m.modLink l f).dev.cores = m.dev.cores := rfl
@[simp] theorem M.modLink_dev_lqs (l : Nat) (f : Link → Link) : (m.modLink l f).dev.lqs = m.dev.lqs := rfl
@[simp] theorem M.modLink_dev_banks (l : Nat) (f : Link → Link) : (m.modLink l f).dev.banks = m.dev.banks := rfl
@[simp] theorem M.modLink_dev_buckets (l : Nat) (f : Link → Link) : (m.modLink l f).dev.buckets = m.dev.buckets := rfl
@[simp] theorem M.modLink_dev_readyCtr (l : Nat) (f : Link → Link) : (m.modLink l f).dev.readyCtr = m.dev.readyCtr := rfl
@[simp] theorem M.modLink_dev_convs (l : Nat) (f : Link → Link) : (m.modLink l f).dev.convs = m.dev.convs := rfl
@[simp] theorem M.modLink_dev_lostLqs (l : Nat) (f : Link → Link) : (m.modLink l f).dev.lostLqs = m.dev.lostLqs := rfl
@[simp] theorem M.modLink_dev_darkLqs (l : Nat) (f : Link → Link) : (m.modLink l f).dev.darkLqs = m.dev.darkLqs := rfl
@[simp] theorem M.modLink_dev_outGroups (l : Nat) (f : Link → Link) : (m.modLink l f).dev.outGroups = m.dev.outGroups := rfl
@[simp] theorem M.modLink_dev_portClosed (l : Nat) (f : Link → Link) : (m.modLink l f).dev.portClosed = m.dev.portClosed := rfl
@[simp] theorem M.modLink_dev_unreach (l : Nat) (f : Link → Link) : (m.modLink l f).dev.unreach = m.dev.unreach := rfl
@[simp] theorem M.modLink_dev_untrained (l : Nat) (f : Link → Link) : (m.modLink l f).dev.untrained = m.dev.untrained := rfl
@[simp] theorem M.modLink_dev_repairMap (l : Nat) (f : Link → Link) : (m.modLink l f).dev.repairMap = m.dev.repairMap := rfl
@[simp] theorem M.modLink_dev_memLogRead (l : Nat) (f : Link → Link) : (m.modLink l f).dev.memLogRead = m.dev.memLogRead := rfl
@[simp] theorem M.modLink_dev_windows (l : Nat) (f : Link → Link) : (m.modLink l f).dev.windows = m.dev.windows := rfl
@[simp] theorem M.modLink_dev_ring (l : Nat) (f : Link → Link) : (m.modLink l f).dev.ring = m.dev.ring := rfl
@[simp] theorem M.modLink_dev_ringOut (l : Nat) (f : Link → Link) : (m.modLink l f).dev.ringOut = m.dev.ringOut := rfl
@[simp] theorem M.modLink_dev_ringCredits (l : Nat) (f : Link → Link) : (m.modLink l f).dev.ringCredits = m.dev.ringCredits := rfl
@[simp] theorem M.modLink_dev_fab (l : Nat) (f : Link → Link) : (m.modLink l f).dev.fab = m.dev.fab := rfl
@[simp] theorem M.modLink_dev_mirror (l : Nat) (f : Link → Link) : (m.modLink l f).dev.mirror = m.dev.mirror := rfl
@[simp] theorem M.modLink_dev_host (l : Nat) (f : Link → Link) : (m.modLink l f).dev.host = m.dev.host := rfl
@[simp] theorem M.modLink_dev_led (l : Nat) (f : Link → Link) : (m.modLink l f).dev.led = m.dev.led := rfl
@[simp] theorem M.modLink_dev_mgmt (l : Nat) (f : Link → Link) : (m.modLink l f).dev.mgmt = m.dev.mgmt := rfl
@[simp] theorem M.modLink_dev_power (l : Nat) (f : Link → Link) : (m.modLink l f).dev.power = m.dev.power := rfl
@[simp] theorem M.modLink_dev_heat (l : Nat) (f : Link → Link) : (m.modLink l f).dev.heat = m.dev.heat := rfl
@[simp] theorem M.modLink_dev_clocks (l : Nat) (f : Link → Link) : (m.modLink l f).dev.clocks = m.dev.clocks := rfl
@[simp] theorem M.modLink_dev_reset (l : Nat) (f : Link → Link) : (m.modLink l f).dev.reset = m.dev.reset := rfl
@[simp] theorem M.modLink_dev_faults (l : Nat) (f : Link → Link) : (m.modLink l f).dev.faults = m.dev.faults := rfl
@[simp] theorem M.modLink_dev_sec (l : Nat) (f : Link → Link) : (m.modLink l f).dev.sec = m.dev.sec := rfl

/-! ### `modFab` -/

@[simp] theorem M.modFab_fuse (f : Fab → Fab) : (m.modFab f).fuse = m.fuse := rfl
@[simp] theorem M.modFab_base (f : Fab → Fab) : (m.modFab f).base = m.base := rfl
@[simp] theorem M.modFab_ops (f : Fab → Fab) : (m.modFab f).ops = m.ops := rfl
@[simp] theorem M.modFab_dev_fresh (f : Fab → Fab) : (m.modFab f).dev.fresh = m.dev.fresh := rfl
@[simp] theorem M.modFab_dev_sent (f : Fab → Fab) : (m.modFab f).dev.sent = m.dev.sent := rfl
@[simp] theorem M.modFab_dev_devSeq (f : Fab → Fab) : (m.modFab f).dev.devSeq = m.dev.devSeq := rfl
@[simp] theorem M.modFab_dev_powered (f : Fab → Fab) : (m.modFab f).dev.powered = m.dev.powered := rfl
@[simp] theorem M.modFab_dev_tripped (f : Fab → Fab) : (m.modFab f).dev.tripped = m.dev.tripped := rfl
@[simp] theorem M.modFab_dev_oscLost (f : Fab → Fab) : (m.modFab f).dev.oscLost = m.dev.oscLost := rfl
@[simp] theorem M.modFab_dev_perst (f : Fab → Fab) : (m.modFab f).dev.perst = m.dev.perst := rfl
@[simp] theorem M.modFab_dev_pcieUp (f : Fab → Fab) : (m.modFab f).dev.pcieUp = m.dev.pcieUp := rfl
@[simp] theorem M.modFab_dev_startBlocked (f : Fab → Fab) : (m.modFab f).dev.startBlocked = m.dev.startBlocked := rfl
@[simp] theorem M.modFab_dev_objs (f : Fab → Fab) : (m.modFab f).dev.objs = m.dev.objs := rfl
@[simp] theorem M.modFab_dev_cores (f : Fab → Fab) : (m.modFab f).dev.cores = m.dev.cores := rfl
@[simp] theorem M.modFab_dev_lqs (f : Fab → Fab) : (m.modFab f).dev.lqs = m.dev.lqs := rfl
@[simp] theorem M.modFab_dev_banks (f : Fab → Fab) : (m.modFab f).dev.banks = m.dev.banks := rfl
@[simp] theorem M.modFab_dev_buckets (f : Fab → Fab) : (m.modFab f).dev.buckets = m.dev.buckets := rfl
@[simp] theorem M.modFab_dev_readyCtr (f : Fab → Fab) : (m.modFab f).dev.readyCtr = m.dev.readyCtr := rfl
@[simp] theorem M.modFab_dev_convs (f : Fab → Fab) : (m.modFab f).dev.convs = m.dev.convs := rfl
@[simp] theorem M.modFab_dev_lostLqs (f : Fab → Fab) : (m.modFab f).dev.lostLqs = m.dev.lostLqs := rfl
@[simp] theorem M.modFab_dev_darkLqs (f : Fab → Fab) : (m.modFab f).dev.darkLqs = m.dev.darkLqs := rfl
@[simp] theorem M.modFab_dev_outGroups (f : Fab → Fab) : (m.modFab f).dev.outGroups = m.dev.outGroups := rfl
@[simp] theorem M.modFab_dev_portClosed (f : Fab → Fab) : (m.modFab f).dev.portClosed = m.dev.portClosed := rfl
@[simp] theorem M.modFab_dev_unreach (f : Fab → Fab) : (m.modFab f).dev.unreach = m.dev.unreach := rfl
@[simp] theorem M.modFab_dev_untrained (f : Fab → Fab) : (m.modFab f).dev.untrained = m.dev.untrained := rfl
@[simp] theorem M.modFab_dev_repairMap (f : Fab → Fab) : (m.modFab f).dev.repairMap = m.dev.repairMap := rfl
@[simp] theorem M.modFab_dev_memLogRead (f : Fab → Fab) : (m.modFab f).dev.memLogRead = m.dev.memLogRead := rfl
@[simp] theorem M.modFab_dev_windows (f : Fab → Fab) : (m.modFab f).dev.windows = m.dev.windows := rfl
@[simp] theorem M.modFab_dev_ring (f : Fab → Fab) : (m.modFab f).dev.ring = m.dev.ring := rfl
@[simp] theorem M.modFab_dev_ringOut (f : Fab → Fab) : (m.modFab f).dev.ringOut = m.dev.ringOut := rfl
@[simp] theorem M.modFab_dev_ringCredits (f : Fab → Fab) : (m.modFab f).dev.ringCredits = m.dev.ringCredits := rfl
@[simp] theorem M.modFab_dev_links (f : Fab → Fab) : (m.modFab f).dev.links = m.dev.links := rfl
@[simp] theorem M.modFab_dev_mirror (f : Fab → Fab) : (m.modFab f).dev.mirror = m.dev.mirror := rfl
@[simp] theorem M.modFab_dev_host (f : Fab → Fab) : (m.modFab f).dev.host = m.dev.host := rfl
@[simp] theorem M.modFab_dev_led (f : Fab → Fab) : (m.modFab f).dev.led = m.dev.led := rfl
@[simp] theorem M.modFab_dev_mgmt (f : Fab → Fab) : (m.modFab f).dev.mgmt = m.dev.mgmt := rfl
@[simp] theorem M.modFab_dev_power (f : Fab → Fab) : (m.modFab f).dev.power = m.dev.power := rfl
@[simp] theorem M.modFab_dev_heat (f : Fab → Fab) : (m.modFab f).dev.heat = m.dev.heat := rfl
@[simp] theorem M.modFab_dev_clocks (f : Fab → Fab) : (m.modFab f).dev.clocks = m.dev.clocks := rfl
@[simp] theorem M.modFab_dev_reset (f : Fab → Fab) : (m.modFab f).dev.reset = m.dev.reset := rfl
@[simp] theorem M.modFab_dev_faults (f : Fab → Fab) : (m.modFab f).dev.faults = m.dev.faults := rfl
@[simp] theorem M.modFab_dev_sec (f : Fab → Fab) : (m.modFab f).dev.sec = m.dev.sec := rfl

/-! ### `modMirror` -/

@[simp] theorem M.modMirror_fuse (f : Mirror → Mirror) : (m.modMirror f).fuse = m.fuse := rfl
@[simp] theorem M.modMirror_base (f : Mirror → Mirror) : (m.modMirror f).base = m.base := rfl
@[simp] theorem M.modMirror_ops (f : Mirror → Mirror) : (m.modMirror f).ops = m.ops := rfl
@[simp] theorem M.modMirror_dev_fresh (f : Mirror → Mirror) : (m.modMirror f).dev.fresh = m.dev.fresh := rfl
@[simp] theorem M.modMirror_dev_sent (f : Mirror → Mirror) : (m.modMirror f).dev.sent = m.dev.sent := rfl
@[simp] theorem M.modMirror_dev_devSeq (f : Mirror → Mirror) : (m.modMirror f).dev.devSeq = m.dev.devSeq := rfl
@[simp] theorem M.modMirror_dev_powered (f : Mirror → Mirror) : (m.modMirror f).dev.powered = m.dev.powered := rfl
@[simp] theorem M.modMirror_dev_tripped (f : Mirror → Mirror) : (m.modMirror f).dev.tripped = m.dev.tripped := rfl
@[simp] theorem M.modMirror_dev_oscLost (f : Mirror → Mirror) : (m.modMirror f).dev.oscLost = m.dev.oscLost := rfl
@[simp] theorem M.modMirror_dev_perst (f : Mirror → Mirror) : (m.modMirror f).dev.perst = m.dev.perst := rfl
@[simp] theorem M.modMirror_dev_pcieUp (f : Mirror → Mirror) : (m.modMirror f).dev.pcieUp = m.dev.pcieUp := rfl
@[simp] theorem M.modMirror_dev_startBlocked (f : Mirror → Mirror) : (m.modMirror f).dev.startBlocked = m.dev.startBlocked := rfl
@[simp] theorem M.modMirror_dev_objs (f : Mirror → Mirror) : (m.modMirror f).dev.objs = m.dev.objs := rfl
@[simp] theorem M.modMirror_dev_cores (f : Mirror → Mirror) : (m.modMirror f).dev.cores = m.dev.cores := rfl
@[simp] theorem M.modMirror_dev_lqs (f : Mirror → Mirror) : (m.modMirror f).dev.lqs = m.dev.lqs := rfl
@[simp] theorem M.modMirror_dev_banks (f : Mirror → Mirror) : (m.modMirror f).dev.banks = m.dev.banks := rfl
@[simp] theorem M.modMirror_dev_buckets (f : Mirror → Mirror) : (m.modMirror f).dev.buckets = m.dev.buckets := rfl
@[simp] theorem M.modMirror_dev_readyCtr (f : Mirror → Mirror) : (m.modMirror f).dev.readyCtr = m.dev.readyCtr := rfl
@[simp] theorem M.modMirror_dev_convs (f : Mirror → Mirror) : (m.modMirror f).dev.convs = m.dev.convs := rfl
@[simp] theorem M.modMirror_dev_lostLqs (f : Mirror → Mirror) : (m.modMirror f).dev.lostLqs = m.dev.lostLqs := rfl
@[simp] theorem M.modMirror_dev_darkLqs (f : Mirror → Mirror) : (m.modMirror f).dev.darkLqs = m.dev.darkLqs := rfl
@[simp] theorem M.modMirror_dev_outGroups (f : Mirror → Mirror) : (m.modMirror f).dev.outGroups = m.dev.outGroups := rfl
@[simp] theorem M.modMirror_dev_portClosed (f : Mirror → Mirror) : (m.modMirror f).dev.portClosed = m.dev.portClosed := rfl
@[simp] theorem M.modMirror_dev_unreach (f : Mirror → Mirror) : (m.modMirror f).dev.unreach = m.dev.unreach := rfl
@[simp] theorem M.modMirror_dev_untrained (f : Mirror → Mirror) : (m.modMirror f).dev.untrained = m.dev.untrained := rfl
@[simp] theorem M.modMirror_dev_repairMap (f : Mirror → Mirror) : (m.modMirror f).dev.repairMap = m.dev.repairMap := rfl
@[simp] theorem M.modMirror_dev_memLogRead (f : Mirror → Mirror) : (m.modMirror f).dev.memLogRead = m.dev.memLogRead := rfl
@[simp] theorem M.modMirror_dev_windows (f : Mirror → Mirror) : (m.modMirror f).dev.windows = m.dev.windows := rfl
@[simp] theorem M.modMirror_dev_ring (f : Mirror → Mirror) : (m.modMirror f).dev.ring = m.dev.ring := rfl
@[simp] theorem M.modMirror_dev_ringOut (f : Mirror → Mirror) : (m.modMirror f).dev.ringOut = m.dev.ringOut := rfl
@[simp] theorem M.modMirror_dev_ringCredits (f : Mirror → Mirror) : (m.modMirror f).dev.ringCredits = m.dev.ringCredits := rfl
@[simp] theorem M.modMirror_dev_links (f : Mirror → Mirror) : (m.modMirror f).dev.links = m.dev.links := rfl
@[simp] theorem M.modMirror_dev_fab (f : Mirror → Mirror) : (m.modMirror f).dev.fab = m.dev.fab := rfl
@[simp] theorem M.modMirror_dev_host (f : Mirror → Mirror) : (m.modMirror f).dev.host = m.dev.host := rfl
@[simp] theorem M.modMirror_dev_led (f : Mirror → Mirror) : (m.modMirror f).dev.led = m.dev.led := rfl
@[simp] theorem M.modMirror_dev_mgmt (f : Mirror → Mirror) : (m.modMirror f).dev.mgmt = m.dev.mgmt := rfl
@[simp] theorem M.modMirror_dev_power (f : Mirror → Mirror) : (m.modMirror f).dev.power = m.dev.power := rfl
@[simp] theorem M.modMirror_dev_heat (f : Mirror → Mirror) : (m.modMirror f).dev.heat = m.dev.heat := rfl
@[simp] theorem M.modMirror_dev_clocks (f : Mirror → Mirror) : (m.modMirror f).dev.clocks = m.dev.clocks := rfl
@[simp] theorem M.modMirror_dev_reset (f : Mirror → Mirror) : (m.modMirror f).dev.reset = m.dev.reset := rfl
@[simp] theorem M.modMirror_dev_faults (f : Mirror → Mirror) : (m.modMirror f).dev.faults = m.dev.faults := rfl
@[simp] theorem M.modMirror_dev_sec (f : Mirror → Mirror) : (m.modMirror f).dev.sec = m.dev.sec := rfl

/-! ### `modHost` -/

@[simp] theorem M.modHost_fuse (f : HostPort → HostPort) : (m.modHost f).fuse = m.fuse := rfl
@[simp] theorem M.modHost_base (f : HostPort → HostPort) : (m.modHost f).base = m.base := rfl
@[simp] theorem M.modHost_ops (f : HostPort → HostPort) : (m.modHost f).ops = m.ops := rfl
@[simp] theorem M.modHost_dev_fresh (f : HostPort → HostPort) : (m.modHost f).dev.fresh = m.dev.fresh := rfl
@[simp] theorem M.modHost_dev_sent (f : HostPort → HostPort) : (m.modHost f).dev.sent = m.dev.sent := rfl
@[simp] theorem M.modHost_dev_devSeq (f : HostPort → HostPort) : (m.modHost f).dev.devSeq = m.dev.devSeq := rfl
@[simp] theorem M.modHost_dev_powered (f : HostPort → HostPort) : (m.modHost f).dev.powered = m.dev.powered := rfl
@[simp] theorem M.modHost_dev_tripped (f : HostPort → HostPort) : (m.modHost f).dev.tripped = m.dev.tripped := rfl
@[simp] theorem M.modHost_dev_oscLost (f : HostPort → HostPort) : (m.modHost f).dev.oscLost = m.dev.oscLost := rfl
@[simp] theorem M.modHost_dev_perst (f : HostPort → HostPort) : (m.modHost f).dev.perst = m.dev.perst := rfl
@[simp] theorem M.modHost_dev_pcieUp (f : HostPort → HostPort) : (m.modHost f).dev.pcieUp = m.dev.pcieUp := rfl
@[simp] theorem M.modHost_dev_startBlocked (f : HostPort → HostPort) : (m.modHost f).dev.startBlocked = m.dev.startBlocked := rfl
@[simp] theorem M.modHost_dev_objs (f : HostPort → HostPort) : (m.modHost f).dev.objs = m.dev.objs := rfl
@[simp] theorem M.modHost_dev_cores (f : HostPort → HostPort) : (m.modHost f).dev.cores = m.dev.cores := rfl
@[simp] theorem M.modHost_dev_lqs (f : HostPort → HostPort) : (m.modHost f).dev.lqs = m.dev.lqs := rfl
@[simp] theorem M.modHost_dev_banks (f : HostPort → HostPort) : (m.modHost f).dev.banks = m.dev.banks := rfl
@[simp] theorem M.modHost_dev_buckets (f : HostPort → HostPort) : (m.modHost f).dev.buckets = m.dev.buckets := rfl
@[simp] theorem M.modHost_dev_readyCtr (f : HostPort → HostPort) : (m.modHost f).dev.readyCtr = m.dev.readyCtr := rfl
@[simp] theorem M.modHost_dev_convs (f : HostPort → HostPort) : (m.modHost f).dev.convs = m.dev.convs := rfl
@[simp] theorem M.modHost_dev_lostLqs (f : HostPort → HostPort) : (m.modHost f).dev.lostLqs = m.dev.lostLqs := rfl
@[simp] theorem M.modHost_dev_darkLqs (f : HostPort → HostPort) : (m.modHost f).dev.darkLqs = m.dev.darkLqs := rfl
@[simp] theorem M.modHost_dev_outGroups (f : HostPort → HostPort) : (m.modHost f).dev.outGroups = m.dev.outGroups := rfl
@[simp] theorem M.modHost_dev_portClosed (f : HostPort → HostPort) : (m.modHost f).dev.portClosed = m.dev.portClosed := rfl
@[simp] theorem M.modHost_dev_unreach (f : HostPort → HostPort) : (m.modHost f).dev.unreach = m.dev.unreach := rfl
@[simp] theorem M.modHost_dev_untrained (f : HostPort → HostPort) : (m.modHost f).dev.untrained = m.dev.untrained := rfl
@[simp] theorem M.modHost_dev_repairMap (f : HostPort → HostPort) : (m.modHost f).dev.repairMap = m.dev.repairMap := rfl
@[simp] theorem M.modHost_dev_memLogRead (f : HostPort → HostPort) : (m.modHost f).dev.memLogRead = m.dev.memLogRead := rfl
@[simp] theorem M.modHost_dev_windows (f : HostPort → HostPort) : (m.modHost f).dev.windows = m.dev.windows := rfl
@[simp] theorem M.modHost_dev_ring (f : HostPort → HostPort) : (m.modHost f).dev.ring = m.dev.ring := rfl
@[simp] theorem M.modHost_dev_ringOut (f : HostPort → HostPort) : (m.modHost f).dev.ringOut = m.dev.ringOut := rfl
@[simp] theorem M.modHost_dev_ringCredits (f : HostPort → HostPort) : (m.modHost f).dev.ringCredits = m.dev.ringCredits := rfl
@[simp] theorem M.modHost_dev_links (f : HostPort → HostPort) : (m.modHost f).dev.links = m.dev.links := rfl
@[simp] theorem M.modHost_dev_fab (f : HostPort → HostPort) : (m.modHost f).dev.fab = m.dev.fab := rfl
@[simp] theorem M.modHost_dev_mirror (f : HostPort → HostPort) : (m.modHost f).dev.mirror = m.dev.mirror := rfl
@[simp] theorem M.modHost_dev_led (f : HostPort → HostPort) : (m.modHost f).dev.led = m.dev.led := rfl
@[simp] theorem M.modHost_dev_mgmt (f : HostPort → HostPort) : (m.modHost f).dev.mgmt = m.dev.mgmt := rfl
@[simp] theorem M.modHost_dev_power (f : HostPort → HostPort) : (m.modHost f).dev.power = m.dev.power := rfl
@[simp] theorem M.modHost_dev_heat (f : HostPort → HostPort) : (m.modHost f).dev.heat = m.dev.heat := rfl
@[simp] theorem M.modHost_dev_clocks (f : HostPort → HostPort) : (m.modHost f).dev.clocks = m.dev.clocks := rfl
@[simp] theorem M.modHost_dev_reset (f : HostPort → HostPort) : (m.modHost f).dev.reset = m.dev.reset := rfl
@[simp] theorem M.modHost_dev_faults (f : HostPort → HostPort) : (m.modHost f).dev.faults = m.dev.faults := rfl
@[simp] theorem M.modHost_dev_sec (f : HostPort → HostPort) : (m.modHost f).dev.sec = m.dev.sec := rfl

/-! ### `modLed` -/

@[simp] theorem M.modLed_fuse (f : Led → Led) : (m.modLed f).fuse = m.fuse := rfl
@[simp] theorem M.modLed_base (f : Led → Led) : (m.modLed f).base = m.base := rfl
@[simp] theorem M.modLed_ops (f : Led → Led) : (m.modLed f).ops = m.ops := rfl
@[simp] theorem M.modLed_dev_fresh (f : Led → Led) : (m.modLed f).dev.fresh = m.dev.fresh := rfl
@[simp] theorem M.modLed_dev_sent (f : Led → Led) : (m.modLed f).dev.sent = m.dev.sent := rfl
@[simp] theorem M.modLed_dev_devSeq (f : Led → Led) : (m.modLed f).dev.devSeq = m.dev.devSeq := rfl
@[simp] theorem M.modLed_dev_powered (f : Led → Led) : (m.modLed f).dev.powered = m.dev.powered := rfl
@[simp] theorem M.modLed_dev_tripped (f : Led → Led) : (m.modLed f).dev.tripped = m.dev.tripped := rfl
@[simp] theorem M.modLed_dev_oscLost (f : Led → Led) : (m.modLed f).dev.oscLost = m.dev.oscLost := rfl
@[simp] theorem M.modLed_dev_perst (f : Led → Led) : (m.modLed f).dev.perst = m.dev.perst := rfl
@[simp] theorem M.modLed_dev_pcieUp (f : Led → Led) : (m.modLed f).dev.pcieUp = m.dev.pcieUp := rfl
@[simp] theorem M.modLed_dev_startBlocked (f : Led → Led) : (m.modLed f).dev.startBlocked = m.dev.startBlocked := rfl
@[simp] theorem M.modLed_dev_objs (f : Led → Led) : (m.modLed f).dev.objs = m.dev.objs := rfl
@[simp] theorem M.modLed_dev_cores (f : Led → Led) : (m.modLed f).dev.cores = m.dev.cores := rfl
@[simp] theorem M.modLed_dev_lqs (f : Led → Led) : (m.modLed f).dev.lqs = m.dev.lqs := rfl
@[simp] theorem M.modLed_dev_banks (f : Led → Led) : (m.modLed f).dev.banks = m.dev.banks := rfl
@[simp] theorem M.modLed_dev_buckets (f : Led → Led) : (m.modLed f).dev.buckets = m.dev.buckets := rfl
@[simp] theorem M.modLed_dev_readyCtr (f : Led → Led) : (m.modLed f).dev.readyCtr = m.dev.readyCtr := rfl
@[simp] theorem M.modLed_dev_convs (f : Led → Led) : (m.modLed f).dev.convs = m.dev.convs := rfl
@[simp] theorem M.modLed_dev_lostLqs (f : Led → Led) : (m.modLed f).dev.lostLqs = m.dev.lostLqs := rfl
@[simp] theorem M.modLed_dev_darkLqs (f : Led → Led) : (m.modLed f).dev.darkLqs = m.dev.darkLqs := rfl
@[simp] theorem M.modLed_dev_outGroups (f : Led → Led) : (m.modLed f).dev.outGroups = m.dev.outGroups := rfl
@[simp] theorem M.modLed_dev_portClosed (f : Led → Led) : (m.modLed f).dev.portClosed = m.dev.portClosed := rfl
@[simp] theorem M.modLed_dev_unreach (f : Led → Led) : (m.modLed f).dev.unreach = m.dev.unreach := rfl
@[simp] theorem M.modLed_dev_untrained (f : Led → Led) : (m.modLed f).dev.untrained = m.dev.untrained := rfl
@[simp] theorem M.modLed_dev_repairMap (f : Led → Led) : (m.modLed f).dev.repairMap = m.dev.repairMap := rfl
@[simp] theorem M.modLed_dev_memLogRead (f : Led → Led) : (m.modLed f).dev.memLogRead = m.dev.memLogRead := rfl
@[simp] theorem M.modLed_dev_windows (f : Led → Led) : (m.modLed f).dev.windows = m.dev.windows := rfl
@[simp] theorem M.modLed_dev_ring (f : Led → Led) : (m.modLed f).dev.ring = m.dev.ring := rfl
@[simp] theorem M.modLed_dev_ringOut (f : Led → Led) : (m.modLed f).dev.ringOut = m.dev.ringOut := rfl
@[simp] theorem M.modLed_dev_ringCredits (f : Led → Led) : (m.modLed f).dev.ringCredits = m.dev.ringCredits := rfl
@[simp] theorem M.modLed_dev_links (f : Led → Led) : (m.modLed f).dev.links = m.dev.links := rfl
@[simp] theorem M.modLed_dev_fab (f : Led → Led) : (m.modLed f).dev.fab = m.dev.fab := rfl
@[simp] theorem M.modLed_dev_mirror (f : Led → Led) : (m.modLed f).dev.mirror = m.dev.mirror := rfl
@[simp] theorem M.modLed_dev_host (f : Led → Led) : (m.modLed f).dev.host = m.dev.host := rfl
@[simp] theorem M.modLed_dev_mgmt (f : Led → Led) : (m.modLed f).dev.mgmt = m.dev.mgmt := rfl
@[simp] theorem M.modLed_dev_power (f : Led → Led) : (m.modLed f).dev.power = m.dev.power := rfl
@[simp] theorem M.modLed_dev_heat (f : Led → Led) : (m.modLed f).dev.heat = m.dev.heat := rfl
@[simp] theorem M.modLed_dev_clocks (f : Led → Led) : (m.modLed f).dev.clocks = m.dev.clocks := rfl
@[simp] theorem M.modLed_dev_reset (f : Led → Led) : (m.modLed f).dev.reset = m.dev.reset := rfl
@[simp] theorem M.modLed_dev_faults (f : Led → Led) : (m.modLed f).dev.faults = m.dev.faults := rfl
@[simp] theorem M.modLed_dev_sec (f : Led → Led) : (m.modLed f).dev.sec = m.dev.sec := rfl

/-! ### `modMgmt` -/

@[simp] theorem M.modMgmt_fuse (f : Mgmt → Mgmt) : (m.modMgmt f).fuse = m.fuse := rfl
@[simp] theorem M.modMgmt_base (f : Mgmt → Mgmt) : (m.modMgmt f).base = m.base := rfl
@[simp] theorem M.modMgmt_ops (f : Mgmt → Mgmt) : (m.modMgmt f).ops = m.ops := rfl
@[simp] theorem M.modMgmt_dev_fresh (f : Mgmt → Mgmt) : (m.modMgmt f).dev.fresh = m.dev.fresh := rfl
@[simp] theorem M.modMgmt_dev_sent (f : Mgmt → Mgmt) : (m.modMgmt f).dev.sent = m.dev.sent := rfl
@[simp] theorem M.modMgmt_dev_devSeq (f : Mgmt → Mgmt) : (m.modMgmt f).dev.devSeq = m.dev.devSeq := rfl
@[simp] theorem M.modMgmt_dev_powered (f : Mgmt → Mgmt) : (m.modMgmt f).dev.powered = m.dev.powered := rfl
@[simp] theorem M.modMgmt_dev_tripped (f : Mgmt → Mgmt) : (m.modMgmt f).dev.tripped = m.dev.tripped := rfl
@[simp] theorem M.modMgmt_dev_oscLost (f : Mgmt → Mgmt) : (m.modMgmt f).dev.oscLost = m.dev.oscLost := rfl
@[simp] theorem M.modMgmt_dev_perst (f : Mgmt → Mgmt) : (m.modMgmt f).dev.perst = m.dev.perst := rfl
@[simp] theorem M.modMgmt_dev_pcieUp (f : Mgmt → Mgmt) : (m.modMgmt f).dev.pcieUp = m.dev.pcieUp := rfl
@[simp] theorem M.modMgmt_dev_startBlocked (f : Mgmt → Mgmt) : (m.modMgmt f).dev.startBlocked = m.dev.startBlocked := rfl
@[simp] theorem M.modMgmt_dev_objs (f : Mgmt → Mgmt) : (m.modMgmt f).dev.objs = m.dev.objs := rfl
@[simp] theorem M.modMgmt_dev_cores (f : Mgmt → Mgmt) : (m.modMgmt f).dev.cores = m.dev.cores := rfl
@[simp] theorem M.modMgmt_dev_lqs (f : Mgmt → Mgmt) : (m.modMgmt f).dev.lqs = m.dev.lqs := rfl
@[simp] theorem M.modMgmt_dev_banks (f : Mgmt → Mgmt) : (m.modMgmt f).dev.banks = m.dev.banks := rfl
@[simp] theorem M.modMgmt_dev_buckets (f : Mgmt → Mgmt) : (m.modMgmt f).dev.buckets = m.dev.buckets := rfl
@[simp] theorem M.modMgmt_dev_readyCtr (f : Mgmt → Mgmt) : (m.modMgmt f).dev.readyCtr = m.dev.readyCtr := rfl
@[simp] theorem M.modMgmt_dev_convs (f : Mgmt → Mgmt) : (m.modMgmt f).dev.convs = m.dev.convs := rfl
@[simp] theorem M.modMgmt_dev_lostLqs (f : Mgmt → Mgmt) : (m.modMgmt f).dev.lostLqs = m.dev.lostLqs := rfl
@[simp] theorem M.modMgmt_dev_darkLqs (f : Mgmt → Mgmt) : (m.modMgmt f).dev.darkLqs = m.dev.darkLqs := rfl
@[simp] theorem M.modMgmt_dev_outGroups (f : Mgmt → Mgmt) : (m.modMgmt f).dev.outGroups = m.dev.outGroups := rfl
@[simp] theorem M.modMgmt_dev_portClosed (f : Mgmt → Mgmt) : (m.modMgmt f).dev.portClosed = m.dev.portClosed := rfl
@[simp] theorem M.modMgmt_dev_unreach (f : Mgmt → Mgmt) : (m.modMgmt f).dev.unreach = m.dev.unreach := rfl
@[simp] theorem M.modMgmt_dev_untrained (f : Mgmt → Mgmt) : (m.modMgmt f).dev.untrained = m.dev.untrained := rfl
@[simp] theorem M.modMgmt_dev_repairMap (f : Mgmt → Mgmt) : (m.modMgmt f).dev.repairMap = m.dev.repairMap := rfl
@[simp] theorem M.modMgmt_dev_memLogRead (f : Mgmt → Mgmt) : (m.modMgmt f).dev.memLogRead = m.dev.memLogRead := rfl
@[simp] theorem M.modMgmt_dev_windows (f : Mgmt → Mgmt) : (m.modMgmt f).dev.windows = m.dev.windows := rfl
@[simp] theorem M.modMgmt_dev_ring (f : Mgmt → Mgmt) : (m.modMgmt f).dev.ring = m.dev.ring := rfl
@[simp] theorem M.modMgmt_dev_ringOut (f : Mgmt → Mgmt) : (m.modMgmt f).dev.ringOut = m.dev.ringOut := rfl
@[simp] theorem M.modMgmt_dev_ringCredits (f : Mgmt → Mgmt) : (m.modMgmt f).dev.ringCredits = m.dev.ringCredits := rfl
@[simp] theorem M.modMgmt_dev_links (f : Mgmt → Mgmt) : (m.modMgmt f).dev.links = m.dev.links := rfl
@[simp] theorem M.modMgmt_dev_fab (f : Mgmt → Mgmt) : (m.modMgmt f).dev.fab = m.dev.fab := rfl
@[simp] theorem M.modMgmt_dev_mirror (f : Mgmt → Mgmt) : (m.modMgmt f).dev.mirror = m.dev.mirror := rfl
@[simp] theorem M.modMgmt_dev_host (f : Mgmt → Mgmt) : (m.modMgmt f).dev.host = m.dev.host := rfl
@[simp] theorem M.modMgmt_dev_led (f : Mgmt → Mgmt) : (m.modMgmt f).dev.led = m.dev.led := rfl
@[simp] theorem M.modMgmt_dev_power (f : Mgmt → Mgmt) : (m.modMgmt f).dev.power = m.dev.power := rfl
@[simp] theorem M.modMgmt_dev_heat (f : Mgmt → Mgmt) : (m.modMgmt f).dev.heat = m.dev.heat := rfl
@[simp] theorem M.modMgmt_dev_clocks (f : Mgmt → Mgmt) : (m.modMgmt f).dev.clocks = m.dev.clocks := rfl
@[simp] theorem M.modMgmt_dev_reset (f : Mgmt → Mgmt) : (m.modMgmt f).dev.reset = m.dev.reset := rfl
@[simp] theorem M.modMgmt_dev_faults (f : Mgmt → Mgmt) : (m.modMgmt f).dev.faults = m.dev.faults := rfl
@[simp] theorem M.modMgmt_dev_sec (f : Mgmt → Mgmt) : (m.modMgmt f).dev.sec = m.dev.sec := rfl

/-! ### `modPower` -/

@[simp] theorem M.modPower_fuse (f : Power → Power) : (m.modPower f).fuse = m.fuse := rfl
@[simp] theorem M.modPower_base (f : Power → Power) : (m.modPower f).base = m.base := rfl
@[simp] theorem M.modPower_ops (f : Power → Power) : (m.modPower f).ops = m.ops := rfl
@[simp] theorem M.modPower_dev_fresh (f : Power → Power) : (m.modPower f).dev.fresh = m.dev.fresh := rfl
@[simp] theorem M.modPower_dev_sent (f : Power → Power) : (m.modPower f).dev.sent = m.dev.sent := rfl
@[simp] theorem M.modPower_dev_devSeq (f : Power → Power) : (m.modPower f).dev.devSeq = m.dev.devSeq := rfl
@[simp] theorem M.modPower_dev_powered (f : Power → Power) : (m.modPower f).dev.powered = m.dev.powered := rfl
@[simp] theorem M.modPower_dev_tripped (f : Power → Power) : (m.modPower f).dev.tripped = m.dev.tripped := rfl
@[simp] theorem M.modPower_dev_oscLost (f : Power → Power) : (m.modPower f).dev.oscLost = m.dev.oscLost := rfl
@[simp] theorem M.modPower_dev_perst (f : Power → Power) : (m.modPower f).dev.perst = m.dev.perst := rfl
@[simp] theorem M.modPower_dev_pcieUp (f : Power → Power) : (m.modPower f).dev.pcieUp = m.dev.pcieUp := rfl
@[simp] theorem M.modPower_dev_startBlocked (f : Power → Power) : (m.modPower f).dev.startBlocked = m.dev.startBlocked := rfl
@[simp] theorem M.modPower_dev_objs (f : Power → Power) : (m.modPower f).dev.objs = m.dev.objs := rfl
@[simp] theorem M.modPower_dev_cores (f : Power → Power) : (m.modPower f).dev.cores = m.dev.cores := rfl
@[simp] theorem M.modPower_dev_lqs (f : Power → Power) : (m.modPower f).dev.lqs = m.dev.lqs := rfl
@[simp] theorem M.modPower_dev_banks (f : Power → Power) : (m.modPower f).dev.banks = m.dev.banks := rfl
@[simp] theorem M.modPower_dev_buckets (f : Power → Power) : (m.modPower f).dev.buckets = m.dev.buckets := rfl
@[simp] theorem M.modPower_dev_readyCtr (f : Power → Power) : (m.modPower f).dev.readyCtr = m.dev.readyCtr := rfl
@[simp] theorem M.modPower_dev_convs (f : Power → Power) : (m.modPower f).dev.convs = m.dev.convs := rfl
@[simp] theorem M.modPower_dev_lostLqs (f : Power → Power) : (m.modPower f).dev.lostLqs = m.dev.lostLqs := rfl
@[simp] theorem M.modPower_dev_darkLqs (f : Power → Power) : (m.modPower f).dev.darkLqs = m.dev.darkLqs := rfl
@[simp] theorem M.modPower_dev_outGroups (f : Power → Power) : (m.modPower f).dev.outGroups = m.dev.outGroups := rfl
@[simp] theorem M.modPower_dev_portClosed (f : Power → Power) : (m.modPower f).dev.portClosed = m.dev.portClosed := rfl
@[simp] theorem M.modPower_dev_unreach (f : Power → Power) : (m.modPower f).dev.unreach = m.dev.unreach := rfl
@[simp] theorem M.modPower_dev_untrained (f : Power → Power) : (m.modPower f).dev.untrained = m.dev.untrained := rfl
@[simp] theorem M.modPower_dev_repairMap (f : Power → Power) : (m.modPower f).dev.repairMap = m.dev.repairMap := rfl
@[simp] theorem M.modPower_dev_memLogRead (f : Power → Power) : (m.modPower f).dev.memLogRead = m.dev.memLogRead := rfl
@[simp] theorem M.modPower_dev_windows (f : Power → Power) : (m.modPower f).dev.windows = m.dev.windows := rfl
@[simp] theorem M.modPower_dev_ring (f : Power → Power) : (m.modPower f).dev.ring = m.dev.ring := rfl
@[simp] theorem M.modPower_dev_ringOut (f : Power → Power) : (m.modPower f).dev.ringOut = m.dev.ringOut := rfl
@[simp] theorem M.modPower_dev_ringCredits (f : Power → Power) : (m.modPower f).dev.ringCredits = m.dev.ringCredits := rfl
@[simp] theorem M.modPower_dev_links (f : Power → Power) : (m.modPower f).dev.links = m.dev.links := rfl
@[simp] theorem M.modPower_dev_fab (f : Power → Power) : (m.modPower f).dev.fab = m.dev.fab := rfl
@[simp] theorem M.modPower_dev_mirror (f : Power → Power) : (m.modPower f).dev.mirror = m.dev.mirror := rfl
@[simp] theorem M.modPower_dev_host (f : Power → Power) : (m.modPower f).dev.host = m.dev.host := rfl
@[simp] theorem M.modPower_dev_led (f : Power → Power) : (m.modPower f).dev.led = m.dev.led := rfl
@[simp] theorem M.modPower_dev_mgmt (f : Power → Power) : (m.modPower f).dev.mgmt = m.dev.mgmt := rfl
@[simp] theorem M.modPower_dev_heat (f : Power → Power) : (m.modPower f).dev.heat = m.dev.heat := rfl
@[simp] theorem M.modPower_dev_clocks (f : Power → Power) : (m.modPower f).dev.clocks = m.dev.clocks := rfl
@[simp] theorem M.modPower_dev_reset (f : Power → Power) : (m.modPower f).dev.reset = m.dev.reset := rfl
@[simp] theorem M.modPower_dev_faults (f : Power → Power) : (m.modPower f).dev.faults = m.dev.faults := rfl
@[simp] theorem M.modPower_dev_sec (f : Power → Power) : (m.modPower f).dev.sec = m.dev.sec := rfl

/-! ### `modHeat` -/

@[simp] theorem M.modHeat_fuse (f : Heat → Heat) : (m.modHeat f).fuse = m.fuse := rfl
@[simp] theorem M.modHeat_base (f : Heat → Heat) : (m.modHeat f).base = m.base := rfl
@[simp] theorem M.modHeat_ops (f : Heat → Heat) : (m.modHeat f).ops = m.ops := rfl
@[simp] theorem M.modHeat_dev_fresh (f : Heat → Heat) : (m.modHeat f).dev.fresh = m.dev.fresh := rfl
@[simp] theorem M.modHeat_dev_sent (f : Heat → Heat) : (m.modHeat f).dev.sent = m.dev.sent := rfl
@[simp] theorem M.modHeat_dev_devSeq (f : Heat → Heat) : (m.modHeat f).dev.devSeq = m.dev.devSeq := rfl
@[simp] theorem M.modHeat_dev_powered (f : Heat → Heat) : (m.modHeat f).dev.powered = m.dev.powered := rfl
@[simp] theorem M.modHeat_dev_tripped (f : Heat → Heat) : (m.modHeat f).dev.tripped = m.dev.tripped := rfl
@[simp] theorem M.modHeat_dev_oscLost (f : Heat → Heat) : (m.modHeat f).dev.oscLost = m.dev.oscLost := rfl
@[simp] theorem M.modHeat_dev_perst (f : Heat → Heat) : (m.modHeat f).dev.perst = m.dev.perst := rfl
@[simp] theorem M.modHeat_dev_pcieUp (f : Heat → Heat) : (m.modHeat f).dev.pcieUp = m.dev.pcieUp := rfl
@[simp] theorem M.modHeat_dev_startBlocked (f : Heat → Heat) : (m.modHeat f).dev.startBlocked = m.dev.startBlocked := rfl
@[simp] theorem M.modHeat_dev_objs (f : Heat → Heat) : (m.modHeat f).dev.objs = m.dev.objs := rfl
@[simp] theorem M.modHeat_dev_cores (f : Heat → Heat) : (m.modHeat f).dev.cores = m.dev.cores := rfl
@[simp] theorem M.modHeat_dev_lqs (f : Heat → Heat) : (m.modHeat f).dev.lqs = m.dev.lqs := rfl
@[simp] theorem M.modHeat_dev_banks (f : Heat → Heat) : (m.modHeat f).dev.banks = m.dev.banks := rfl
@[simp] theorem M.modHeat_dev_buckets (f : Heat → Heat) : (m.modHeat f).dev.buckets = m.dev.buckets := rfl
@[simp] theorem M.modHeat_dev_readyCtr (f : Heat → Heat) : (m.modHeat f).dev.readyCtr = m.dev.readyCtr := rfl
@[simp] theorem M.modHeat_dev_convs (f : Heat → Heat) : (m.modHeat f).dev.convs = m.dev.convs := rfl
@[simp] theorem M.modHeat_dev_lostLqs (f : Heat → Heat) : (m.modHeat f).dev.lostLqs = m.dev.lostLqs := rfl
@[simp] theorem M.modHeat_dev_darkLqs (f : Heat → Heat) : (m.modHeat f).dev.darkLqs = m.dev.darkLqs := rfl
@[simp] theorem M.modHeat_dev_outGroups (f : Heat → Heat) : (m.modHeat f).dev.outGroups = m.dev.outGroups := rfl
@[simp] theorem M.modHeat_dev_portClosed (f : Heat → Heat) : (m.modHeat f).dev.portClosed = m.dev.portClosed := rfl
@[simp] theorem M.modHeat_dev_unreach (f : Heat → Heat) : (m.modHeat f).dev.unreach = m.dev.unreach := rfl
@[simp] theorem M.modHeat_dev_untrained (f : Heat → Heat) : (m.modHeat f).dev.untrained = m.dev.untrained := rfl
@[simp] theorem M.modHeat_dev_repairMap (f : Heat → Heat) : (m.modHeat f).dev.repairMap = m.dev.repairMap := rfl
@[simp] theorem M.modHeat_dev_memLogRead (f : Heat → Heat) : (m.modHeat f).dev.memLogRead = m.dev.memLogRead := rfl
@[simp] theorem M.modHeat_dev_windows (f : Heat → Heat) : (m.modHeat f).dev.windows = m.dev.windows := rfl
@[simp] theorem M.modHeat_dev_ring (f : Heat → Heat) : (m.modHeat f).dev.ring = m.dev.ring := rfl
@[simp] theorem M.modHeat_dev_ringOut (f : Heat → Heat) : (m.modHeat f).dev.ringOut = m.dev.ringOut := rfl
@[simp] theorem M.modHeat_dev_ringCredits (f : Heat → Heat) : (m.modHeat f).dev.ringCredits = m.dev.ringCredits := rfl
@[simp] theorem M.modHeat_dev_links (f : Heat → Heat) : (m.modHeat f).dev.links = m.dev.links := rfl
@[simp] theorem M.modHeat_dev_fab (f : Heat → Heat) : (m.modHeat f).dev.fab = m.dev.fab := rfl
@[simp] theorem M.modHeat_dev_mirror (f : Heat → Heat) : (m.modHeat f).dev.mirror = m.dev.mirror := rfl
@[simp] theorem M.modHeat_dev_host (f : Heat → Heat) : (m.modHeat f).dev.host = m.dev.host := rfl
@[simp] theorem M.modHeat_dev_led (f : Heat → Heat) : (m.modHeat f).dev.led = m.dev.led := rfl
@[simp] theorem M.modHeat_dev_mgmt (f : Heat → Heat) : (m.modHeat f).dev.mgmt = m.dev.mgmt := rfl
@[simp] theorem M.modHeat_dev_power (f : Heat → Heat) : (m.modHeat f).dev.power = m.dev.power := rfl
@[simp] theorem M.modHeat_dev_clocks (f : Heat → Heat) : (m.modHeat f).dev.clocks = m.dev.clocks := rfl
@[simp] theorem M.modHeat_dev_reset (f : Heat → Heat) : (m.modHeat f).dev.reset = m.dev.reset := rfl
@[simp] theorem M.modHeat_dev_faults (f : Heat → Heat) : (m.modHeat f).dev.faults = m.dev.faults := rfl
@[simp] theorem M.modHeat_dev_sec (f : Heat → Heat) : (m.modHeat f).dev.sec = m.dev.sec := rfl

/-! ### `modClocks` -/

@[simp] theorem M.modClocks_fuse (f : Clocks → Clocks) : (m.modClocks f).fuse = m.fuse := rfl
@[simp] theorem M.modClocks_base (f : Clocks → Clocks) : (m.modClocks f).base = m.base := rfl
@[simp] theorem M.modClocks_ops (f : Clocks → Clocks) : (m.modClocks f).ops = m.ops := rfl
@[simp] theorem M.modClocks_dev_fresh (f : Clocks → Clocks) : (m.modClocks f).dev.fresh = m.dev.fresh := rfl
@[simp] theorem M.modClocks_dev_sent (f : Clocks → Clocks) : (m.modClocks f).dev.sent = m.dev.sent := rfl
@[simp] theorem M.modClocks_dev_devSeq (f : Clocks → Clocks) : (m.modClocks f).dev.devSeq = m.dev.devSeq := rfl
@[simp] theorem M.modClocks_dev_powered (f : Clocks → Clocks) : (m.modClocks f).dev.powered = m.dev.powered := rfl
@[simp] theorem M.modClocks_dev_tripped (f : Clocks → Clocks) : (m.modClocks f).dev.tripped = m.dev.tripped := rfl
@[simp] theorem M.modClocks_dev_oscLost (f : Clocks → Clocks) : (m.modClocks f).dev.oscLost = m.dev.oscLost := rfl
@[simp] theorem M.modClocks_dev_perst (f : Clocks → Clocks) : (m.modClocks f).dev.perst = m.dev.perst := rfl
@[simp] theorem M.modClocks_dev_pcieUp (f : Clocks → Clocks) : (m.modClocks f).dev.pcieUp = m.dev.pcieUp := rfl
@[simp] theorem M.modClocks_dev_startBlocked (f : Clocks → Clocks) : (m.modClocks f).dev.startBlocked = m.dev.startBlocked := rfl
@[simp] theorem M.modClocks_dev_objs (f : Clocks → Clocks) : (m.modClocks f).dev.objs = m.dev.objs := rfl
@[simp] theorem M.modClocks_dev_cores (f : Clocks → Clocks) : (m.modClocks f).dev.cores = m.dev.cores := rfl
@[simp] theorem M.modClocks_dev_lqs (f : Clocks → Clocks) : (m.modClocks f).dev.lqs = m.dev.lqs := rfl
@[simp] theorem M.modClocks_dev_banks (f : Clocks → Clocks) : (m.modClocks f).dev.banks = m.dev.banks := rfl
@[simp] theorem M.modClocks_dev_buckets (f : Clocks → Clocks) : (m.modClocks f).dev.buckets = m.dev.buckets := rfl
@[simp] theorem M.modClocks_dev_readyCtr (f : Clocks → Clocks) : (m.modClocks f).dev.readyCtr = m.dev.readyCtr := rfl
@[simp] theorem M.modClocks_dev_convs (f : Clocks → Clocks) : (m.modClocks f).dev.convs = m.dev.convs := rfl
@[simp] theorem M.modClocks_dev_lostLqs (f : Clocks → Clocks) : (m.modClocks f).dev.lostLqs = m.dev.lostLqs := rfl
@[simp] theorem M.modClocks_dev_darkLqs (f : Clocks → Clocks) : (m.modClocks f).dev.darkLqs = m.dev.darkLqs := rfl
@[simp] theorem M.modClocks_dev_outGroups (f : Clocks → Clocks) : (m.modClocks f).dev.outGroups = m.dev.outGroups := rfl
@[simp] theorem M.modClocks_dev_portClosed (f : Clocks → Clocks) : (m.modClocks f).dev.portClosed = m.dev.portClosed := rfl
@[simp] theorem M.modClocks_dev_unreach (f : Clocks → Clocks) : (m.modClocks f).dev.unreach = m.dev.unreach := rfl
@[simp] theorem M.modClocks_dev_untrained (f : Clocks → Clocks) : (m.modClocks f).dev.untrained = m.dev.untrained := rfl
@[simp] theorem M.modClocks_dev_repairMap (f : Clocks → Clocks) : (m.modClocks f).dev.repairMap = m.dev.repairMap := rfl
@[simp] theorem M.modClocks_dev_memLogRead (f : Clocks → Clocks) : (m.modClocks f).dev.memLogRead = m.dev.memLogRead := rfl
@[simp] theorem M.modClocks_dev_windows (f : Clocks → Clocks) : (m.modClocks f).dev.windows = m.dev.windows := rfl
@[simp] theorem M.modClocks_dev_ring (f : Clocks → Clocks) : (m.modClocks f).dev.ring = m.dev.ring := rfl
@[simp] theorem M.modClocks_dev_ringOut (f : Clocks → Clocks) : (m.modClocks f).dev.ringOut = m.dev.ringOut := rfl
@[simp] theorem M.modClocks_dev_ringCredits (f : Clocks → Clocks) : (m.modClocks f).dev.ringCredits = m.dev.ringCredits := rfl
@[simp] theorem M.modClocks_dev_links (f : Clocks → Clocks) : (m.modClocks f).dev.links = m.dev.links := rfl
@[simp] theorem M.modClocks_dev_fab (f : Clocks → Clocks) : (m.modClocks f).dev.fab = m.dev.fab := rfl
@[simp] theorem M.modClocks_dev_mirror (f : Clocks → Clocks) : (m.modClocks f).dev.mirror = m.dev.mirror := rfl
@[simp] theorem M.modClocks_dev_host (f : Clocks → Clocks) : (m.modClocks f).dev.host = m.dev.host := rfl
@[simp] theorem M.modClocks_dev_led (f : Clocks → Clocks) : (m.modClocks f).dev.led = m.dev.led := rfl
@[simp] theorem M.modClocks_dev_mgmt (f : Clocks → Clocks) : (m.modClocks f).dev.mgmt = m.dev.mgmt := rfl
@[simp] theorem M.modClocks_dev_power (f : Clocks → Clocks) : (m.modClocks f).dev.power = m.dev.power := rfl
@[simp] theorem M.modClocks_dev_heat (f : Clocks → Clocks) : (m.modClocks f).dev.heat = m.dev.heat := rfl
@[simp] theorem M.modClocks_dev_reset (f : Clocks → Clocks) : (m.modClocks f).dev.reset = m.dev.reset := rfl
@[simp] theorem M.modClocks_dev_faults (f : Clocks → Clocks) : (m.modClocks f).dev.faults = m.dev.faults := rfl
@[simp] theorem M.modClocks_dev_sec (f : Clocks → Clocks) : (m.modClocks f).dev.sec = m.dev.sec := rfl

/-! ### `modFaults` -/

@[simp] theorem M.modFaults_fuse (f : Faults → Faults) : (m.modFaults f).fuse = m.fuse := rfl
@[simp] theorem M.modFaults_base (f : Faults → Faults) : (m.modFaults f).base = m.base := rfl
@[simp] theorem M.modFaults_ops (f : Faults → Faults) : (m.modFaults f).ops = m.ops := rfl
@[simp] theorem M.modFaults_dev_fresh (f : Faults → Faults) : (m.modFaults f).dev.fresh = m.dev.fresh := rfl
@[simp] theorem M.modFaults_dev_sent (f : Faults → Faults) : (m.modFaults f).dev.sent = m.dev.sent := rfl
@[simp] theorem M.modFaults_dev_devSeq (f : Faults → Faults) : (m.modFaults f).dev.devSeq = m.dev.devSeq := rfl
@[simp] theorem M.modFaults_dev_powered (f : Faults → Faults) : (m.modFaults f).dev.powered = m.dev.powered := rfl
@[simp] theorem M.modFaults_dev_tripped (f : Faults → Faults) : (m.modFaults f).dev.tripped = m.dev.tripped := rfl
@[simp] theorem M.modFaults_dev_oscLost (f : Faults → Faults) : (m.modFaults f).dev.oscLost = m.dev.oscLost := rfl
@[simp] theorem M.modFaults_dev_perst (f : Faults → Faults) : (m.modFaults f).dev.perst = m.dev.perst := rfl
@[simp] theorem M.modFaults_dev_pcieUp (f : Faults → Faults) : (m.modFaults f).dev.pcieUp = m.dev.pcieUp := rfl
@[simp] theorem M.modFaults_dev_startBlocked (f : Faults → Faults) : (m.modFaults f).dev.startBlocked = m.dev.startBlocked := rfl
@[simp] theorem M.modFaults_dev_objs (f : Faults → Faults) : (m.modFaults f).dev.objs = m.dev.objs := rfl
@[simp] theorem M.modFaults_dev_cores (f : Faults → Faults) : (m.modFaults f).dev.cores = m.dev.cores := rfl
@[simp] theorem M.modFaults_dev_lqs (f : Faults → Faults) : (m.modFaults f).dev.lqs = m.dev.lqs := rfl
@[simp] theorem M.modFaults_dev_banks (f : Faults → Faults) : (m.modFaults f).dev.banks = m.dev.banks := rfl
@[simp] theorem M.modFaults_dev_buckets (f : Faults → Faults) : (m.modFaults f).dev.buckets = m.dev.buckets := rfl
@[simp] theorem M.modFaults_dev_readyCtr (f : Faults → Faults) : (m.modFaults f).dev.readyCtr = m.dev.readyCtr := rfl
@[simp] theorem M.modFaults_dev_convs (f : Faults → Faults) : (m.modFaults f).dev.convs = m.dev.convs := rfl
@[simp] theorem M.modFaults_dev_lostLqs (f : Faults → Faults) : (m.modFaults f).dev.lostLqs = m.dev.lostLqs := rfl
@[simp] theorem M.modFaults_dev_darkLqs (f : Faults → Faults) : (m.modFaults f).dev.darkLqs = m.dev.darkLqs := rfl
@[simp] theorem M.modFaults_dev_outGroups (f : Faults → Faults) : (m.modFaults f).dev.outGroups = m.dev.outGroups := rfl
@[simp] theorem M.modFaults_dev_portClosed (f : Faults → Faults) : (m.modFaults f).dev.portClosed = m.dev.portClosed := rfl
@[simp] theorem M.modFaults_dev_unreach (f : Faults → Faults) : (m.modFaults f).dev.unreach = m.dev.unreach := rfl
@[simp] theorem M.modFaults_dev_untrained (f : Faults → Faults) : (m.modFaults f).dev.untrained = m.dev.untrained := rfl
@[simp] theorem M.modFaults_dev_repairMap (f : Faults → Faults) : (m.modFaults f).dev.repairMap = m.dev.repairMap := rfl
@[simp] theorem M.modFaults_dev_memLogRead (f : Faults → Faults) : (m.modFaults f).dev.memLogRead = m.dev.memLogRead := rfl
@[simp] theorem M.modFaults_dev_windows (f : Faults → Faults) : (m.modFaults f).dev.windows = m.dev.windows := rfl
@[simp] theorem M.modFaults_dev_ring (f : Faults → Faults) : (m.modFaults f).dev.ring = m.dev.ring := rfl
@[simp] theorem M.modFaults_dev_ringOut (f : Faults → Faults) : (m.modFaults f).dev.ringOut = m.dev.ringOut := rfl
@[simp] theorem M.modFaults_dev_ringCredits (f : Faults → Faults) : (m.modFaults f).dev.ringCredits = m.dev.ringCredits := rfl
@[simp] theorem M.modFaults_dev_links (f : Faults → Faults) : (m.modFaults f).dev.links = m.dev.links := rfl
@[simp] theorem M.modFaults_dev_fab (f : Faults → Faults) : (m.modFaults f).dev.fab = m.dev.fab := rfl
@[simp] theorem M.modFaults_dev_mirror (f : Faults → Faults) : (m.modFaults f).dev.mirror = m.dev.mirror := rfl
@[simp] theorem M.modFaults_dev_host (f : Faults → Faults) : (m.modFaults f).dev.host = m.dev.host := rfl
@[simp] theorem M.modFaults_dev_led (f : Faults → Faults) : (m.modFaults f).dev.led = m.dev.led := rfl
@[simp] theorem M.modFaults_dev_mgmt (f : Faults → Faults) : (m.modFaults f).dev.mgmt = m.dev.mgmt := rfl
@[simp] theorem M.modFaults_dev_power (f : Faults → Faults) : (m.modFaults f).dev.power = m.dev.power := rfl
@[simp] theorem M.modFaults_dev_heat (f : Faults → Faults) : (m.modFaults f).dev.heat = m.dev.heat := rfl
@[simp] theorem M.modFaults_dev_clocks (f : Faults → Faults) : (m.modFaults f).dev.clocks = m.dev.clocks := rfl
@[simp] theorem M.modFaults_dev_reset (f : Faults → Faults) : (m.modFaults f).dev.reset = m.dev.reset := rfl
@[simp] theorem M.modFaults_dev_sec (f : Faults → Faults) : (m.modFaults f).dev.sec = m.dev.sec := rfl

/-! ### `modSec` -/

@[simp] theorem M.modSec_fuse (f : Security → Security) : (m.modSec f).fuse = m.fuse := rfl
@[simp] theorem M.modSec_base (f : Security → Security) : (m.modSec f).base = m.base := rfl
@[simp] theorem M.modSec_ops (f : Security → Security) : (m.modSec f).ops = m.ops := rfl
@[simp] theorem M.modSec_dev_fresh (f : Security → Security) : (m.modSec f).dev.fresh = m.dev.fresh := rfl
@[simp] theorem M.modSec_dev_sent (f : Security → Security) : (m.modSec f).dev.sent = m.dev.sent := rfl
@[simp] theorem M.modSec_dev_devSeq (f : Security → Security) : (m.modSec f).dev.devSeq = m.dev.devSeq := rfl
@[simp] theorem M.modSec_dev_powered (f : Security → Security) : (m.modSec f).dev.powered = m.dev.powered := rfl
@[simp] theorem M.modSec_dev_tripped (f : Security → Security) : (m.modSec f).dev.tripped = m.dev.tripped := rfl
@[simp] theorem M.modSec_dev_oscLost (f : Security → Security) : (m.modSec f).dev.oscLost = m.dev.oscLost := rfl
@[simp] theorem M.modSec_dev_perst (f : Security → Security) : (m.modSec f).dev.perst = m.dev.perst := rfl
@[simp] theorem M.modSec_dev_pcieUp (f : Security → Security) : (m.modSec f).dev.pcieUp = m.dev.pcieUp := rfl
@[simp] theorem M.modSec_dev_startBlocked (f : Security → Security) : (m.modSec f).dev.startBlocked = m.dev.startBlocked := rfl
@[simp] theorem M.modSec_dev_objs (f : Security → Security) : (m.modSec f).dev.objs = m.dev.objs := rfl
@[simp] theorem M.modSec_dev_cores (f : Security → Security) : (m.modSec f).dev.cores = m.dev.cores := rfl
@[simp] theorem M.modSec_dev_lqs (f : Security → Security) : (m.modSec f).dev.lqs = m.dev.lqs := rfl
@[simp] theorem M.modSec_dev_banks (f : Security → Security) : (m.modSec f).dev.banks = m.dev.banks := rfl
@[simp] theorem M.modSec_dev_buckets (f : Security → Security) : (m.modSec f).dev.buckets = m.dev.buckets := rfl
@[simp] theorem M.modSec_dev_readyCtr (f : Security → Security) : (m.modSec f).dev.readyCtr = m.dev.readyCtr := rfl
@[simp] theorem M.modSec_dev_convs (f : Security → Security) : (m.modSec f).dev.convs = m.dev.convs := rfl
@[simp] theorem M.modSec_dev_lostLqs (f : Security → Security) : (m.modSec f).dev.lostLqs = m.dev.lostLqs := rfl
@[simp] theorem M.modSec_dev_darkLqs (f : Security → Security) : (m.modSec f).dev.darkLqs = m.dev.darkLqs := rfl
@[simp] theorem M.modSec_dev_outGroups (f : Security → Security) : (m.modSec f).dev.outGroups = m.dev.outGroups := rfl
@[simp] theorem M.modSec_dev_portClosed (f : Security → Security) : (m.modSec f).dev.portClosed = m.dev.portClosed := rfl
@[simp] theorem M.modSec_dev_unreach (f : Security → Security) : (m.modSec f).dev.unreach = m.dev.unreach := rfl
@[simp] theorem M.modSec_dev_untrained (f : Security → Security) : (m.modSec f).dev.untrained = m.dev.untrained := rfl
@[simp] theorem M.modSec_dev_repairMap (f : Security → Security) : (m.modSec f).dev.repairMap = m.dev.repairMap := rfl
@[simp] theorem M.modSec_dev_memLogRead (f : Security → Security) : (m.modSec f).dev.memLogRead = m.dev.memLogRead := rfl
@[simp] theorem M.modSec_dev_windows (f : Security → Security) : (m.modSec f).dev.windows = m.dev.windows := rfl
@[simp] theorem M.modSec_dev_ring (f : Security → Security) : (m.modSec f).dev.ring = m.dev.ring := rfl
@[simp] theorem M.modSec_dev_ringOut (f : Security → Security) : (m.modSec f).dev.ringOut = m.dev.ringOut := rfl
@[simp] theorem M.modSec_dev_ringCredits (f : Security → Security) : (m.modSec f).dev.ringCredits = m.dev.ringCredits := rfl
@[simp] theorem M.modSec_dev_links (f : Security → Security) : (m.modSec f).dev.links = m.dev.links := rfl
@[simp] theorem M.modSec_dev_fab (f : Security → Security) : (m.modSec f).dev.fab = m.dev.fab := rfl
@[simp] theorem M.modSec_dev_mirror (f : Security → Security) : (m.modSec f).dev.mirror = m.dev.mirror := rfl
@[simp] theorem M.modSec_dev_host (f : Security → Security) : (m.modSec f).dev.host = m.dev.host := rfl
@[simp] theorem M.modSec_dev_led (f : Security → Security) : (m.modSec f).dev.led = m.dev.led := rfl
@[simp] theorem M.modSec_dev_mgmt (f : Security → Security) : (m.modSec f).dev.mgmt = m.dev.mgmt := rfl
@[simp] theorem M.modSec_dev_power (f : Security → Security) : (m.modSec f).dev.power = m.dev.power := rfl
@[simp] theorem M.modSec_dev_heat (f : Security → Security) : (m.modSec f).dev.heat = m.dev.heat := rfl
@[simp] theorem M.modSec_dev_clocks (f : Security → Security) : (m.modSec f).dev.clocks = m.dev.clocks := rfl
@[simp] theorem M.modSec_dev_reset (f : Security → Security) : (m.modSec f).dev.reset = m.dev.reset := rfl
@[simp] theorem M.modSec_dev_faults (f : Security → Security) : (m.modSec f).dev.faults = m.dev.faults := rfl

/-! ### `modBuckets` -/

@[simp] theorem M.modBuckets_fuse (f : Tab Nat → Tab Nat) : (m.modBuckets f).fuse = m.fuse := rfl
@[simp] theorem M.modBuckets_base (f : Tab Nat → Tab Nat) : (m.modBuckets f).base = m.base := rfl
@[simp] theorem M.modBuckets_ops (f : Tab Nat → Tab Nat) : (m.modBuckets f).ops = m.ops := rfl
@[simp] theorem M.modBuckets_dev_fresh (f : Tab Nat → Tab Nat) : (m.modBuckets f).dev.fresh = m.dev.fresh := rfl
@[simp] theorem M.modBuckets_dev_sent (f : Tab Nat → Tab Nat) : (m.modBuckets f).dev.sent = m.dev.sent := rfl
@[simp] theorem M.modBuckets_dev_devSeq (f : Tab Nat → Tab Nat) : (m.modBuckets f).dev.devSeq = m.dev.devSeq := rfl
@[simp] theorem M.modBuckets_dev_powered (f : Tab Nat → Tab Nat) : (m.modBuckets f).dev.powered = m.dev.powered := rfl
@[simp] theorem M.modBuckets_dev_tripped (f : Tab Nat → Tab Nat) : (m.modBuckets f).dev.tripped = m.dev.tripped := rfl
@[simp] theorem M.modBuckets_dev_oscLost (f : Tab Nat → Tab Nat) : (m.modBuckets f).dev.oscLost = m.dev.oscLost := rfl
@[simp] theorem M.modBuckets_dev_perst (f : Tab Nat → Tab Nat) : (m.modBuckets f).dev.perst = m.dev.perst := rfl
@[simp] theorem M.modBuckets_dev_pcieUp (f : Tab Nat → Tab Nat) : (m.modBuckets f).dev.pcieUp = m.dev.pcieUp := rfl
@[simp] theorem M.modBuckets_dev_startBlocked (f : Tab Nat → Tab Nat) : (m.modBuckets f).dev.startBlocked = m.dev.startBlocked := rfl
@[simp] theorem M.modBuckets_dev_objs (f : Tab Nat → Tab Nat) : (m.modBuckets f).dev.objs = m.dev.objs := rfl
@[simp] theorem M.modBuckets_dev_cores (f : Tab Nat → Tab Nat) : (m.modBuckets f).dev.cores = m.dev.cores := rfl
@[simp] theorem M.modBuckets_dev_lqs (f : Tab Nat → Tab Nat) : (m.modBuckets f).dev.lqs = m.dev.lqs := rfl
@[simp] theorem M.modBuckets_dev_banks (f : Tab Nat → Tab Nat) : (m.modBuckets f).dev.banks = m.dev.banks := rfl
@[simp] theorem M.modBuckets_dev_readyCtr (f : Tab Nat → Tab Nat) : (m.modBuckets f).dev.readyCtr = m.dev.readyCtr := rfl
@[simp] theorem M.modBuckets_dev_convs (f : Tab Nat → Tab Nat) : (m.modBuckets f).dev.convs = m.dev.convs := rfl
@[simp] theorem M.modBuckets_dev_lostLqs (f : Tab Nat → Tab Nat) : (m.modBuckets f).dev.lostLqs = m.dev.lostLqs := rfl
@[simp] theorem M.modBuckets_dev_darkLqs (f : Tab Nat → Tab Nat) : (m.modBuckets f).dev.darkLqs = m.dev.darkLqs := rfl
@[simp] theorem M.modBuckets_dev_outGroups (f : Tab Nat → Tab Nat) : (m.modBuckets f).dev.outGroups = m.dev.outGroups := rfl
@[simp] theorem M.modBuckets_dev_portClosed (f : Tab Nat → Tab Nat) : (m.modBuckets f).dev.portClosed = m.dev.portClosed := rfl
@[simp] theorem M.modBuckets_dev_unreach (f : Tab Nat → Tab Nat) : (m.modBuckets f).dev.unreach = m.dev.unreach := rfl
@[simp] theorem M.modBuckets_dev_untrained (f : Tab Nat → Tab Nat) : (m.modBuckets f).dev.untrained = m.dev.untrained := rfl
@[simp] theorem M.modBuckets_dev_repairMap (f : Tab Nat → Tab Nat) : (m.modBuckets f).dev.repairMap = m.dev.repairMap := rfl
@[simp] theorem M.modBuckets_dev_memLogRead (f : Tab Nat → Tab Nat) : (m.modBuckets f).dev.memLogRead = m.dev.memLogRead := rfl
@[simp] theorem M.modBuckets_dev_windows (f : Tab Nat → Tab Nat) : (m.modBuckets f).dev.windows = m.dev.windows := rfl
@[simp] theorem M.modBuckets_dev_ring (f : Tab Nat → Tab Nat) : (m.modBuckets f).dev.ring = m.dev.ring := rfl
@[simp] theorem M.modBuckets_dev_ringOut (f : Tab Nat → Tab Nat) : (m.modBuckets f).dev.ringOut = m.dev.ringOut := rfl
@[simp] theorem M.modBuckets_dev_ringCredits (f : Tab Nat → Tab Nat) : (m.modBuckets f).dev.ringCredits = m.dev.ringCredits := rfl
@[simp] theorem M.modBuckets_dev_links (f : Tab Nat → Tab Nat) : (m.modBuckets f).dev.links = m.dev.links := rfl
@[simp] theorem M.modBuckets_dev_fab (f : Tab Nat → Tab Nat) : (m.modBuckets f).dev.fab = m.dev.fab := rfl
@[simp] theorem M.modBuckets_dev_mirror (f : Tab Nat → Tab Nat) : (m.modBuckets f).dev.mirror = m.dev.mirror := rfl
@[simp] theorem M.modBuckets_dev_host (f : Tab Nat → Tab Nat) : (m.modBuckets f).dev.host = m.dev.host := rfl
@[simp] theorem M.modBuckets_dev_led (f : Tab Nat → Tab Nat) : (m.modBuckets f).dev.led = m.dev.led := rfl
@[simp] theorem M.modBuckets_dev_mgmt (f : Tab Nat → Tab Nat) : (m.modBuckets f).dev.mgmt = m.dev.mgmt := rfl
@[simp] theorem M.modBuckets_dev_power (f : Tab Nat → Tab Nat) : (m.modBuckets f).dev.power = m.dev.power := rfl
@[simp] theorem M.modBuckets_dev_heat (f : Tab Nat → Tab Nat) : (m.modBuckets f).dev.heat = m.dev.heat := rfl
@[simp] theorem M.modBuckets_dev_clocks (f : Tab Nat → Tab Nat) : (m.modBuckets f).dev.clocks = m.dev.clocks := rfl
@[simp] theorem M.modBuckets_dev_reset (f : Tab Nat → Tab Nat) : (m.modBuckets f).dev.reset = m.dev.reset := rfl
@[simp] theorem M.modBuckets_dev_faults (f : Tab Nat → Tab Nat) : (m.modBuckets f).dev.faults = m.dev.faults := rfl
@[simp] theorem M.modBuckets_dev_sec (f : Tab Nat → Tab Nat) : (m.modBuckets f).dev.sec = m.dev.sec := rfl

/-! ### `send` -/

@[simp] theorem M.send_fuse (x : Sent) : (m.send x).fuse = m.fuse := rfl
@[simp] theorem M.send_base (x : Sent) : (m.send x).base = m.base := rfl
@[simp] theorem M.send_ops (x : Sent) : (m.send x).ops = m.ops := rfl
@[simp] theorem M.send_dev_fresh (x : Sent) : (m.send x).dev.fresh = m.dev.fresh := rfl
@[simp] theorem M.send_dev_devSeq (x : Sent) : (m.send x).dev.devSeq = m.dev.devSeq := rfl
@[simp] theorem M.send_dev_powered (x : Sent) : (m.send x).dev.powered = m.dev.powered := rfl
@[simp] theorem M.send_dev_tripped (x : Sent) : (m.send x).dev.tripped = m.dev.tripped := rfl
@[simp] theorem M.send_dev_oscLost (x : Sent) : (m.send x).dev.oscLost = m.dev.oscLost := rfl
@[simp] theorem M.send_dev_perst (x : Sent) : (m.send x).dev.perst = m.dev.perst := rfl
@[simp] theorem M.send_dev_pcieUp (x : Sent) : (m.send x).dev.pcieUp = m.dev.pcieUp := rfl
@[simp] theorem M.send_dev_startBlocked (x : Sent) : (m.send x).dev.startBlocked = m.dev.startBlocked := rfl
@[simp] theorem M.send_dev_objs (x : Sent) : (m.send x).dev.objs = m.dev.objs := rfl
@[simp] theorem M.send_dev_cores (x : Sent) : (m.send x).dev.cores = m.dev.cores := rfl
@[simp] theorem M.send_dev_lqs (x : Sent) : (m.send x).dev.lqs = m.dev.lqs := rfl
@[simp] theorem M.send_dev_banks (x : Sent) : (m.send x).dev.banks = m.dev.banks := rfl
@[simp] theorem M.send_dev_buckets (x : Sent) : (m.send x).dev.buckets = m.dev.buckets := rfl
@[simp] theorem M.send_dev_readyCtr (x : Sent) : (m.send x).dev.readyCtr = m.dev.readyCtr := rfl
@[simp] theorem M.send_dev_convs (x : Sent) : (m.send x).dev.convs = m.dev.convs := rfl
@[simp] theorem M.send_dev_lostLqs (x : Sent) : (m.send x).dev.lostLqs = m.dev.lostLqs := rfl
@[simp] theorem M.send_dev_darkLqs (x : Sent) : (m.send x).dev.darkLqs = m.dev.darkLqs := rfl
@[simp] theorem M.send_dev_outGroups (x : Sent) : (m.send x).dev.outGroups = m.dev.outGroups := rfl
@[simp] theorem M.send_dev_portClosed (x : Sent) : (m.send x).dev.portClosed = m.dev.portClosed := rfl
@[simp] theorem M.send_dev_unreach (x : Sent) : (m.send x).dev.unreach = m.dev.unreach := rfl
@[simp] theorem M.send_dev_untrained (x : Sent) : (m.send x).dev.untrained = m.dev.untrained := rfl
@[simp] theorem M.send_dev_repairMap (x : Sent) : (m.send x).dev.repairMap = m.dev.repairMap := rfl
@[simp] theorem M.send_dev_memLogRead (x : Sent) : (m.send x).dev.memLogRead = m.dev.memLogRead := rfl
@[simp] theorem M.send_dev_windows (x : Sent) : (m.send x).dev.windows = m.dev.windows := rfl
@[simp] theorem M.send_dev_ring (x : Sent) : (m.send x).dev.ring = m.dev.ring := rfl
@[simp] theorem M.send_dev_ringOut (x : Sent) : (m.send x).dev.ringOut = m.dev.ringOut := rfl
@[simp] theorem M.send_dev_ringCredits (x : Sent) : (m.send x).dev.ringCredits = m.dev.ringCredits := rfl
@[simp] theorem M.send_dev_links (x : Sent) : (m.send x).dev.links = m.dev.links := rfl
@[simp] theorem M.send_dev_fab (x : Sent) : (m.send x).dev.fab = m.dev.fab := rfl
@[simp] theorem M.send_dev_mirror (x : Sent) : (m.send x).dev.mirror = m.dev.mirror := rfl
@[simp] theorem M.send_dev_host (x : Sent) : (m.send x).dev.host = m.dev.host := rfl
@[simp] theorem M.send_dev_led (x : Sent) : (m.send x).dev.led = m.dev.led := rfl
@[simp] theorem M.send_dev_mgmt (x : Sent) : (m.send x).dev.mgmt = m.dev.mgmt := rfl
@[simp] theorem M.send_dev_power (x : Sent) : (m.send x).dev.power = m.dev.power := rfl
@[simp] theorem M.send_dev_heat (x : Sent) : (m.send x).dev.heat = m.dev.heat := rfl
@[simp] theorem M.send_dev_clocks (x : Sent) : (m.send x).dev.clocks = m.dev.clocks := rfl
@[simp] theorem M.send_dev_reset (x : Sent) : (m.send x).dev.reset = m.dev.reset := rfl
@[simp] theorem M.send_dev_faults (x : Sent) : (m.send x).dev.faults = m.dev.faults := rfl
@[simp] theorem M.send_dev_sec (x : Sent) : (m.send x).dev.sec = m.dev.sec := rfl

/-! ### `op` -/

@[simp] theorem M.op_fuse (o : MemOp) : (m.op o).fuse = m.fuse := rfl
@[simp] theorem M.op_base (o : MemOp) : (m.op o).base = m.base := rfl
@[simp] theorem M.op_dev_fresh (o : MemOp) : (m.op o).dev.fresh = m.dev.fresh := rfl
@[simp] theorem M.op_dev_sent (o : MemOp) : (m.op o).dev.sent = m.dev.sent := rfl
@[simp] theorem M.op_dev_devSeq (o : MemOp) : (m.op o).dev.devSeq = m.dev.devSeq := rfl
@[simp] theorem M.op_dev_powered (o : MemOp) : (m.op o).dev.powered = m.dev.powered := rfl
@[simp] theorem M.op_dev_tripped (o : MemOp) : (m.op o).dev.tripped = m.dev.tripped := rfl
@[simp] theorem M.op_dev_oscLost (o : MemOp) : (m.op o).dev.oscLost = m.dev.oscLost := rfl
@[simp] theorem M.op_dev_perst (o : MemOp) : (m.op o).dev.perst = m.dev.perst := rfl
@[simp] theorem M.op_dev_pcieUp (o : MemOp) : (m.op o).dev.pcieUp = m.dev.pcieUp := rfl
@[simp] theorem M.op_dev_startBlocked (o : MemOp) : (m.op o).dev.startBlocked = m.dev.startBlocked := rfl
@[simp] theorem M.op_dev_objs (o : MemOp) : (m.op o).dev.objs = m.dev.objs := rfl
@[simp] theorem M.op_dev_cores (o : MemOp) : (m.op o).dev.cores = m.dev.cores := rfl
@[simp] theorem M.op_dev_lqs (o : MemOp) : (m.op o).dev.lqs = m.dev.lqs := rfl
@[simp] theorem M.op_dev_banks (o : MemOp) : (m.op o).dev.banks = m.dev.banks := rfl
@[simp] theorem M.op_dev_buckets (o : MemOp) : (m.op o).dev.buckets = m.dev.buckets := rfl
@[simp] theorem M.op_dev_readyCtr (o : MemOp) : (m.op o).dev.readyCtr = m.dev.readyCtr := rfl
@[simp] theorem M.op_dev_convs (o : MemOp) : (m.op o).dev.convs = m.dev.convs := rfl
@[simp] theorem M.op_dev_lostLqs (o : MemOp) : (m.op o).dev.lostLqs = m.dev.lostLqs := rfl
@[simp] theorem M.op_dev_darkLqs (o : MemOp) : (m.op o).dev.darkLqs = m.dev.darkLqs := rfl
@[simp] theorem M.op_dev_outGroups (o : MemOp) : (m.op o).dev.outGroups = m.dev.outGroups := rfl
@[simp] theorem M.op_dev_portClosed (o : MemOp) : (m.op o).dev.portClosed = m.dev.portClosed := rfl
@[simp] theorem M.op_dev_unreach (o : MemOp) : (m.op o).dev.unreach = m.dev.unreach := rfl
@[simp] theorem M.op_dev_untrained (o : MemOp) : (m.op o).dev.untrained = m.dev.untrained := rfl
@[simp] theorem M.op_dev_repairMap (o : MemOp) : (m.op o).dev.repairMap = m.dev.repairMap := rfl
@[simp] theorem M.op_dev_memLogRead (o : MemOp) : (m.op o).dev.memLogRead = m.dev.memLogRead := rfl
@[simp] theorem M.op_dev_windows (o : MemOp) : (m.op o).dev.windows = m.dev.windows := rfl
@[simp] theorem M.op_dev_ring (o : MemOp) : (m.op o).dev.ring = m.dev.ring := rfl
@[simp] theorem M.op_dev_ringOut (o : MemOp) : (m.op o).dev.ringOut = m.dev.ringOut := rfl
@[simp] theorem M.op_dev_ringCredits (o : MemOp) : (m.op o).dev.ringCredits = m.dev.ringCredits := rfl
@[simp] theorem M.op_dev_links (o : MemOp) : (m.op o).dev.links = m.dev.links := rfl
@[simp] theorem M.op_dev_fab (o : MemOp) : (m.op o).dev.fab = m.dev.fab := rfl
@[simp] theorem M.op_dev_mirror (o : MemOp) : (m.op o).dev.mirror = m.dev.mirror := rfl
@[simp] theorem M.op_dev_host (o : MemOp) : (m.op o).dev.host = m.dev.host := rfl
@[simp] theorem M.op_dev_led (o : MemOp) : (m.op o).dev.led = m.dev.led := rfl
@[simp] theorem M.op_dev_mgmt (o : MemOp) : (m.op o).dev.mgmt = m.dev.mgmt := rfl
@[simp] theorem M.op_dev_power (o : MemOp) : (m.op o).dev.power = m.dev.power := rfl
@[simp] theorem M.op_dev_heat (o : MemOp) : (m.op o).dev.heat = m.dev.heat := rfl
@[simp] theorem M.op_dev_clocks (o : MemOp) : (m.op o).dev.clocks = m.dev.clocks := rfl
@[simp] theorem M.op_dev_reset (o : MemOp) : (m.op o).dev.reset = m.dev.reset := rfl
@[simp] theorem M.op_dev_faults (o : MemOp) : (m.op o).dev.faults = m.dev.faults := rfl
@[simp] theorem M.op_dev_sec (o : MemOp) : (m.op o).dev.sec = m.dev.sec := rfl

/-! ### `setMark` -/

@[simp] theorem M.setMark_fuse (a : Nat) (on : Bool) : (m.setMark a on).fuse = m.fuse := rfl
@[simp] theorem M.setMark_base (a : Nat) (on : Bool) : (m.setMark a on).base = m.base := rfl
@[simp] theorem M.setMark_dev_fresh (a : Nat) (on : Bool) : (m.setMark a on).dev.fresh = m.dev.fresh := rfl
@[simp] theorem M.setMark_dev_sent (a : Nat) (on : Bool) : (m.setMark a on).dev.sent = m.dev.sent := rfl
@[simp] theorem M.setMark_dev_devSeq (a : Nat) (on : Bool) : (m.setMark a on).dev.devSeq = m.dev.devSeq := rfl
@[simp] theorem M.setMark_dev_powered (a : Nat) (on : Bool) : (m.setMark a on).dev.powered = m.dev.powered := rfl
@[simp] theorem M.setMark_dev_tripped (a : Nat) (on : Bool) : (m.setMark a on).dev.tripped = m.dev.tripped := rfl
@[simp] theorem M.setMark_dev_oscLost (a : Nat) (on : Bool) : (m.setMark a on).dev.oscLost = m.dev.oscLost := rfl
@[simp] theorem M.setMark_dev_perst (a : Nat) (on : Bool) : (m.setMark a on).dev.perst = m.dev.perst := rfl
@[simp] theorem M.setMark_dev_pcieUp (a : Nat) (on : Bool) : (m.setMark a on).dev.pcieUp = m.dev.pcieUp := rfl
@[simp] theorem M.setMark_dev_startBlocked (a : Nat) (on : Bool) : (m.setMark a on).dev.startBlocked = m.dev.startBlocked := rfl
@[simp] theorem M.setMark_dev_objs (a : Nat) (on : Bool) : (m.setMark a on).dev.objs = m.dev.objs := rfl
@[simp] theorem M.setMark_dev_cores (a : Nat) (on : Bool) : (m.setMark a on).dev.cores = m.dev.cores := rfl
@[simp] theorem M.setMark_dev_lqs (a : Nat) (on : Bool) : (m.setMark a on).dev.lqs = m.dev.lqs := rfl
@[simp] theorem M.setMark_dev_banks (a : Nat) (on : Bool) : (m.setMark a on).dev.banks = m.dev.banks := rfl
@[simp] theorem M.setMark_dev_buckets (a : Nat) (on : Bool) : (m.setMark a on).dev.buckets = m.dev.buckets := rfl
@[simp] theorem M.setMark_dev_readyCtr (a : Nat) (on : Bool) : (m.setMark a on).dev.readyCtr = m.dev.readyCtr := rfl
@[simp] theorem M.setMark_dev_convs (a : Nat) (on : Bool) : (m.setMark a on).dev.convs = m.dev.convs := rfl
@[simp] theorem M.setMark_dev_lostLqs (a : Nat) (on : Bool) : (m.setMark a on).dev.lostLqs = m.dev.lostLqs := rfl
@[simp] theorem M.setMark_dev_darkLqs (a : Nat) (on : Bool) : (m.setMark a on).dev.darkLqs = m.dev.darkLqs := rfl
@[simp] theorem M.setMark_dev_outGroups (a : Nat) (on : Bool) : (m.setMark a on).dev.outGroups = m.dev.outGroups := rfl
@[simp] theorem M.setMark_dev_portClosed (a : Nat) (on : Bool) : (m.setMark a on).dev.portClosed = m.dev.portClosed := rfl
@[simp] theorem M.setMark_dev_unreach (a : Nat) (on : Bool) : (m.setMark a on).dev.unreach = m.dev.unreach := rfl
@[simp] theorem M.setMark_dev_untrained (a : Nat) (on : Bool) : (m.setMark a on).dev.untrained = m.dev.untrained := rfl
@[simp] theorem M.setMark_dev_repairMap (a : Nat) (on : Bool) : (m.setMark a on).dev.repairMap = m.dev.repairMap := rfl
@[simp] theorem M.setMark_dev_memLogRead (a : Nat) (on : Bool) : (m.setMark a on).dev.memLogRead = m.dev.memLogRead := rfl
@[simp] theorem M.setMark_dev_windows (a : Nat) (on : Bool) : (m.setMark a on).dev.windows = m.dev.windows := rfl
@[simp] theorem M.setMark_dev_ring (a : Nat) (on : Bool) : (m.setMark a on).dev.ring = m.dev.ring := rfl
@[simp] theorem M.setMark_dev_ringOut (a : Nat) (on : Bool) : (m.setMark a on).dev.ringOut = m.dev.ringOut := rfl
@[simp] theorem M.setMark_dev_ringCredits (a : Nat) (on : Bool) : (m.setMark a on).dev.ringCredits = m.dev.ringCredits := rfl
@[simp] theorem M.setMark_dev_links (a : Nat) (on : Bool) : (m.setMark a on).dev.links = m.dev.links := rfl
@[simp] theorem M.setMark_dev_fab (a : Nat) (on : Bool) : (m.setMark a on).dev.fab = m.dev.fab := rfl
@[simp] theorem M.setMark_dev_mirror (a : Nat) (on : Bool) : (m.setMark a on).dev.mirror = m.dev.mirror := rfl
@[simp] theorem M.setMark_dev_host (a : Nat) (on : Bool) : (m.setMark a on).dev.host = m.dev.host := rfl
@[simp] theorem M.setMark_dev_led (a : Nat) (on : Bool) : (m.setMark a on).dev.led = m.dev.led := rfl
@[simp] theorem M.setMark_dev_mgmt (a : Nat) (on : Bool) : (m.setMark a on).dev.mgmt = m.dev.mgmt := rfl
@[simp] theorem M.setMark_dev_power (a : Nat) (on : Bool) : (m.setMark a on).dev.power = m.dev.power := rfl
@[simp] theorem M.setMark_dev_heat (a : Nat) (on : Bool) : (m.setMark a on).dev.heat = m.dev.heat := rfl
@[simp] theorem M.setMark_dev_clocks (a : Nat) (on : Bool) : (m.setMark a on).dev.clocks = m.dev.clocks := rfl
@[simp] theorem M.setMark_dev_reset (a : Nat) (on : Bool) : (m.setMark a on).dev.reset = m.dev.reset := rfl
@[simp] theorem M.setMark_dev_faults (a : Nat) (on : Bool) : (m.setMark a on).dev.faults = m.dev.faults := rfl
@[simp] theorem M.setMark_dev_sec (a : Nat) (on : Bool) : (m.setMark a on).dev.sec = m.dev.sec := rfl

/-! ### What each update writes -/

@[simp] theorem M.modFab_self (f : Fab → Fab) : (m.modFab f).dev.fab = f m.dev.fab := rfl
@[simp] theorem M.modMirror_self (f : Mirror → Mirror) : (m.modMirror f).dev.mirror = f m.dev.mirror := rfl
@[simp] theorem M.modHost_self (f : HostPort → HostPort) : (m.modHost f).dev.host = f m.dev.host := rfl
@[simp] theorem M.modLed_self (f : Led → Led) : (m.modLed f).dev.led = f m.dev.led := rfl
@[simp] theorem M.modMgmt_self (f : Mgmt → Mgmt) : (m.modMgmt f).dev.mgmt = f m.dev.mgmt := rfl
@[simp] theorem M.modPower_self (f : Power → Power) : (m.modPower f).dev.power = f m.dev.power := rfl
@[simp] theorem M.modHeat_self (f : Heat → Heat) : (m.modHeat f).dev.heat = f m.dev.heat := rfl
@[simp] theorem M.modClocks_self (f : Clocks → Clocks) : (m.modClocks f).dev.clocks = f m.dev.clocks := rfl
@[simp] theorem M.modFaults_self (f : Faults → Faults) : (m.modFaults f).dev.faults = f m.dev.faults := rfl
@[simp] theorem M.modSec_self (f : Security → Security) : (m.modSec f).dev.sec = f m.dev.sec := rfl
@[simp] theorem M.send_self (x : Sent) : (m.send x).dev.sent = x :: m.dev.sent := rfl
@[simp] theorem M.op_self (o : MemOp) : (m.op o).ops = o :: m.ops := rfl
@[simp] theorem M.of_fuse (s : State) : (M.of s).fuse = s.fuse := rfl
@[simp] theorem M.of_base (s : State) : (M.of s).base = s.mem := rfl
@[simp] theorem M.of_ops (s : State) : (M.of s).ops = [] := rfl
@[simp] theorem M.of_dev (s : State) : (M.of s).dev = s.dev := rfl

end Sys2Proof.Machine
end

