-- ==== Sys2Proof/Laws/Memory.lean ====
section
/-! SUPPORT. Laws of memory: its canonical form is kept by every effect, what a byte and a mark read after effects, and what a
command's run leaves. -/

namespace Sys2Proof.Machine

/-! ## The canonical form -/

theorem cellsFrom_mono {lo lo' : Nat} (h : lo' ≤ lo) {l : List Host.Cell} (hl : cellsFrom lo l = true) : cellsFrom lo' l = true := by
  cases l with
  | nil => rfl
  | cons e r =>
    obtain ⟨k, v⟩ := e
    simp only [cellsFrom, Bool.and_eq_true, decide_eq_true_eq] at hl ⊢
    exact ⟨⟨by omega, hl.1.2⟩, hl.2⟩

theorem marksFrom_mono {lo lo' : Nat} (h : lo' ≤ lo) {l : List Nat} (hl : marksFrom lo l = true) : marksFrom lo' l = true := by
  cases l with
  | nil => rfl
  | cons k r =>
    simp only [marksFrom, Bool.and_eq_true, decide_eq_true_eq] at hl ⊢
    exact ⟨by omega, hl.2⟩

theorem cellPut_from {lo a : Nat} (b : Byte) {l : List Host.Cell} (ha : lo ≤ a) (hl : cellsFrom lo l = true) :
    cellsFrom lo (cellPut a b l) = true := by
  induction l generalizing lo with
  | nil =>
    unfold cellPut
    split
    · rfl
    · simp [cellsFrom, ha]; assumption
  | cons e r ih =>
    obtain ⟨k, v⟩ := e
    simp only [cellsFrom, Bool.and_eq_true, decide_eq_true_eq] at hl
    unfold cellPut
    split
    · rename_i hk
      split
      · exact cellsFrom_mono (by omega) hl.2
      · rename_i hb
        simp only [cellsFrom, Bool.and_eq_true, decide_eq_true_eq]
        exact ⟨⟨ha, by simpa using hb⟩, hk ▸ hl.2⟩
    · split
      · split
        · simp only [cellsFrom, Bool.and_eq_true, decide_eq_true_eq]
          exact hl
        · rename_i hak hb
          simp only [cellsFrom, Bool.and_eq_true, decide_eq_true_eq]
          exact ⟨⟨ha, by simpa using hb⟩, ⟨by omega, hl.1.2⟩, hl.2⟩
      · simp only [cellsFrom, Bool.and_eq_true, decide_eq_true_eq]
        exact ⟨hl.1, ih (by omega) hl.2⟩

theorem markPut_from {lo a : Nat} (on : Bool) {l : List Nat} (ha : lo ≤ a) (hl : marksFrom lo l = true) :
    marksFrom lo (markPut a on l) = true := by
  induction l generalizing lo with
  | nil => cases on <;> simp [markPut, marksFrom, ha]
  | cons k r ih =>
    simp only [marksFrom, Bool.and_eq_true, decide_eq_true_eq] at hl
    unfold markPut
    split
    · rename_i hk
      cases on
      · simpa using marksFrom_mono (by omega) hl.2
      · simp only [if_true, marksFrom, Bool.and_eq_true, decide_eq_true_eq]
        exact ⟨ha, hk ▸ hl.2⟩
    · split
      · cases on
        · simp only [Bool.false_eq_true, if_false, marksFrom, Bool.and_eq_true, decide_eq_true_eq]
          exact hl
        · simp only [if_true, marksFrom, Bool.and_eq_true, decide_eq_true_eq]
          exact ⟨ha, by omega, hl.2⟩
      · simp only [marksFrom, Bool.and_eq_true, decide_eq_true_eq]
        exact ⟨hl.1, ih (by omega) hl.2⟩

theorem cells_filter_from {lo : Nat} (p : Host.Cell → Bool) {l : List Host.Cell} (hl : cellsFrom lo l = true) :
    cellsFrom lo (l.filter p) = true := by
  induction l generalizing lo with
  | nil => rfl
  | cons e r ih =>
    obtain ⟨k, v⟩ := e
    simp only [cellsFrom, Bool.and_eq_true, decide_eq_true_eq] at hl
    rw [List.filter_cons]
    split
    · simp only [cellsFrom, Bool.and_eq_true, decide_eq_true_eq]
      exact ⟨hl.1, ih hl.2⟩
    · exact cellsFrom_mono (by omega) (ih hl.2)

theorem marks_filter_from {lo : Nat} (p : Nat → Bool) {l : List Nat} (hl : marksFrom lo l = true) :
    marksFrom lo (l.filter p) = true := by
  induction l generalizing lo with
  | nil => rfl
  | cons k r ih =>
    simp only [marksFrom, Bool.and_eq_true, decide_eq_true_eq] at hl
    rw [List.filter_cons]
    split
    · simp only [marksFrom, Bool.and_eq_true, decide_eq_true_eq]
      exact ⟨hl.1, ih hl.2⟩
    · exact marksFrom_mono (by omega) (ih hl.2)

/-- Every memory effect keeps the canonical form. -/
theorem MemOp.apply_wf (o : MemOp) {m : Mem} (h : m.wf = true) : (o.apply m).wf = true := by
  simp only [Mem.wf, Bool.and_eq_true] at h
  cases o with
  | put a b => simp [MemOp.apply, Mem.wf, cellPut_from b (Nat.zero_le a) h.1, h.2]
  | mark l on => simp [MemOp.apply, Mem.wf, markPut_from on (Nat.zero_le l) h.2, h.1]
  | zero lo hi => simp only [MemOp.apply, Mem.wf, cells_filter_from _ h.1, marks_filter_from _ h.2, Bool.and_self]

/-- A command's effects keep the canonical form. -/
theorem Mem.applyAll_wf (ops : List MemOp) {m : Mem} (h : m.wf = true) : (m.applyAll ops).wf = true := by
  induction ops with
  | nil => exact h
  | cons o r ih => exact o.apply_wf ih

/-! ## Reads after effects -/

theorem cellGet_below {lo a : Nat} {l : List Host.Cell} (h : cellsFrom lo l = true) (ha : a < lo) : cellGet a l = 0 := by
  induction l generalizing lo with
  | nil => rfl
  | cons e r ih =>
    obtain ⟨k, v⟩ := e
    simp only [cellsFrom, Bool.and_eq_true, decide_eq_true_eq] at h
    have hk : ¬k = a := by omega
    simp only [cellGet, hk, if_false]
    exact ih h.2 (by omega)

theorem cellGet_put {lo : Nat} (a x : Nat) (b : Byte) {l : List Host.Cell} (h : cellsFrom lo l = true) :
    cellGet x (cellPut a b l) = if x = a then b else cellGet x l := by
  induction l generalizing lo with
  | nil =>
    by_cases hx : x = a
    · by_cases hb : b = 0#8 <;> simp [cellPut, cellGet, hb, hx]
    · have : ¬a = x := fun e => hx e.symm
      by_cases hb : b = 0#8 <;> simp [cellPut, cellGet, hb, hx, this]
  | cons e r ih =>
    obtain ⟨k, v⟩ := e
    simp only [cellsFrom, Bool.and_eq_true, decide_eq_true_eq] at h
    have hn := cellGet_below (a := k) h.2 (by omega)
    simp only [cellPut]
    split
    · rename_i hk
      subst hk
      by_cases hb : b = 0#8 <;> by_cases hx : x = k
      · simp [hb, hx, hn]
      · have : ¬k = x := fun e => hx e.symm
        simp [hb, hx, cellGet, this]
      · simp [hb, hx, cellGet]
      · have : ¬k = x := fun e => hx e.symm
        simp [hb, hx, cellGet, this]
    · rename_i hk
      split
      · rename_i hak
        have hlow : cellGet a ((k, v) :: r) = 0 := cellGet_below (lo := k) (by simpa [cellsFrom, h.2] using h.1.2) hak
        by_cases hb : b = 0#8
        · by_cases hx : x = a
          · subst hx
            simp [hb, hlow]
          · simp [hb, hx]
        · by_cases hx : x = a
          · simp [hb, hx, cellGet]
          · have : ¬a = x := fun e => hx e.symm
            simp [hb, hx, cellGet, this]
      · by_cases hx : x = k
        · subst hx
          have : ¬x = a := hk
          simp [cellGet, this]
        · have : ¬k = x := fun e => hx e.symm
          simp only [cellGet, this, if_false]
          exact ih h.2

theorem cellGet_filter (x : Nat) (p : Nat → Bool) (l : List Host.Cell) :
    cellGet x (l.filter fun c => p c.1) = if p x then cellGet x l else 0 := by
  induction l with
  | nil => simp [cellGet]
  | cons e r ih =>
    obtain ⟨k, v⟩ := e
    rw [List.filter_cons]
    by_cases hk : k = x
    · subst hk
      by_cases hp : p k = true
      · simp [hp, cellGet]
      · simp only [hp, Bool.false_eq_true, if_false] at ih ⊢
        exact ih
    · by_cases hp : p k = true
      · simp only [hp, if_true, cellGet, hk, if_false]
        exact ih
      · simp only [hp, Bool.false_eq_true, if_false, cellGet, hk]
        exact ih

theorem marks_above {lo x : Nat} {l : List Nat} (h : marksFrom lo l = true) (hx : x < lo) : l.contains x = false := by
  induction l generalizing lo with
  | nil => rfl
  | cons k r ih =>
    simp only [marksFrom, Bool.and_eq_true, decide_eq_true_eq] at h
    have : ¬x = k := by omega
    simp only [List.contains_cons, Bool.or_eq_false_iff]
    exact ⟨by simpa using this, ih h.2 (by omega)⟩

theorem contains_markPut {lo : Nat} (a x : Nat) (on : Bool) {l : List Nat} (h : marksFrom lo l = true) :
    (markPut a on l).contains x = if x = a then on else l.contains x := by
  induction l generalizing lo with
  | nil => cases on <;> by_cases hx : x = a <;> simp [markPut, hx]
  | cons k r ih =>
    simp only [marksFrom, Bool.and_eq_true, decide_eq_true_eq] at h
    have hn := marks_above (x := k) h.2 (by omega)
    simp only [markPut]
    split
    · rename_i hk
      subst hk
      cases on <;> by_cases hx : x = k
      · subst hx
        simpa using hn
      · simp [hx]
      · simp [hx]
      · simp [hx]
    · rename_i hk
      split
      · rename_i hak
        have hlow : (k :: r).contains a = false := marks_above (lo := k) (by simp [marksFrom, h.2]) hak
        cases on <;> by_cases hx : x = a
        · subst hx
          simpa using hlow
        · simp [hx]
        · simp [hx]
        · simp [hx]
      · by_cases hx : x = k
        · subst hx
          have : ¬x = a := hk
          simp [this]
        · have := ih h.2
          simp only [List.contains_cons, this]
          have hxk : (x == k) = false := by simpa using hx
          simp only [hxk, Bool.false_or]

theorem contains_filter (x : Nat) (p : Nat → Bool) (l : List Nat) : (l.filter p).contains x = (p x && l.contains x) := by
  rw [Bool.eq_iff_iff]
  simp [List.mem_filter, and_comm]

/-- A byte after effects: the newest value they give it, or what it was. -/
theorem applyAll_byte (ops : List MemOp) (m : Mem) (h : m.wf = true) (a : Nat) :
    cellGet a (m.applyAll ops).cells = (opsByte a ops).getD (cellGet a m.cells) := by
  induction ops with
  | nil => rfl
  | cons o r ih =>
    have hw := Mem.applyAll_wf r h
    simp only [Mem.wf, Bool.and_eq_true] at hw
    show cellGet a (o.apply (m.applyAll r)).cells = _
    cases o with
    | put k b =>
      simp only [MemOp.apply, cellGet_put k a b hw.1, opsByte]
      by_cases hk : k = a
      · simp [hk]
      · have : ¬a = k := fun e => hk e.symm
        simp [hk, this, ih]
    | mark l on => simpa [MemOp.apply, opsByte] using ih
    | zero lo hi =>
      simp only [MemOp.apply, cellGet_filter a (fun k => !(lo ≤ k && k ≤ hi)), opsByte]
      by_cases hz : lo ≤ a ∧ a ≤ hi
      · simp [hz]
      · have : ¬(decide (lo ≤ a) && decide (a ≤ hi)) = true := by simpa using hz
        simp [this, ih]

/-- A mark after effects. -/
theorem applyAll_mark (ops : List MemOp) (m : Mem) (h : m.wf = true) (l : Nat) :
    (m.applyAll ops).marks.contains l = (opsMark l ops).getD (m.marks.contains l) := by
  induction ops with
  | nil => rfl
  | cons o r ih =>
    have hw := Mem.applyAll_wf r h
    simp only [Mem.wf, Bool.and_eq_true] at hw
    show (o.apply (m.applyAll r)).marks.contains l = _
    cases o with
    | put k b => simpa [MemOp.apply, opsMark] using ih
    | mark k on =>
      simp only [MemOp.apply, contains_markPut k l on hw.2, opsMark]
      by_cases hk : k = l
      · simp [hk]
      · have : ¬l = k := fun e => hk e.symm
        simp [hk, this]
        simpa using ih
    | zero lo hi =>
      simp only [MemOp.apply, contains_filter, opsMark]
      by_cases hz : lo ≤ l ∧ l ≤ hi
      · simp [hz]
      · have : ¬(decide (lo ≤ l) && decide (l ≤ hi)) = true := by simpa using hz
        simp only [this, Bool.not_false, Bool.true_and, Bool.false_eq_true, if_false]
        exact ih

/-! ## A command's run -/

/-- Everything a command can do by `State.run`: it answers a next state; the queue and the fuses stand; memory takes the effects,
the device is what `f` leaves. -/
theorem State.run_next (s : State) (f : M → M) :
    ∃ t, s.run f = .next t ∧ t.pending = s.pending ∧ t.fuse = s.fuse ∧ t.mem = s.mem.applyAll (f (M.of s)).ops ∧
      t.dev = (f (M.of s)).dev := ⟨_, rfl, rfl, rfl, rfl, rfl⟩

theorem State.run_wf {s t : State} {f : M → M} (h : s.mem.wf = true) (e : s.run f = .next t) : t.mem.wf = true := by
  unfold State.run at e
  injection e with e
  subst e
  exact Mem.applyAll_wf _ h

theorem State.run_dev {s t : State} {f : M → M} (e : s.run f = .next t) : t.dev = (f (M.of s)).dev := by
  unfold State.run at e
  injection e with e
  subst e
  rfl

theorem State.run_fuse {s t : State} {f : M → M} (e : s.run f = .next t) : t.fuse = s.fuse := by
  unfold State.run at e
  injection e with e
  subst e
  rfl

theorem State.run_pending {s t : State} {f : M → M} (e : s.run f = .next t) : t.pending = s.pending := by
  unfold State.run at e
  injection e with e
  subst e
  rfl

theorem State.run_mem {s t : State} {f : M → M} (e : s.run f = .next t) : t.mem = s.mem.applyAll (f (M.of s)).ops := by
  unfold State.run at e
  injection e with e
  subst e
  rfl

/-- A byte of the next state is what the command's working state reads. -/
theorem State.run_byte {s t : State} {f : M → M} (h : s.mem.wf = true) (e : s.run f = .next t) (hb : (f (M.of s)).base = s.mem)
    (a : Nat) : (M.of t).byte a = (f (M.of s)).byte a := by
  unfold M.byte
  rw [M.of_ops, M.of_base, State.run_mem e, hb]
  exact applyAll_byte _ _ h a

/-- A mark of the next state is what the command's working state reads. -/
theorem State.run_marked {s t : State} {f : M → M} (h : s.mem.wf = true) (e : s.run f = .next t)
    (hb : (f (M.of s)).base = s.mem) (a : Nat) : (M.of t).marked a = (f (M.of s)).marked a := by
  unfold M.marked
  rw [M.of_ops, M.of_base, State.run_mem e, hb]
  exact applyAll_mark _ _ h _

/-! ## Stores within a command -/

theorem M.byte_op_put (m : M) (k : Nat) (b : Byte) (a : Nat) : (m.op (.put k b)).byte a = if k = a then b else m.byte a := by
  unfold M.byte M.op
  by_cases h : k = a <;> simp [opsByte, h]

@[simp] theorem M.byte_op_mark (m : M) (l : Nat) (on : Bool) (a : Nat) : (m.op (.mark l on)).byte a = m.byte a := rfl
@[simp] theorem M.byte_setMark (m : M) (l : Nat) (on : Bool) (a : Nat) : (m.setMark l on).byte a = m.byte a := rfl
@[simp] theorem M.marked_op_put (m : M) (k : Nat) (b : Byte) (a : Nat) : (m.op (.put k b)).marked a = m.marked a := rfl

theorem M.marked_op_mark (m : M) (l : Nat) (on : Bool) (a : Nat) :
    (m.op (.mark l on)).marked a = if l = lineOf a then on else m.marked a := by
  unfold M.marked M.op
  by_cases h : l = lineOf a <;> simp [opsMark, h]

end Sys2Proof.Machine
end

