-- ==== Sys2Proof/Laws/Views.lean ====
section
/-! SUPPORT. What every view of a command's working state (objects, cores, layer quadrants, banks, links, bytes, marks, power)
reads after an update of something else. -/

namespace Sys2Proof.Machine

variable (m : M)

/-! ### `setObj` -/

@[simp] theorem M.core_setObj (idx' sub' v' : Nat) (j : Nat) : (m.setObj idx' sub' v').core j = m.core j := rfl
@[simp] theorem M.ctx_setObj (idx' sub' v' : Nat) (j y : Nat) : (m.setObj idx' sub' v').ctx j y = m.ctx j y := rfl
@[simp] theorem M.lq_setObj (idx' sub' v' : Nat) (j : Nat) : (m.setObj idx' sub' v').lq j = m.lq j := rfl
@[simp] theorem M.bank_setObj (idx' sub' v' : Nat) (j : Nat) : (m.setObj idx' sub' v').bank j = m.bank j := rfl
@[simp] theorem M.link_setObj (idx' sub' v' : Nat) (j : Nat) : (m.setObj idx' sub' v').link j = m.link j := rfl
@[simp] theorem M.byte_setObj (idx' sub' v' : Nat) (j : Nat) : (m.setObj idx' sub' v').byte j = m.byte j := rfl
@[simp] theorem M.marked_setObj (idx' sub' v' : Nat) (j : Nat) : (m.setObj idx' sub' v').marked j = m.marked j := rfl
@[simp] theorem M.live_setObj (idx' sub' v' : Nat)  : (m.setObj idx' sub' v').live = m.live := rfl

/-! ### `setObjFld` -/

@[simp] theorem M.core_setObjFld (idx' sub' hi' lo' v' : Nat) (j : Nat) : (m.setObjFld idx' sub' hi' lo' v').core j = m.core j := rfl
@[simp] theorem M.ctx_setObjFld (idx' sub' hi' lo' v' : Nat) (j y : Nat) : (m.setObjFld idx' sub' hi' lo' v').ctx j y = m.ctx j y := rfl
@[simp] theorem M.lq_setObjFld (idx' sub' hi' lo' v' : Nat) (j : Nat) : (m.setObjFld idx' sub' hi' lo' v').lq j = m.lq j := rfl
@[simp] theorem M.bank_setObjFld (idx' sub' hi' lo' v' : Nat) (j : Nat) : (m.setObjFld idx' sub' hi' lo' v').bank j = m.bank j := rfl
@[simp] theorem M.link_setObjFld (idx' sub' hi' lo' v' : Nat) (j : Nat) : (m.setObjFld idx' sub' hi' lo' v').link j = m.link j := rfl
@[simp] theorem M.byte_setObjFld (idx' sub' hi' lo' v' : Nat) (j : Nat) : (m.setObjFld idx' sub' hi' lo' v').byte j = m.byte j := rfl
@[simp] theorem M.marked_setObjFld (idx' sub' hi' lo' v' : Nat) (j : Nat) : (m.setObjFld idx' sub' hi' lo' v').marked j = m.marked j := rfl
@[simp] theorem M.live_setObjFld (idx' sub' hi' lo' v' : Nat)  : (m.setObjFld idx' sub' hi' lo' v').live = m.live := rfl

/-! ### `setObjBit` -/

@[simp] theorem M.core_setObjBit (idx' sub' i' : Nat) (b' : Bool) (j : Nat) : (m.setObjBit idx' sub' i' b').core j = m.core j := rfl
@[simp] theorem M.ctx_setObjBit (idx' sub' i' : Nat) (b' : Bool) (j y : Nat) : (m.setObjBit idx' sub' i' b').ctx j y = m.ctx j y := rfl
@[simp] theorem M.lq_setObjBit (idx' sub' i' : Nat) (b' : Bool) (j : Nat) : (m.setObjBit idx' sub' i' b').lq j = m.lq j := rfl
@[simp] theorem M.bank_setObjBit (idx' sub' i' : Nat) (b' : Bool) (j : Nat) : (m.setObjBit idx' sub' i' b').bank j = m.bank j := rfl
@[simp] theorem M.link_setObjBit (idx' sub' i' : Nat) (b' : Bool) (j : Nat) : (m.setObjBit idx' sub' i' b').link j = m.link j := rfl
@[simp] theorem M.byte_setObjBit (idx' sub' i' : Nat) (b' : Bool) (j : Nat) : (m.setObjBit idx' sub' i' b').byte j = m.byte j := rfl
@[simp] theorem M.marked_setObjBit (idx' sub' i' : Nat) (b' : Bool) (j : Nat) : (m.setObjBit idx' sub' i' b').marked j = m.marked j := rfl
@[simp] theorem M.live_setObjBit (idx' sub' i' : Nat) (b' : Bool)  : (m.setObjBit idx' sub' i' b').live = m.live := rfl

/-! ### `satObj` -/

@[simp] theorem M.core_satObj (idx' sub' hi' lo' n' : Nat) (j : Nat) : (m.satObj idx' sub' hi' lo' n').core j = m.core j := rfl
@[simp] theorem M.ctx_satObj (idx' sub' hi' lo' n' : Nat) (j y : Nat) : (m.satObj idx' sub' hi' lo' n').ctx j y = m.ctx j y := rfl
@[simp] theorem M.lq_satObj (idx' sub' hi' lo' n' : Nat) (j : Nat) : (m.satObj idx' sub' hi' lo' n').lq j = m.lq j := rfl
@[simp] theorem M.bank_satObj (idx' sub' hi' lo' n' : Nat) (j : Nat) : (m.satObj idx' sub' hi' lo' n').bank j = m.bank j := rfl
@[simp] theorem M.link_satObj (idx' sub' hi' lo' n' : Nat) (j : Nat) : (m.satObj idx' sub' hi' lo' n').link j = m.link j := rfl
@[simp] theorem M.byte_satObj (idx' sub' hi' lo' n' : Nat) (j : Nat) : (m.satObj idx' sub' hi' lo' n').byte j = m.byte j := rfl
@[simp] theorem M.marked_satObj (idx' sub' hi' lo' n' : Nat) (j : Nat) : (m.satObj idx' sub' hi' lo' n').marked j = m.marked j := rfl
@[simp] theorem M.live_satObj (idx' sub' hi' lo' n' : Nat)  : (m.satObj idx' sub' hi' lo' n').live = m.live := rfl

/-! ### `wrapObj` -/

@[simp] theorem M.core_wrapObj (idx' sub' hi' lo' n' : Nat) (j : Nat) : (m.wrapObj idx' sub' hi' lo' n').core j = m.core j := rfl
@[simp] theorem M.ctx_wrapObj (idx' sub' hi' lo' n' : Nat) (j y : Nat) : (m.wrapObj idx' sub' hi' lo' n').ctx j y = m.ctx j y := rfl
@[simp] theorem M.lq_wrapObj (idx' sub' hi' lo' n' : Nat) (j : Nat) : (m.wrapObj idx' sub' hi' lo' n').lq j = m.lq j := rfl
@[simp] theorem M.bank_wrapObj (idx' sub' hi' lo' n' : Nat) (j : Nat) : (m.wrapObj idx' sub' hi' lo' n').bank j = m.bank j := rfl
@[simp] theorem M.link_wrapObj (idx' sub' hi' lo' n' : Nat) (j : Nat) : (m.wrapObj idx' sub' hi' lo' n').link j = m.link j := rfl
@[simp] theorem M.byte_wrapObj (idx' sub' hi' lo' n' : Nat) (j : Nat) : (m.wrapObj idx' sub' hi' lo' n').byte j = m.byte j := rfl
@[simp] theorem M.marked_wrapObj (idx' sub' hi' lo' n' : Nat) (j : Nat) : (m.wrapObj idx' sub' hi' lo' n').marked j = m.marked j := rfl
@[simp] theorem M.live_wrapObj (idx' sub' hi' lo' n' : Nat)  : (m.wrapObj idx' sub' hi' lo' n').live = m.live := rfl

/-! ### `setCore` -/

@[simp] theorem M.obj_setCore (i' : Nat) (c' : Core) (i s : Nat) : (m.setCore i' c').obj i s = m.obj i s := rfl
@[simp] theorem M.objFld_setCore (i' : Nat) (c' : Core) (i s a b : Nat) : (m.setCore i' c').objFld i s a b = m.objFld i s a b := rfl
@[simp] theorem M.objBit_setCore (i' : Nat) (c' : Core) (i s a : Nat) : (m.setCore i' c').objBit i s a = m.objBit i s a := rfl
@[simp] theorem M.lq_setCore (i' : Nat) (c' : Core) (j : Nat) : (m.setCore i' c').lq j = m.lq j := rfl
@[simp] theorem M.bank_setCore (i' : Nat) (c' : Core) (j : Nat) : (m.setCore i' c').bank j = m.bank j := rfl
@[simp] theorem M.link_setCore (i' : Nat) (c' : Core) (j : Nat) : (m.setCore i' c').link j = m.link j := rfl
@[simp] theorem M.byte_setCore (i' : Nat) (c' : Core) (j : Nat) : (m.setCore i' c').byte j = m.byte j := rfl
@[simp] theorem M.marked_setCore (i' : Nat) (c' : Core) (j : Nat) : (m.setCore i' c').marked j = m.marked j := rfl
@[simp] theorem M.live_setCore (i' : Nat) (c' : Core)  : (m.setCore i' c').live = m.live := rfl

/-! ### `modCore` -/

@[simp] theorem M.obj_modCore (i' : Nat) (f' : Core → Core) (i s : Nat) : (m.modCore i' f').obj i s = m.obj i s := rfl
@[simp] theorem M.objFld_modCore (i' : Nat) (f' : Core → Core) (i s a b : Nat) : (m.modCore i' f').objFld i s a b = m.objFld i s a b := rfl
@[simp] theorem M.objBit_modCore (i' : Nat) (f' : Core → Core) (i s a : Nat) : (m.modCore i' f').objBit i s a = m.objBit i s a := rfl
@[simp] theorem M.lq_modCore (i' : Nat) (f' : Core → Core) (j : Nat) : (m.modCore i' f').lq j = m.lq j := rfl
@[simp] theorem M.bank_modCore (i' : Nat) (f' : Core → Core) (j : Nat) : (m.modCore i' f').bank j = m.bank j := rfl
@[simp] theorem M.link_modCore (i' : Nat) (f' : Core → Core) (j : Nat) : (m.modCore i' f').link j = m.link j := rfl
@[simp] theorem M.byte_modCore (i' : Nat) (f' : Core → Core) (j : Nat) : (m.modCore i' f').byte j = m.byte j := rfl
@[simp] theorem M.marked_modCore (i' : Nat) (f' : Core → Core) (j : Nat) : (m.modCore i' f').marked j = m.marked j := rfl
@[simp] theorem M.live_modCore (i' : Nat) (f' : Core → Core)  : (m.modCore i' f').live = m.live := rfl

/-! ### `modCtx` -/

@[simp] theorem M.obj_modCtx (i' x' : Nat) (f' : CtxRegs → CtxRegs) (i s : Nat) : (m.modCtx i' x' f').obj i s = m.obj i s := rfl
@[simp] theorem M.objFld_modCtx (i' x' : Nat) (f' : CtxRegs → CtxRegs) (i s a b : Nat) : (m.modCtx i' x' f').objFld i s a b = m.objFld i s a b := rfl
@[simp] theorem M.objBit_modCtx (i' x' : Nat) (f' : CtxRegs → CtxRegs) (i s a : Nat) : (m.modCtx i' x' f').objBit i s a = m.objBit i s a := rfl
@[simp] theorem M.lq_modCtx (i' x' : Nat) (f' : CtxRegs → CtxRegs) (j : Nat) : (m.modCtx i' x' f').lq j = m.lq j := rfl
@[simp] theorem M.bank_modCtx (i' x' : Nat) (f' : CtxRegs → CtxRegs) (j : Nat) : (m.modCtx i' x' f').bank j = m.bank j := rfl
@[simp] theorem M.link_modCtx (i' x' : Nat) (f' : CtxRegs → CtxRegs) (j : Nat) : (m.modCtx i' x' f').link j = m.link j := rfl
@[simp] theorem M.byte_modCtx (i' x' : Nat) (f' : CtxRegs → CtxRegs) (j : Nat) : (m.modCtx i' x' f').byte j = m.byte j := rfl
@[simp] theorem M.marked_modCtx (i' x' : Nat) (f' : CtxRegs → CtxRegs) (j : Nat) : (m.modCtx i' x' f').marked j = m.marked j := rfl
@[simp] theorem M.live_modCtx (i' x' : Nat) (f' : CtxRegs → CtxRegs)  : (m.modCtx i' x' f').live = m.live := rfl

/-! ### `modLq` -/

@[simp] theorem M.obj_modLq (n' : Nat) (f' : Lq → Lq) (i s : Nat) : (m.modLq n' f').obj i s = m.obj i s := rfl
@[simp] theorem M.objFld_modLq (n' : Nat) (f' : Lq → Lq) (i s a b : Nat) : (m.modLq n' f').objFld i s a b = m.objFld i s a b := rfl
@[simp] theorem M.objBit_modLq (n' : Nat) (f' : Lq → Lq) (i s a : Nat) : (m.modLq n' f').objBit i s a = m.objBit i s a := rfl
@[simp] theorem M.core_modLq (n' : Nat) (f' : Lq → Lq) (j : Nat) : (m.modLq n' f').core j = m.core j := rfl
@[simp] theorem M.ctx_modLq (n' : Nat) (f' : Lq → Lq) (j y : Nat) : (m.modLq n' f').ctx j y = m.ctx j y := rfl
@[simp] theorem M.bank_modLq (n' : Nat) (f' : Lq → Lq) (j : Nat) : (m.modLq n' f').bank j = m.bank j := rfl
@[simp] theorem M.link_modLq (n' : Nat) (f' : Lq → Lq) (j : Nat) : (m.modLq n' f').link j = m.link j := rfl
@[simp] theorem M.byte_modLq (n' : Nat) (f' : Lq → Lq) (j : Nat) : (m.modLq n' f').byte j = m.byte j := rfl
@[simp] theorem M.marked_modLq (n' : Nat) (f' : Lq → Lq) (j : Nat) : (m.modLq n' f').marked j = m.marked j := rfl
@[simp] theorem M.live_modLq (n' : Nat) (f' : Lq → Lq)  : (m.modLq n' f').live = m.live := rfl

/-! ### `modBank` -/

@[simp] theorem M.obj_modBank (b' : Nat) (f' : Bank → Bank) (i s : Nat) : (m.modBank b' f').obj i s = m.obj i s := rfl
@[simp] theorem M.objFld_modBank (b' : Nat) (f' : Bank → Bank) (i s a b : Nat) : (m.modBank b' f').objFld i s a b = m.objFld i s a b := rfl
@[simp] theorem M.objBit_modBank (b' : Nat) (f' : Bank → Bank) (i s a : Nat) : (m.modBank b' f').objBit i s a = m.objBit i s a := rfl
@[simp] theorem M.core_modBank (b' : Nat) (f' : Bank → Bank) (j : Nat) : (m.modBank b' f').core j = m.core j := rfl
@[simp] theorem M.ctx_modBank (b' : Nat) (f' : Bank → Bank) (j y : Nat) : (m.modBank b' f').ctx j y = m.ctx j y := rfl
@[simp] theorem M.lq_modBank (b' : Nat) (f' : Bank → Bank) (j : Nat) : (m.modBank b' f').lq j = m.lq j := rfl
@[simp] theorem M.link_modBank (b' : Nat) (f' : Bank → Bank) (j : Nat) : (m.modBank b' f').link j = m.link j := rfl
@[simp] theorem M.byte_modBank (b' : Nat) (f' : Bank → Bank) (j : Nat) : (m.modBank b' f').byte j = m.byte j := rfl
@[simp] theorem M.marked_modBank (b' : Nat) (f' : Bank → Bank) (j : Nat) : (m.modBank b' f').marked j = m.marked j := rfl
@[simp] theorem M.live_modBank (b' : Nat) (f' : Bank → Bank)  : (m.modBank b' f').live = m.live := rfl

/-! ### `modLink` -/

@[simp] theorem M.obj_modLink (l' : Nat) (f' : Link → Link) (i s : Nat) : (m.modLink l' f').obj i s = m.obj i s := rfl
@[simp] theorem M.objFld_modLink (l' : Nat) (f' : Link → Link) (i s a b : Nat) : (m.modLink l' f').objFld i s a b = m.objFld i s a b := rfl
@[simp] theorem M.objBit_modLink (l' : Nat) (f' : Link → Link) (i s a : Nat) : (m.modLink l' f').objBit i s a = m.objBit i s a := rfl
@[simp] theorem M.core_modLink (l' : Nat) (f' : Link → Link) (j : Nat) : (m.modLink l' f').core j = m.core j := rfl
@[simp] theorem M.ctx_modLink (l' : Nat) (f' : Link → Link) (j y : Nat) : (m.modLink l' f').ctx j y = m.ctx j y := rfl
@[simp] theorem M.lq_modLink (l' : Nat) (f' : Link → Link) (j : Nat) : (m.modLink l' f').lq j = m.lq j := rfl
@[simp] theorem M.bank_modLink (l' : Nat) (f' : Link → Link) (j : Nat) : (m.modLink l' f').bank j = m.bank j := rfl
@[simp] theorem M.byte_modLink (l' : Nat) (f' : Link → Link) (j : Nat) : (m.modLink l' f').byte j = m.byte j := rfl
@[simp] theorem M.marked_modLink (l' : Nat) (f' : Link → Link) (j : Nat) : (m.modLink l' f').marked j = m.marked j := rfl
@[simp] theorem M.live_modLink (l' : Nat) (f' : Link → Link)  : (m.modLink l' f').live = m.live := rfl

/-! ### `modFab` -/

@[simp] theorem M.obj_modFab (f' : Fab → Fab) (i s : Nat) : (m.modFab f').obj i s = m.obj i s := rfl
@[simp] theorem M.objFld_modFab (f' : Fab → Fab) (i s a b : Nat) : (m.modFab f').objFld i s a b = m.objFld i s a b := rfl
@[simp] theorem M.objBit_modFab (f' : Fab → Fab) (i s a : Nat) : (m.modFab f').objBit i s a = m.objBit i s a := rfl
@[simp] theorem M.core_modFab (f' : Fab → Fab) (j : Nat) : (m.modFab f').core j = m.core j := rfl
@[simp] theorem M.ctx_modFab (f' : Fab → Fab) (j y : Nat) : (m.modFab f').ctx j y = m.ctx j y := rfl
@[simp] theorem M.lq_modFab (f' : Fab → Fab) (j : Nat) : (m.modFab f').lq j = m.lq j := rfl
@[simp] theorem M.bank_modFab (f' : Fab → Fab) (j : Nat) : (m.modFab f').bank j = m.bank j := rfl
@[simp] theorem M.link_modFab (f' : Fab → Fab) (j : Nat) : (m.modFab f').link j = m.link j := rfl
@[simp] theorem M.byte_modFab (f' : Fab → Fab) (j : Nat) : (m.modFab f').byte j = m.byte j := rfl
@[simp] theorem M.marked_modFab (f' : Fab → Fab) (j : Nat) : (m.modFab f').marked j = m.marked j := rfl
@[simp] theorem M.live_modFab (f' : Fab → Fab)  : (m.modFab f').live = m.live := rfl

/-! ### `modMirror` -/

@[simp] theorem M.obj_modMirror (f' : Mirror → Mirror) (i s : Nat) : (m.modMirror f').obj i s = m.obj i s := rfl
@[simp] theorem M.objFld_modMirror (f' : Mirror → Mirror) (i s a b : Nat) : (m.modMirror f').objFld i s a b = m.objFld i s a b := rfl
@[simp] theorem M.objBit_modMirror (f' : Mirror → Mirror) (i s a : Nat) : (m.modMirror f').objBit i s a = m.objBit i s a := rfl
@[simp] theorem M.core_modMirror (f' : Mirror → Mirror) (j : Nat) : (m.modMirror f').core j = m.core j := rfl
@[simp] theorem M.ctx_modMirror (f' : Mirror → Mirror) (j y : Nat) : (m.modMirror f').ctx j y = m.ctx j y := rfl
@[simp] theorem M.lq_modMirror (f' : Mirror → Mirror) (j : Nat) : (m.modMirror f').lq j = m.lq j := rfl
@[simp] theorem M.bank_modMirror (f' : Mirror → Mirror) (j : Nat) : (m.modMirror f').bank j = m.bank j := rfl
@[simp] theorem M.link_modMirror (f' : Mirror → Mirror) (j : Nat) : (m.modMirror f').link j = m.link j := rfl
@[simp] theorem M.byte_modMirror (f' : Mirror → Mirror) (j : Nat) : (m.modMirror f').byte j = m.byte j := rfl
@[simp] theorem M.marked_modMirror (f' : Mirror → Mirror) (j : Nat) : (m.modMirror f').marked j = m.marked j := rfl
@[simp] theorem M.live_modMirror (f' : Mirror → Mirror)  : (m.modMirror f').live = m.live := rfl

/-! ### `modHost` -/

@[simp] theorem M.obj_modHost (f' : HostPort → HostPort) (i s : Nat) : (m.modHost f').obj i s = m.obj i s := rfl
@[simp] theorem M.objFld_modHost (f' : HostPort → HostPort) (i s a b : Nat) : (m.modHost f').objFld i s a b = m.objFld i s a b := rfl
@[simp] theorem M.objBit_modHost (f' : HostPort → HostPort) (i s a : Nat) : (m.modHost f').objBit i s a = m.objBit i s a := rfl
@[simp] theorem M.core_modHost (f' : HostPort → HostPort) (j : Nat) : (m.modHost f').core j = m.core j := rfl
@[simp] theorem M.ctx_modHost (f' : HostPort → HostPort) (j y : Nat) : (m.modHost f').ctx j y = m.ctx j y := rfl
@[simp] theorem M.lq_modHost (f' : HostPort → HostPort) (j : Nat) : (m.modHost f').lq j = m.lq j := rfl
@[simp] theorem M.bank_modHost (f' : HostPort → HostPort) (j : Nat) : (m.modHost f').bank j = m.bank j := rfl
@[simp] theorem M.link_modHost (f' : HostPort → HostPort) (j : Nat) : (m.modHost f').link j = m.link j := rfl
@[simp] theorem M.byte_modHost (f' : HostPort → HostPort) (j : Nat) : (m.modHost f').byte j = m.byte j := rfl
@[simp] theorem M.marked_modHost (f' : HostPort → HostPort) (j : Nat) : (m.modHost f').marked j = m.marked j := rfl
@[simp] theorem M.live_modHost (f' : HostPort → HostPort)  : (m.modHost f').live = m.live := rfl

/-! ### `modLed` -/

@[simp] theorem M.obj_modLed (f' : Led → Led) (i s : Nat) : (m.modLed f').obj i s = m.obj i s := rfl
@[simp] theorem M.objFld_modLed (f' : Led → Led) (i s a b : Nat) : (m.modLed f').objFld i s a b = m.objFld i s a b := rfl
@[simp] theorem M.objBit_modLed (f' : Led → Led) (i s a : Nat) : (m.modLed f').objBit i s a = m.objBit i s a := rfl
@[simp] theorem M.core_modLed (f' : Led → Led) (j : Nat) : (m.modLed f').core j = m.core j := rfl
@[simp] theorem M.ctx_modLed (f' : Led → Led) (j y : Nat) : (m.modLed f').ctx j y = m.ctx j y := rfl
@[simp] theorem M.lq_modLed (f' : Led → Led) (j : Nat) : (m.modLed f').lq j = m.lq j := rfl
@[simp] theorem M.bank_modLed (f' : Led → Led) (j : Nat) : (m.modLed f').bank j = m.bank j := rfl
@[simp] theorem M.link_modLed (f' : Led → Led) (j : Nat) : (m.modLed f').link j = m.link j := rfl
@[simp] theorem M.byte_modLed (f' : Led → Led) (j : Nat) : (m.modLed f').byte j = m.byte j := rfl
@[simp] theorem M.marked_modLed (f' : Led → Led) (j : Nat) : (m.modLed f').marked j = m.marked j := rfl
@[simp] theorem M.live_modLed (f' : Led → Led)  : (m.modLed f').live = m.live := rfl

/-! ### `modMgmt` -/

@[simp] theorem M.obj_modMgmt (f' : Mgmt → Mgmt) (i s : Nat) : (m.modMgmt f').obj i s = m.obj i s := rfl
@[simp] theorem M.objFld_modMgmt (f' : Mgmt → Mgmt) (i s a b : Nat) : (m.modMgmt f').objFld i s a b = m.objFld i s a b := rfl
@[simp] theorem M.objBit_modMgmt (f' : Mgmt → Mgmt) (i s a : Nat) : (m.modMgmt f').objBit i s a = m.objBit i s a := rfl
@[simp] theorem M.core_modMgmt (f' : Mgmt → Mgmt) (j : Nat) : (m.modMgmt f').core j = m.core j := rfl
@[simp] theorem M.ctx_modMgmt (f' : Mgmt → Mgmt) (j y : Nat) : (m.modMgmt f').ctx j y = m.ctx j y := rfl
@[simp] theorem M.lq_modMgmt (f' : Mgmt → Mgmt) (j : Nat) : (m.modMgmt f').lq j = m.lq j := rfl
@[simp] theorem M.bank_modMgmt (f' : Mgmt → Mgmt) (j : Nat) : (m.modMgmt f').bank j = m.bank j := rfl
@[simp] theorem M.link_modMgmt (f' : Mgmt → Mgmt) (j : Nat) : (m.modMgmt f').link j = m.link j := rfl
@[simp] theorem M.byte_modMgmt (f' : Mgmt → Mgmt) (j : Nat) : (m.modMgmt f').byte j = m.byte j := rfl
@[simp] theorem M.marked_modMgmt (f' : Mgmt → Mgmt) (j : Nat) : (m.modMgmt f').marked j = m.marked j := rfl
@[simp] theorem M.live_modMgmt (f' : Mgmt → Mgmt)  : (m.modMgmt f').live = m.live := rfl

/-! ### `modPower` -/

@[simp] theorem M.obj_modPower (f' : Power → Power) (i s : Nat) : (m.modPower f').obj i s = m.obj i s := rfl
@[simp] theorem M.objFld_modPower (f' : Power → Power) (i s a b : Nat) : (m.modPower f').objFld i s a b = m.objFld i s a b := rfl
@[simp] theorem M.objBit_modPower (f' : Power → Power) (i s a : Nat) : (m.modPower f').objBit i s a = m.objBit i s a := rfl
@[simp] theorem M.core_modPower (f' : Power → Power) (j : Nat) : (m.modPower f').core j = m.core j := rfl
@[simp] theorem M.ctx_modPower (f' : Power → Power) (j y : Nat) : (m.modPower f').ctx j y = m.ctx j y := rfl
@[simp] theorem M.lq_modPower (f' : Power → Power) (j : Nat) : (m.modPower f').lq j = m.lq j := rfl
@[simp] theorem M.bank_modPower (f' : Power → Power) (j : Nat) : (m.modPower f').bank j = m.bank j := rfl
@[simp] theorem M.link_modPower (f' : Power → Power) (j : Nat) : (m.modPower f').link j = m.link j := rfl
@[simp] theorem M.byte_modPower (f' : Power → Power) (j : Nat) : (m.modPower f').byte j = m.byte j := rfl
@[simp] theorem M.marked_modPower (f' : Power → Power) (j : Nat) : (m.modPower f').marked j = m.marked j := rfl
@[simp] theorem M.live_modPower (f' : Power → Power)  : (m.modPower f').live = m.live := rfl

/-! ### `modHeat` -/

@[simp] theorem M.obj_modHeat (f' : Heat → Heat) (i s : Nat) : (m.modHeat f').obj i s = m.obj i s := rfl
@[simp] theorem M.objFld_modHeat (f' : Heat → Heat) (i s a b : Nat) : (m.modHeat f').objFld i s a b = m.objFld i s a b := rfl
@[simp] theorem M.objBit_modHeat (f' : Heat → Heat) (i s a : Nat) : (m.modHeat f').objBit i s a = m.objBit i s a := rfl
@[simp] theorem M.core_modHeat (f' : Heat → Heat) (j : Nat) : (m.modHeat f').core j = m.core j := rfl
@[simp] theorem M.ctx_modHeat (f' : Heat → Heat) (j y : Nat) : (m.modHeat f').ctx j y = m.ctx j y := rfl
@[simp] theorem M.lq_modHeat (f' : Heat → Heat) (j : Nat) : (m.modHeat f').lq j = m.lq j := rfl
@[simp] theorem M.bank_modHeat (f' : Heat → Heat) (j : Nat) : (m.modHeat f').bank j = m.bank j := rfl
@[simp] theorem M.link_modHeat (f' : Heat → Heat) (j : Nat) : (m.modHeat f').link j = m.link j := rfl
@[simp] theorem M.byte_modHeat (f' : Heat → Heat) (j : Nat) : (m.modHeat f').byte j = m.byte j := rfl
@[simp] theorem M.marked_modHeat (f' : Heat → Heat) (j : Nat) : (m.modHeat f').marked j = m.marked j := rfl
@[simp] theorem M.live_modHeat (f' : Heat → Heat)  : (m.modHeat f').live = m.live := rfl

/-! ### `modClocks` -/

@[simp] theorem M.obj_modClocks (f' : Clocks → Clocks) (i s : Nat) : (m.modClocks f').obj i s = m.obj i s := rfl
@[simp] theorem M.objFld_modClocks (f' : Clocks → Clocks) (i s a b : Nat) : (m.modClocks f').objFld i s a b = m.objFld i s a b := rfl
@[simp] theorem M.objBit_modClocks (f' : Clocks → Clocks) (i s a : Nat) : (m.modClocks f').objBit i s a = m.objBit i s a := rfl
@[simp] theorem M.core_modClocks (f' : Clocks → Clocks) (j : Nat) : (m.modClocks f').core j = m.core j := rfl
@[simp] theorem M.ctx_modClocks (f' : Clocks → Clocks) (j y : Nat) : (m.modClocks f').ctx j y = m.ctx j y := rfl
@[simp] theorem M.lq_modClocks (f' : Clocks → Clocks) (j : Nat) : (m.modClocks f').lq j = m.lq j := rfl
@[simp] theorem M.bank_modClocks (f' : Clocks → Clocks) (j : Nat) : (m.modClocks f').bank j = m.bank j := rfl
@[simp] theorem M.link_modClocks (f' : Clocks → Clocks) (j : Nat) : (m.modClocks f').link j = m.link j := rfl
@[simp] theorem M.byte_modClocks (f' : Clocks → Clocks) (j : Nat) : (m.modClocks f').byte j = m.byte j := rfl
@[simp] theorem M.marked_modClocks (f' : Clocks → Clocks) (j : Nat) : (m.modClocks f').marked j = m.marked j := rfl
@[simp] theorem M.live_modClocks (f' : Clocks → Clocks)  : (m.modClocks f').live = m.live := rfl

/-! ### `modFaults` -/

@[simp] theorem M.obj_modFaults (f' : Faults → Faults) (i s : Nat) : (m.modFaults f').obj i s = m.obj i s := rfl
@[simp] theorem M.objFld_modFaults (f' : Faults → Faults) (i s a b : Nat) : (m.modFaults f').objFld i s a b = m.objFld i s a b := rfl
@[simp] theorem M.objBit_modFaults (f' : Faults → Faults) (i s a : Nat) : (m.modFaults f').objBit i s a = m.objBit i s a := rfl
@[simp] theorem M.core_modFaults (f' : Faults → Faults) (j : Nat) : (m.modFaults f').core j = m.core j := rfl
@[simp] theorem M.ctx_modFaults (f' : Faults → Faults) (j y : Nat) : (m.modFaults f').ctx j y = m.ctx j y := rfl
@[simp] theorem M.lq_modFaults (f' : Faults → Faults) (j : Nat) : (m.modFaults f').lq j = m.lq j := rfl
@[simp] theorem M.bank_modFaults (f' : Faults → Faults) (j : Nat) : (m.modFaults f').bank j = m.bank j := rfl
@[simp] theorem M.link_modFaults (f' : Faults → Faults) (j : Nat) : (m.modFaults f').link j = m.link j := rfl
@[simp] theorem M.byte_modFaults (f' : Faults → Faults) (j : Nat) : (m.modFaults f').byte j = m.byte j := rfl
@[simp] theorem M.marked_modFaults (f' : Faults → Faults) (j : Nat) : (m.modFaults f').marked j = m.marked j := rfl
@[simp] theorem M.live_modFaults (f' : Faults → Faults)  : (m.modFaults f').live = m.live := rfl

/-! ### `modSec` -/

@[simp] theorem M.obj_modSec (f' : Security → Security) (i s : Nat) : (m.modSec f').obj i s = m.obj i s := rfl
@[simp] theorem M.objFld_modSec (f' : Security → Security) (i s a b : Nat) : (m.modSec f').objFld i s a b = m.objFld i s a b := rfl
@[simp] theorem M.objBit_modSec (f' : Security → Security) (i s a : Nat) : (m.modSec f').objBit i s a = m.objBit i s a := rfl
@[simp] theorem M.core_modSec (f' : Security → Security) (j : Nat) : (m.modSec f').core j = m.core j := rfl
@[simp] theorem M.ctx_modSec (f' : Security → Security) (j y : Nat) : (m.modSec f').ctx j y = m.ctx j y := rfl
@[simp] theorem M.lq_modSec (f' : Security → Security) (j : Nat) : (m.modSec f').lq j = m.lq j := rfl
@[simp] theorem M.bank_modSec (f' : Security → Security) (j : Nat) : (m.modSec f').bank j = m.bank j := rfl
@[simp] theorem M.link_modSec (f' : Security → Security) (j : Nat) : (m.modSec f').link j = m.link j := rfl
@[simp] theorem M.byte_modSec (f' : Security → Security) (j : Nat) : (m.modSec f').byte j = m.byte j := rfl
@[simp] theorem M.marked_modSec (f' : Security → Security) (j : Nat) : (m.modSec f').marked j = m.marked j := rfl
@[simp] theorem M.live_modSec (f' : Security → Security)  : (m.modSec f').live = m.live := rfl

/-! ### `modBuckets` -/

@[simp] theorem M.obj_modBuckets (f' : Tab Nat → Tab Nat) (i s : Nat) : (m.modBuckets f').obj i s = m.obj i s := rfl
@[simp] theorem M.objFld_modBuckets (f' : Tab Nat → Tab Nat) (i s a b : Nat) : (m.modBuckets f').objFld i s a b = m.objFld i s a b := rfl
@[simp] theorem M.objBit_modBuckets (f' : Tab Nat → Tab Nat) (i s a : Nat) : (m.modBuckets f').objBit i s a = m.objBit i s a := rfl
@[simp] theorem M.core_modBuckets (f' : Tab Nat → Tab Nat) (j : Nat) : (m.modBuckets f').core j = m.core j := rfl
@[simp] theorem M.ctx_modBuckets (f' : Tab Nat → Tab Nat) (j y : Nat) : (m.modBuckets f').ctx j y = m.ctx j y := rfl
@[simp] theorem M.lq_modBuckets (f' : Tab Nat → Tab Nat) (j : Nat) : (m.modBuckets f').lq j = m.lq j := rfl
@[simp] theorem M.bank_modBuckets (f' : Tab Nat → Tab Nat) (j : Nat) : (m.modBuckets f').bank j = m.bank j := rfl
@[simp] theorem M.link_modBuckets (f' : Tab Nat → Tab Nat) (j : Nat) : (m.modBuckets f').link j = m.link j := rfl
@[simp] theorem M.byte_modBuckets (f' : Tab Nat → Tab Nat) (j : Nat) : (m.modBuckets f').byte j = m.byte j := rfl
@[simp] theorem M.marked_modBuckets (f' : Tab Nat → Tab Nat) (j : Nat) : (m.modBuckets f').marked j = m.marked j := rfl
@[simp] theorem M.live_modBuckets (f' : Tab Nat → Tab Nat)  : (m.modBuckets f').live = m.live := rfl

/-! ### `send` -/

@[simp] theorem M.obj_send (x' : Sent) (i s : Nat) : (m.send x').obj i s = m.obj i s := rfl
@[simp] theorem M.objFld_send (x' : Sent) (i s a b : Nat) : (m.send x').objFld i s a b = m.objFld i s a b := rfl
@[simp] theorem M.objBit_send (x' : Sent) (i s a : Nat) : (m.send x').objBit i s a = m.objBit i s a := rfl
@[simp] theorem M.core_send (x' : Sent) (j : Nat) : (m.send x').core j = m.core j := rfl
@[simp] theorem M.ctx_send (x' : Sent) (j y : Nat) : (m.send x').ctx j y = m.ctx j y := rfl
@[simp] theorem M.lq_send (x' : Sent) (j : Nat) : (m.send x').lq j = m.lq j := rfl
@[simp] theorem M.bank_send (x' : Sent) (j : Nat) : (m.send x').bank j = m.bank j := rfl
@[simp] theorem M.link_send (x' : Sent) (j : Nat) : (m.send x').link j = m.link j := rfl
@[simp] theorem M.byte_send (x' : Sent) (j : Nat) : (m.send x').byte j = m.byte j := rfl
@[simp] theorem M.marked_send (x' : Sent) (j : Nat) : (m.send x').marked j = m.marked j := rfl
@[simp] theorem M.live_send (x' : Sent)  : (m.send x').live = m.live := rfl

/-! ### `op` -/

@[simp] theorem M.obj_op (o' : MemOp) (i s : Nat) : (m.op o').obj i s = m.obj i s := rfl
@[simp] theorem M.objFld_op (o' : MemOp) (i s a b : Nat) : (m.op o').objFld i s a b = m.objFld i s a b := rfl
@[simp] theorem M.objBit_op (o' : MemOp) (i s a : Nat) : (m.op o').objBit i s a = m.objBit i s a := rfl
@[simp] theorem M.core_op (o' : MemOp) (j : Nat) : (m.op o').core j = m.core j := rfl
@[simp] theorem M.ctx_op (o' : MemOp) (j y : Nat) : (m.op o').ctx j y = m.ctx j y := rfl
@[simp] theorem M.lq_op (o' : MemOp) (j : Nat) : (m.op o').lq j = m.lq j := rfl
@[simp] theorem M.bank_op (o' : MemOp) (j : Nat) : (m.op o').bank j = m.bank j := rfl
@[simp] theorem M.link_op (o' : MemOp) (j : Nat) : (m.op o').link j = m.link j := rfl
@[simp] theorem M.live_op (o' : MemOp)  : (m.op o').live = m.live := rfl

/-! ### `setMark` -/

@[simp] theorem M.obj_setMark (a' : Nat) (on' : Bool) (i s : Nat) : (m.setMark a' on').obj i s = m.obj i s := rfl
@[simp] theorem M.objFld_setMark (a' : Nat) (on' : Bool) (i s a b : Nat) : (m.setMark a' on').objFld i s a b = m.objFld i s a b := rfl
@[simp] theorem M.objBit_setMark (a' : Nat) (on' : Bool) (i s a : Nat) : (m.setMark a' on').objBit i s a = m.objBit i s a := rfl
@[simp] theorem M.core_setMark (a' : Nat) (on' : Bool) (j : Nat) : (m.setMark a' on').core j = m.core j := rfl
@[simp] theorem M.ctx_setMark (a' : Nat) (on' : Bool) (j y : Nat) : (m.setMark a' on').ctx j y = m.ctx j y := rfl
@[simp] theorem M.lq_setMark (a' : Nat) (on' : Bool) (j : Nat) : (m.setMark a' on').lq j = m.lq j := rfl
@[simp] theorem M.bank_setMark (a' : Nat) (on' : Bool) (j : Nat) : (m.setMark a' on').bank j = m.bank j := rfl
@[simp] theorem M.link_setMark (a' : Nat) (on' : Bool) (j : Nat) : (m.setMark a' on').link j = m.link j := rfl
@[simp] theorem M.live_setMark (a' : Nat) (on' : Bool)  : (m.setMark a' on').live = m.live := rfl

end Sys2Proof.Machine
end

