-- ==== Sys2Proof/Laws/Ops.lean ====
section
/-! SUPPORT. Laws of the shared operations: what a view reads after its own update, and for raising a vector, an entry of the
fault log, a bucket's event and a store everything they can do. -/

namespace Sys2Proof.Machine

variable (m : M)

/-! ## Objects -/

theorem M.obj_setObj (idx sub v i s : Nat) :
    (m.setObj idx sub v).obj i s = if objKey i s = objKey idx sub then v else m.obj i s := by
  unfold M.obj M.setObj
  by_cases h : objKey i s = objKey idx sub
  · simp [h]
  · simp [h, Tab.get_put_ne _ _ _ _ _ h]

@[simp] theorem M.obj_setObj_same (idx sub v : Nat) : (m.setObj idx sub v).obj idx sub = v := by
  simp [M.obj_setObj]

/-- Another object stands; every subindex is below 256. -/
theorem M.obj_setObj_ne (idx sub v i s : Nat) (hs : s < 256) (hs' : sub < 256) (h : (i, s) ≠ (idx, sub)) :
    (m.setObj idx sub v).obj i s = m.obj i s := by
  rw [M.obj_setObj, if_neg]
  unfold objKey
  intro e
  apply h
  have : i = idx := by omega
  have : s = sub := by omega
  simp_all

@[simp] theorem M.obj_setObjFld_same (idx sub hi lo v : Nat) :
    (m.setObjFld idx sub hi lo v).obj idx sub = setFld (m.obj idx sub) hi lo v := by
  simp [M.setObjFld]

@[simp] theorem M.obj_satObj_same (idx sub hi lo n : Nat) :
    (m.satObj idx sub hi lo n).obj idx sub = satFld (m.obj idx sub) hi lo n := by
  simp [M.satObj]

@[simp] theorem M.obj_wrapObj_same (idx sub hi lo n : Nat) :
    (m.wrapObj idx sub hi lo n).obj idx sub = wrapFld (m.obj idx sub) hi lo n := by
  simp [M.wrapObj]

theorem M.obj_setObjFld_ne (idx sub hi lo v i s : Nat) (hs : s < 256) (hs' : sub < 256) (h : (i, s) ≠ (idx, sub)) :
    (m.setObjFld idx sub hi lo v).obj i s = m.obj i s := m.obj_setObj_ne _ _ _ _ _ hs hs' h

theorem M.obj_setObjBit_ne (idx sub k : Nat) (b : Bool) (i s : Nat) (hs : s < 256) (hs' : sub < 256) (h : (i, s) ≠ (idx, sub)) :
    (m.setObjBit idx sub k b).obj i s = m.obj i s := m.obj_setObj_ne _ _ _ _ _ hs hs' h

theorem M.obj_satObj_ne (idx sub hi lo n i s : Nat) (hs : s < 256) (hs' : sub < 256) (h : (i, s) ≠ (idx, sub)) :
    (m.satObj idx sub hi lo n).obj i s = m.obj i s := m.obj_setObj_ne _ _ _ _ _ hs hs' h

theorem M.objBit_setObjBit (idx sub k : Nat) (b : Bool) (j : Nat) :
    (m.setObjBit idx sub k b).objBit idx sub j = if j = k then b else m.objBit idx sub j := by
  unfold M.setObjBit M.objBit
  rw [M.obj_setObjFld_same]
  exact testBit_setBit _ k b j

/-! ## Cores, layer quadrants, banks, links -/

theorem M.core_setCore (i : Nat) (c : Core) (j : Nat) : (m.setCore i c).core j = if j = i then c else m.core j := by
  unfold M.core M.setCore
  by_cases h : j = i
  · simp [h]
  · simp [h, Tab.get_put_ne _ _ _ _ _ h]

theorem M.core_modCore (i : Nat) (f : Core → Core) (j : Nat) :
    (m.modCore i f).core j = if j = i then f (m.core i) else m.core j := M.core_setCore m i _ j

@[simp] theorem M.core_modCore_same (i : Nat) (f : Core → Core) : (m.modCore i f).core i = f (m.core i) := by
  simp [M.core_modCore]

@[simp] theorem Core.ctx_setCtx_same (c : Core) (x : Nat) (r : CtxRegs) : (c.setCtx x r).ctx x = r := by
  simp [Core.ctx, Core.setCtx]

theorem Core.ctx_setCtx_ne (c : Core) (x : Nat) (r : CtxRegs) (y : Nat) (h : y ≠ x) : (c.setCtx x r).ctx y = c.ctx y := by
  simp [Core.ctx, Core.setCtx, Tab.get_put_ne _ _ _ _ _ h]

theorem M.core_modCtx (i x : Nat) (f : CtxRegs → CtxRegs) (j : Nat) :
    (m.modCtx i x f).core j = if j = i then (m.core i).setCtx x (f ((m.core i).ctx x)) else m.core j := M.core_modCore m i _ j

theorem M.lq_modLq (n : Nat) (f : Lq → Lq) (j : Nat) : (m.modLq n f).lq j = if j = n then f (m.lq n) else m.lq j := by
  unfold M.lq M.modLq
  by_cases h : j = n
  · simp [h, M.lq]
  · simp [h, Tab.get_put_ne _ _ _ _ _ h]

theorem M.bank_modBank (n : Nat) (f : Bank → Bank) (j : Nat) :
    (m.modBank n f).bank j = if j = n then f (m.bank n) else m.bank j := by
  unfold M.bank M.modBank
  by_cases h : j = n
  · simp [h, M.bank]
  · simp [h, Tab.get_put_ne _ _ _ _ _ h]

theorem M.link_modLink (n : Nat) (f : Link → Link) (j : Nat) :
    (m.modLink n f).link j = if j = n then f (m.link n) else m.link j := by
  unfold M.link M.modLink
  by_cases h : j = n
  · simp [h, M.link]
  · simp [h, Tab.get_put_ne _ _ _ _ _ h]

/-! ## What leaves only the host port, the outputs, the log and the counters -/

/-- The devices differ in no field but the free-value counter, the outputs, DEVSEQ, the objects, the host port, the fault log's
flags and the buckets; memory and fuses are the same. -/
structure M.Kept (a b : M) : Prop where
  fuse : b.fuse = a.fuse
  base : b.base = a.base
  ops : b.ops = a.ops
  dev : ∃ fresh sent devSeq objs host faults buckets,
    b.dev = { a.dev with
      fresh := fresh, sent := sent, devSeq := devSeq, objs := objs, host := host, faults := faults, buckets := buckets }

theorem M.Kept.refl : M.Kept m m := ⟨rfl, rfl, rfl, _, _, _, _, _, _, _, rfl⟩

theorem M.Kept.trans {a b c : M} (h : M.Kept a b) (k : M.Kept b c) : M.Kept a c := by
  obtain ⟨h1, h2, h3, f1, s1, d1, o1, p1, q1, b1, h4⟩ := h
  obtain ⟨k1, k2, k3, f2, s2, d2, o2, p2, q2, b2, k4⟩ := k
  exact ⟨k1.trans h1, k2.trans h2, k3.trans h3, f2, s2, d2, o2, p2, q2, b2, by rw [k4, h4]⟩

theorem M.Kept.cores {a b : M} (h : M.Kept a b) (i : Nat) : b.core i = a.core i := by
  obtain ⟨_, _, _, _, _, _, _, _, _, _, e⟩ := h
  unfold M.core
  rw [e]

theorem M.Kept.lqs {a b : M} (h : M.Kept a b) (i : Nat) : b.lq i = a.lq i := by
  obtain ⟨_, _, _, _, _, _, _, _, _, _, e⟩ := h
  unfold M.lq
  rw [e]

theorem M.Kept.links {a b : M} (h : M.Kept a b) (i : Nat) : b.link i = a.link i := by
  obtain ⟨_, _, _, _, _, _, _, _, _, _, e⟩ := h
  unfold M.link
  rw [e]

theorem M.Kept.bytes {a b : M} (h : M.Kept a b) (x : Nat) : b.byte x = a.byte x := by
  unfold M.byte
  rw [h.ops, h.base]

theorem M.Kept.marks {a b : M} (h : M.Kept a b) (x : Nat) : b.marked x = a.marked x := by
  unfold M.marked
  rw [h.ops, h.base]

theorem M.kept_send (x : Sent) : M.Kept m (m.send x) := ⟨rfl, rfl, rfl, _, _, _, _, _, _, _, rfl⟩
theorem M.kept_setObj (idx sub v : Nat) : M.Kept m (m.setObj idx sub v) := ⟨rfl, rfl, rfl, _, _, _, _, _, _, _, rfl⟩
theorem M.kept_setObjFld (idx sub hi lo v : Nat) : M.Kept m (m.setObjFld idx sub hi lo v) := m.kept_setObj _ _ _
theorem M.kept_setObjBit (idx sub k : Nat) (b : Bool) : M.Kept m (m.setObjBit idx sub k b) := m.kept_setObj _ _ _
theorem M.kept_satObj (idx sub hi lo n : Nat) : M.Kept m (m.satObj idx sub hi lo n) := m.kept_setObj _ _ _
theorem M.kept_modHost (f : HostPort → HostPort) : M.Kept m (m.modHost f) := ⟨rfl, rfl, rfl, _, _, _, _, _, _, _, rfl⟩
theorem M.kept_modFaults (f : Faults → Faults) : M.Kept m (m.modFaults f) := ⟨rfl, rfl, rfl, _, _, _, _, _, _, _, rfl⟩

/-- A vector leaves the host port's pending bits or an output, and nothing else. -/
theorem M.kept_raise (v : Nat) : M.Kept m (m.raise v) := by
  unfold M.raise
  split
  · exact m.kept_modHost _
  · exact m.kept_send _

@[simp] theorem M.obj_raise (v i s : Nat) : (m.raise v).obj i s = m.obj i s := by
  unfold M.raise
  split <;> simp

theorem M.kept_stamp : M.Kept m m.stamp.2.2 := ⟨rfl, rfl, rfl, _, _, _, _, _, _, _, rfl⟩

@[simp] theorem M.obj_stamp (i s : Nat) : m.stamp.2.2.obj i s = m.obj i s := rfl

/-- A fold of steps that keep what `Kept` names keeps it. -/
theorem M.kept_foldl {α : Type} (f : M → α → M) (hf : ∀ m a, M.Kept m (f m a)) (l : List α) : M.Kept m (l.foldl f m) := by
  induction l generalizing m with
  | nil => exact M.Kept.refl m
  | cons a r ih => exact M.Kept.trans (hf m a) (ih (f m a))

theorem M.obj_foldl {α : Type} (f : M → α → M) (i s : Nat) (hf : ∀ (m : M) a, (f m a).obj i s = m.obj i s) (l : List α) :
    (l.foldl f m).obj i s = m.obj i s := by
  induction l generalizing m with
  | nil => rfl
  | cons a r ih => exact (ih (f m a)).trans (hf m a)

theorem M.kept_sendEvents (sub seq : Nat) : M.Kept m (m.sendEvents sub seq) := by
  unfold M.sendEvents
  apply M.kept_foldl
  intro m k
  dsimp only
  split
  · exact M.Kept.refl m
  · exact m.kept_send _

@[simp] theorem M.obj_sendEvents (sub seq i s : Nat) : (m.sendEvents sub seq).obj i s = m.obj i s := by
  unfold M.sendEvents
  apply M.obj_foldl
  intro m k
  dsimp only
  split <;> simp

/-- An entry of the fault log leaves memory, cores, links and everything else but the log, its counters and the outputs. -/
theorem M.kept_logFault (code subject data reason clk : Nat) : M.Kept m (m.logFault code subject data reason clk) := by
  unfold M.logFault
  refine M.Kept.trans ?_ (M.kept_sendEvents _ _ _)
  refine M.Kept.trans ?_ (M.kept_raise _ _)
  refine M.Kept.trans ?_ (M.kept_modFaults _ _)
  have h := M.Kept.trans (M.Kept.trans (M.Kept.trans m.kept_stamp (M.kept_setObj _ 0x7100 (m.objFld 0x7100 0xF1 15 8 % 240 + 1)
    (m.stamp.1 * 2 ^ 208 + m.stamp.2.1 * 2 ^ 176 + clk * 2 ^ 168 + data % 2 ^ 64 * 2 ^ 104 + subject % 2 ^ 32 * 2 ^ 72 +
      reason * 2 ^ 64 + code))) (M.kept_setObjFld _ 0x7100 0xF1 7 0 (min (m.objFld 0x7100 0xF1 7 0 + 1) 240)))
    (M.kept_setObjFld _ 0x7100 0xF1 15 8 (m.objFld 0x7100 0xF1 15 8 % 240 + 1))
  split
  · exact h.trans (M.kept_satObj _ _ _ _ _ _)
  · exact h

/-- Objects other than the fault log stand. -/
theorem M.obj_logFault (code subject data reason clk i s : Nat) (hi : i ≠ 0x7100) (hs : s < 256) :
    (m.logFault code subject data reason clk).obj i s = m.obj i s := by
  have sub : m.stamp.2.2.objFld 0x7100 0xF1 15 8 % 240 + 1 < 256 := by omega
  have e (a v : Nat) (m : M) (ha : a < 256) : (m.setObj 0x7100 a v).obj i s = m.obj i s :=
    m.obj_setObj_ne _ _ _ _ _ hs ha (by simp [hi])
  unfold M.logFault
  simp only [M.obj_sendEvents, M.obj_raise, M.obj_modFaults, M.setObjFld, M.satObj]
  split
  · rw [e _ _ _ (by decide), e _ _ _ (by decide), e _ _ _ (by decide), e _ _ _ sub, M.obj_stamp]
  · rw [e _ _ _ (by decide), e _ _ _ (by decide), e _ _ _ sub, M.obj_stamp]

theorem M.kept_modBuckets (f : Tab Nat → Tab Nat) : M.Kept m (m.modBuckets f) := ⟨rfl, rfl, rfl, _, _, _, _, _, _, _, rfl⟩

theorem M.kept_bucketEvent (cls inst : Nat) : M.Kept m (m.bucketEvent cls inst).2 := by
  unfold M.bucketEvent
  dsimp only
  split
  · dsimp only
    exact M.Kept.trans (m.kept_modBuckets _) (M.kept_logFault _ _ _ _ _ _)
  · dsimp only
    exact m.kept_modBuckets _

/-! ## Events that are not due -/

@[simp] theorem M.when_true (f : M → M) : m.when true f = f m := rfl
@[simp] theorem M.when_false (f : M → M) : m.when false f = m := rfl

end Sys2Proof.Machine
end

