-- ==== Sys2Proof/Laws/Ends.lean ====
section
/-! SUPPORT. How a command that runs by `State.run` is shown to end as it should: the views of its next state are those of its
working state. -/

namespace Sys2Proof.Machine

/-- Two working states with the same fuses and device: every view but memory's agrees. -/
structure M.Like (a b : M) : Prop where
  fuse : a.fuse = b.fuse
  dev : a.dev = b.dev

namespace LikeViews
variable {a b : M}

theorem obj (h : M.Like a b) (i j : Nat) : a.obj i j = b.obj i j := by unfold M.obj; rw [h.fuse, h.dev]
theorem objFld (h : M.Like a b) (i j hi lo : Nat) : a.objFld i j hi lo = b.objFld i j hi lo := by unfold M.objFld; rw [obj h]
theorem objBit (h : M.Like a b) (i j k : Nat) : a.objBit i j k = b.objBit i j k := by unfold M.objBit; rw [obj h]
theorem core (h : M.Like a b) (i : Nat) : a.core i = b.core i := by unfold M.core; rw [h.dev]
theorem ctx (h : M.Like a b) (i x : Nat) : a.ctx i x = b.ctx i x := by unfold M.ctx; rw [core h]
theorem lq (h : M.Like a b) (n : Nat) : a.lq n = b.lq n := by unfold M.lq; rw [h.dev]
theorem bank (h : M.Like a b) (n : Nat) : a.bank n = b.bank n := by unfold M.bank; rw [h.dev]
theorem link (h : M.Like a b) (n : Nat) : a.link n = b.link n := by unfold M.link; rw [h.dev]

theorem sameObjs (h : M.Like a b) {m : M} {but : List (Nat × Nat)} (k : m.SameObjs b but) : m.SameObjs a but := by
  intro i j hj hi hb
  rw [obj h, k i j hj hi hb]

theorem sameCores (h : M.Like a b) {m : M} {but : List Nat} (k : m.SameCores b but) : m.SameCores a but := by
  intro i hi
  rw [core h, k i hi]

theorem sameLinks (h : M.Like a b) {m : M} {but : List Nat} (k : m.SameLinks b but) : m.SameLinks a but := by
  intro i hi
  rw [link h, k i hi]

theorem sameLqs (h : M.Like a b) {m : M} {but : List Nat} (k : m.SameLqs b but) : m.SameLqs a but := by
  intro i hi
  rw [lq h, k i hi]

end LikeViews

/-- A command that runs `f` ends in whatever holds of every working state like `f`'s. -/
theorem ends_dev {c : Instr} {s : State} {f : M → M} {P : M → Prop} (e : exec c s = s.run f)
    (hf : (f (M.of s)).fuse = s.fuse) (hP : ∀ m', M.Like m' (f (M.of s)) → P m') : Ends c s P := by
  refine ⟨_, e, hP _ ⟨?_, rfl⟩⟩
  rw [hf]
  rfl

/-- The same, once what the command makes of the state is known. -/
theorem ends_to {c : Instr} {s : State} {f : M → M} {r : M} {P : M → Prop} (e : exec c s = s.run f) (hr : f (M.of s) = r)
    (hf : r.fuse = s.fuse) (hP : ∀ m', M.Like m' r → P m') : Ends c s P := by
  subst hr
  exact ends_dev e hf hP

/-- A command does what its meaning makes of the state. -/
theorem does_of {c : Instr} {s : State} {f g : M → M} (e : exec c s = s.run f) (h : f (M.of s) = g (M.of s)) : Does c s g := by
  unfold Does State.after
  rw [e, State.run, h]

/-- The same where memory is spoken of too. -/
theorem ends_mem {c : Instr} {s : State} {f : M → M} {P : M → Prop} (e : exec c s = s.run f) (hs : s.mem.wf = true)
    (hf : (f (M.of s)).fuse = s.fuse) (hb : (f (M.of s)).base = s.mem)
    (hP : ∀ m', M.Like m' (f (M.of s)) → (∀ x, m'.byte x = (f (M.of s)).byte x) →
      (∀ x, m'.marked x = (f (M.of s)).marked x) → P m') : Ends c s P := by
  refine ⟨_, e, hP _ ⟨?_, rfl⟩ ?_ ?_⟩
  · rw [hf]
    rfl
  · exact State.run_byte hs rfl hb
  · exact State.run_marked hs rfl hb

/-- A command whose effect writes nothing in memory. -/
theorem ends_quiet {c : Instr} {s : State} {f : M → M} {r : M} {P : M → Prop} (e : exec c s = s.run f) (hr : f (M.of s) = r)
    (hf : r.fuse = s.fuse) (ho : r.ops = []) (hP : ∀ m', M.Like m' r → (M.of s).SameMem m' → P m') : Ends c s P := by
  subst hr
  refine ⟨_, e, hP _ ⟨?_, rfl⟩ ?_⟩
  · rw [hf]
    rfl
  · rw [ho]
    exact ⟨fun _ => rfl, fun _ => rfl⟩

/-- Everything a command can do: the queue and the fuses stand, memory takes a list of effects, the device changes. -/
theorem exec_shape (c : Instr) (s : State) :
    ∃ ops dev, exec c s = .next { s with mem := s.mem.applyAll ops, dev := dev } := by
  cases c <;> exact ⟨_, _, rfl⟩

/-- What keeps memory, fuses and cores by `Kept` keeps them in the terms of the statements. -/
theorem M.Kept.sameMem {a b : M} (h : M.Kept a b) : M.SameMem a b := ⟨h.bytes, h.marks⟩
theorem M.Kept.sameCores {a b : M} (h : M.Kept a b) (but : List Nat) : M.SameCores a b but := fun i _ => h.cores i
theorem M.Kept.sameLinks {a b : M} (h : M.Kept a b) (but : List Nat) : M.SameLinks a b but := fun i _ => h.links i
theorem M.Kept.sameLqs {a b : M} (h : M.Kept a b) (but : List Nat) : M.SameLqs a b but := fun i _ => h.lqs i

/-- CODE, SUBJECT and DATA of an entry as R462 lays it out. -/
theorem entry_fields (e : Nat) (code subject data reason clk q c : Nat) (hc : code < 65536) (hr : reason < 256)
   (h : e = q * 2 ^ 208 + c * 2 ^ 176 + clk * 2 ^ 168 + data % 2 ^ 64 * 2 ^ 104 +
    subject % 2 ^ 32 * 2 ^ 72 + reason * 2 ^ 64 + code) :
    (fld e 15 0, fld e 103 72, fld e 167 104) = (code, subject % 2 ^ 32, data % 2 ^ 64) := by
  unfold fld bitsAt
  simp only [Prod.mk.injEq]
  have hs : subject % 2 ^ 32 < 2 ^ 32 := Nat.mod_lt _ (by decide)
  have hd : data % 2 ^ 64 < 2 ^ 64 := Nat.mod_lt _ (by decide)
  refine ⟨?_, ?_, ?_⟩ <;> omega

/-- The entry that a fault leaves is the newest of the log. -/
theorem M.newestFault_logFault (m : M) (code subject data reason clk : Nat) (hc : code < 65536) (hr : reason < 256) :
    (m.logFault code subject data reason clk).newestFault = (code, subject % 2 ^ 32, data % 2 ^ 64) := by
  have hn : m.stamp.2.2.objFld 0x7100 0xF1 15 8 % 240 + 1 ≤ 240 := by omega
  have e : ∀ n, n = m.stamp.2.2.objFld 0x7100 0xF1 15 8 % 240 + 1 →
      (m.logFault code subject data reason clk).objFld 0x7100 0xF1 15 8 = n ∧
      (m.logFault code subject data reason clk).obj 0x7100 n = m.stamp.1 * 2 ^ 208 + m.stamp.2.1 * 2 ^ 176 + clk * 2 ^ 168 + data % 2 ^ 64 * 2 ^ 104 +
        subject % 2 ^ 32 * 2 ^ 72 + reason * 2 ^ 64 + code := by
    intro n hx
    have h256 : n % 2 ^ 8 = n := by omega
    have ne : n < 256 := by omega
    constructor
    · show fld ((m.logFault code subject data reason clk).obj 0x7100 0xF1) 15 8 = n
      unfold M.logFault
      simp only [M.obj_sendEvents, M.obj_raise, M.obj_modFaults]
      rw [← hx]
      split
      · simp only [M.satObj, M.obj_setObj_same, M.setObjFld, satFld]
        rw [fld_setFld_below _ _ _ _ _ _ (by decide) (by decide), fld_setFld_same]
        exact h256
      · rw [M.obj_setObjFld_same, fld_setFld_same]
        exact h256
    · unfold M.logFault
      simp only [M.obj_sendEvents, M.obj_raise, M.obj_modFaults]
      rw [← hx]
      split
      · rw [M.obj_satObj_ne _ _ _ _ _ _ _ _ ne (by decide) (by simp; omega), M.obj_setObjFld_ne _ _ _ _ _ _ _ _ ne (by decide) (by simp; omega),
          M.obj_setObjFld_ne _ _ _ _ _ _ _ _ ne (by decide) (by simp; omega), M.obj_setObj_same]
      · rw [M.obj_setObjFld_ne _ _ _ _ _ _ _ _ ne (by decide) (by simp; omega),
          M.obj_setObjFld_ne _ _ _ _ _ _ _ _ ne (by decide) (by simp; omega), M.obj_setObj_same]
  obtain ⟨h1, h2⟩ := e _ rfl
  unfold M.newestFault
  rw [h1]
  exact entry_fields _ _ _ _ _ _ _ _ hc hr h2

end Sys2Proof.Machine
end

