-- ==== Sys2Proof/Laws/Floor.lean ====
section
/-! SUPPORT. What the floors, budgets and limits settle into, and what that leaves alone (17_power.md R393 to R402; 18 R410 to R414). -/

namespace Sys2Proof.Machine

/-- The working states differ in objects alone. -/
structure M.ObjsOnly (a b : M) : Prop where
  fuse : b.fuse = a.fuse
  base : b.base = a.base
  ops : b.ops = a.ops
  dev : ∃ o, b.dev = { a.dev with objs := o }

theorem M.ObjsOnly.refl (a : M) : M.ObjsOnly a a := ⟨rfl, rfl, rfl, _, rfl⟩

theorem M.ObjsOnly.trans {a b c : M} (h : M.ObjsOnly a b) (k : M.ObjsOnly b c) : M.ObjsOnly a c := by
  obtain ⟨h1, h2, h3, o, h4⟩ := h
  obtain ⟨k1, k2, k3, p, k4⟩ := k
  exact ⟨k1.trans h1, k2.trans h2, k3.trans h3, p, by rw [k4, h4]⟩

theorem M.objsOnly_setObj (m : M) (i j v : Nat) : M.ObjsOnly m (m.setObj i j v) := ⟨rfl, rfl, rfl, _, rfl⟩

theorem M.objsOnly_foldl {α : Type} (f : M → α → M) (hf : ∀ m a, M.ObjsOnly m (f m a)) (l : List α) (m : M) :
    M.ObjsOnly m (l.foldl f m) := by
  induction l generalizing m with
  | nil => exact M.ObjsOnly.refl m
  | cons a r ih => exact (hf m a).trans (ih _)

/-- Memory, the cores, the links and the layer quadrants are those of the other state. -/
structure M.Aside (a b : M) : Prop where
  fuse : b.fuse = a.fuse
  base : b.base = a.base
  ops : b.ops = a.ops
  cores : b.dev.cores = a.dev.cores
  links : b.dev.links = a.dev.links
  lqs : b.dev.lqs = a.dev.lqs

theorem M.Aside.refl (a : M) : M.Aside a a := ⟨rfl, rfl, rfl, rfl, rfl, rfl⟩

theorem M.Aside.trans {a b c : M} (h : M.Aside a b) (k : M.Aside b c) : M.Aside a c :=
  ⟨k.1.trans h.1, k.2.trans h.2, k.3.trans h.3, k.4.trans h.4, k.5.trans h.5, k.6.trans h.6⟩

theorem M.ObjsOnly.aside {a b : M} (h : M.ObjsOnly a b) : M.Aside a b := by
  obtain ⟨h1, h2, h3, o, h4⟩ := h
  exact ⟨h1, h2, h3, by rw [h4], by rw [h4], by rw [h4]⟩

theorem M.Kept.aside {a b : M} (h : M.Kept a b) : M.Aside a b := by
  obtain ⟨h1, h2, h3, _, _, _, _, _, _, _, h4⟩ := h
  exact ⟨h1, h2, h3, by rw [h4], by rw [h4], by rw [h4]⟩

theorem M.aside_foldl {α : Type} (f : M → α → M) (hf : ∀ m a, M.Aside m (f m a)) (l : List α) (m : M) : M.Aside m (l.foldl f m) := by
  induction l generalizing m with
  | nil => exact M.Aside.refl m
  | cons a r ih => exact (hf m a).trans (ih _)

/-- A state whose work stands aside, once memory's effects are those of a command that wrote none. -/
theorem M.Aside.sameWork {a b m : M} (h : M.Aside a b) (k : M.Like m b) (q : a.SameMem m) : a.SameWork m := by
  refine ⟨q, fun i _ => ?_, fun i _ => ?_, fun i _ => ?_⟩
  · unfold M.core; rw [k.dev, h.cores]
  · unfold M.link; rw [k.dev, h.links]
  · unfold M.lq; rw [k.dev, h.lqs]

/-! ## What settles -/

/-- Indices that a change of floors, limits or budgets may rewrite. -/
def settled : List Nat := [0x3020, 0x3030, 0x3051, 0x3052, 0x3141]

theorem M.obj_setObj_off (m : M) (i j x y v : Nat) (hj : j < 256) (hy : y < 256) (h : i ≠ x) : (m.setObj x y v).obj i j = m.obj i j :=
  m.obj_setObj_ne _ _ _ _ _ hj hy fun e => h (congrArg Prod.fst e)

theorem foldl_keeps {α β γ : Type} (f : β → α → β) (v : β → γ) (l : List α) (hf : ∀ b, ∀ a ∈ l, v (f b a) = v b) (b : β) :
    v (l.foldl f b) = v b := by
  induction l generalizing b with
  | nil => rfl
  | cons a r ih =>
    rw [List.foldl_cons, ih (fun b x hx => hf b x (List.mem_cons_of_mem _ hx)), hf b a List.mem_cons_self]

theorem M.objsOnly_settleCores (m : M) : M.ObjsOnly m m.settleCores := by
  refine M.objsOnly_foldl _ (fun a i => ?_) _ m
  split
  · exact a.objsOnly_setObj _ _ _
  · exact M.ObjsOnly.refl a

theorem M.objsOnly_settleTiers (m : M) : M.ObjsOnly m m.settleTiers := by
  refine M.objsOnly_foldl _ (fun a i => ?_) _ m
  refine M.ObjsOnly.trans ?_ (M.objsOnly_setObj _ _ _ _)
  split
  · exact a.objsOnly_setObj _ _ _
  · exact M.ObjsOnly.refl a

theorem M.objsOnly_settleLimiter (m : M) : M.ObjsOnly m m.settleLimiter := by
  unfold M.settleLimiter
  split
  · exact m.objsOnly_setObj _ _ _
  · exact M.ObjsOnly.refl m

theorem M.objsOnly_settlePin (m : M) : M.ObjsOnly m m.settlePin := by
  unfold M.settlePin
  split
  · split
    · exact M.ObjsOnly.refl m
    · exact (m.objsOnly_setObj _ _ _).trans (M.objsOnly_setObj _ _ _ _)
  · exact m.objsOnly_setObj _ _ _

/-- Settling changes objects alone. -/
theorem M.objsOnly_settle (m : M) : M.ObjsOnly m m.settle :=
  ((m.objsOnly_settleCores.trans (M.objsOnly_settleTiers _)).trans (M.objsOnly_settleLimiter _)).trans (M.objsOnly_settlePin _)

theorem M.obj_settleCores (m : M) (i j : Nat) (hj : j < 256) (h : i ≠ 0x3051) : m.settleCores.obj i j = m.obj i j := by
  refine foldl_keeps _ (fun a : M => a.obj i j) (List.range 24) (fun a t ht => ?_) m
  have := List.mem_range.mp ht
  split
  · exact a.obj_setObj_off _ _ _ _ _ hj (by omega) h
  · rfl

theorem M.obj_settleTiers (m : M) (i j : Nat) (hj : j < 256) (h : i ≠ 0x3052) (h' : i ≠ 0x3141) : m.settleTiers.obj i j = m.obj i j := by
  refine foldl_keeps _ (fun a : M => a.obj i j) (List.range 6) (fun a t ht => ?_) m
  have := List.mem_range.mp ht
  dsimp only
  refine (M.obj_setObj_off _ _ _ _ _ _ hj (by omega) h').trans ?_
  split
  · exact a.obj_setObj_off _ _ _ _ _ hj (by omega) h
  · rfl

theorem M.obj_settleLimiter (m : M) (i j : Nat) (hj : j < 256) (h : i ≠ 0x3020) : m.settleLimiter.obj i j = m.obj i j := by
  unfold M.settleLimiter
  split
  · exact m.obj_setObj_off _ _ _ _ _ hj (by decide) h
  · rfl

theorem M.obj_settlePin (m : M) (i j : Nat) (hj : j < 256) (h : i ≠ 0x3030) : m.settlePin.obj i j = m.obj i j := by
  unfold M.settlePin
  split
  · split
    · rfl
    · exact (M.obj_setObj_off _ _ _ _ _ _ hj (by decide) h).trans (m.obj_setObj_off _ _ _ _ _ hj (by decide) h)
  · exact m.obj_setObj_off _ _ _ _ _ hj (by decide) h

/-- Settling leaves every other object as it was. -/
theorem M.obj_settle (m : M) (i j : Nat) (hj : j < 256) (hi : i ∉ settled) : m.settle.obj i j = m.obj i j := by
  simp only [settled, List.mem_cons, List.not_mem_nil, or_false, not_or] at hi
  obtain ⟨h1, h2, h3, h4, h5⟩ := hi
  unfold M.settle
  rw [M.obj_settlePin _ _ _ hj h2, M.obj_settleLimiter _ _ _ hj h1, M.obj_settleTiers _ _ _ hj h4 h5, M.obj_settleCores _ _ _ hj h3]

/-- A forced floor holds whatever the objects are. -/
theorem M.ObjsOnly.floorHeld {a b : M} (h : M.ObjsOnly a b) : b.floorHeld = a.floorHeld := by
  obtain ⟨_, _, _, o, e⟩ := h
  unfold M.floorHeld
  rw [e]

theorem M.objsOnly_setObjFld (m : M) (i j hi lo v : Nat) : M.ObjsOnly m (m.setObjFld i j hi lo v) := m.objsOnly_setObj _ _ _

/-- While a forced floor holds, every core is put to P7. -/
theorem M.settleCores_floor (m : M) (h : m.floorHeld = true) (i : Nat) (hi : i < 24) : m.settleCores.objFld 0x3051 (i + 1) 3 0 = 7 := by
  have key : ∀ (l : List Nat) (a : M), a.floorHeld = true → (∀ x ∈ l, x < 24) → (i ∈ l ∨ a.objFld 0x3051 (i + 1) 3 0 = 7) →
      (l.foldl (fun (m : M) i => if m.floorHeld || m.coreFloor i then m.setObjFld 0x3051 (i + 1) 3 0 7 else m) a).objFld 0x3051 (i + 1) 3 0 = 7 := by
    intro l
    induction l with
    | nil =>
      intro a _ _ h
      exact h.resolve_left List.not_mem_nil
    | cons x r ih =>
      intro a ha hx ho
      rw [List.foldl_cons, if_pos (by rw [ha]; rfl)]
      refine ih _ ((a.objsOnly_setObjFld _ _ _ _ _).floorHeld.trans ha) (fun y hy => hx y (List.mem_cons_of_mem _ hy)) ?_
      by_cases e : x = i
      · subst e
        right
        unfold M.objFld
        rw [M.obj_setObjFld_same, fld_setFld_same]
        rfl
      · rcases ho with ho | ho
        · left
          simpa [Ne.symm e] using ho
        · right
          unfold M.objFld
          have := hx x List.mem_cons_self
          rw [M.obj_setObjFld_ne _ _ _ _ _ _ _ _ (by omega) (by omega) (by simp; omega)]
          exact ho
  exact key _ m h (fun x hx => List.mem_range.mp hx) (Or.inl (List.mem_range.mpr hi))

/-- And every tier. -/
theorem M.settleTiers_floor (m : M) (h : m.floorHeld = true) (i : Nat) (hi : i < 6) : m.settleTiers.objFld 0x3052 (i + 1) 3 0 = 7 := by
  have key : ∀ (l : List Nat) (a : M), a.floorHeld = true → (∀ x ∈ l, x < 6) → (i ∈ l ∨ a.objFld 0x3052 (i + 1) 3 0 = 7) →
      (l.foldl (fun (m : M) t =>
        let m := if m.floorHeld || m.tierFloor t then m.setObjFld 0x3052 (t + 1) 3 0 7 else m
        m.setObjFld 0x3141 (t + 1) 15 0 (m.budgetWanted t)) a).objFld 0x3052 (i + 1) 3 0 = 7 := by
    intro l
    induction l with
    | nil =>
      intro a _ _ h
      exact h.resolve_left List.not_mem_nil
    | cons x r ih =>
      intro a ha hx ho
      have := hx x List.mem_cons_self
      rw [List.foldl_cons]
      dsimp only
      rw [if_pos (by rw [ha]; rfl)]
      refine ih _ ?_ (fun y hy => hx y (List.mem_cons_of_mem _ hy)) ?_
      · exact (M.objsOnly_setObjFld _ _ _ _ _ _).floorHeld.trans ((a.objsOnly_setObjFld _ _ _ _ _).floorHeld.trans ha)
      by_cases e : x = i
      · subst e
        right
        unfold M.objFld
        rw [M.obj_setObjFld_ne _ _ _ _ _ _ _ _ (by omega) (by omega) (by simp), M.obj_setObjFld_same, fld_setFld_same]
        rfl
      · rcases ho with ho | ho
        · left
          simpa [Ne.symm e] using ho
        · right
          unfold M.objFld
          rw [M.obj_setObjFld_ne _ _ _ _ _ _ _ _ (by omega) (by omega) (by simp),
            M.obj_setObjFld_ne _ _ _ _ _ _ _ _ (by omega) (by omega) (by simp; omega)]
          exact ho
  exact key _ m h (fun x hx => List.mem_range.mp hx) (Or.inl (List.mem_range.mpr hi))

/-- COMMON stands while things settle. -/
theorem M.common_settle (m : M) : m.settle.objFld 0x3020 4 3 0 = m.objFld 0x3020 4 3 0 := by
  unfold M.settle M.objFld
  rw [M.obj_settlePin _ _ _ (by decide) (by decide)]
  have h : ∀ a : M, fld (a.settleLimiter.obj 0x3020 4) 3 0 = fld (a.obj 0x3020 4) 3 0 := by
    intro a
    unfold M.settleLimiter
    split
    · rw [M.obj_setObjFld_same, fld_setFld_below _ _ _ _ _ _ (by decide) (by decide)]
    · rfl
  rw [h, M.obj_settleTiers _ _ _ (by decide) (by decide) (by decide), M.obj_settleCores _ _ _ (by decide) (by decide)]

/-- The forced floor is reached at once. -/
theorem M.atFloor_toFloor (m : M) (h : m.floorHeld = true) : m.toFloor.AtFloor := by
  have hf : ((m.setCommon 7).modPower fun p => { p with tierCommon := 7, overPeriods := 0, lowering := false }).floorHeld = true := h
  unfold M.toFloor
  generalize hm : ((m.setCommon 7).modPower fun p => { p with tierCommon := 7, overPeriods := 0, lowering := false }) = a at hf
  refine ⟨?_, fun i hi => ?_, fun t ht => ?_⟩
  · rw [M.common_settle, ← hm]
    show fld ((m.setObjFld 0x3020 4 3 0 7).obj _ _) 3 0 = 7
    rw [M.obj_setObjFld_same, fld_setFld_same]
    rfl
  · unfold M.settle M.objFld
    rw [M.obj_settlePin _ _ _ (by omega) (by decide), M.obj_settleLimiter _ _ _ (by omega) (by decide),
      M.obj_settleTiers _ _ _ (by omega) (by decide) (by decide)]
    exact a.settleCores_floor hf i hi
  · unfold M.settle M.objFld
    rw [M.obj_settlePin _ _ _ (by omega) (by decide), M.obj_settleLimiter _ _ _ (by omega) (by decide)]
    exact M.settleTiers_floor _ (a.objsOnly_settleCores.floorHeld.trans hf) t ht

theorem M.aside_toFloor (m : M) : M.Aside m m.toFloor :=
  M.Aside.trans (b := (m.setCommon 7).modPower fun p => { p with tierCommon := 7, overPeriods := 0, lowering := false })
    ⟨rfl, rfl, rfl, rfl, rfl, rfl⟩ (M.objsOnly_settle _).aside

theorem M.obj_toFloor (m : M) (i j : Nat) (hj : j < 256) (hi : i ∉ settled) : m.toFloor.obj i j = m.obj i j := by
  unfold M.toFloor
  rw [M.obj_settle _ _ _ hj hi]
  refine m.obj_setObj_off _ _ _ _ _ hj (by decide) fun h => hi ?_
  rw [h]
  decide

/-- What does not touch the objects of the floor leaves it. -/
theorem M.AtFloor.same {a b : M} (h : a.AtFloor)
    (k : ∀ i j, j < 256 → i ∈ [0x3020, 0x3051, 0x3052] → b.obj i j = a.obj i j) : b.AtFloor := by
  obtain ⟨h1, h2, h3⟩ := h
  unfold M.objFld at h1 h2 h3
  refine ⟨?_, fun i hi => ?_, fun t ht => ?_⟩
  · unfold M.objFld
    rw [k _ _ (by decide) (by decide)]
    exact h1
  · unfold M.objFld
    rw [k _ _ (by omega) (by decide)]
    exact h2 i hi
  · unfold M.objFld
    rw [k _ _ (by omega) (by decide)]
    exact h3 t ht

theorem M.kept_sendFailsafe (m : M) (w : Nat) : M.Kept m (m.sendFailsafe w) := m.kept_send _

/-- FAILSAFE touches no object and none of the work. -/
theorem M.aside_askFailsafe (m : M) : M.Aside m m.askFailsafe ∧ ∀ i j, m.askFailsafe.obj i j = m.obj i j := by
  unfold M.askFailsafe
  split
  · exact ⟨⟨rfl, rfl, rfl, rfl, rfl, rfl⟩, fun _ _ => rfl⟩
  · exact ⟨M.Aside.refl m, fun _ _ => rfl⟩

end Sys2Proof.Machine
end

