-- ==== Sys2Proof/Laws/Folds.lean ====
section
/-! SUPPORT. Folds over commands and tables: a fold that changes nothing, and a fold of which one step touches what is looked at. -/

namespace Sys2Proof.Machine

/-- A fold whose every step leaves `b` is `b`. -/
theorem foldl_eq_self {α β} (f : β → α → β) (l : List α) (b : β) (h : ∀ a ∈ l, f b a = b) : l.foldl f b = b := by
  induction l with
  | nil => rfl
  | cons a r ih => rw [List.foldl_cons, h a (by simp)]; exact ih fun x hx => h x (by simp [hx])

/-- Where only the step at `i` matters to `Q`, the fold gives `Q`. -/
theorem foldl_at (f : M → Nat → M) (i : Nat) (I Q : M → Prop) (l : List Nat) (hk : ∀ m k, k ≠ i → k ∈ l → I m → I (f m k))
    (hQ : ∀ m, I m → Q (f m i)) (hQk : ∀ m k, k ≠ i → k ∈ l → Q m → Q (f m k)) (hd : l.Nodup) (hi : i ∈ l) (m : M) (h0 : I m) : Q (l.foldl f m) := by
  induction l generalizing m with
  | nil => cases hi
  | cons x r ih =>
    rw [List.foldl_cons]
    obtain ⟨hx, hr⟩ := List.nodup_cons.mp hd
    by_cases e : x = i
    · subst e
      have : ∀ (r' : List Nat) (a : M), (∀ k ∈ r', k ≠ x ∧ k ∈ x :: r) → Q a → Q (r'.foldl f a) := by
        intro r'
        induction r' with
        | nil => intro a _ h; exact h
        | cons y z ihz => intro a h hq; rw [List.foldl_cons]; exact ihz _ (fun k hk => h k (by simp [hk])) (hQk _ _ (h y (by simp)).1 (h y (by simp)).2 hq)
      exact this r _ (fun k hk => ⟨fun e => hx (e ▸ hk), by simp [hk]⟩) (hQ _ h0)
    · refine ih (fun m k h h' => hk m k h (by simp [h'])) (fun m k h h' => hQk m k h (by simp [h'])) hr ?_ _ (hk _ _ e (by simp) h0)
      simpa [Ne.symm e] using hi

theorem filterMap_some {α β} (f : α → Option β) (g : α → β) (l : List α) (h : ∀ x ∈ l, f x = some (g x)) : l.filterMap f = l.map g := by
  induction l with
  | nil => rfl
  | cons a r ih => rw [List.filterMap_cons, h a (by simp)]; simp [ih (fun x hx => h x (by simp [hx]))]

theorem map_fst_range (n : Nat) (f : Nat → Nat × Bool) : ((List.range n).map fun e => (e, f e)).map (·.1) = List.range n := by
  rw [List.map_map]; exact (List.map_congr_left (fun _ _ => rfl)).trans (List.map_id _)

theorem Tab.find?_erase_same {α : Type} (t : Tab α) (k : Nat) : Tab.find? (Tab.erase t k) k = none := by
  unfold Tab.erase
  induction t with
  | nil => rfl
  | cons e r ih =>
    rw [List.filter_cons]
    split
    · rename_i h
      obtain ⟨a, b⟩ := e
      unfold Tab.find?
      rw [if_neg (by simpa using h)]; exact ih
    · exact ih

theorem foldl_add_eq_sum (l : List Nat) : l.foldl (· + ·) 0 = l.sum := by
  have : ∀ (l : List Nat) a, l.foldl (· + ·) a = a + l.sum := by
    intro l; induction l with
    | nil => intro a; rfl
    | cons x r ih => intro a; rw [List.foldl_cons, ih, List.sum_cons]; omega
  rw [this]; omega

theorem any_range_false (n : Nat) (f : Nat → Bool) (h : ∀ i, i < n → f i = false) : (List.range n).any f = false := by
  rw [List.any_eq_false]; intro i hi; rw [h i (by simpa using hi)]; simp

theorem filter_range_eq (x : Fin 16) : (List.range 16).filter (fun i => i == x.val) = [x.val] := by
  revert x; decide

theorem setFld_all (w v : Nat) (h : v < 2 ^ (w + 1)) : setFld 0 w 0 v = v := by
  apply Nat.eq_of_testBit_eq
  intro i
  show (putBits 0 0 (w + 1 - 0) v).testBit i = _
  rw [testBit_putBits]
  by_cases hi : i < w + 1
  · simp [hi]
  · simp [hi]
    exact Nat.testBit_lt_two_pow (Nat.lt_of_lt_of_le h (Nat.pow_le_pow_right (by decide) (Nat.le_of_not_lt hi)))

theorem fld_all (w v : Nat) (h : v < 2 ^ (w + 1)) : fld v w 0 = v := by
  unfold fld bitsAt; simp; exact Nat.mod_eq_of_lt h

theorem setBit_same (v i : Nat) (b : Bool) (h : v.testBit i = b) : setBit v i b = v := by
  apply Nat.eq_of_testBit_eq; intro k; rw [testBit_setBit]; split
  · rename_i h'; rw [h', h]
  · rfl

theorem M.objFld_setObjFld_same (m : M) (i j hi lo v : Nat) : (m.setObjFld i j hi lo v).objFld i j hi lo = v % 2 ^ (hi + 1 - lo) := by
  unfold M.objFld; rw [M.obj_setObjFld_same]; exact fld_setFld_same _ _ _ _

end Sys2Proof.Machine
end

