-- ==== Sys2Proof/Laws/Chains.lean ====
section
/-! SUPPORT. Laws of the operations on one core and its chains: what touches a core alone, and what a stop leaves alone. -/

namespace Sys2Proof.Machine

theorem bit16_setBit16 (v : BitVec 16) (c x : Nat) (b : Bool) (hx : x < 16) :
    bit16 (setBit16 v c b) x = if x = c then b else bit16 v x := by
  unfold bit16 setBit16
  rw [BitVec.toNat_ofNat, Nat.testBit_mod_two_pow]
  simp [hx, testBit_setBit]

theorem M.ctx_modCtx (m : M) (i x : Nat) (f : CtxRegs → CtxRegs) (j y : Nat) :
    (m.modCtx i x f).ctx j y = if j = i ∧ y = x then f (m.ctx i x) else m.ctx j y := by
  unfold M.ctx M.modCtx
  rw [M.core_modCore]
  by_cases h : j = i
  · subst h
    by_cases hy : y = x
    · subst hy
      simp
    · simp [hy, Core.ctx_setCtx_ne]
  · simp [h]

/-! ## What changes only one core -/

/-- The working states differ in core `i` alone. -/
structure OnlyCore (a b : M) (i : Nat) : Prop where
  fuse : b.fuse = a.fuse
  base : b.base = a.base
  ops : b.ops = a.ops
  dev : ∃ cs, b.dev = { a.dev with cores := cs }
  core : ∀ j, j ≠ i → b.core j = a.core j

theorem OnlyCore.refl (a : M) (i : Nat) : OnlyCore a a i := ⟨rfl, rfl, rfl, ⟨_, rfl⟩, fun _ _ => rfl⟩

theorem OnlyCore.trans {a b c : M} {i : Nat} (h : OnlyCore a b i) (k : OnlyCore b c i) : OnlyCore a c i := by
  obtain ⟨h1, h2, h3, ⟨cs, h4⟩, h5⟩ := h
  obtain ⟨k1, k2, k3, ⟨ds, k4⟩, k5⟩ := k
  exact ⟨k1.trans h1, k2.trans h2, k3.trans h3, ⟨ds, by rw [k4, h4]⟩, fun j hj => (k5 j hj).trans (h5 j hj)⟩

theorem OnlyCore.modCore (a : M) (i : Nat) (f : Core → Core) : OnlyCore a (a.modCore i f) i :=
  ⟨rfl, rfl, rfl, ⟨_, rfl⟩, fun j hj => by rw [M.core_modCore, if_neg hj]⟩

theorem OnlyCore.modCtx (a : M) (i x : Nat) (f : CtxRegs → CtxRegs) : OnlyCore a (a.modCtx i x f) i := OnlyCore.modCore a i _

theorem OnlyCore.objs {a b : M} {i : Nat} (h : OnlyCore a b i) (x y : Nat) : b.obj x y = a.obj x y := by
  obtain ⟨h1, h2, h3, ⟨cs, h4⟩, h5⟩ := h
  unfold M.obj
  rw [h1, h4]

theorem OnlyCore.links {a b : M} {i : Nat} (h : OnlyCore a b i) (x : Nat) : b.link x = a.link x := by
  obtain ⟨h1, h2, h3, ⟨cs, h4⟩, h5⟩ := h
  unfold M.link
  rw [h4]

theorem OnlyCore.lqs {a b : M} {i : Nat} (h : OnlyCore a b i) (x : Nat) : b.lq x = a.lq x := by
  obtain ⟨h1, h2, h3, ⟨cs, h4⟩, h5⟩ := h
  unfold M.lq
  rw [h4]

theorem OnlyCore.bytes {a b : M} {i : Nat} (h : OnlyCore a b i) : M.SameMem a b := by
  constructor <;> intro x
  · unfold M.byte
    rw [h.ops, h.base]
  · unfold M.marked
    rw [h.ops, h.base]

theorem OnlyCore.sameCores {a b : M} {i : Nat} (h : OnlyCore a b i) : M.SameCores a b [i] :=
  fun j hj => h.core j (by simpa using hj)

/-! ## What only core traffic changes -/

/-- The devices differ in no field but the free-value counter, the outputs, the objects, the host port, the fault log's flags, the
buckets, the cores, the layer quadrants, the links, the ring's waiting transfers, DEVSEQ, the fabric and the mirror's parts. -/
structure M.Traffic (a b : M) : Prop where
  fuse : b.fuse = a.fuse
  base : b.base = a.base
  dev : ∃ fresh sent devSeq objs host faults buckets cores lqs links ringOut fab mirror,
    b.dev = { a.dev with
      fresh := fresh, sent := sent, devSeq := devSeq, objs := objs, host := host, faults := faults, buckets := buckets,
      cores := cores, lqs := lqs, links := links, ringOut := ringOut, fab := fab, mirror := mirror }

theorem M.Traffic.refl (a : M) : M.Traffic a a := ⟨rfl, rfl, _, _, _, _, _, _, _, _, _, _, _, _, _, rfl⟩

theorem M.Traffic.trans {a b c : M} (h : M.Traffic a b) (k : M.Traffic b c) : M.Traffic a c := by
  obtain ⟨h1, h2, f1, s1, d1, o1, p1, q1, b1, c1, l1, n1, r1, x1, y1, h4⟩ := h
  obtain ⟨k1, k2, f2, s2, d2, o2, p2, q2, b2, c2, l2, n2, r2, x2, y2, k4⟩ := k
  exact ⟨k1.trans h1, k2.trans h2, f2, s2, d2, o2, p2, q2, b2, c2, l2, n2, r2, x2, y2, by rw [k4, h4]⟩

theorem M.Traffic.reset {a b : M} (h : M.Traffic a b) : b.dev.reset = a.dev.reset := by
  obtain ⟨_, _, _, _, _, _, _, _, _, _, _, _, _, _, _, e⟩ := h
  rw [e]

theorem M.Kept.traffic {a b : M} (h : M.Kept a b) : M.Traffic a b := by
  obtain ⟨h1, h2, h3, f1, s1, d1, o1, p1, q1, b1, h4⟩ := h
  exact ⟨h1, h2, f1, s1, d1, o1, p1, q1, b1, _, _, _, _, _, _, by rw [h4]⟩

theorem OnlyCore.traffic {a b : M} {i : Nat} (h : OnlyCore a b i) : M.Traffic a b := by
  obtain ⟨h1, h2, h3, ⟨cs, h4⟩, h5⟩ := h
  exact ⟨h1, h2, _, _, _, _, _, _, _, cs, _, _, _, _, _, h4⟩

theorem M.traffic_modFab (m : M) (f : Fab → Fab) : M.Traffic m (m.modFab f) :=
  ⟨rfl, rfl, _, _, _, _, _, _, _, _, _, _, _, _, _, rfl⟩
theorem M.traffic_modLink (m : M) (l : Nat) (f : Link → Link) : M.Traffic m (m.modLink l f) :=
  ⟨rfl, rfl, _, _, _, _, _, _, _, _, _, _, _, _, _, rfl⟩
theorem M.traffic_modLq (m : M) (n : Nat) (f : Lq → Lq) : M.Traffic m (m.modLq n f) :=
  ⟨rfl, rfl, _, _, _, _, _, _, _, _, _, _, _, _, _, rfl⟩
theorem M.traffic_modMirror (m : M) (f : Mirror → Mirror) : M.Traffic m (m.modMirror f) :=
  ⟨rfl, rfl, _, _, _, _, _, _, _, _, _, _, _, _, _, rfl⟩
theorem M.traffic_setObj (m : M) (i j v : Nat) : M.Traffic m (m.setObj i j v) := (M.kept_setObj m i j v).traffic
theorem M.traffic_modCore (m : M) (i : Nat) (f : Core → Core) : M.Traffic m (m.modCore i f) := (OnlyCore.modCore m i f).traffic

theorem M.traffic_foldl {α : Type} (m : M) (f : M → α → M) (hf : ∀ m a, M.Traffic m (f m a)) (l : List α) :
    M.Traffic m (l.foldl f m) := by
  induction l generalizing m with
  | nil => exact M.Traffic.refl m
  | cons a r ih => exact (hf m a).trans (ih (f m a))

theorem M.traffic_mapWaiters (m : M) (p : Slot → Bool) (f : Slot → Slot) : M.Traffic m (m.mapWaiters p f) :=
  ⟨rfl, rfl, _, _, _, _, _, _, _, _, _, _, _, _, _, rfl⟩

theorem M.traffic_nextLink (m : M) (key : Nat) (ls : List Nat) : M.Traffic m (m.nextLink key ls).2 := by
  unfold M.nextLink
  dsimp only
  split
  · exact M.Traffic.refl m
  · dsimp only
    exact m.traffic_modFab _

theorem M.traffic_post (m : M) (l : Nat) (o : TxOwner) (x : Msg) : M.Traffic m (m.post l o x) := by
  unfold M.post
  exact m.traffic_modLink _ _

theorem M.traffic_emit (m : M) (o : TxOwner) (x : Msg) : M.Traffic m (m.emit o x).2 := by
  unfold M.emit
  dsimp only
  split
  · exact M.Traffic.refl m
  · exact (m.traffic_nextLink _ _).trans (M.traffic_post _ _ _ _)

theorem M.traffic_releaseBarrier (m : M) (g : Nat) (tr : Bool) : M.Traffic m (m.releaseBarrier g tr) :=
  (m.traffic_mapWaiters _ _).trans ((M.traffic_modFab _ _).trans (M.traffic_setObj _ _ _ _))

theorem M.traffic_judgeRanks (m : M) (g : Nat) : M.Traffic m (m.judgeRanks g) := by
  unfold M.judgeRanks
  dsimp only
  split
  · exact (M.traffic_foldl m _ (fun m r => m.traffic_emit _ _) _).trans (M.traffic_releaseBarrier _ _ _)
  · exact M.Traffic.refl m

theorem M.traffic_judgeBarrier (m : M) (g : Nat) : M.Traffic m (m.judgeBarrier g) := by
  unfold M.judgeBarrier
  dsimp only
  split
  · exact M.Traffic.refl m
  · split
    · split
      · exact (m.traffic_modFab _).trans ((M.traffic_modFab _ _).trans (M.traffic_judgeRanks _ _))
      · split
        · exact (m.traffic_modFab _).trans (M.traffic_emit _ _ _)
        · exact (m.traffic_modFab _).trans ((M.traffic_emit _ _ _).trans (M.traffic_releaseBarrier _ _ _))
      · exact (m.traffic_modFab _).trans (M.traffic_releaseBarrier _ _ _)
    · exact m.traffic_releaseBarrier _ _

theorem M.traffic_withdraw (m : M) (i : Nat) (ws : List W64) : M.Traffic m (m.withdraw i ws) := by
  unfold M.withdraw
  dsimp only
  split
  · exact M.Traffic.refl m
  · exact (m.traffic_modFab _).trans (M.traffic_judgeBarrier _ _)

theorem M.traffic_dropRing (m : M) (i : Nat) : M.Traffic m (m.dropRing i) :=
  ⟨rfl, rfl, _, _, _, _, _, _, _, _, _, _, _, _, _, rfl⟩

theorem M.traffic_dropWork (m : M) (i : Nat) : M.Traffic m (m.dropWork i) :=
  M.traffic_foldl m _ (fun m _ => m.traffic_modLq _ _) _

/-- A stop of a core's manifests is traffic: no object of power, heat, security or reset changes hands. -/
theorem M.traffic_stopSlots (m : M) (i : Nat) (why : Stop) : M.Traffic m (m.stopSlots i why) := by
  unfold M.stopSlots
  dsimp only
  refine M.Traffic.trans (b := ((((m.modCore i fun c =>
    { c with run := c.run.map (·.halt why), ready := c.ready.map (·.halt why), wait := none }).modFab fun f =>
    { f with colls := Tab.erase f.colls i }).dropRing i).dropWork i).discardStaged i) ?_ ?_
  · exact (m.traffic_modCore _ _).trans ((M.traffic_modFab _ _).trans ((M.traffic_dropRing _ _).trans
      ((M.traffic_dropWork _ _).trans (M.traffic_modCore _ _ _))))
  · split
    · split
      · exact M.traffic_withdraw _ _ _
      · exact M.Traffic.refl _
    · exact M.Traffic.refl _

/-! ## Ends of chains -/

theorem M.closeIfDrained_core (m : M) (i x : Nat) :
    ((m.closeIfDrained i x).core i).disabling = (m.core i).disabling ∧ (m.closeIfDrained i x).fuse = m.fuse := by
  unfold M.closeIfDrained
  dsimp only
  split
  · split
    · constructor
      · simp only [M.core_modCore_same, M.core_setObjBit, M.releaseCistern, M.core_setObjFld]
      · simp [M.releaseCistern]
    · constructor
      · simp only [M.core_modCore_same, M.core_setObjBit]
      · simp
  · exact ⟨rfl, rfl⟩

theorem M.endChain_core (m : M) (i x : Nat) :
    ((m.endChain i x).core i).disabling = (m.core i).disabling ∧ (m.endChain i x).fuse = m.fuse := by
  unfold M.endChain
  dsimp only
  obtain ⟨h, h'⟩ := M.closeIfDrained_core (m.modCore i fun c =>
    if c.current = x then
      { c with
        active := setBit16 c.active x false, halted := setBit16 c.halted x false, fetch := none, wait := none
        outrider := Outrider.idle, ripple := none }
    else { c with active := setBit16 c.active x false, halted := setBit16 c.halted x false }) i x
  refine ⟨h.trans ?_, h'⟩
  rw [M.core_modCore_same]
  split <;> rfl

/-- A core that does not drain goes on to nothing. -/
theorem M.afterDrain_none (m : M) (i : Nat) (h : (m.core i).disabling = none) : m.afterDrain i = m := by
  unfold M.afterDrain
  simp [h]

end Sys2Proof.Machine
end

