-- ==== Sys2Proof/Laws/Store.lean ====
section
/-! SUPPORT. What a store does to bytes and marks (12_memory_integrity.md R270, R274; 09 R224), and what it leaves alone. -/

namespace Sys2Proof.Machine

/-- Whether an address lies on one of the lines of `n` bytes from `a`. -/
theorem mem_linesOf (a n x : Nat) (hn : 0 < n) : lineOf x ∈ linesOf a n ↔ lineOf a ≤ x ∧ lineOf x < a + n := by
  unfold linesOf lineOf
  rw [if_neg (by omega)]
  simp only [List.mem_map, List.mem_range]
  constructor
  · rintro ⟨i, hi, h⟩
    omega
  · rintro ⟨h1, h2⟩
    exact ⟨x / 64 - a / 64, by omega, by omega⟩

/-- One byte of a store under an enable. -/
def M.putOne (a : Nat) (m : M) (d : (Option Byte × Bool) × Nat) : M :=
  match d.1.1 with
  | some b => m.op (.put (a + d.2) b)
  | none => m

theorem M.putOne_marked (a : Nat) (m : M) (d : (Option Byte × Bool) × Nat) (x : Nat) : (M.putOne a m d).marked x = m.marked x := by
  unfold M.putOne
  split <;> simp

theorem M.puts_marked (a : Nat) (ds : List ((Option Byte × Bool) × Nat)) (m : M) (x : Nat) :
    (ds.foldl (M.putOne a) m).marked x = m.marked x := by
  induction ds generalizing m with
  | nil => rfl
  | cons d r ih => exact (ih _).trans (m.putOne_marked a d x)

theorem M.puts_byte (a : Nat) (ds : List (Option Byte × Bool)) (n : Nat) (m : M) (x : Nat) :
    ((ds.zipIdx n).foldl (M.putOne a) m).byte x =
      if a + n ≤ x ∧ x < a + n + ds.length then ((ds.getD (x - a - n) (none, false)).1).getD (m.byte x) else m.byte x := by
  induction ds generalizing n m with
  | nil => simp
  | cons d r ih =>
    rw [List.zipIdx_cons, List.foldl_cons, ih]
    have e : (M.putOne a m (d, n)).byte x = if x = a + n then d.1.getD (m.byte x) else m.byte x := by
      unfold M.putOne
      cases h : d.1 with
      | none => simp
      | some b =>
        simp only [M.byte_op_put, Option.getD_some]
        by_cases hx : x = a + n
        · simp [hx]
        · simp [hx, Ne.symm hx]
    rw [e]
    by_cases h0 : x = a + n
    · subst h0
      simp
    · by_cases h1 : a + (n + 1) ≤ x ∧ x < a + (n + 1) + r.length
      · have h2 : a + n ≤ x ∧ x < a + n + (d :: r).length := by
          simp only [List.length_cons]
          omega
        have h3 : x - a - n = (x - a - (n + 1)) + 1 := by omega
        rw [if_neg h0, if_pos h1, if_pos h2, h3, List.getD_cons_succ]
      · have h2 : ¬(a + n ≤ x ∧ x < a + n + (d :: r).length) := by
          simp only [List.length_cons]
          omega
        rw [if_neg h0, if_neg h1, if_neg h2]

theorem M.marks_byte (ks : List (Nat × Bool)) (m : M) (x : Nat) :
    (ks.foldl (fun (m : M) k => m.op (.mark k.1 k.2)) m).byte x = m.byte x := by
  induction ks generalizing m with
  | nil => rfl
  | cons k r ih => exact (ih _).trans rfl

theorem M.marks_marked (ls : List Nat) (v : Nat → Bool) (m : M) (x : Nat) :
    ((ls.map fun l => (l, v l)).foldl (fun (m : M) k => m.op (.mark k.1 k.2)) m).marked x =
      if lineOf x ∈ ls then v (lineOf x) else m.marked x := by
  induction ls generalizing m with
  | nil => simp
  | cons l r ih =>
    rw [List.map_cons, List.foldl_cons, ih, M.marked_op_mark]
    by_cases h : lineOf x ∈ r
    · simp [h]
    · by_cases h' : l = lineOf x
      · simp [h'.symm]
      · simp [h, h', Ne.symm h']

theorem M.storeMask_eq (m : M) (a : Nat) (ds : List (Option Byte × Bool)) :
    m.storeMask a ds =
      ((linesOf a ds.length).map fun l =>
        (l, ((ds.drop (l - a)).take (l + 64 - max l a)).any (fun d => d.1.isSome && d.2) ||
          (!(a ≤ l && l + 64 ≤ a + ds.length && ((ds.drop (l - a)).take (l + 64 - max l a)).all fun d => d.1.isSome) &&
            m.marked l))).foldl (fun (m : M) k => m.op (.mark k.1 k.2)) (ds.zipIdx.foldl (M.putOne a) m) := rfl

/-- A byte after a store under an enable. -/
theorem M.byte_storeMask (m : M) (a : Nat) (ds : List (Option Byte × Bool)) (x : Nat) :
    (m.storeMask a ds).byte x =
      if a ≤ x ∧ x < a + ds.length then ((ds.getD (x - a) (none, false)).1).getD (m.byte x) else m.byte x := by
  rw [M.storeMask_eq, M.marks_byte, M.puts_byte]
  rfl

/-- A mark after a store under an enable. -/
theorem M.marked_storeMask (m : M) (a : Nat) (ds : List (Option Byte × Bool)) (x : Nat) :
    (m.storeMask a ds).marked x =
      if lineOf x ∈ linesOf a ds.length then
        ((ds.drop (lineOf x - a)).take (lineOf x + 64 - max (lineOf x) a)).any (fun d => d.1.isSome && d.2) ||
          (!(a ≤ lineOf x && lineOf x + 64 ≤ a + ds.length &&
            ((ds.drop (lineOf x - a)).take (lineOf x + 64 - max (lineOf x) a)).all fun d => d.1.isSome) && m.marked (lineOf x))
      else m.marked x := by
  rw [M.storeMask_eq]
  rw [M.marks_marked (linesOf a ds.length) (fun l => ((ds.drop (l - a)).take (l + 64 - max l a)).any (fun d => d.1.isSome && d.2) ||
          (!(a ≤ l && l + 64 ≤ a + ds.length && ((ds.drop (l - a)).take (l + 64 - max l a)).all fun d => d.1.isSome) &&
            m.marked l)), M.puts_marked]

theorem lineOf_lineOf (x : Nat) : lineOf (lineOf x) = lineOf x := by unfold lineOf; omega

theorem M.marked_lineOf (m : M) (x : Nat) : m.marked (lineOf x) = m.marked x := by
  unfold M.marked
  rw [lineOf_lineOf]

/-- A store of bytes that all carry `p`: a line written whole takes `p`, one written in part keeps its mark and gains it. -/
theorem M.marked_storeMask_map (m : M) (a : Nat) (data : List Byte) (p : Bool) (x : Nat) (hn : 0 < data.length) :
    (m.storeMask a (data.map fun b => (some b, p))).marked x =
      if lineOf a ≤ x ∧ lineOf x < a + data.length then
        p || (!(a ≤ lineOf x && lineOf x + 64 ≤ a + data.length) && m.marked x)
      else m.marked x := by
  rw [M.marked_storeMask, List.length_map]
  by_cases h : lineOf a ≤ x ∧ lineOf x < a + data.length
  · rw [if_pos h, if_pos ((mem_linesOf _ _ _ hn).mpr h), M.marked_lineOf]
    have e1 : ((((data.map fun b => (some b, p)).drop (lineOf x - a)).take (lineOf x + 64 - max (lineOf x) a)).all
        fun d => d.1.isSome) = true := by
      rw [← List.map_drop, ← List.map_take, List.all_map]
      exact List.all_eq_true.mpr fun _ _ => rfl
    have e2 : ((((data.map fun b => (some b, p)).drop (lineOf x - a)).take (lineOf x + 64 - max (lineOf x) a)).any
        fun d => d.1.isSome && d.2) = p := by
      rw [← List.map_drop, ← List.map_take]
      have hne : ((data.drop (lineOf x - a)).take (lineOf x + 64 - max (lineOf x) a)) ≠ [] := by
        intro hnil
        have hl := congrArg List.length hnil
        rw [List.length_take, List.length_drop] at hl
        have h3 : lineOf a ≤ lineOf x := by
          have := h.1
          unfold lineOf at *
          omega
        simp only [List.length_nil] at hl
        unfold lineOf at *
        omega
      cases hc : (data.drop (lineOf x - a)).take (lineOf x + 64 - max (lineOf x) a) with
      | nil => exact absurd hc hne
      | cons b r => cases p <;> simp
    rw [e1, e2, Bool.and_true]
  · rw [if_neg h, if_neg (fun hm => h ((mem_linesOf _ _ _ hn).mp hm))]

/-- A store changes memory alone. -/
structure M.OnlyMem (a b : M) : Prop where
  fuse : b.fuse = a.fuse
  base : b.base = a.base
  dev : b.dev = a.dev

theorem M.OnlyMem.trans {a b c : M} (h : M.OnlyMem a b) (k : M.OnlyMem b c) : M.OnlyMem a c :=
  ⟨k.fuse.trans h.fuse, k.base.trans h.base, k.dev.trans h.dev⟩

theorem M.onlyMem_foldl {α : Type} (f : M → α → M) (hf : ∀ m a, M.OnlyMem m (f m a)) (l : List α) (m : M) :
    M.OnlyMem m (l.foldl f m) := by
  induction l generalizing m with
  | nil => exact ⟨rfl, rfl, rfl⟩
  | cons a r ih => exact (hf m a).trans (ih _)

theorem M.onlyMem_storeMask (m : M) (a : Nat) (ds : List (Option Byte × Bool)) : M.OnlyMem m (m.storeMask a ds) := by
  rw [M.storeMask_eq]
  refine M.OnlyMem.trans (M.onlyMem_foldl (M.putOne a) (fun m d => ?_) ds.zipIdx m) (M.onlyMem_foldl (fun (m : M) (k : Nat × Bool) => m.op (.mark k.1 k.2)) (fun m k => ⟨rfl, rfl, rfl⟩) _ _)
  unfold M.putOne
  split <;> exact ⟨rfl, rfl, rfl⟩

/-! ## Windows of the Bazaar that a store closes -/

/-- The devices differ in the outputs and the open windows. -/
structure M.Delivered (a b : M) : Prop where
  fuse : b.fuse = a.fuse
  base : b.base = a.base
  ops : b.ops = a.ops
  dev : ∃ sent windows, b.dev = { a.dev with sent := sent, windows := windows }

theorem M.delivered_closeWindows (m : M) (a n : Nat) : M.Delivered m (m.closeWindows a n) := by
  unfold M.closeWindows
  dsimp only
  have h : ∀ (l : List Window) (m : M), M.Delivered m (l.foldl (fun (m : M) w => m.deliverLine w.line w.joined) m) := by
    intro l
    induction l with
    | nil => exact fun m => ⟨rfl, rfl, rfl, _, _, rfl⟩
    | cons w r ih =>
      intro m
      obtain ⟨h1, h2, h3, s, ws, h4⟩ := ih (m.deliverLine w.line w.joined)
      exact ⟨h1, h2, h3, s, ws, h4⟩
  obtain ⟨h1, h2, h3, s, ws, h4⟩ := h (m.dev.windows.filter fun w => decide (a < w.line + 256) && decide (w.line < a + n)) m
  refine ⟨h1, h2, h3, s, ws.filter fun w => !(decide (a < w.line + 256) && decide (w.line < a + n)), ?_⟩
  dsimp only
  rw [h4]

theorem M.Delivered.byte {a b : M} (h : M.Delivered a b) (x : Nat) : b.byte x = a.byte x := by
  unfold M.byte
  rw [h.ops, h.base]

theorem M.Delivered.marked {a b : M} (h : M.Delivered a b) (x : Nat) : b.marked x = a.marked x := by
  unfold M.marked
  rw [h.ops, h.base]

theorem M.Delivered.obj {a b : M} (h : M.Delivered a b) (i j : Nat) : b.obj i j = a.obj i j := by
  obtain ⟨h1, _, _, s, ws, h4⟩ := h
  unfold M.obj
  rw [h1, h4]

/-- A store at a local address of a device that is no secondary. -/
theorem M.putLocal_eq (m : M) (src a : Nat) (ds : List (Option Byte × Bool)) (h : m.mirrorRole ≠ 2) :
    m.putLocal src a ds = (m.closeWindows a ds.length).storeMask a ds := by
  unfold M.putLocal
  have e : (m.closeWindows a ds.length).mirrorRole = m.mirrorRole := by
    unfold M.mirrorRole M.objFld
    rw [(m.delivered_closeWindows a ds.length).obj]
  simp [e, h]

end Sys2Proof.Machine
end

