-- ==== Sys2Proof/Laws/Job.lean ====
section
/-! SUPPORT. What a manifest's work can change (06_manifest_execution.md R125; 07 R162 to R177): memory, its own counts and merges,
its Cistern, the windows it closes and, on a secondary, the fault log; nothing else. -/

namespace Sys2Proof.Machine

/-- A store at a local address: memory, the Bazaar's windows, the outputs, and what an entry of the fault log changes. -/
structure M.Wrote (a b : M) : Prop where
  fuse : b.fuse = a.fuse
  base : b.base = a.base
  dev : ∃ fresh sent devSeq objs host faults buckets windows,
    b.dev = { a.dev with
      fresh := fresh, sent := sent, devSeq := devSeq, objs := objs, host := host, faults := faults, buckets := buckets,
      windows := windows }
  obj : ∀ i j, j < 256 → i ≠ 0x7100 → b.obj i j = a.obj i j

theorem M.Wrote.refl (a : M) : M.Wrote a a := ⟨rfl, rfl, ⟨_, _, _, _, _, _, _, _, rfl⟩, fun _ _ _ _ => rfl⟩

theorem M.Wrote.trans {a b c : M} (h : M.Wrote a b) (k : M.Wrote b c) : M.Wrote a c := by
  obtain ⟨h1, h2, ⟨f1, s1, d1, o1, p1, q1, b1, w1, h4⟩, h5⟩ := h
  obtain ⟨k1, k2, ⟨f2, s2, d2, o2, p2, q2, b2, w2, k4⟩, k5⟩ := k
  exact ⟨k1.trans h1, k2.trans h2, ⟨f2, s2, d2, o2, p2, q2, b2, w2, by rw [k4, h4]⟩,
    fun i j hj hi => (k5 i j hj hi).trans (h5 i j hj hi)⟩

theorem M.Wrote.core {a b : M} (h : M.Wrote a b) (i : Nat) : b.core i = a.core i := by
  obtain ⟨_, _, ⟨_, _, _, _, _, _, _, _, e⟩, _⟩ := h
  unfold M.core
  rw [e]

theorem M.Wrote.link {a b : M} (h : M.Wrote a b) (i : Nat) : b.link i = a.link i := by
  obtain ⟨_, _, ⟨_, _, _, _, _, _, _, _, e⟩, _⟩ := h
  unfold M.link
  rw [e]

theorem M.Wrote.lq {a b : M} (h : M.Wrote a b) (i : Nat) : b.lq i = a.lq i := by
  obtain ⟨_, _, ⟨_, _, _, _, _, _, _, _, e⟩, _⟩ := h
  unfold M.lq
  rw [e]

theorem M.wrote_logFault (m : M) (code subject data reason clk : Nat) : M.Wrote m (m.logFault code subject data reason clk) := by
  have k := m.kept_logFault code subject data reason clk
  obtain ⟨f, s, d, o, p, q, b, e⟩ := k.dev
  exact ⟨k.fuse, k.base, ⟨f, s, d, o, p, q, b, _, e⟩, fun i j hj hi => M.obj_logFault m _ _ _ _ _ i j hi hj⟩

theorem M.wrote_of_delivered {a b : M} (h : M.Delivered a b) : M.Wrote a b := by
  obtain ⟨s, w, e⟩ := h.dev
  exact ⟨h.fuse, h.base, ⟨_, s, _, _, _, _, _, w, e⟩, fun i j _ _ => h.obj i j⟩

theorem M.wrote_of_onlyMem {a b : M} (h : M.OnlyMem a b) : M.Wrote a b := by
  refine ⟨h.fuse, h.base, ⟨_, _, _, _, _, _, _, _, by rw [h.dev]⟩, fun i j _ _ => ?_⟩
  unfold M.obj
  rw [h.fuse, h.dev]

/-- Everything a store at a local address can do. -/
theorem M.wrote_putLocal (m : M) (src a : Nat) (ds : List (Option Byte × Bool)) : M.Wrote m (m.putLocal src a ds) := by
  unfold M.putLocal
  dsimp only
  have k := M.wrote_of_delivered (m.delivered_closeWindows a ds.length)
  split
  · exact k.trans ((M.wrote_of_onlyMem (M.onlyMem_storeMask _ _ _)).trans (M.wrote_logFault _ _ _ _ _ _))
  · exact k.trans (M.wrote_of_onlyMem (M.onlyMem_storeMask _ _ _))

/-- What a manifest's work on its core leaves: its counts and merges, its Cistern, memory. -/
structure Job.Keeps (a b : Job) : Prop where
  core : b.core = a.core
  fuse : b.m.fuse = a.m.fuse
  slot : ∃ tr ps ex mg, b.s = { a.s with trCount := tr, poisonCount := ps, excCount := ex, merges := mg }
  own : ∃ cis bad rp og, b.m.core a.core =
    { a.m.core a.core with cistern := cis, cisPoison := bad, ripple := rp, outrider := og }
  others : ∀ i, i ≠ a.core → b.m.core i = a.m.core i
  objs : ∀ i j, j < 256 → i ≠ 0x7100 → b.m.obj i j = a.m.obj i j
  links : ∀ l, b.m.link l = a.m.link l
  lqs : ∀ n, b.m.lq n = a.m.lq n

theorem Job.Keeps.refl (a : Job) : Job.Keeps a a :=
  ⟨rfl, rfl, ⟨_, _, _, _, rfl⟩, ⟨_, _, _, _, rfl⟩, fun _ _ => rfl, fun _ _ _ _ => rfl, fun _ => rfl, fun _ => rfl⟩

theorem Job.Keeps.trans {a b c : Job} (h : Job.Keeps a b) (k : Job.Keeps b c) : Job.Keeps a c := by
  obtain ⟨h1, h2, ⟨t1, p1, e1, g1, h3⟩, ⟨c1, b1, r1, x1, h4⟩, h5, h6, h7, h8⟩ := h
  obtain ⟨k1, k2, ⟨t2, p2, e2, g2, k3⟩, ⟨c2, b2, r2, x2, k4⟩, k5, k6, k7, k8⟩ := k
  refine ⟨k1.trans h1, k2.trans h2, ⟨t2, p2, e2, g2, by rw [k3, h3]⟩, ⟨c2, b2, r2, x2, ?_⟩, fun i hi => ?_, fun i j hj hi => ?_,
    fun l => (k7 l).trans (h7 l), fun n => (k8 n).trans (h8 n)⟩
  · rw [← h1, k4, h1, h4]
  · rw [k5 i (by rw [h1]; exact hi), h5 i hi]
  · rw [k6 i j hj hi, h6 i j hj hi]

/-- A change of the manifest's counts or merges alone. -/
theorem Job.keeps_slot (j : Job) (s : Slot) (h : ∃ tr ps ex mg, s = { j.s with trCount := tr, poisonCount := ps, excCount := ex, merges := mg }) :
    Job.Keeps j { j with s := s } :=
  ⟨rfl, rfl, h, ⟨_, _, _, _, rfl⟩, fun _ _ => rfl, fun _ _ _ _ => rfl, fun _ => rfl, fun _ => rfl⟩

theorem Job.keeps_tr (j : Job) (n : Nat) : Job.Keeps j (j.tr n) := j.keeps_slot _ ⟨_, _, _, _, rfl⟩
theorem Job.keeps_touch (j : Job) (a n : Nat) : Job.Keeps j (j.touch a n) := j.keeps_tr _
theorem Job.keeps_poison (j : Job) (n : Nat) : Job.Keeps j (j.poison n) := j.keeps_slot _ ⟨_, _, _, _, rfl⟩
theorem Job.keeps_exc (j : Job) (n : Nat) : Job.Keeps j (j.exc n) := j.keeps_slot _ ⟨_, _, _, _, rfl⟩

/-- A store by the manifest. -/
theorem Job.keeps_wrote (j : Job) (m : M) (h : M.Wrote j.m m) : Job.Keeps j { j with m := m } :=
  ⟨rfl, h.fuse, ⟨_, _, _, _, rfl⟩, ⟨_, _, _, _, h.core _⟩, fun i _ => h.core i, h.obj, h.link, h.lq⟩

theorem Job.keeps_foldl {α : Type} (f : Job → α → Job) (hf : ∀ j a, Job.Keeps j (f j a)) (l : List α) (j : Job) :
    Job.Keeps j (l.foldl f j) := by
  induction l generalizing j with
  | nil => exact Job.Keeps.refl j
  | cons a r ih => exact (hf j a).trans (ih _)

theorem Job.keeps_each (j : Job) (f : Job → Nat → Job) (hf : ∀ j k, Job.Keeps j (f j k)) : Job.Keeps j (j.each f) :=
  Job.keeps_foldl f hf _ j

theorem Job.keeps_write (j : Job) (a : Nat) (ds : List (Byte × Bool)) : Job.Keeps j (j.write a ds) := by
  unfold Job.write
  refine Job.keeps_foldl _ (fun j l => ?_) _ j
  dsimp only
  split
  · exact j.keeps_wrote _ (M.wrote_putLocal _ _ _ _)
  · exact j.keeps_tr 1

theorem Job.keeps_writeMap (j : Job) (f : Nat → Nat) (a : Nat) (ds : List (Byte × Bool)) : Job.Keeps j (j.writeMap f a ds) := by
  unfold Job.writeMap
  exact Job.keeps_foldl _ (fun j l => j.keeps_write _ _) _ j

theorem Slot.mergeOut_eq (s : Slot) (g : Nat) (vs : List Elem) (cl : List Bool) : ∃ mg, s.mergeOut g vs cl = { s with merges := mg } := by
  unfold Slot.mergeOut
  dsimp only
  split
  · exact ⟨_, rfl⟩
  · exact ⟨_, rfl⟩

theorem Job.keeps_roundRow (j : Job) (f : Fmt) (own : Frac) (e0 : Nat) (vs : List Elem) :
    Job.Keeps j (j.roundRow f own e0 vs).1 := by
  have h : ∀ (st : Job × List (Nat × Bool) × List Nat → Nat × List Elem → Job × List (Nat × Bool) × List Nat)
      (_ : ∀ a p, Job.Keeps a.1 (st a p).1) (l : List (Nat × List Elem)) (a : Job × List (Nat × Bool) × List Nat),
      Job.Keeps a.1 (l.foldl st a).1 := by
    intro st hst l
    induction l with
    | nil => exact fun a => Job.Keeps.refl _
    | cons p r ih => exact fun a => (hst a p).trans (ih _)
  unfold Job.roundRow
  refine h _ (fun a p => ?_) _ (j, [], [])
  dsimp only
  obtain ⟨mg, e⟩ := Slot.mergeOut_eq a.1.s (groupOfOut j.s.words p.1) p.2
    (quantRow f (ctlOf j.s.words) (calFloor j.s.words) (a.1.s.destScale own (groupOfOut j.s.words p.1))
      (fun e => if stochastic j.s.words then (j.m.ctx j.core j.s.ctx).draw e else 0) p.1 p.2).clips
  exact (a.1.keeps_slot _ ⟨_, _, _, mg, e⟩).trans ((Job.keeps_exc _ _).trans (Job.keeps_poison _ _))

theorem Job.keeps_outRowMap (j : Job) (amap : Nat → Nat) (f : Fmt) (own : Frac) (e0 : Nat) (vs : List Elem) (ea sa : Nat) :
    Job.Keeps j (j.outRowMap amap f own e0 vs ea sa) := by
  unfold Job.outRowMap
  dsimp only
  split
  · exact (j.keeps_roundRow _ _ _ _).trans ((Job.keeps_writeMap _ _ _ _).trans (Job.keeps_writeMap _ _ _ _))
  · exact (j.keeps_roundRow _ _ _ _).trans (Job.keeps_writeMap _ _ _ _)

theorem Job.keeps_outRow (j : Job) (f : Fmt) (own : Frac) (e0 : Nat) (vs : List Elem) (ea sa : Nat) :
    Job.Keeps j (j.outRow f own e0 vs ea sa) := j.keeps_outRowMap _ _ _ _ _ _ _

theorem Job.keeps_outWord (j : Job) (a : Nat) (l : LA) : Job.Keeps j (j.outWord a l) :=
  (j.keeps_poison _).trans (Job.keeps_write _ _ _)

theorem Job.keeps_setCis (j : Job) (e v : Nat) (p : Bool) : Job.Keeps j { j with m := j.m.setCis j.core e v p } := by
  refine ⟨rfl, rfl, ⟨_, _, _, _, rfl⟩, ⟨_, _, _, _, M.core_modCore_same _ _ _⟩, fun i hi => ?_, fun _ _ _ _ => rfl, fun _ => rfl, fun _ => rfl⟩
  unfold M.setCis
  dsimp only
  rw [M.core_modCore, if_neg hi]

theorem Job.keeps_cisAdd (j : Job) (e : Nat) (v : Elem) : Job.Keeps j (j.cisAdd e v) := by
  unfold Job.cisAdd
  dsimp only
  split
  · exact (j.keeps_setCis _ _ _).trans (Job.keeps_poison _ _)
  · exact (j.keeps_setCis _ _ _).trans (Job.keeps_exc _ _)

/-! ## The kinds whose work is done at once -/

theorem Job.keeps_matrixRow (j : Job) (k : Nat) : Job.Keeps j (j.matrixRow k) := by
  unfold Job.matrixRow
  dsimp only
  split
  · exact (j.keeps_exc _).trans (Job.keeps_outRow _ _ _ _ _ _ _)
  · exact (j.keeps_exc _).trans (Job.keeps_foldl _ (fun j q => Job.keeps_foldl _ (fun j w => j.keeps_outWord _ _) _ j) _ _)
  · exact (j.keeps_exc _).trans (Job.keeps_foldl _ (fun j w => j.keeps_cisAdd _ _) _ _)

theorem Job.keeps_matrix (j : Job) : Job.Keeps j j.matrix := by
  have k := j.keeps_each (fun j k => j.matrixRow k) fun j k => j.keeps_matrixRow k
  unfold Job.matrix
  dsimp only
  split
  · refine k.trans ⟨rfl, rfl, ⟨_, _, _, _, rfl⟩, ⟨_, _, _, _, M.core_modCore_same _ _ _⟩, fun i hi => ?_, fun _ _ _ _ => rfl,
      fun _ => rfl, fun _ => rfl⟩
    dsimp only
    rw [M.core_modCore, if_neg hi]
  · exact k

theorem Job.keeps_vecOut (j : Job) (k : Nat) (vs : List Elem) : Job.Keeps j (j.vecOut k vs) :=
  (j.keeps_exc _).trans (Job.keeps_outRow _ _ _ _ _ _ _)

theorem Job.keeps_funcAll (j : Job) : Job.Keeps j j.funcAll :=
  (j.keeps_exc _).trans (Job.keeps_each _ _ fun j _ => j.keeps_vecOut _ _)

theorem Job.keeps_route (j : Job) (k : Nat) : Job.Keeps j (j.route k) :=
  (j.keeps_exc _).trans ((Job.keeps_poison _ _).trans (Job.keeps_write _ _ _))

theorem Job.keeps_scoreRow (j : Job) (k : Nat) : Job.Keeps j (j.scoreRow k) := by
  unfold Job.scoreRow
  dsimp only
  by_cases h : (wd j.s.words 12 != 0) = true
  · simp only [h, if_true]
    exact (j.keeps_exc _).trans ((Job.keeps_touch _ _ _).trans (Job.keeps_outRow _ _ _ _ _ _ _))
  · simp only [h]
    exact (j.keeps_exc _).trans (Job.keeps_outRow _ _ _ _ _ _ _)

theorem Job.keeps_softmaxIter (j : Job) (k : Nat) : Job.Keeps j (j.softmaxIter k) := by
  unfold Job.softmaxIter
  dsimp only
  split
  · exact (j.keeps_touch _ _).trans ((Job.keeps_outRow _ _ _ _ _ _ _).trans
      ((Job.keeps_poison _ _).trans (Job.keeps_write _ _ _)))
  · exact (j.keeps_touch _ _).trans (Job.keeps_outRow _ _ _ _ _ _ _)

theorem Job.keeps_combineIter (j : Job) (k : Nat) : Job.Keeps j (j.combineIter k) := by
  unfold Job.combineIter
  dsimp only
  split
  · exact (j.keeps_exc _).trans (Job.keeps_outRow _ _ _ _ _ _ _)
  · exact (j.keeps_exc _).trans (Job.keeps_foldl _ (fun j o => j.keeps_outWord _ _) _ _)

theorem Job.keeps_foldRow (j : Job) (k r : Nat) : Job.Keeps j (j.foldRow k r) := by
  unfold Job.foldRow
  dsimp only
  by_cases h : wb j.s.words 8 18 = true
  · simp only [h, if_true]
    exact (j.keeps_touch _ _).trans (Job.keeps_outRow _ _ _ _ _ _ _)
  · simp only [h]
    exact Job.keeps_outRow _ _ _ _ _ _ _

theorem Job.keeps_readBroadcast (j : Job) (k : Nat) : Job.Keeps j (j.readBroadcast k) := by
  unfold Job.readBroadcast
  by_cases h : scaledAt j.s.words 11 = true
  · simp only [h, if_true]
    exact (j.keeps_touch _ _).trans ((Job.keeps_touch _ _ _).trans (Job.keeps_exc _ _))
  · simp only [h]
    exact (j.keeps_touch _ _).trans (Job.keeps_exc _ _)

theorem Job.keeps_macIter (j : Job) (k : Nat) : Job.Keeps j (j.macIter k) :=
  (j.keeps_readBroadcast k).trans ((Job.keeps_exc _ _).trans (Job.keeps_outRow _ _ _ _ _ _ _))

theorem Job.keeps_inPlaceIter (f : Val → Val → Val) (j : Job) (k : Nat) : Job.Keeps j (j.inPlaceIter f k) := by
  unfold Job.inPlaceIter
  refine (j.keeps_readBroadcast k).trans (Job.keeps_foldl _ (fun j x => ?_) _ _)
  dsimp only
  split
  · exact j.keeps_poison _
  · exact (j.keeps_exc _).trans (Job.keeps_outRowMap _ _ _ _ _ _ _ _)

theorem Job.keeps_cmpIter (j : Job) (k : Nat) : Job.Keeps j (j.cmpIter k) :=
  (j.keeps_readBroadcast k).trans ((Job.keeps_exc _ _).trans ((Job.keeps_poison _ _).trans (Job.keeps_write _ _ _)))

theorem Job.keeps_kvIter (j : Job) (k : Nat) : Job.Keeps j (j.kvIter k) := by
  unfold Job.kvIter
  exact (j.keeps_touch _ _).trans ((Job.keeps_exc _ _).trans ((Job.keeps_roundRow _ _ _ _ _).trans
    ((Job.keeps_write _ _ _).trans (Job.keeps_write _ _ _))))

theorem Job.keeps_consume (j : Job) (a n : Nat) : Job.Keeps j (j.consume a n) := by
  refine ⟨rfl, rfl, ⟨_, _, _, _, rfl⟩, ⟨_, _, _, _, M.core_modCore_same _ _ _⟩, fun i hi => ?_, fun _ _ _ _ => rfl, fun _ => rfl, fun _ => rfl⟩
  unfold Job.consume
  dsimp only
  rw [M.core_modCore, if_neg hi]

theorem Job.keeps_moveIter (j : Job) (k : Nat) : Job.Keeps j (j.moveIter k) := by
  unfold Job.moveIter
  dsimp only
  split
  · exact Job.Keeps.refl j
  · split
    · exact (j.keeps_touch _ _).trans ((Job.keeps_poison _ _).trans (Job.keeps_write _ _ _))
    · exact (j.keeps_touch _ _).trans (Job.keeps_poison _ _)

theorem Job.keeps_tileIter (j : Job) (k : Nat) : Job.Keeps j (j.tileIter k) := by
  unfold Job.tileIter
  dsimp only
  split
  · exact (Job.keeps_foldl _ (fun j r => (j.keeps_touch _ _).trans (Job.keeps_poison _ _)) _ j).trans (Job.keeps_write _ _ _)
  · exact j.keeps_write _ _

/-- The generator's key is the seed of a manifest that rounds stochastically (R71). -/
theorem Job.seed_core (j : Job) : ∃ cs, j.seed.m.core j.core = { j.m.core j.core with ctxs := cs } := by
  unfold Job.seed
  split
  · exact ⟨_, by rw [M.modCtx, M.core_modCore_same]; rfl⟩
  · exact ⟨_, rfl⟩

theorem Job.seed_only (j : Job) : OnlyCore j.m j.seed.m j.core ∧ j.seed.core = j.core ∧ j.seed.s = j.s := by
  unfold Job.seed
  split
  · dsimp only
    exact ⟨OnlyCore.modCtx _ _ _ _, rfl, rfl⟩
  · exact ⟨OnlyCore.refl _ _, rfl, rfl⟩

/-- A manifest as its work finds it: out of the ready slot, its context's generator set. -/
structure M.Entered (m : M) (i : Nat) (sl : Slot) (j : Job) : Prop where
  core : j.core = i
  slot : j.s = { sl with phase := .done, progress := totalIters sl.words }
  only : OnlyCore m j.m i
  own : ∃ cs, j.m.core i = { m.core i with ready := none, ripple := none, outrider := (m.core i).outrider.advance, ctxs := cs }
  dev : j.m.dev = { m.dev with cores := j.m.dev.cores }
  parked : ∀ e ∈ (j.m.core i).ctxs, ∀ q, e.2.parkedRun = some q → ∃ e' ∈ (m.core i).ctxs, e'.2.parkedRun = some q

/-- The run slot's manifest after its work. -/
def Job.settle (j : Job) (i : Nat) : M :=
  ({ j.m with dev := { j.m.dev with fresh := j.m.dev.fresh + 1 } } : M).modCore i fun c => { c with run := some j.s }

/-- A valid manifest of the ready slot that may run does: `f` works on it, `g` sends. -/
theorem M.runThen_run (m : M) (i k : Nat) (sl : Slot) (p : List W64 → Bool) (f : Job → Job) (g : M → Slot → M)
    (h : m.MayRun i sl k) (hp : p sl.words = true) :
    ∃ j, m.Entered i sl j ∧ m.runThen i k p f g = g ((f j).settle i) (f j).s := by
  obtain ⟨h1, h2, h3, h4, h5, h6, h7⟩ := h
  have hr : (m.core i).runnable k p = some sl := by
    unfold Core.runnable
    simp only [h2, h3, h4, h5, h6, hp]
    simp
  generalize hm1 : (m.modCore i fun c => { c with ready := none, ripple := none, outrider := c.outrider.advance }) = m1
  generalize hj : ({ m := m1, core := i, s := { sl with phase := .done, progress := totalIters sl.words } } : Job) = j
  refine ⟨j.seed, ?_, ?_⟩
  · have j1 : j.core = i := by rw [← hj]
    have j2 : j.m = m1 := by rw [← hj]
    have j3 : j.s = { sl with phase := .done, progress := totalIters sl.words } := by rw [← hj]
    obtain ⟨o, s2, s3⟩ := j.seed_only
    obtain ⟨cs, s4⟩ := j.seed_core
    have c1 : m1.core i = { m.core i with ready := none, ripple := none, outrider := (m.core i).outrider.advance } := by
      rw [← hm1, M.core_modCore_same]
    have o1 : OnlyCore m m1 i := by
      rw [← hm1]
      exact OnlyCore.modCore _ _ _
    rw [j1, j2] at o s4
    refine ⟨s2.trans j1, s3.trans j3, o1.trans o, ⟨cs, by rw [s4, c1]⟩, ?_, ?_⟩
    · rw [← hj, ← hm1]
      unfold Job.seed
      split <;> rfl
    · have k : j.m.core i = { m.core i with ready := none, ripple := none, outrider := (m.core i).outrider.advance } := by rw [j2, c1]
      intro e he q hq
      unfold Job.seed at he
      split at he
      · dsimp only at he
        unfold M.modCtx at he
        rw [j1, M.core_modCore_same, k] at he
        rcases Tab.mem_put _ _ _ _ he with he | he
        · exact ⟨e, he, hq⟩
        · rw [he] at hq
          rcases Tab.mem_get (m.core i).ctxs CtxRegs.zero j.s.ctx with h0 | h0
          · have : (Tab.get (m.core i).ctxs CtxRegs.zero j.s.ctx).parkedRun = some q := hq
            rw [h0] at this
            exact absurd this (by simp [CtxRegs.zero])
          · exact ⟨_, h0, hq⟩
      · rw [k] at he
        exact ⟨e, he, hq⟩
  · unfold M.runThen
    rw [if_neg (by simp [h1]), hr]
    dsimp only
    rw [if_neg (by simp [h7]), hm1, hj]
    rfl

/-- What the settled manifest's device shows, where its work keeps what `Keeps` says. -/
theorem M.Entered.settled {m : M} {i : Nat} {sl : Slot} {j j' : Job} (e : m.Entered i sl j) (k : Job.Keeps j j') :
    (j'.settle i).fuse = m.fuse ∧ m.StandsDone (j'.settle i) i sl := by
  obtain ⟨e1, e2, o, ⟨cs, e4⟩, -, -⟩ := e
  obtain ⟨tr, ps, ex, mg, k3⟩ := k.slot
  obtain ⟨cis, bad, rp, og, k4⟩ := k.own
  rw [e1, e4] at k4
  unfold Job.settle
  refine ⟨?_, ?_, ⟨tr, ps, ex, mg, ?_⟩, ?_, ?_, ?_, ?_, ?_⟩
  · show j'.m.fuse = _
    rw [k.fuse, o.fuse]
  · rw [M.core_modCore_same]
    show (j'.m.core i).ready = none
    rw [k4]
  · rw [M.core_modCore_same, k3, e2]
  · rw [M.core_modCore_same]
    show (j'.m.core i).active = _ ∧ (j'.m.core i).halted = _ ∧ (j'.m.core i).flags = _ ∧
      (j'.m.core i).fetch = _ ∧ (j'.m.core i).wait = _
    rw [k4]
    exact ⟨rfl, rfl, rfl, rfl, rfl⟩
  · intro a b hb ha _
    show j'.m.obj a b = _
    rw [k.objs a b hb ha, o.objs]
  · intro a ha
    have ha' : a ≠ i := by simpa using ha
    rw [M.core_modCore, if_neg ha']
    show j'.m.core a = _
    rw [k.others a (by rw [e1]; exact ha'), o.core a ha']
  · intro l _
    show j'.m.link l = _
    rw [k.links, o.links]
  · intro n _
    show j'.m.lq n = _
    rw [k.lqs, o.lqs]

/-- A valid manifest of the ready slot that may run does, and stands done in the run slot; its work changes what `Keeps` says. -/
theorem M.runKind_done (m : M) (i k : Nat) (sl : Slot) (p : List W64 → Bool) (f : Job → Job) (h : m.MayRun i sl k)
    (hp : p sl.words = true) (hf : ∀ j, Job.Keeps j (f j)) :
    (m.runKind i k p f).fuse = m.fuse ∧ m.StandsDone (m.runKind i k p f) i sl := by
  obtain ⟨j, e, hr⟩ := m.runThen_run i k sl p f (fun m _ => m) h hp
  unfold M.runKind
  rw [hr]
  exact e.settled (hf j)

end Sys2Proof.Machine
end

