-- ==== Sys2Proof/Laws/Owner.lean ====
section
/-! SUPPORT. A field that a party writes by itself: what it takes for the write to be applied, and to be rejected. -/

namespace Sys2Proof.Machine

/-- Fields that take any value neither refuse nor clamp one. -/
theorem takesAny (fs : List FieldSpec) (h : ∀ f ∈ fs, ∀ x, f.rule.judge x = some x) (v : Nat) :
    (fs.any fun f => (f.rule.judge (fld v f.hi f.lo)).isNone) = false ∧
      fs.foldl (fun acc f => setFld acc f.hi f.lo ((f.rule.judge (fld v f.hi f.lo)).getD 0)) v = v := by
  constructor
  · rw [List.any_eq_false]
    intro f hf
    rw [h f hf]
    simp
  · induction fs with
    | nil => rfl
    | cons f r ih =>
      rw [List.foldl_cons, h f List.mem_cons_self, Option.getD_some, setFld_self]
      exact ih fun g hg => h g (List.mem_cons_of_mem _ hg)

/-- An accepted write. -/
theorem applies_of {c : Instr} {s : State} {p : Party} {idx sub : Nat} {v : M → Nat} {o : ObjSpec} {g : M → M}
    (e : exec c s = s.run fun m => m.partyWrite p idx sub (v m)) (h1 : (M.of s).hears p = true) (h2 : (M.of s).responder = false)
    (h3 : o.o = true → (M.of s).dev.led.owner = some p) (ho : objSpec idx sub = some o) (hu : (M.of s).unavailable idx false = false)
    (hw : o.w = true) (hr : o.reservedSet (v (M.of s)) = false) (hb : o.badCode (v (M.of s)) = false)
    (hc : o.clampAll (v (M.of s)) = v (M.of s))
    (ha : (M.of s).applyField p idx sub o (v (M.of s)) = (0, g (M.of s))) : Applies c s idx sub (v (M.of s)) g := by
  refine does_of e ?_
  have hn : (o.o && ((M.of s).dev.led.owner ≠ some p : Bool)) = false := by
    cases h : o.o with
    | false => rfl
    | true => rw [h3 h]; simp
  have hf : (M.of s).writeField p idx sub o.size (v (M.of s)) = (0, 0, g (M.of s)) := by
    unfold M.writeField
    rw [ho]
    dsimp only
    rw [if_neg (by simp [h2, hu]), if_neg (by simp [hw]), if_neg (by rw [hn]; simp), if_neg (by simp), if_neg (by simp [hr]),
      if_neg (by simp [hb]), hc, ha]
    simp
  unfold M.partyWrite M.reported
  rw [if_neg (by simp [h1]), ho]
  dsimp only
  rw [hf]

/-- A write that the object's own rule refuses. -/
theorem rejects_of {c : Instr} {s : State} {p : Party} {idx sub : Nat} {v : M → Nat} {o : ObjSpec} {n : Nat}
    (e : exec c s = s.run fun m => m.partyWrite p idx sub (v m)) (h1 : (M.of s).hears p = true) (h2 : (M.of s).responder = false)
    (h3 : o.o = true → (M.of s).dev.led.owner = some p) (ho : objSpec idx sub = some o) (hu : (M.of s).unavailable idx false = false)
    (hw : o.w = true) (hr : o.reservedSet (v (M.of s)) = false) (hb : o.badCode (v (M.of s)) = false) (hn : n ≠ 0)
    (ha : (M.of s).applyField p idx sub o (o.clampAll (v (M.of s))) = (n, M.of s)) : Rejects c s idx sub (v (M.of s)) n := by
  refine does_of e ?_
  have hn' : (o.o && ((M.of s).dev.led.owner ≠ some p : Bool)) = false := by
    cases h : o.o with
    | false => rfl
    | true => rw [h3 h]; simp
  have hf : (M.of s).writeField p idx sub o.size (v (M.of s)) = (2, n, M.of s) := by
    unfold M.writeField
    rw [ho]
    dsimp only
    rw [if_neg (by simp [h2, hu]), if_neg (by simp [hw]), if_neg (by rw [hn']; simp), if_neg (by simp), if_neg (by simp [hr]),
      if_neg (by simp [hb]), ha, if_pos hn]
  unfold M.partyWrite M.reported
  rw [if_neg (by simp [h1]), ho]
  dsimp only
  rw [hf]

/-- A write by a party that is not the owner (R359 row 4). -/
theorem rejects_notOwner {c : Instr} {s : State} {p : Party} {idx sub : Nat} {v : M → Nat} {o : ObjSpec}
    (e : exec c s = s.run fun m => m.partyWrite p idx sub (v m)) (h1 : (M.of s).hears p = true) (h2 : (M.of s).responder = false)
    (h3 : (M.of s).dev.led.owner ≠ some p) (ho : objSpec idx sub = some o) (hu : (M.of s).unavailable idx false = false)
    (hw : o.w = true) (hoo : o.o = true) : Rejects c s idx sub (v (M.of s)) 3 := by
  refine does_of e ?_
  have hf : (M.of s).writeField p idx sub o.size (v (M.of s)) = (2, 3, M.of s) := by
    unfold M.writeField
    rw [ho]
    dsimp only
    rw [if_neg (by simp [h2, hu]), if_neg (by simp [hw]), if_pos (by rw [hoo, decide_eq_true h3]; rfl)]
    rfl
  unfold M.partyWrite M.reported
  rw [if_neg (by simp [h1]), ho]
  dsimp only
  rw [hf]

end Sys2Proof.Machine
end

