-- ==== Sys2Proof/Laws/Settle.lean ====
section
/-! SUPPORT. A manifest at work: what settling its slot leaves alone, what entering keeps, and the layer quadrants a step is given to. -/

namespace Sys2Proof.Machine

theorem Core.mapWaiters_zero (p : Slot → Bool) (f : Slot → Slot) : Core.zero.mapWaiters p f = Core.zero := rfl

theorem M.core_mapWaiters (m : M) (p : Slot → Bool) (f : Slot → Slot) (i : Nat) :
    (m.mapWaiters p f).core i = (m.core i).mapWaiters p f := Tab.get_map m.dev.cores Core.zero i (fun c => c.mapWaiters p f) (Core.mapWaiters_zero p f)

theorem Job.waits_core (j : Job) : j.waits.m.core = j.m.core := rfl

theorem M.Entered.fab {m : M} {i : Nat} {sl : Slot} {j : Job} (e : m.Entered i sl j) : j.m.dev.fab = m.dev.fab ∧ j.m.dev.readyCtr = m.dev.readyCtr := by
  constructor <;> rw [e.dev]

theorem Job.settle_core (j : Job) (i : Nat) : (j.settle i).core i = { j.m.core i with run := some j.s } := by
  unfold Job.settle; rw [M.core_modCore_same]; rfl

theorem Job.settle_core_ne (j : Job) (i a : Nat) (h : a ≠ i) : (j.settle i).core a = j.m.core a := by
  unfold Job.settle; rw [M.core_modCore, if_neg h]; rfl

theorem Job.settle_dev (j : Job) (i : Nat) : (j.settle i).dev = { j.m.dev with fresh := j.m.dev.fresh + 1, cores := (j.settle i).dev.cores } := rfl

theorem M.releaseBarrier_lqs (m : M) (g : Nat) (t : Bool) : (m.releaseBarrier g t).dev.lqs = m.dev.lqs := rfl

theorem Job.settle_link (j : Job) (i x : Nat) : (j.settle i).link x = j.m.link x := rfl

theorem Job.settle_lq (j : Job) (i x : Nat) : (j.settle i).lq x = j.m.lq x := rfl

theorem Job.settle_obj (j : Job) (i x y : Nat) : (j.settle i).obj x y = j.m.obj x y := rfl

theorem Job.settle_seq (j : Job) (i : Nat) : (j.settle i).dev.devSeq = j.m.dev.devSeq := rfl

/-- A manifest that runs and ends at once leaves its run slot done. -/
theorem done_of {c : Instr} {s : State} {core k : Nat} {sl : Slot} {p : List W64 → Bool} {f : Job → Job} (e : exec c s = s.run fun m => m.runKind core k p f)
   (h : (M.of s).MayRun core sl k) (hp : p sl.words = true) (hf : ∀ j, Job.Keeps j (f j)) : Ends c s fun m' => (M.of s).StandsDone m' core sl := by
  obtain ⟨h1, h2, h3, h4, h5, h6, h7, h8⟩ := M.runKind_done (M.of s) core k sl p f h hp hf
  refine ends_dev (f := fun m => m.runKind core k p f) e h1 fun m' hl => ?_
  unfold M.StandsDone
  rw [LikeViews.core hl]
  exact ⟨h2, h3, h4, LikeViews.sameObjs hl h5, LikeViews.sameCores hl h6, LikeViews.sameLinks hl h7, LikeViews.sameLqs hl h8⟩

theorem foldl_modLq (c : Nat) (ls : List Nat) (g : Lq → Lq) (hg : ∀ q, g (g q) = g q) (m : M) :
   let r := ls.foldl (fun (m : M) l => m.modLq (4 * c + l) g) m
   (∀ n, r.lq n = if n ∈ ls.map (4 * c + ·) then g (m.lq n) else m.lq n) ∧ r.fuse = m.fuse ∧ ∃ x, r.dev = { m.dev with lqs := x } := by
  induction ls generalizing m with
  | nil => exact ⟨fun n => by simp, rfl, _, rfl⟩
  | cons a r ih =>
    obtain ⟨h1, h2, x, h3⟩ := ih (m.modLq (4 * c + a) g)
    refine ⟨fun n => ?_, h2, x, h3⟩
    rw [List.foldl_cons]
    rw [h1, M.lq_modLq]
    by_cases h : n = 4 * c + a
    · subst h
      simp [hg]
    · by_cases h' : n ∈ r.map (4 * c + ·)
      · rw [if_pos h', if_neg h, if_pos (by rw [List.map_cons]; exact List.mem_cons_of_mem _ h')]
      · rw [if_neg h', if_neg h, if_neg (by rw [List.map_cons, List.mem_cons]; exact fun hh => hh.elim h h')]

/-- keeps, then stepping -/
theorem step_after {m : M} {i : Nat} {sl : Slot} {j j' : Job} (e : m.Entered i sl j) (k : Job.Keeps j j') (lqs : List Nat) (first count : Nat) (work : List Nat) (halves : Nat) :
    let r := (j'.stepping lqs first count work halves).settle i
    r.fuse = m.fuse ∧ (r.core i).ready = none ∧
      (∃ tr ps ex mg, (r.core i).run = some { sl with
        phase := .waiting, progress := totalIters sl.words, trCount := tr, poisonCount := ps, excCount := ex, merges := mg }) ∧
      (∀ n, r.lq n = if n ∈ lqs.map (4 * i + ·) then { m.lq n with work := work, arrived := [], halves := halves, readyAt := none, firstBank := first, banks := count } else m.lq n) ∧
      m.SameObjs r [] ∧ m.SameCores r [i] ∧ m.SameLinks r [] := by
  intro r
  have hc : j'.core = i := k.core.trans e.core
  obtain ⟨h1, h2, x, h3⟩ := foldl_modLq j'.core lqs (fun q => { q with work, arrived := [], halves, readyAt := none, firstBank := first, banks := count }) (fun q => rfl) j'.m
  obtain ⟨s1, s2, ⟨tr, ps, ex, mg, s3⟩, s4, s5, s6, s7, s8⟩ := e.settled k
  have hst : (j'.stepping lqs first count work halves).m.dev = { j'.m.dev with lqs := x } := h3
  have cr : ∀ n, (j'.stepping lqs first count work halves).m.core n = j'.m.core n := by
    intro n; unfold M.core; rw [hst]
  refine ⟨?_, ?_, ⟨tr, ps, ex, mg, ?_⟩, ?_, ?_, ?_, ?_⟩
  · show (j'.stepping lqs first count work halves).m.fuse = _
    rw [show (j'.stepping lqs first count work halves).m.fuse = j'.m.fuse from h2]; exact s1
  · show (((j'.stepping lqs first count work halves).settle i).core i).ready = none
    unfold Job.settle at s2 ⊢
    rw [M.core_modCore_same] at s2 ⊢
    show ((j'.stepping lqs first count work halves).m.core i).ready = none
    rw [cr]; exact s2
  · show (((j'.stepping lqs first count work halves).settle i).core i).run = _
    unfold Job.settle at s3 ⊢
    rw [M.core_modCore_same] at s3 ⊢
    show some { j'.s with phase := .waiting } = _
    have : j'.s = _ := Option.some.inj s3
    rw [this]
  · intro n
    show (j'.stepping lqs first count work halves).m.lq n = _
    have : (j'.stepping lqs first count work halves).m.lq n = _ := h1 n
    rw [this, hc]
    have e2 : j'.m.lq n = m.lq n := by
      have := s8 n (by simp)
      exact this
    rw [e2]
  · intro a b hb ha hn
    have := s5 a b hb ha hn
    show (j'.stepping lqs first count work halves).m.obj a b = _
    rw [← this]
    show (j'.stepping lqs first count work halves).m.obj a b = j'.m.obj a b
    unfold M.obj
    rw [show (j'.stepping lqs first count work halves).m.fuse = j'.m.fuse from h2, hst]
  · intro a ha
    have := s6 a ha
    rw [← this]
    have ha' : a ≠ i := by simpa using ha
    show ((j'.stepping lqs first count work halves).settle i).core a = (j'.settle i).core a
    unfold Job.settle
    rw [M.core_modCore, M.core_modCore, if_neg ha', if_neg ha']
    exact cr a
  · intro a ha
    have := s7 a ha
    rw [← this]
    show (j'.stepping lqs first count work halves).m.link a = j'.m.link a
    unfold M.link
    rw [hst]

theorem M.tractOpen_congr (a b : M) (x : Nat) (hx : x / lqSize < 96) (h : ∀ i j, j < 256 → i ≠ 0x7100 → b.obj i j = a.obj i j) : b.tractOpen x = a.tractOpen x := by
  unfold M.tractOpen M.objBit
  have h1 : x / columnSize < 24 := by
    have : columnSize = 4 * lqSize := by decide
    rw [this, Nat.mul_comm, ← Nat.div_div_eq_div_mul]; omega
  have h2 : (384 * (x / lqSize % 4) + tractOf x) / 64 + 1 < 256 := by
    have : tractOf x < 384 := by unfold tractOf lqSize; omega
    omega
  dsimp only
  rw [h _ _ h2 (by omega)]

theorem M.kvWork_congr (a b : M) (ws : List W64) (n k : Nat) (hn : n < 96) (h : ∀ i j, j < 256 → i ≠ 0x7100 → b.obj i j = a.obj i j) : b.kvWork ws n k = a.kvWork ws n k := by
  unfold M.kvWork
  have e : ∀ p ∈ (kvParts ws k).filter (fun p => p.1 / lqSize == n), b.kvCycles p = a.kvCycles p := by
    intro p hp
    rw [List.mem_filter] at hp
    unfold M.kvCycles
    dsimp only
    rw [M.tractOpen_congr a b p.1 (by have := hp.2; simp at this; omega) h]
  dsimp only
  have e2 : ∀ (q : Nat × Nat), (((kvParts ws k).filter (fun p => p.1 / lqSize == n)).filter fun r => bankOf r.1 == bankOf q.1).map b.kvCycles = (((kvParts ws k).filter (fun p => p.1 / lqSize == n)).filter fun r => bankOf r.1 == bankOf q.1).map a.kvCycles := by
    intro q
    apply List.map_congr_left
    intro p hp
    rw [List.mem_filter] at hp
    exact e p hp.1
  simp only [e2]

theorem M.Wrote.fab {a b : M} (h : M.Wrote a b) : b.dev.fab = a.dev.fab := by
  obtain ⟨_, _, ⟨_, _, _, _, _, _, _, _, e⟩, _⟩ := h
  rw [e]

theorem Job.write_wrote (j : Job) (a : Nat) (ds : List (Byte × Bool)) : M.Wrote j.m (j.write a ds).m := by
  unfold Job.write
  generalize linesOf a ds.length = ls
  induction ls generalizing j with
  | nil => exact M.Wrote.refl _
  | cons l r ih =>
    rw [List.foldl_cons]
    refine M.Wrote.trans ?_ (ih _)
    dsimp only
    split
    · exact M.wrote_putLocal _ _ _ _
    · exact M.Wrote.refl _

theorem M.Entered.stands {m : M} {i : Nat} {sl : Slot} {j j2 : Job} (en : m.Entered i sl j) (k : Job.Keeps j j2) (j3 : Job)
   (hm : OnlyCore j2.m j3.m i) (hr : (j3.m.core i).ready = (j2.m.core i).ready) (hs : ∃ t d tr ps, j3.s = { sl with phase := .done, progress := 0, trCount := tr, poisonCount := ps, target := t, branchDefault := d }) :
   (j3.settle i).fuse = m.fuse ∧ ((j3.settle i).core i).ready = none ∧ ((j3.settle i).core i).run = some j3.s ∧ m.SameObjs (j3.settle i) [] ∧ m.SameCores (j3.settle i) [i] ∧ m.SameLinks (j3.settle i) [] ∧ m.SameLqs (j3.settle i) [] := by
  obtain ⟨cs, ho⟩ := en.own
  have hc := en.core
  subst hc
  obtain ⟨a, b, c, d, hk⟩ := k.own
  refine ⟨(hm.fuse.trans k.fuse).trans en.only.fuse, ?_, ?_, fun x y hy hx _ => ?_, fun x hx => ?_, fun x _ => ?_, fun x _ => ?_⟩
  · rw [Job.settle_core]; show (j3.m.core j.core).ready = none; rw [hr, hk, ho]
  · rw [Job.settle_core]
  · show j3.m.obj x y = _; rw [hm.objs, k.objs x y hy hx, en.only.objs]
  · have hx' : x ≠ j.core := by simpa using hx
    rw [Job.settle_core_ne _ _ _ hx', hm.core x hx', k.others x hx', en.only.core x hx']
  · show j3.m.link x = _; rw [hm.links, k.links, en.only.links]
  · show j3.m.lq x = _; rw [hm.lqs, k.lqs, en.only.lqs]

theorem Job.write_slot (j : Job) (a : Nat) (ds : List (Byte × Bool)) (s : Slot) (h : ∃ ps, j.s = { s with poisonCount := ps }) :
    ∃ tr ps, (j.write a ds).s = { s with trCount := tr, poisonCount := ps } := by
  unfold Job.write
  have : ∀ (ls : List Nat) (j : Job), (∃ tr ps, j.s = { s with trCount := tr, poisonCount := ps }) → ∃ tr ps, (ls.foldl (fun (j : Job) l =>
    let lo := max l a
    let part := (ds.drop (lo - a)).take (l + 64 - lo)
    if j.m.reach (some j.core) lo then
      { j with m := j.m.putLocal j.m.deviceId lo (part.map fun d => (some d.1, d.2)) }
    else j.tr 1) j).s = { s with trCount := tr, poisonCount := ps } := by
    intro ls
    induction ls with
    | nil => exact fun j h => h
    | cons l r ih =>
      intro j h
      refine ih _ ?_
      obtain ⟨tr, ps, h⟩ := h
      dsimp only
      split
      · exact ⟨tr, ps, h⟩
      · exact ⟨tr + 1, ps, by unfold Job.tr; dsimp only; rw [h]⟩
  obtain ⟨ps, h⟩ := h
  exact this _ j ⟨s.trCount, ps, h⟩

theorem M.Delivered.devSeq {a b : M} (h : M.Delivered a b) : b.dev.devSeq = a.dev.devSeq := by
  obtain ⟨_, _, _, s, ws, h4⟩ := h
  rw [h4]

theorem Job.write_devSeq (j : Job) (a : Nat) (ds : List (Byte × Bool)) (h : j.m.mirrorRole ≠ 2) : (j.write a ds).m.dev.devSeq = j.m.dev.devSeq := by
  unfold Job.write
  generalize linesOf a ds.length = ls
  induction ls generalizing j with
  | nil => rfl
  | cons l r ih =>
    rw [List.foldl_cons]
    dsimp only
    split
    · have w := M.wrote_putLocal j.m j.m.deviceId (max l a) (((ds.drop (max l a - a)).take (l + 64 - max l a)).map fun d => (some d.1, d.2))
      refine (ih _ ?_).trans ?_
      · unfold M.mirrorRole M.objFld at h ⊢
        dsimp only
        rw [w.obj _ _ (by decide) (by decide)]; exact h
      · dsimp only
        rw [M.putLocal_eq _ _ _ _ h]
        have o := M.onlyMem_storeMask (j.m.closeWindows (max l a) (List.map (fun d => (some d.1, d.2)) (List.take (l + 64 - max l a) (List.drop (max l a - a) ds))).length) (max l a) (List.map (fun d => (some d.1, d.2)) (List.take (l + 64 - max l a) (List.drop (max l a - a) ds)))
        rw [o.dev]
        exact M.Delivered.devSeq (M.delivered_closeWindows _ _ _)
    · exact ih _ h

theorem M.Entered.settled_only {m : M} {i : Nat} {j : Job} (o : OnlyCore m j.m i) :
    (j.settle i).fuse = m.fuse ∧ (j.settle i).core i = { j.m.core i with run := some j.s } ∧ (∀ a, a ≠ i → (j.settle i).core a = m.core a) ∧
    (∀ a b, (j.settle i).obj a b = m.obj a b) ∧ (∀ l, (j.settle i).link l = m.link l) ∧ (∀ l, (j.settle i).lq l = m.lq l) := by
  unfold Job.settle
  refine ⟨o.fuse, M.core_modCore_same _ _ _, fun a ha => ?_, fun a b => o.objs a b, fun l => o.links l, fun l => o.lqs l⟩
  rw [M.core_modCore, if_neg ha]; exact o.core a ha

end Sys2Proof.Machine
end

