-- ==== Sys2Proof/Laws/Asks.lean ====
section
/-! SUPPORT. Requests sent and messages taken (14_fabric_mirroring.md R311 to R320): what a request can change, and how a message that arrives takes effect. -/

namespace Sys2Proof.Machine

/-- request by a manifest of core c -/
structure Asked (a b : M) (c : Nat) : Prop where
  fuse : b.fuse = a.fuse
  objs : ∀ i j, b.obj i j = a.obj i j
  lqs : ∀ n, b.lq n = a.lq n
  others : ∀ i, i ≠ c → b.core i = a.core i
  own : ∃ f : Slot → Slot, (∀ t, ∃ ph tr rq, f t = { t with phase := ph, trCount := tr, pendingReqs := rq }) ∧ b.core c = { a.core c with run := (a.core c).run.map f }

theorem Asked.refl (a : M) (c : Nat) : Asked a a c := ⟨rfl, fun _ _ => rfl, fun _ => rfl, fun _ _ => rfl, id, fun t => ⟨_, _, _, rfl⟩, by simp⟩

theorem Asked.trans {a b d : M} {c : Nat} (h : Asked a b c) (k : Asked b d c) : Asked a d c := by
  obtain ⟨h1, h2, h3, h4, f, h5, h6⟩ := h
  obtain ⟨k1, k2, k3, k4, g, k5, k6⟩ := k
  refine ⟨k1.trans h1, fun i j => (k2 i j).trans (h2 i j), fun n => (k3 n).trans (h3 n), fun i hi => (k4 i hi).trans (h4 i hi), g ∘ f, fun t => ?_, ?_⟩
  · obtain ⟨p1, t1, r1, e1⟩ := h5 t
    obtain ⟨p2, t2, r2, e2⟩ := k5 (f t)
    exact ⟨p2, t2, r2, by simp only [Function.comp]; rw [e2, e1]⟩
  · rw [k6, h6]; simp

theorem Asked.modFab (a : M) (c : Nat) (f) : Asked a (a.modFab f) c := ⟨rfl, fun _ _ => rfl, fun _ => rfl, fun _ _ => rfl, id, fun t => ⟨_, _, _, rfl⟩, by simp⟩

theorem Asked.modLink (a : M) (c l : Nat) (f) : Asked a (a.modLink l f) c := ⟨rfl, fun _ _ => rfl, fun _ => rfl, fun _ _ => rfl, id, fun t => ⟨_, _, _, rfl⟩, by simp⟩

theorem Asked.nextLink (m : M) (c key : Nat) (ls : List Nat) : Asked m (m.nextLink key ls).2 c := by
  unfold M.nextLink
  dsimp only
  split
  · exact Asked.refl m c
  · dsimp only
    exact Asked.modFab _ _ _

theorem Asked.emit (m : M) (c : Nat) (o : TxOwner) (x : Msg) : Asked m (m.emit o x).2 c := by
  unfold M.emit
  dsimp only
  split
  · exact Asked.refl m c
  · unfold M.post
    dsimp only
    exact (Asked.nextLink m c x.dest (m.activeOf (m.obj (0x6600 + x.dest / 128) (x.dest % 128 + 1)))).trans (Asked.modLink _ _ _ _)

theorem Asked.modRun (m : M) (c : Nat) (r : Nat) : Asked m (m.modRun c fun s => s.answered r) c :=
  ⟨rfl, fun _ _ => rfl, fun _ => rfl, fun i hi => by unfold M.modRun; rw [M.core_modCore, if_neg hi], fun s => s.answered r, fun t => ⟨_, _, _, rfl⟩, by unfold M.modRun; rw [M.core_modCore_same]⟩

theorem Asked.request (m : M) (c : Nat) (x : Msg) (into : Nat) : Asked m (m.request (.manifest c) x into) c := by
  unfold M.request
  split
  · exact Asked.modFab _ _ _
  · dsimp only
    split
    · exact (Asked.emit _ _ _ _).trans (Asked.modFab _ _ _)
    · exact (Asked.emit _ _ _ _).trans (Asked.modRun _ _ _)

theorem Asked.sendMoves (m : M) (c x : Nat) (ms : List MoveMsg) : Asked m (m.sendMoves c x ms) c := by
  unfold M.sendMoves
  induction ms generalizing m with
  | nil => exact Asked.refl m c
  | cons q r ih =>
    rw [List.foldl_cons]
    refine Asked.trans ?_ (ih _)
    split
    · exact Asked.request _ _ _ _
    · exact Asked.request _ _ _ _

theorem M.Entered.deviceId {j : Job} {m : M} {i : Nat} {sl} (e : m.Entered i sl j) : j.m.deviceId = m.deviceId := by
  unfold M.deviceId; exact e.only.objs _ _

/-- A message that arrives has its command act on it. -/
theorem M.Arrives.run {s : State} {l : Nat} {x : Msg} (h : (M.of s).Arrives l x) (act : M → M) (due : Bool) (hd : due = true) :
    (M.of s).message_ l x due act = act ((M.of s).consumeMsg l x) := by
  obtain ⟨h1, h2, h3, h4, h5⟩ := h
  unfold M.message_
  rw [h1, h2, h3, hd, h4]
  have : ¬ (x.dest ≠ ((M.of s).consumeMsg l x).deviceId) := by
    intro hn; exact hn (h5.trans (by rfl))
  simp [this]

theorem M.reach_modRun (m : M) (c : Nat) (f : Slot → Slot) (w : Option Nat) (a : Nat) : (m.modRun c f).reach w a = m.reach w a := by
  have e : ∀ i, ((m.modRun c f).core i).ctrl = (m.core i).ctrl ∧ ((m.modRun c f).core i).inReset = (m.core i).inReset := by
    intro i; unfold M.modRun; rw [M.core_modCore]; split
    · rename_i h; rw [h]; exact ⟨rfl, rfl⟩
    · exact ⟨rfl, rfl⟩
  have h1 : ∀ i, (m.modRun c f).stageBase i = m.stageBase i := fun i => by unfold M.stageBase; rw [(e i).1]
  have h2 : ∀ i, (m.modRun c f).coreDown i = m.coreDown i := fun i => by unfold M.coreDown; rw [(e i).2]; rfl
  unfold M.reach
  cases placeOf a with
  | waystation i off => dsimp only; rw [h1, h2]; rfl
  | _ => rfl

theorem M.releaseBarrier_views (m : M) (g : Nat) (hg : g < 16) (t : Bool) {s : State} {c : Instr} {f : M → M} (e : exec c s = s.run f) (hf : f (M.of s) = m.releaseBarrier g t)
   (h1 : m.fuse = s.fuse) (h2 : m.ops = []) (L : List Nat) (hc : ∀ i, m.core i = (M.of s).core i) (hl : ∀ i, i ∉ L → m.link i = (M.of s).link i) (hq : m.dev.lqs = s.dev.lqs) (ho : ∀ i j, m.obj i j = (M.of s).obj i j) :
   Ends c s fun m' =>
        m'.objFld 0x8050 (g + 1) 35 24 = ((M.of s).objFld 0x8050 (g + 1) 35 24 + 1) % 4096 ∧
        Tab.get m'.dev.fab.arrivals 0 g = 0 ∧ m'.dev.fab.xlocal.contains g = false ∧
        (∀ c, m'.core c = ((M.of s).core c).mapWaiters (fun q => q.syncWaits (isBarrierOf g)) fun q => { q with phase := .done, trCount := q.trCount + (if t then 1 else 0) }) ∧
        (M.of s).SameMem m' ∧ (M.of s).SameObjs m' [(0x8050, g + 1)] ∧ (M.of s).SameLinks m' L ∧ (M.of s).SameLqs m' [] := by
  refine ends_quiet e hf h1 h2 fun m' hk hm => ?_
  refine ⟨?_, ?_, ?_, fun i => ?_, hm, LikeViews.sameObjs hk fun i j hj _ hn => ?_, LikeViews.sameLinks hk fun i hi => hl i hi, LikeViews.sameLqs hk fun i _ => ?_⟩
  · rw [LikeViews.objFld hk]; unfold M.objFld M.releaseBarrier
    rw [M.obj_wrapObj_same]
    show fld (wrapFld (m.obj 0x8050 (g + 1)) 35 24 1) 35 24 = _
    rw [ho]; exact fld_setFld_same _ _ _ _
  · rw [hk.dev]; exact Tab.get_erase_same _ _ _
  · rw [hk.dev]; show List.contains (List.filter _ _) g = false
    simp
  · rw [LikeViews.core hk, ← hc]; exact M.core_mapWaiters _ _ _ _
  · rw [← ho]; unfold M.releaseBarrier; exact M.obj_setObj_ne _ _ _ _ _ _ hj (by omega) (by simpa using hn)
  · unfold M.lq; rw [M.releaseBarrier_lqs, hq]; rfl

theorem form_keeps (ws : List W64) (r k : Nat) : ∀ (n : Nat) (t : Nat × Nat) (c : Coll × Nat),
    (Coll.form ws r k n t c).1.readyFrom = c.1.readyFrom ∧ (Coll.form ws r k n t c).1.got = c.1.got ∧ (Coll.form ws r k n t c).1.sentTo = c.1.sentTo := by
  intro n
  induction n with
  | zero => intro t c; exact ⟨rfl, rfl, rfl⟩
  | succ n ih =>
    intro t c
    unfold Coll.form
    dsimp only
    split
    · exact ⟨rfl, rfl, rfl⟩
    · split
      · exact ⟨rfl, rfl, rfl⟩
      · split
        · exact ⟨rfl, rfl, rfl⟩
        · split
          · exact ih _ _
          · exact ih _ _

theorem formed_keeps (ws : List W64) (r n : Nat) (t : Nat × Nat) (l : List Nat) (c : Coll × Nat) :
    let f := l.foldl (fun c k => Coll.form ws r k n t c) c
    f.1.readyFrom = c.1.readyFrom ∧ f.1.got = c.1.got ∧ f.1.sentTo = c.1.sentTo := by
  induction l generalizing c with
  | nil => exact ⟨rfl, rfl, rfl⟩
  | cons k r ih =>
    obtain ⟨h1, h2, h3⟩ := ih (Coll.form ws _ k n t c)
    obtain ⟨k1, k2, k3⟩ := form_keeps ws _ k n t c
    exact ⟨h1.trans k1, h2.trans k2, h3.trans k3⟩

/-- collective's core as collPlace leaves it -/
structure CollAt (m : M) (i : Nat) (sl : Slot) (fab : Fab) (b : M) : Prop where
  fuse : b.fuse = m.fuse
  objs : ∀ x y, y < 256 → x ≠ 0x7100 → b.obj x y = m.obj x y
  links : ∀ l, b.link l = m.link l
  lqs : ∀ l, b.lq l = m.lq l
  others : ∀ x, x ≠ i → b.core x = m.core x
  ready : (b.core i).ready = none
  run : ∃ tr ps ex, (b.core i).run = some { sl with trCount := sl.trCount + tr, poisonCount := ps, excCount := ex }
  fab : b.dev.fab = fab

theorem collPlace_at {m : M} {i : Nat} {sl : Slot} {fab : Fab} {b : M} (h : CollAt m i sl fab b) (s : Slot) (k off : Nat) (ds : List (Byte × Bool)) :
    CollAt m i sl fab (b.collPlace i s k off ds) := by
  unfold M.collPlace
  dsimp only
  have w := Job.write_wrote { m := b, core := i, s := s } (Job.reg { m := b, core := i, s := s } 1 k + off) ds
  generalize Job.write { m := b, core := i, s := s } (Job.reg { m := b, core := i, s := s } 1 k + off) ds = jw at w
  obtain ⟨b2, jc, js⟩ := jw
  dsimp only at w ⊢
  obtain ⟨h1, h2, h3, h4, h5, h6, ⟨tr, ps, ex, h7⟩, h8⟩ := h
  refine ⟨w.fuse.trans h1, fun x y hy hx => (w.obj x y hy hx).trans (h2 x y hy hx), fun l => (w.link l).trans (h3 l), fun l => (w.lq l).trans (h4 l), fun x hx => ?_, ?_, ?_, (M.Wrote.fab w).trans h8⟩
  · rw [M.core_modCore, if_neg hx, w.core, h5 x hx]
  · rw [M.core_modCore_same, w.core]; dsimp only; rw [h6]; rfl
  · rw [M.core_modCore_same, w.core]; dsimp only; rw [h7, Option.map_some]
    by_cases ha : (sl.addr == s.addr) = true
    · rw [if_pos ha]; exact ⟨tr + (js.trCount - s.trCount), _, _, by rw [← Nat.add_assoc]⟩
    · rw [if_neg ha]; exact ⟨tr, _, _, rfl⟩

end Sys2Proof.Machine
end

