-- ==== Sys2Proof/Laws/Banks.lean ====
section
/-! SUPPORT. Layer quadrants and banks (08_near_bank_convoys.md, 12_memory_integrity.md): one quadrant changed, held accesses served, refreshes, the memory log, a line scrubbed. -/

namespace Sys2Proof.Machine

theorem M.lq_modLq_same (m : M) (n : Nat) (f : Lq → Lq) : (m.modLq n f).lq n = f (m.lq n) := by rw [M.lq_modLq, if_pos rfl]

theorem M.sameLqs_modLq (m : M) (n : Nat) (f : Lq → Lq) : m.SameLqs (m.modLq n f) [n] := by
  intro a ha; rw [M.lq_modLq, if_neg (by simpa using ha)]

theorem M.modLq_modLq (m : M) (n : Nat) (f g : Lq → Lq) : (m.modLq n f).modLq n g = m.modLq n (fun q => g (f q)) := by
  have h := M.lq_modLq_same m n f
  unfold M.modLq at h ⊢
  dsimp only at h ⊢
  rw [h, Tab.put_put]

structure LqAt (a b : M) (n : Nat) (st : Option Nat) (w : List Nat) (hv : Nat) : Prop where
  fuse : b.fuse = a.fuse
  cores : b.dev.cores = a.dev.cores
  objs : b.dev.objs = a.dev.objs
  others : ∀ k, k ≠ n → b.lq k = a.lq k
  st : (b.lq n).stepping = st
  work : (b.lq n).work = w
  halves : (b.lq n).halves = hv
  held : (b.lq n).held = []
  queue : (b.lq n).queue = []

theorem LqAt.mod {a b : M} {n : Nat} {st : Option Nat} {w : List Nat} {hv : Nat} (h : LqAt a b n st w hv) (f : Lq → Lq)
   (hf : (f (b.lq n)).stepping = st ∧ (f (b.lq n)).work = w ∧ (f (b.lq n)).halves = hv ∧ (f (b.lq n)).held = [] ∧ (f (b.lq n)).queue = []) : LqAt a (b.modLq n f) n st w hv := by
  obtain ⟨h1, h2, h3, h4, -⟩ := h
  exact ⟨h1, h2, h3, fun k hk => by rw [M.lq_modLq, if_neg hk, h4 k hk], by rw [M.lq_modLq_same]; exact hf.1, by rw [M.lq_modLq_same]; exact hf.2.1, by rw [M.lq_modLq_same]; exact hf.2.2.1, by rw [M.lq_modLq_same]; exact hf.2.2.2.1, by rw [M.lq_modLq_same]; exact hf.2.2.2.2⟩

theorem LqAt.ctr {a b : M} {n : Nat} {st : Option Nat} {w : List Nat} {hv : Nat} (h : LqAt a b n st w hv) (k : Nat) : LqAt a ({ b with dev := { b.dev with readyCtr := k } } : M) n st w hv :=
  ⟨h.fuse, h.cores, h.objs, h.others, h.st, h.work, h.halves, h.held, h.queue⟩

theorem LqAt.ready {a b : M} {n : Nat} {st : Option Nat} {w : List Nat} {hv : Nat} (h : LqAt a b n st w hv) : LqAt a (b.readyStep n) n st w hv := by
  unfold M.readyStep
  dsimp only
  split
  · exact h
  · exact (h.ctr _).mod _ ⟨h.st, h.work, h.halves, h.held, h.queue⟩

theorem LqAt.serveHeld {a b : M} {n : Nat} {st : Option Nat} {w : List Nat} {hv : Nat} (h : LqAt a b n st w hv) : LqAt a (b.serveHeld n) n st w hv := by
  unfold M.serveHeld
  rw [h.held]
  have e : serveNow [] = ([], []) := rfl
  rw [e]
  dsimp only
  rw [List.foldl_nil]
  have h1 : LqAt a (b.modLq n fun q => { q with held := [] }) n st w hv := h.mod _ ⟨h.st, h.work, h.halves, rfl, h.queue⟩
  refine h1.mod _ ⟨h1.st, h1.work, h1.halves, ?_, ?_⟩
  · dsimp only; rw [h1.held, h1.queue]; rfl
  · dsimp only; rw [h1.queue]; rfl

theorem LqAt.serveAll {a b : M} {n : Nat} {st : Option Nat} {w : List Nat} {hv : Nat} (h : LqAt a b n st w hv) : LqAt a (b.serveAll n) n st w hv := by
  unfold M.serveAll
  dsimp only
  rw [h.held, h.queue, List.append_nil, List.foldl_nil]
  exact h.mod _ ⟨h.st, h.work, h.halves, rfl, rfl⟩

theorem M.idleRefresh_eq (m : M) (n : Nat) : (m.idleRefresh n = m.modLq n (fun q => { q with refreshing := q.refreshing || (q.stepping.isNone && decide (0 < m.objFld 0x5021 (n + 1) 3 0)) })) ∨ 
   (m.idleRefresh n = m ∧ ((m.lq n).stepping.isNone && decide (0 < m.objFld 0x5021 (n + 1) 3 0)) = false) := by
  unfold M.idleRefresh
  by_cases h : ((m.lq n).stepping.isNone && decide (0 < m.objFld 0x5021 (n + 1) 3 0)) = true
  · rw [if_pos h]
    left
    unfold M.modLq
    dsimp only
    rw [h, Bool.or_true]
  · rw [if_neg h]
    right
    exact ⟨rfl, by simpa using h⟩

theorem M.idleRefresh_lq (m : M) (n : Nat) : (m.idleRefresh n).lq n = { m.lq n with refreshing := (m.lq n).refreshing || ((m.lq n).stepping.isNone && decide (0 < m.objFld 0x5021 (n + 1) 3 0)) } ∧ 
   (m.idleRefresh n).fuse = m.fuse ∧ (∀ a, a ≠ n → (m.idleRefresh n).lq a = m.lq a) ∧ (∀ a b, (m.idleRefresh n).obj a b = m.obj a b) ∧ (∀ a, (m.idleRefresh n).core a = m.core a) := by
  rcases M.idleRefresh_eq m n with h | ⟨h, hz⟩
  · rw [h]
    refine ⟨M.lq_modLq_same _ _ _, rfl, fun a ha => by rw [M.lq_modLq, if_neg ha], fun _ _ => rfl, fun _ => rfl⟩
  · rw [h, hz, Bool.or_false]
    exact ⟨rfl, rfl, fun _ _ => rfl, fun _ _ => rfl, fun _ => rfl⟩

theorem M.judgeUnit_clean (m : M) (u src : Nat) : m.judgeUnit u [] src = m := by
  unfold M.judgeUnit
  have hd : m.disturb u [] = m := rfl
  simp only [List.map_nil, hd]
  have hv : (if m.openNow u = true then judgeOpen (m.marked u) [] else judgeSealed (m.marked u) []) = .clean ∨ (if m.openNow u = true then judgeOpen (m.marked u) [] else judgeSealed (m.marked u) []) = .stored := by
    generalize m.openNow u = o
    generalize m.marked u = k
    revert o k
    decide
  rcases hv with h | h <;> rw [h]

theorem M.bank_logMemory (m : M) (n kind source symbols syndrome addr b : Nat) : (m.logMemory n kind source symbols syndrome addr).bank b = m.bank b := by
  unfold M.logMemory; dsimp only; split <;> rfl

theorem M.logMemory_shape (m : M) (n kind source symbols syndrome addr : Nat) : ∃ l f d o, (m.logMemory n kind source symbols syndrome addr) = { m with dev := { m.dev with memLogRead := l, fresh := f, devSeq := d, objs := o } } := by
  unfold M.logMemory; dsimp only; split <;> exact ⟨_, _, _, _, rfl⟩

theorem M.memLogSlot_lt (m : M) (o : Nat) : m.memLogSlot o < 256 := by
  unfold M.memLogSlot; dsimp only
  split
  · omega
  · have : ∀ (l : List Nat) (b : Nat × Nat), (∀ k ∈ l, k < 64) → b.1 < 256 → (l.foldl (fun (b : Nat × Nat) k => if m.obj o (k + 1) / 2 ^ 208 < b.2 then (k + 1, m.obj o (k + 1) / 2 ^ 208) else b) b).1 < 256 := by
      intro l
      induction l with
      | nil => intro b _ h; exact h
      | cons a r ih =>
        intro b h hb
        rw [List.foldl_cons]
        refine ih _ (fun k hk => h k (by simp [hk])) ?_
        split
        · have := h a (by simp); simp; omega
        · exact hb
    exact this _ _ (fun k hk => by simpa using hk) (by show 1 < 256; decide)

theorem M.obj_logMemory (m : M) (n kind source symbols syndrome addr i j : Nat) (hi : i ≠ 0x5200 + layerOf n) (hj : j < 256) : (m.logMemory n kind source symbols syndrome addr).obj i j = m.obj i j := by
  unfold M.logMemory
  dsimp only
  have hne : ∀ k, (i, j) ≠ (0x5200 + layerOf n, k) := fun k h => hi (by simp at h; exact h.1)
  have key : ∀ m1 : M, ∀ e v : Nat, ((m1.setObj (0x5200 + layerOf n) (m.stamp.2.2.memLogSlot (0x5200 + layerOf n)) e).setObjFld (0x5200 + layerOf n) 65 6 0 v).obj i j = m1.obj i j := by
    intro m1 e v
    rw [M.obj_setObjFld_ne _ _ _ _ _ _ _ _ hj (by decide) (hne _), M.obj_setObj_ne _ _ _ _ _ _ hj (M.memLogSlot_lt _ _) (hne _)]
  split
  · show (M.satObj _ _ _ _ _ _).obj i j = _
    rw [M.obj_satObj_ne _ _ _ _ _ _ _ _ hj (by decide) (hne _), key]; rfl
  · exact (key _ _ _)

theorem M.bank_modBank_same (m : M) (n : Nat) (f : Bank → Bank) : (m.modBank n f).bank n = f (m.bank n) := by rw [M.bank_modBank, if_pos rfl]

theorem M.cis_clearCis (m : M) (i e : Nat) : (m.clearCis i).cis i e = (0, false) := by
  unfold M.clearCis M.cis; rw [M.core_modCore_same]; rfl

theorem M.delivered_deliverLine (m : M) (w : List Window) (l : Nat) (c : List Nat) : M.Delivered m (({ m with dev := { m.dev with windows := w } } : M).deliverLine l c) := ⟨rfl, rfl, rfl, _, _, rfl⟩

theorem M.closeWindows_windows (m : M) (a n : Nat) : (m.closeWindows a n).dev.windows = m.dev.windows.filter (fun w => !(a < w.line + 256 && w.line < a + n)) := by
  unfold M.closeWindows
  dsimp only
  have h : ∀ (l : List Window) (m : M), (l.foldl (fun (m : M) w => m.deliverLine w.line w.joined) m).dev.windows = m.dev.windows := by
    intro l
    induction l with
    | nil => exact fun m => rfl
    | cons w r ih => intro m; rw [List.foldl_cons, ih]; rfl
  rw [h]

theorem M.windowClose_eq (m : M) (l : Nat) (w : Window) (hw : m.dev.windows.find? (fun x => x.line == l) = some w) : m.windowClose l = ({ m with dev := { m.dev with windows := m.dev.windows.filter fun x => x.line != l } } : M).deliverLine l w.joined := by
  unfold M.windowClose; rw [hw]

theorem windows_filter_none (ws : List Window) (l : Nat) (h : ws.find? (fun w => w.line == l) = none) : ws.filter (fun x => x.line != l) = ws := by
  rw [List.filter_eq_self]; intro a ha
  have := List.find?_eq_none.mp h a ha
  simpa using this

theorem windows_filter_map (ws : List Window) (l : Nat) (w' : Window) (hl : w'.line = l) : (ws.map fun x => if x.line = l then w' else x).filter (fun x => x.line != l) = ws.filter (fun x => x.line != l) := by
  induction ws with
  | nil => rfl
  | cons a r ih =>
    rw [List.map_cons]
    by_cases h : a.line = l
    · rw [if_pos h, List.filter_cons, List.filter_cons, if_neg (by simp [hl]), if_neg (by simp [h]), ih]
    · rw [if_neg h, List.filter_cons, List.filter_cons, if_pos (by simp [h]), if_pos (by simp [h]), ih]

theorem windows_find_map (ws : List Window) (l : Nat) (w w' : Window) (hl : w'.line = l) (h : ws.find? (fun w => w.line == l) = some w) : (ws.map fun x => if x.line = l then w' else x).find? (fun x => x.line == l) = some w' := by
  induction ws with
  | nil => cases h
  | cons a r ih =>
    rw [List.map_cons, List.find?_cons]
    by_cases ha : a.line = l
    · rw [if_pos ha]; simp [hl]
    · rw [List.find?_cons, show (a.line == l) = false by simpa using ha] at h
      rw [if_neg ha, show (a.line == l) = false by simpa using ha]; exact ih h

end Sys2Proof.Machine
end

