-- ==== Sys2Proof/Laws/Chain2.lean ====
section
/-! SUPPORT. Chains: entering a core, taking a START, the branch resolved, what a stop leaves of the other cores. -/

namespace Sys2Proof.Machine

theorem onlyCore_enter (m : M) (i x) : OnlyCore m (m.enter i x) i := OnlyCore.modCore m i _

theorem onlyCore_takeStart (m : M) (i x) : OnlyCore m (m.takeStart i x) i := by
  unfold M.takeStart
  dsimp only
  have h1 : OnlyCore m (if (m.core i).active = 0 then m.modCore i fun c => { c with ctrl := c.ctrlNext.getD c.ctrl, ctrlNext := none } else m) i := by
    split
    · exact OnlyCore.modCore _ _ _
    · exact OnlyCore.refl _ _
  generalize (if (m.core i).active = 0 then _ else m) = m1 at h1 ⊢
  have h2 : OnlyCore m (if bit16 (m.core i).halted x = true then m1 else m1.modCtx i x fun r =>
    { r with recordHead := 0, recordTail := 0, lastCommit := none, nextPtr := r.programBase }) i := by
    split
    · exact h1
    · exact h1.trans (OnlyCore.modCtx _ _ _ _)
  generalize (if bit16 (m.core i).halted x = true then m1 else _) = m2 at h2 ⊢
  have h3 := h2.trans (OnlyCore.modCore m2 i fun c => { c with active := setBit16 c.active x true, halted := setBit16 c.halted x false })
  split
  · exact h3.trans (onlyCore_enter _ _ _)
  · exact h3

theorem enter_facts (m : M) (i x y : Nat) : ((m.enter i x).core i).active = (m.core i).active ∧ ((m.enter i x).core i).halted = (m.core i).halted ∧ ((m.enter i x).core i).startErr = (m.core i).startErr ∧
   ((m.enter i x).ctx i y).recordHead = (m.ctx i y).recordHead ∧ ((m.enter i x).ctx i y).recordTail = (m.ctx i y).recordTail ∧ ((m.enter i x).ctx i y).nextPtr = (m.ctx i y).nextPtr := by
  unfold M.enter M.ctx
  rw [M.core_modCore_same]
  dsimp only
  split
  · refine ⟨rfl, rfl, rfl, ?_⟩
    by_cases h : y = x
    · subst h
      show ((Core.setCtx _ _ _).ctx y).recordHead = _ ∧ ((Core.setCtx _ _ _).ctx y).recordTail = _ ∧ ((Core.setCtx _ _ _).ctx y).nextPtr = _
      simp
    · show ((Core.setCtx _ _ _).ctx y).recordHead = _ ∧ ((Core.setCtx _ _ _).ctx y).recordTail = _ ∧ ((Core.setCtx _ _ _).ctx y).nextPtr = _
      simp [Core.ctx_setCtx_ne _ _ _ _ h]; exact ⟨rfl, rfl, rfl⟩
  · exact ⟨rfl, rfl, rfl, rfl, rfl, rfl⟩

/-- What START leaves of the core that takes it (06_manifest_execution.md R120). -/
theorem takeStart_facts (m : M) (i x : Nat) (hx : x < 16) :
    let m' := m.takeStart i x
    bit16 (m'.core i).active x = true ∧ bit16 (m'.core i).halted x = false ∧
      (bit16 (m.core i).halted x = false →
        (m'.ctx i x).recordHead = 0 ∧ (m'.ctx i x).recordTail = 0 ∧
        (m'.ctx i x).nextPtr = (m.ctx i x).programBase) ∧
      (bit16 (m.core i).halted x = true →
        (m'.ctx i x).recordHead = (m.ctx i x).recordHead ∧ (m'.ctx i x).nextPtr = (m.ctx i x).nextPtr) := by
  unfold M.takeStart
  dsimp only
  have h1 : ∀ y, (if (m.core i).active = 0 then m.modCore i fun c => { c with ctrl := c.ctrlNext.getD c.ctrl, ctrlNext := none } else m).ctx i y = m.ctx i y := by
    intro y; split
    · unfold M.ctx; rw [M.core_modCore_same]; rfl
    · rfl
  generalize (if (m.core i).active = 0 then _ else m) = m1 at h1 ⊢
  have h2 : (bit16 (m.core i).halted x = false →
        ((if bit16 (m.core i).halted x = true then m1 else m1.modCtx i x fun r =>
    { r with recordHead := 0, recordTail := 0, lastCommit := none, nextPtr := r.programBase }).ctx i x) = { m.ctx i x with recordHead := 0, recordTail := 0, lastCommit := none, nextPtr := (m.ctx i x).programBase })
    ∧ (bit16 (m.core i).halted x = true →
        ((if bit16 (m.core i).halted x = true then m1 else m1.modCtx i x fun r =>
    { r with recordHead := 0, recordTail := 0, lastCommit := none, nextPtr := r.programBase }).ctx i x) = m.ctx i x) := by
    constructor
    · intro h; simp [h, M.ctx_modCtx, h1]
    · intro h; simp [h, h1]
  generalize (if bit16 (m.core i).halted x = true then m1 else _) = m2 at h2 ⊢
  have h3 : bit16 ((m2.modCore i fun c => { c with active := setBit16 c.active x true, halted := setBit16 c.halted x false }).core i).active x = true ∧
      bit16 ((m2.modCore i fun c => { c with active := setBit16 c.active x true, halted := setBit16 c.halted x false }).core i).halted x = false ∧
      (m2.modCore i fun c => { c with active := setBit16 c.active x true, halted := setBit16 c.halted x false }).ctx i x = m2.ctx i x := by
    refine ⟨?_, ?_, ?_⟩
    · rw [M.core_modCore_same]; simp [bit16_setBit16 _ _ _ _ hx]
    · rw [M.core_modCore_same]; simp [bit16_setBit16 _ _ _ _ hx]
    · unfold M.ctx; rw [M.core_modCore_same]; rfl
  generalize (m2.modCore i fun c => { c with active := setBit16 c.active x true, halted := setBit16 c.halted x false }) = m3 at h3 ⊢
  obtain ⟨h4, h5, h6⟩ := h3
  split
  · obtain ⟨e1, e2, e3, e4, e5, e6⟩ := enter_facts m3 i x x
    rw [e1, e2, e4, e5, e6, h6]
    refine ⟨h4, h5, fun h => ?_, fun h => ?_⟩
    · rw [h2.1 h]; exact ⟨rfl, rfl, rfl⟩
    · rw [h2.2 h]; exact ⟨rfl, rfl⟩
  · rw [h6]
    refine ⟨h4, h5, fun h => ?_, fun h => ?_⟩
    · rw [h2.1 h]; exact ⟨rfl, rfl, rfl⟩
    · rw [h2.2 h]; exact ⟨rfl, rfl⟩

theorem bit16_zero (x : Nat) : bit16 0 x = false := by unfold bit16; simp

theorem M.core_dropWork (m : M) (i j : Nat) : (m.dropWork i).core j = m.core j := by
  unfold M.dropWork
  have : ∀ (l : List Nat) (m : M), ((l.foldl (fun (m : M) l => m.modLq (4 * i + l) fun q =>
    { q with work := if q.stepping.isSome then q.work.take 1 else [], readyAt := none, halves := 0, arrived := [] }) m).core j) = m.core j := by
    intro l
    induction l with
    | nil => intro m; rfl
    | cons a r ih => intro m; rw [List.foldl_cons, ih]; rfl
  exact this _ m

theorem M.core_stopSlots_ne (m : M) (i j : Nat) (w : Stop) (hj : j ≠ i) (h : ∀ sl, (m.core i).run = some sl → sl.kind ≠ kSync) : (m.stopSlots i w).core j = m.core j := by
  unfold M.stopSlots
  dsimp only
  have e : ∀ m : M, ((m.dropRing i).core j) = m.core j := by
    intro m; unfold M.dropRing; dsimp only; rw [M.core_modCore, if_neg hj]; rfl
  have e2 : (((((m.modCore i fun c => { c with run := c.run.map (·.halt w), ready := c.ready.map (·.halt w), wait := none }).modFab fun f => { f with colls := Tab.erase f.colls i }).dropRing i).dropWork i).discardStaged i).core j = m.core j := by
    unfold M.discardStaged
    rw [M.core_modCore, if_neg hj, M.core_dropWork, e]
    rw [M.core_modFab, M.core_modCore, if_neg hj]
  split
  · rename_i sl hsl
    have := h sl hsl
    rw [if_neg (by simp [this])]
    exact e2
  · exact e2

theorem M.onlyCore_resolveBranch (m : M) (i x addr index : Nat) : OnlyCore m (m.resolveBranch i x addr index) i ∧ ((m.resolveBranch i x addr index).core i).ready = (m.core i).ready := by
  unfold M.resolveBranch
  dsimp only
  split
  · exact ⟨OnlyCore.refl _ _, rfl⟩
  · split
    · exact ⟨OnlyCore.modCtx _ _ _ _, by unfold M.modCtx; rw [M.core_modCore_same]; rfl⟩
    · split
      · exact ⟨(OnlyCore.modCore _ _ _).trans (OnlyCore.modCtx _ _ _ _), by unfold M.modCtx; rw [M.core_modCore_same, M.core_modCore_same]; rfl⟩
      · exact ⟨(OnlyCore.modCore _ _ _).trans (OnlyCore.modCtx _ _ _ _), by unfold M.modCtx; rw [M.core_modCore_same, M.core_modCore_same]; rfl⟩

theorem M.endIdleChains_eq_self (m : M) (i : Nat) (ha : (m.core i).active = 0) (hp : ∀ x, x < 16 → (m.ctx i x).parkedRun = none) : m.endIdleChains i = m := by
  unfold M.endIdleChains
  apply foldl_eq_self
  intro x hx
  have hx : x < 16 := List.mem_range.mp hx
  have hs : m.stopParked i x .drain = m := by unfold M.stopParked; rw [hp x hx]
  dsimp only
  rw [hs]
  split
  · rfl
  · have : bit16 (m.core i).active x = false := by rw [ha]; unfold bit16; simp
    rw [this]; simp

theorem M.modCore_congr (m : M) (i : Nat) (f g : Core → Core) (h : f (m.core i) = g (m.core i)) : m.modCore i f = m.modCore i g := by unfold M.modCore; rw [h]

theorem M.fusedOff_congr (m : M) (x : M) (i : Nat) (h : x.fuse = m.fuse) : x.fusedOff i = m.fusedOff i := by unfold M.fusedOff; rw [h]

theorem bits_open (old : Nat) (x : Fin 16) (h : old.testBit x = false) :
    (bitsSet (setBit old x true % 2 ^ 16) 16).filter (fun y => !old.testBit y) = [x.val] ∧ (bitsSet old 16).filter (fun y => !(setBit old x true).testBit y) = [] := by
  constructor
  · unfold bitsSet
    rw [List.filter_filter, ← filter_range_eq x]
    apply List.filter_congr
    intro i hi
    rw [List.mem_range] at hi
    rw [Nat.testBit_mod_two_pow, testBit_setBit]
    by_cases hx : i = x.val
    · subst hx; simp [h, hi]
    · rw [if_neg hx]; cases old.testBit i <;> simp [hx]
  · rw [List.filter_eq_nil_iff]
    intro i hi
    unfold bitsSet at hi
    rw [List.mem_filter] at hi
    rw [testBit_setBit]
    by_cases hx : i = x.val
    · simp [hx]
    · simp [hx, hi.2]

theorem bits_close (old : Nat) (x : Fin 16) (h : old.testBit x = true) :
    (bitsSet (setBit old x false % 2 ^ 16) 16).filter (fun y => !old.testBit y) = [] ∧ (bitsSet old 16).filter (fun y => !(setBit old x false).testBit y) = [x.val] := by
  constructor
  · rw [List.filter_eq_nil_iff]
    intro i hi
    unfold bitsSet at hi
    rw [List.mem_filter, Nat.testBit_mod_two_pow, testBit_setBit] at hi
    by_cases hx : i = x.val
    · simp [hx] at hi
    · simp [hx] at hi
      simp [hi.2]
  · unfold bitsSet
    rw [List.filter_filter, ← filter_range_eq x]
    apply List.filter_congr
    intro i hi
    rw [testBit_setBit]
    by_cases hx : i = x.val
    · subst hx; simp [h]
    · simp [hx]

theorem linesOf_mem (a n l : Nat) (hn : 0 < n) (h : l ∈ linesOf a n) : l < a + n ∧ lineOf a ≤ l ∧ lineOf l = l := by
  unfold linesOf at h
  rw [if_neg (by omega)] at h
  simp only [List.mem_map, List.mem_range] at h
  obtain ⟨i, hi, h⟩ := h
  unfold lineOf
  omega

/-- The host reaches all of a range of memory whose lines are reachable. -/
theorem M.hostLines_mem (m : M) (a n : Nat) (hn : 0 < n) (hr : m.ready = true) (h : a + n ≤ memEnd) (hl : ∀ l ∈ linesOf a n, m.reach none (max l a) = true) :
    m.hostLines a n = some ((linesOf a n).map fun l => max l a) := by
  unfold M.hostLines
  rw [hr]
  have e : (linesOf a n).filterMap (fun l => windowMap (max l a)) = (linesOf a n).map fun l => max l a := by
    apply filterMap_some
    intro l hm
    have := linesOf_mem a n l hn hm
    unfold windowMap
    rw [if_pos (by omega)]
  simp only [e]
  simp
  exact fun l hm _ => hl l hm

theorem windowMap_mem (a : Nat) (h : a < memEnd) : windowMap a = some a := by unfold windowMap; rw [if_pos h]

theorem M.fusedWs_mem (m : M) (a : Nat) (h : a < memEnd) : m.fusedWs a = false := by unfold M.fusedWs placeOf; rw [if_pos h]

/-- A store to memory where no mirror takes part. -/
theorem M.storeL_facts (m : M) (a : Nat) (data : List Byte) (p : Bool) (hn : 0 < data.length) (hr : m.mirrorRole ≠ 2) (src : Nat) :
   let r := m.putLocal src a (data.map fun b => (some b, p))
   r.fuse = m.fuse ∧ r.base = m.base ∧ (∃ se w, r.dev = { m.dev with sent := se, windows := w }) ∧
   (∀ x, r.byte x = if a ≤ x ∧ x < a + data.length then data.getD (x - a) 0 else m.byte x) ∧
   (∀ x, r.marked x = if lineOf a ≤ x ∧ lineOf x < a + data.length then
        p || (!(a ≤ lineOf x && lineOf x + 64 ≤ a + data.length) && m.marked x) else m.marked x) := by
  intro r
  have e : r = (m.closeWindows a data.length).storeMask a (data.map fun b => (some b, p)) := by
    show m.putLocal _ _ _ = _
    rw [M.putLocal_eq _ _ _ _ hr, List.length_map]
  rw [e]
  have k := m.delivered_closeWindows a data.length
  have o := M.onlyMem_storeMask (m.closeWindows a data.length) a (data.map fun b => (some b, p))
  refine ⟨o.fuse.trans k.fuse, o.base.trans k.base, ?_, ?_, ?_⟩
  · obtain ⟨se, w, h⟩ := k.dev
    exact ⟨se, w, by rw [o.dev, h]⟩
  · intro x
    rw [M.byte_storeMask, List.length_map, k.byte]
    by_cases h : a ≤ x ∧ x < a + data.length
    · rw [if_pos h, if_pos h]
      rw [List.getD_eq_getElem _ _ (by rw [List.length_map]; omega), List.getElem_map, List.getD_eq_getElem _ _ (by omega)]
      rfl
    · rw [if_neg h, if_neg h]
  · intro x
    rw [M.marked_storeMask_map _ _ _ _ _ hn, k.marked]

end Sys2Proof.Machine
end

