-- ==== Sys2Proof/Laws/Heat.lean ====
section
/-! SUPPORT. Heat, power and energy (17_power.md, 18_thermal_coolant.md): temperatures as numbers, budgets of a tick, steps of the common state, energies added. -/

namespace Sys2Proof.Machine

theorem M.objFld_setObjFld_ne {m : M} {i j hi lo v i' j' hi' lo' : Nat} (hj : j' < 256) (hj' : j < 256) (h : (i', j') ≠ (i, j)) :
    (m.setObjFld i j hi lo v).objFld i' j' hi' lo' = m.objFld i' j' hi' lo' := by
  unfold M.objFld; rw [M.obj_setObjFld_ne _ _ _ _ _ _ _ _ hj hj' h]

theorem temp_toInt (a : BitVec 16) : temp a.toNat = a.toInt := by
  unfold temp toSigned
  rw [BitVec.toInt_eq_toNat_cond, Nat.mod_eq_of_lt a.isLt]
  have := a.isLt
  split <;> split <;> omega

theorem temp_lt (t : Nat) : temp t < 32768 ∧ -32768 ≤ temp t := by unfold temp toSigned; have := Nat.mod_lt t (show 0 < 2 ^ 16 by decide); split <;> constructor <;> omega

theorem testBit_of_fld (v k : Nat) (h : fld v 3 1 = 0) (hk : 1 ≤ k) (hk' : k ≤ 3) : v.testBit k = false := by
  unfold fld at h
  have := testBit_bitsAt v 1 3 (k - 1)
  rw [h] at this
  rw [show 1 + (k - 1) = k by omega, decide_eq_true (by omega)] at this
  simpa using this.symm

theorem M.derateCore_heat (m : M) (idx sub : Nat) : (m.derateCore idx sub).dev.heat = m.dev.heat := by
  have h1 : ∀ (m : M) f, (m.modPower f).dev.heat = m.dev.heat := fun _ _ => rfl
  have h2 : ∀ (m : M) k, (m.free k).2.dev.heat = m.dev.heat := fun _ _ => rfl
  unfold M.derateCore; dsimp only; generalize pairRegion (idx % 64) sub = r; split
  · rw [h1, h2]
  · rfl

theorem M.Kept.heat {a b : M} (h : M.Kept a b) : b.dev.heat = a.dev.heat := by obtain ⟨_, _, _, _, _, _, _, _, _, _, e⟩ := h; rw [e]

theorem M.obj_tickCore (m : M) (k i j : Nat) (hk : k < 255) (hj : j < 256) (h : (i, j) ≠ (0x4030, k + 1)) : (m.tickCore k).obj i j = m.obj i j := by
  unfold M.tickCore; dsimp only
  rw [M.obj_setObjBit_ne _ _ _ _ _ _ _ hj (by omega) h, M.obj_setObjFld_ne _ _ _ _ _ _ _ _ hj (by omega) h]

theorem M.objsOnly_tickCore (m : M) (k : Nat) : M.ObjsOnly m (m.tickCore k) := (m.objsOnly_setObjFld _ _ _ _ _).trans (M.objsOnly_setObj _ _ _ _)

theorem M.tickQuad_get (m a : M) (n k d : Nat) : Tab.get (M.tickQuad m a n).dev.heat.budgets d k = if k = n then (Tab.find? (m.tickLq n).dev.heat.budgets n).getD d else Tab.get a.dev.heat.budgets d k := by
  show Tab.get (match Tab.find? (m.tickLq n).dev.heat.budgets n with
      | some b => Tab.put a.dev.heat.budgets n b
      | none => Tab.erase a.dev.heat.budgets n) d k = _
  by_cases e : k = n
  · subst e; rw [if_pos rfl]
    cases Tab.find? (m.tickLq k).dev.heat.budgets k with
    | none => dsimp only; rw [Tab.get_erase_same]; rfl
    | some v => dsimp only; rw [Tab.get_put_same]; rfl
  · rw [if_neg e]
    cases Tab.find? (m.tickLq n).dev.heat.budgets n with
    | none => dsimp only; rw [Tab.get_erase_ne _ _ _ _ e]
    | some v => dsimp only; rw [Tab.get_put_ne _ _ _ _ _ e]

theorem M.aside_modMgmt (m : M) (f) : M.Aside m (m.modMgmt f) := ⟨rfl, rfl, rfl, rfl, rfl, rfl⟩

theorem M.aside_modHeat (m : M) (f) : M.Aside m (m.modHeat f) := ⟨rfl, rfl, rfl, rfl, rfl, rfl⟩

theorem M.aside_setObj (m : M) (i j v) : M.Aside m (m.setObj i j v) := ⟨rfl, rfl, rfl, rfl, rfl, rfl⟩

theorem M.aside_modPower (m : M) (f) : M.Aside m (m.modPower f) := ⟨rfl, rfl, rfl, rfl, rfl, rfl⟩

theorem M.obj_settle_limits (m : M) (j : Nat) (hj : j < 256) (h : j ≠ 4) : m.settle.obj 0x3020 j = m.obj 0x3020 j := by
  unfold M.settle
  rw [M.obj_settlePin _ _ _ hj (by decide)]
  have h' : ∀ a : M, a.settleLimiter.obj 0x3020 j = a.obj 0x3020 j := by
    intro a; unfold M.settleLimiter; split
    · rw [M.obj_setObjFld_ne _ _ _ _ _ _ _ _ hj (by decide) (by simp [h])]
    · rfl
  rw [h', M.obj_settleTiers _ _ _ hj (by decide) (by decide), M.obj_settleCores _ _ _ hj (by decide)]

theorem length_take_pos (a : Nat) (l : List Nat) : max 1 ((a :: l).take 20).length = ((a :: l).take 20).length := by simp

/-- One period of the capping controller, in its parts. -/
theorem M.capPeriod_eq (m : M) (power next : Nat) : m.capPeriod power next =
    (let a := (((m.modPower fun p => { p with powers := (power :: p.powers).take 20 }).setObj 0x3020 3 (((power :: m.dev.power.powers).take 20).sum / ((power :: m.dev.power.powers).take 20).length)).setObj 0x3020 2 m.appliedCap)
    if a.floorHeld then a
    else
      let r := if a.appliedCap < power then a.overCap power else
        let m := a.modPower fun p => { p with overPeriods := 0, lowering := false, okPeriods := min 1800 (p.okPeriods + 1) }
        (if 100 * next ≤ 97 * m.appliedCap then m.faster else m, false)
      let m := (r.1.setCommon (max r.1.common r.1.fastest)).modPower fun p => { p with tierCommon := max p.tierCommon r.1.fastest }
      (m.setObjFld 0x3020 4 7 4 (m.limiter r.2)).settle) := by
  unfold M.capPeriod
  dsimp only
  have h1 : (m.modPower fun p => { p with powers := (power :: p.powers).take 20 }).dev.power.powers = (power :: m.dev.power.powers).take 20 := rfl
  have h2 : (m.modPower fun p => { p with powers := (power :: p.powers).take 20 }).appliedCap = m.appliedCap := rfl
  rw [h1, h2, foldl_add_eq_sum, length_take_pos]

/-- What a period may change. -/
structure CapStep (a b : M) : Prop where
  aside : M.Aside a b
  obj : ∀ i j, j < 256 → (i, j) ≠ (0x3020, 4) → b.obj i j = a.obj i j

theorem CapStep.trans {a b c : M} (h : CapStep a b) (k : CapStep b c) : CapStep a c := ⟨h.1.trans k.1, fun i j hj hn => (k.2 i j hj hn).trans (h.2 i j hj hn)⟩

theorem CapStep.modPower (a : M) (f) : CapStep a (a.modPower f) := ⟨M.aside_modPower _ _, fun _ _ _ _ => rfl⟩

theorem CapStep.setCommon (a : M) (v) : CapStep a (a.setCommon v) := ⟨M.aside_setObj _ _ _ _, fun i j hj hn => M.obj_setObjFld_ne _ _ _ _ _ _ _ _ hj (by decide) hn⟩

theorem CapStep.slower (a : M) : CapStep a a.slower := (CapStep.setCommon _ _).trans (CapStep.modPower _ _)

theorem CapStep.faster (a : M) : CapStep a a.faster := by
  unfold M.faster; dsimp only; split
  · exact (CapStep.setCommon _ _).trans (CapStep.modPower _ _)
  · exact CapStep.modPower _ _

theorem CapStep.overCap (a : M) (p : Nat) : CapStep a (a.overCap p).1 := by
  unfold M.overCap; dsimp only
  split
  · exact CapStep.modPower _ _
  · exact (CapStep.modPower _ _).trans (CapStep.slower _)

theorem M.common_setCommon (a : M) (v : Nat) (h : v < 16) : (a.setCommon v).common = v := by
  unfold M.setCommon M.common M.objFld; rw [M.obj_setObjFld_same, fld_setFld_same]; exact Nat.mod_eq_of_lt h

theorem M.common_modPower (a : M) (f) : (a.modPower f).common = a.common := rfl

theorem M.common_lt (a : M) : a.common < 16 := fld_lt _ 3 0

theorem M.fastest_lt (a : M) : a.fastest < 8 := by unfold M.fastest; have : a.objFld 0x3020 5 2 0 < 8 := fld_lt _ 2 0; split <;> omega

theorem CapStep.fastest {a b : M} (h : CapStep a b) : b.fastest = a.fastest := by
  unfold M.fastest M.pinned M.objBit M.objFld; rw [h.2 _ _ (by decide) (by decide), h.2 _ _ (by decide) (by decide)]

theorem CapStep.cap {a b : M} (h : CapStep a b) : b.appliedCap = a.appliedCap := by
  unfold M.appliedCap M.objFld; rw [h.2 _ _ (by decide) (by decide), h.2 _ _ (by decide) (by decide), h.2 _ _ (by decide) (by decide)]

theorem M.obj_addEnergy (m : M) (i j n x y : Nat) (hy : y < 256) (hj : j < 256) : (m.addEnergy i j n).obj x y = if (x, y) = (i, j) then (m.obj i j + n) % 2 ^ 64 else m.obj x y := by
  unfold M.addEnergy
  by_cases h : (x, y) = (i, j)
  · rw [if_pos h]; cases h; rw [M.obj_setObj_same]
  · rw [if_neg h, M.obj_setObj_ne _ _ _ _ _ _ hy hj h]

theorem M.obj_addEnergies (es : List Nat) (b : Nat) (m : M) (hb : b + es.length ≤ 16) :
    M.ObjsOnly m ((es.zipIdx b).foldl (fun (m : M) e => m.addEnergy 0xA011 (e.2 + 1) e.1) m) ∧
    (∀ i j, j < 256 → i ≠ 0xA011 → ((es.zipIdx b).foldl (fun (m : M) e => m.addEnergy 0xA011 (e.2 + 1) e.1) m).obj i j = m.obj i j) ∧
    ∀ k, k < 16 → ((es.zipIdx b).foldl (fun (m : M) e => m.addEnergy 0xA011 (e.2 + 1) e.1) m).obj 0xA011 (k + 1) =
      if b ≤ k ∧ k < b + es.length then (m.obj 0xA011 (k + 1) + es.getD (k - b) 0) % 2 ^ 64 else m.obj 0xA011 (k + 1) := by
  induction es generalizing b m with
  | nil => refine ⟨M.ObjsOnly.refl m, fun _ _ _ _ => rfl, fun k _ => ?_⟩; rw [if_neg (by simp)]; rfl
  | cons e r ih =>
    simp only [List.length_cons] at hb
    rw [List.zipIdx_cons, List.foldl_cons]
    obtain ⟨h1, h2, h3⟩ := ih (b + 1) (m.addEnergy 0xA011 (b + 1) e) (by omega)
    refine ⟨M.ObjsOnly.trans (m.objsOnly_setObj _ _ _) h1, fun i j hj hi => ?_, fun k hk => ?_⟩
    · rw [h2 i j hj hi, M.obj_addEnergy _ _ _ _ _ _ hj (by omega), if_neg (by simp [hi])]
    · rw [h3 k hk, M.obj_addEnergy _ _ _ _ _ _ (by omega) (by omega)]
      simp only [List.length_cons, Prod.mk.injEq, true_and]
      by_cases c : k = b
      · subst c
        rw [if_neg (by omega), if_pos rfl, if_pos (by omega)]; simp
      · rw [if_neg (by omega : ¬ k + 1 = b + 1)]
        by_cases c2 : b + 1 ≤ k ∧ k < b + 1 + r.length
        · rw [if_pos c2, if_pos (by omega), show k - b = (k - (b + 1)) + 1 by omega, List.getD_cons_succ]
        · rw [if_neg c2, if_neg (by omega)]

theorem M.bucketEvent_high (m : M) (c i : Nat) (h : m.objFld 0x7030 c 31 0 ≤ Tab.get m.dev.buckets 0 (bucketKey c i) + 1) :
    m.bucketEvent c i = (true, (m.modBuckets fun b => Tab.erase b (bucketKey c i)).logFault 0x7004 (c * 2 ^ 24 + i) 0 0 clkMgmt) := by
  unfold M.bucketEvent; dsimp only; rw [if_pos h]

theorem clusterCount_compute : ∀ p : Fin 31, isComputePos p.val = true → clusterCount p.val = 70 := by decide

end Sys2Proof.Machine
end

