-- ==== Sys2Proof/Laws/Links.lean ====
section
/-! SUPPORT. Links (13_itril_link.md): one link changed, its state word, replay, and a flit taken. -/

namespace Sys2Proof.Machine

theorem M.link_modLink_same (m : M) (n : Nat) (f : Link → Link) : (m.modLink n f).link n = f (m.link n) := by rw [M.link_modLink, if_pos rfl]

theorem M.modLink_modLink (m : M) (n : Nat) (f g : Link → Link) : (m.modLink n f).modLink n g = m.modLink n (fun q => g (f q)) := by
  unfold M.modLink; dsimp only
  rw [show ({ m with dev := { m.dev with links := Tab.put m.dev.links n (f (m.link n)) } } : M).link n = f (m.link n) from Tab.get_put_same _ _ _ _, Tab.put_put]

theorem M.modLink_congr (m : M) (n : Nat) (f g : Link → Link) (h : f (m.link n) = g (m.link n)) : m.modLink n f = m.modLink n g := by unfold M.modLink; rw [h]

theorem M.sameLinks_modLink (m : M) (n : Nat) (f : Link → Link) : m.SameLinks (m.modLink n f) [n] := by
  intro a ha; rw [M.link_modLink, if_neg (by simpa using ha)]

theorem M.fecReport_clean (m : M) (l : Nat) (f : LFlit) (h : f.fecSyms = 0) (hb : f.fecBad = false) : m.fecReport l f = m := by
  unfold M.fecReport; simp [h, hb]

theorem M.drainCheck_idle (m : M) (l : Nat) (h : (m.link l).draining = false) : m.drainCheck l = m := by
  unfold M.drainCheck; simp [h]

theorem Link.refuse_eq (k : Link) : k.refuse = { k with nakDue := k.nakDue || !k.nakOut, nakOut := true } := by
  unfold Link.refuse; cases h : k.nakOut <;> cases k <;> simp_all

theorem Link.acked_draining (k : Link) (a : Nat) : (k.acked a).draining = k.draining := by
  unfold Link.acked; split <;> rfl

theorem Link.credit_draining (k : Link) (f : LFlit) : (k.credit f).draining = k.draining := by
  unfold Link.credit; exact Link.acked_draining k _

theorem M.linkState_modLink (m : M) (n l : Nat) (f : Link → Link) : (m.modLink n f).linkState l = m.linkState l := rfl

theorem M.linkUp_active {m : M} {l : Nat} (h : m.linkUp l = true) : m.linkState l = lsActive := by
  unfold M.linkUp at h; simp only [Bool.and_eq_true, beq_iff_eq] at h; exact h.1.2

theorem M.wantRetrain_eq (m : M) (l r : Nat) (h : m.linkState l = lsActive) (h0 : (m.link l).reqDue = 0) : m.wantRetrain l r = m.modLink l fun k => { k with reqDue := 3, reqReason := r } := by
  unfold M.wantRetrain; rw [if_pos (by simp [h, h0])]

theorem M.bucketEvent_low (m : M) (c i : Nat) (h : Tab.get m.dev.buckets 0 (bucketKey c i) + 1 < m.objFld 0x7030 c 31 0) : m.bucketEvent c i = (false, m.modBuckets fun b => Tab.put b (bucketKey c i) (Tab.get m.dev.buckets 0 (bucketKey c i) + 1)) := by
  unfold M.bucketEvent; rw [if_neg (by omega)]

theorem M.startReplay_none (m : M) (l : Nat) (h : (m.link l).replaying = (m.link l).replay.length) : m.startReplay l = m := by unfold M.startReplay; dsimp only; rw [if_pos h]

theorem M.startReplay_some (m : M) (l : Fin 32) (h : (m.link l).replaying ≠ (m.link l).replay.length)
    (hb : Tab.get m.dev.buckets 0 (bucketKey 3 l) + 1 < m.objFld 0x7030 3 31 0) :
    m.startReplay l = ((m.modLink l fun k => { k with replaying := k.replay.length }).satObj (0x6100 + l) 3 15 0 1).modBuckets fun b => Tab.put b (bucketKey 3 l) (Tab.get m.dev.buckets 0 (bucketKey 3 l) + 1) := by
  unfold M.startReplay linkObj; dsimp only; rw [if_neg h]
  have e : (((m.modLink l fun k => { k with replaying := k.replay.length }).satObj (0x6100 + l) 3 15 0 1).bucketEvent 3 l) = (false, ((m.modLink l fun k => { k with replaying := k.replay.length }).satObj (0x6100 + l) 3 15 0 1).modBuckets fun b => Tab.put b (bucketKey 3 l) (Tab.get m.dev.buckets 0 (bucketKey 3 l) + 1)) := by
    refine M.bucketEvent_low _ _ _ ?_
    show Tab.get m.dev.buckets 0 (bucketKey 3 l) + 1 < _
    unfold M.objFld; rw [M.obj_satObj_ne _ _ _ _ _ _ _ _ (by decide) (by decide) (by simp; omega)]
    exact hb
  rw [e]; dsimp only
  rw [if_neg (by simp)]

theorem M.kept_setLinkState (m : M) (l st r : Nat) : M.Kept m (m.setLinkState l st r) := by
  unfold M.setLinkState
  dsimp only
  refine M.Kept.trans (b := if r = 0 then m.setObjFld (linkObj l) 2 3 0 st else (m.setObjFld (linkObj l) 2 3 0 st).setObjFld (linkObj l) 2 23 16 r) ?_ ?_
  · split
    · exact M.kept_setObjFld ..
    · exact (M.kept_setObjFld ..).trans (M.kept_setObjFld ..)
  · generalize (if r = 0 then m.setObjFld (linkObj l) 2 3 0 st else (m.setObjFld (linkObj l) 2 3 0 st).setObjFld (linkObj l) 2 23 16 r) = m1
    refine M.Kept.trans (b := if (decide (st = lsDisabled) || decide (st = lsFailed)) = true then ((m1.setObjFld (linkObj l) 2 25 24 0).setObjFld (linkObj l) 2 35 32 0).setObjFld
    (linkObj l) 2 39 36 0 else m1) ?_ ?_
    · split
      · exact ((M.kept_setObjFld ..).trans (M.kept_setObjFld ..)).trans (M.kept_setObjFld ..)
      · exact M.Kept.refl _
    · generalize (if (decide (st = lsDisabled) || decide (st = lsFailed)) = true then ((m1.setObjFld (linkObj l) 2 25 24 0).setObjFld (linkObj l) 2 35 32 0).setObjFld
    (linkObj l) 2 39 36 0 else m1) = m2
      split
      · exact (M.kept_logFault ..).trans (M.kept_raise ..)
      · exact M.Kept.refl _

/-- what a link's status object becomes -/
def stateWord (w st r : Nat) : Nat :=
  let w := setFld w 3 0 st
  let w := if r = 0 then w else setFld w 23 16 r
  if st = lsDisabled || st = lsFailed then setFld (setFld (setFld w 25 24 0) 35 32 0) 39 36 0 else w

theorem M.obj_setLinkState (m : M) (l : Fin 32) (st r : Nat) : (m.setLinkState l st r).obj (0x6100 + l) 2 = stateWord (m.obj (0x6100 + l) 2) st r := by
  have h71 : 0x6100 + l.val ≠ 0x7100 := by omega
  unfold M.setLinkState stateWord linkObj
  dsimp only
  split <;> split <;> split <;> simp [M.obj_logFault _ _ _ _ _ _ _ _ h71 (by decide : 2 < 256)]

theorem M.obj_setLinkState_ne (m : M) (l : Fin 32) (st r i j : Nat) (hj : j < 256) (hi : i ≠ 0x7100) (h : (i, j) ≠ (0x6100 + l.val, 2)) : (m.setLinkState l st r).obj i j = m.obj i j := by
  unfold M.setLinkState linkObj
  dsimp only
  have hn : ∀ (m : M) (hi' lo v : Nat), (m.setObjFld (0x6100 + l) 2 hi' lo v).obj i j = m.obj i j := fun m a b v => M.obj_setObjFld_ne _ _ _ _ _ _ _ _ hj (by decide) h
  split <;> split <;> split <;> simp [M.obj_logFault _ _ _ _ _ _ _ _ hi hj, hn]

theorem stateWord_state (w st r : Nat) (h : st < 16) : fld (stateWord w st r) 3 0 = st := by
  unfold stateWord
  dsimp only
  have a : ∀ w, fld (setFld w 3 0 st) 3 0 = st := fun w => by rw [fld_setFld_same]; exact Nat.mod_eq_of_lt h
  split <;> split <;> simp only [fld_setFld_below _ _ _ _ 3 0 (by decide : 3 < 16) (by decide), fld_setFld_below _ _ _ _ 3 0 (by decide : 3 < 24) (by decide), fld_setFld_below _ _ _ _ 3 0 (by decide : 3 < 32) (by decide), fld_setFld_below _ _ _ _ 3 0 (by decide : 3 < 36) (by decide), a]

theorem stateWord_reason (w st r : Nat) (h : r < 256) (h0 : r ≠ 0) : fld (stateWord w st r) 23 16 = r := by
  unfold stateWord
  dsimp only
  rw [if_neg h0]
  have a : ∀ w, fld (setFld w 23 16 r) 23 16 = r := fun w => by rw [fld_setFld_same]; exact Nat.mod_eq_of_lt h
  split <;> simp only [fld_setFld_below _ _ _ _ 23 16 (by decide : 23 < 24) (by decide), fld_setFld_below _ _ _ _ 23 16 (by decide : 23 < 32) (by decide), fld_setFld_below _ _ _ _ 23 16 (by decide : 23 < 36) (by decide), a]

/-- the fields above 39 and, for a state other than DISABLED and FAILED, from 4 to 15 and 24 up, stand -/
theorem stateWord_other (w st r hi lo : Nat) (h : st ≠ lsDisabled) (h' : st ≠ lsFailed) (hl : lo ≤ hi) (hf : 3 < lo) (hr : hi < 16 ∨ 23 < lo) : fld (stateWord w st r) hi lo = fld w hi lo := by
  unfold stateWord
  dsimp only
  rw [if_neg (by simp [h, h'])]
  split
  · exact fld_setFld_above _ _ _ _ _ _ hf (by decide)
  · rcases hr with hr | hr
    · rw [fld_setFld_below _ _ _ _ _ _ hr hl]; exact fld_setFld_above _ _ _ _ _ _ hf (by decide)
    · rw [fld_setFld_above _ _ _ _ _ _ hr (by decide)]; exact fld_setFld_above _ _ _ _ _ _ hf (by decide)

/-- A flit free of errors, in a link that is up, is taken by what its kind does. -/
theorem M.receive_eq {m : M} {l : Nat} {f : LFlit} {kind : Nat} {act : M → M} (hu : m.linkUp l = true) (h0 : f.fecSyms = 0) (hw : f.whole = true) (hf : f.foreign = false) (hk : f.kind = kind)
    (hd : ((act m).link l).draining = false) : m.receive l f kind act = act m := by
  unfold M.receive
  have hb : f.fecBad = false := by unfold LFlit.whole at hw; simp only [Bool.and_eq_true, Bool.not_eq_true'] at hw; exact hw.2
  rw [M.fecReport_clean _ _ _ h0 hb, hu, hw, hf, hk]
  simp [M.drainCheck_idle _ _ hd]

theorem M.startReplay_draining (m : M) (l : Fin 32) : ((m.startReplay l).link l).draining = (m.link l).draining := by
  unfold M.startReplay
  dsimp only
  split
  · rfl
  · obtain ⟨m1, hm1⟩ : ∃ m1, m1 = (m.modLink l fun k => { k with replaying := k.replay.length }).satObj (linkObj l) 3 15 0 1 := ⟨_, rfl⟩
    rw [← hm1]
    have h1 : (m1.link l).draining = (m.link l).draining := by rw [hm1, M.link_satObj, M.link_modLink_same]
    have h2 := (M.kept_bucketEvent m1 3 l).links l
    split
    · unfold M.wantRetrain
      split
      · rw [M.link_modLink_same, h2, h1]
      · rw [h2, h1]
    · rw [h2, h1]

theorem takeSlots_first (n : Nat) (x : TxMsg) (r : List TxMsg) (h0 : 0 < x.slots.length) (h : x.slots.length ≤ n) :
    ∃ ss ow lo md, takeSlots n (x :: r) = (x.slots ++ ss, ow, lo, md) := by
  unfold takeSlots; rw [if_neg (by omega), if_pos h]; exact ⟨_, _, _, _, rfl⟩

theorem Link.takeBulk_same (k : Link) (n : Nat) : ∃ b md tm, (k.takeBulk n).2.2 = { k with txBulk := b, mid := md, txMirror := tm } := by
  unfold Link.takeBulk; dsimp only; split <;> split <;> exact ⟨_, _, _, rfl⟩

theorem takeSlots_nil (n : Nat) : takeSlots n [] = ([], [], [], false) := by unfold takeSlots; rfl

theorem Link.takeBulk_nil (k : Link) (n : Nat) (h : k.txMirror = []) (h' : k.txBulk = []) : (k.takeBulk n).1 = [] := by
  unfold Link.takeBulk; simp [h, h', takeSlots_nil]; split <;> rfl

theorem M.linkDown_idle (m : M) (l : Nat) (all : Bool) (hr : (m.link l).replay = []) (hm : (m.link l).mid = 0) (hq : all = true → (m.link l).txSb = [] ∧ (m.link l).txMirror = [] ∧ (m.link l).txBulk = []) :
    m.linkDown l all = m.modLink l fun k => { k with replaying := 0, rxSb := [], rxBulk := [], freeSb := 0, freeBulk := 0, nakDue := false, nakOut := false, reqDue := 0, downHeld := true } := by
  have hd : (m.link l).dropMid = (none, m.link l) := by unfold Link.dropMid; rw [if_neg (by omega), if_neg (by omega)]
  unfold M.linkDown
  dsimp only
  rw [hd, hr]
  cases all with
  | false =>
    simp only [Bool.false_eq_true, if_false, List.flatMap_nil, Option.toList_none, List.append_nil, List.isEmpty_nil, if_true, List.eraseDups_nil, List.foldl_nil]
    exact M.modLink_congr _ _ _ _ (by rw [← hr])
  | true =>
    obtain ⟨a, b, c⟩ := hq rfl
    simp only [a, b, c, if_true, List.append_nil, List.map_nil, List.flatMap_nil, Option.toList_none, List.isEmpty_nil, List.eraseDups_nil, List.foldl_nil]
    refine M.modLink_congr _ _ _ _ ?_
    revert hr a b c hm; generalize m.link l = k; intro hr hm a b c
    cases k; simp_all

end Sys2Proof.Machine
end

