-- ==== Sys2Proof/Laws/Pairs.lean ====
section
/-! SUPPORT. Mirror pairs (14_fabric_mirroring.md R328 to R335): no manifest waits for a mirror, parts taken early and in turn. -/

namespace Sys2Proof.Machine

theorem Core.run_waiter (c : Core) (t : Slot) (h : c.run = some t) : t ∈ c.waiters := by unfold Core.waiters; simp [h]

theorem Core.parked_waiter (c : Core) (x : Nat) (t : Slot) (h : (c.ctx x).parkedRun = some t) : t ∈ c.waiters := by
  unfold Core.waiters
  rcases Tab.mem_get c.ctxs CtxRegs.zero x with e | e
  · unfold Core.ctx at h; rw [e] at h; cases h
  · simp only [List.mem_append, List.mem_filterMap]
    exact Or.inr ⟨_, e, h⟩

theorem M.finishCovered_none (m : M) (q : Nat) (h : ∀ i, i < 24 → ∀ t ∈ (m.core i).waiters, t.phase ≠ .mirrorWait) : m.finishCovered q = m := by
  unfold M.finishCovered
  apply foldl_eq_self
  intro i hi
  have hi : i < 24 := by simpa using hi
  have np : ∀ t ∈ (m.core i).waiters, (t.phase == .mirrorWait) = false := fun t ht => by simpa using h i hi t ht
  dsimp only
  have fold : ∀ (f : M → Nat → M), (∀ x, f m x = (match (m.ctx i x).parkedRun with
      | some s => if (s.phase == .mirrorWait && (match s.record with | some r => decide (r.2 ≤ q) | none => false)) = true then m.finishHeld i s true else m
      | none => m)) → (List.range 16).foldl f m = m := by
    intro f hf
    apply foldl_eq_self
    intro x _
    rw [hf]
    cases hp : (m.ctx i x).parkedRun with
    | none => rfl
    | some t => dsimp only; rw [np t (Core.parked_waiter _ x _ hp)]; rfl
  cases hr : (m.core i).run with
  | none => exact fold _ fun x => rfl
  | some t =>
    dsimp only
    have := np t (Core.run_waiter _ _ hr)
    rw [if_neg (by rw [this]; simp)]
    exact fold _ fun x => rfl

theorem M.core_dropDeltas (m : M) (i : Nat) : (m.dropDeltas).core i = m.core i := by
  unfold M.dropDeltas
  generalize m.bundle = b
  induction b generalizing m with
  | nil => rfl
  | cons a r ih => rw [List.foldl_cons, ih]; rfl

theorem M.obj_dropDeltas (m : M) (i j : Nat) : (m.dropDeltas).obj i j = m.obj i j := by
  unfold M.dropDeltas
  generalize m.bundle = b
  induction b generalizing m with
  | nil => rfl
  | cons a r ih => rw [List.foldl_cons, ih]; rfl

theorem M.enterSolo_eq (m : M) (h : ∀ i, i < 24 → ∀ t ∈ (m.core i).waiters, t.phase ≠ .mirrorWait) : m.enterSolo = (((((m.setObjFld 0x6500 4 3 0 4).modMirror fun r => { r with
      unacked := [], resyncAt := none, copyLast := none })).dropDeltas).logFault 0x6002 m.partner m.acked 0 clkMgmt).raise 385 := by
  unfold M.enterSolo M.setMirrorState
  dsimp only
  rw [M.finishCovered_none _ _ (fun i hi t ht => h i hi t (by rw [M.core_dropDeltas] at ht; exact ht))]
  generalize hm : ((m.setObjFld 0x6500 4 3 0 4).modMirror fun r => { r with unacked := [], resyncAt := none, copyLast := none }) = m1
  have e1 : m1.dropDeltas.partner = m.partner := by
    unfold M.partner M.objFld; rw [M.obj_dropDeltas, ← hm]
    show fld ((m.setObjFld 0x6500 4 3 0 4).obj _ _) _ _ = _
    rw [M.obj_setObjFld_ne _ _ _ _ _ _ _ _ (by decide) (by decide) (by decide)]
  have e2 : m1.dropDeltas.acked = m.acked := by
    unfold M.acked M.objFld; rw [M.obj_dropDeltas, ← hm]
    show fld ((m.setObjFld 0x6500 4 3 0 4).obj _ _) _ _ = _
    rw [M.obj_setObjFld_same, fld_setFld_above _ _ _ _ _ _ (by decide) (by decide)]
  rw [e1, e2]

theorem M.hold_first (m : M) (d : Delta) (hh : m.dev.mirror.heldParts = []) : (m.modMirror fun r => { r with heldParts := r.heldParts ++ [d] }) = m.modMirror fun r => { r with heldParts := [d] } := by
  unfold M.modMirror; simp only [hh, List.nil_append]

theorem M.takePart_early (m : M) (d : Delta) (hh : m.dev.mirror.heldParts = []) (hlt : m.dev.mirror.applied + 1 < d.mseq) (hpt : d.part ≠ 3) :
    m.takePart d = (m.modMirror fun r => { r with heldParts := [d] }).emitMirror .none (m.message m.partner opMirrorAck m.dev.mirror.applied 0) := by
  unfold M.takePart
  dsimp only
  have c1 : ¬ ((decide (d.part = 3) && d.first && decide (m.dev.mirror.applied + 1 < d.mseq)) = true) := by
    rw [decide_eq_false hpt]; simp
  rw [if_neg c1]
  have c2 : ¬ ((decide (d.mseq ≤ m.dev.mirror.applied) || m.dev.mirror.heldParts.any fun e => e.mseq == d.mseq) = true) := by
    rw [hh, decide_eq_false (by omega)]; simp
  rw [if_neg c2, M.hold_first m d hh]
  generalize hm1 : (m.modMirror fun r => { r with heldParts := [d] }) = m1
  have h1 : m1.dev.mirror.heldParts = [d] := by rw [← hm1]; rfl
  have h2 : m1.dev.mirror.applied = m.dev.mirror.applied := by rw [← hm1]; rfl
  have e2 : M.applyHeld m1.dev.mirror.heldParts.length m1 = m1 := by
    rw [h1]
    show M.applyHeld 1 m1 = m1
    unfold M.applyHeld
    rw [h1, List.find?_cons, show (d.mseq == m1.dev.mirror.applied + 1) = false from by rw [beq_eq_false_iff_ne]; omega]
    rfl
  rw [e2, h2, ← hm1]; rfl

theorem M.onlyMem_writeUnits (us : List (List Byte × Bool)) (a : Nat) (m : M) : M.OnlyMem m (m.writeUnits a us) := by
  unfold M.writeUnits
  apply M.onlyMem_foldl
  intro m u
  split
  · exact M.onlyMem_storeMask _ _ _
  · exact ⟨rfl, rfl, rfl⟩

theorem M.takePart_next (m : M) (d : Delta) (hh : m.dev.mirror.heldParts = []) (hlt : m.dev.mirror.applied + 1 = d.mseq) (hpt : d.part = 0) :
    m.takePart d = ((m.modMirror fun r => { r with applied := d.mseq }).writeUnits d.addr d.data).emitMirror .none (m.message m.partner opMirrorAck d.mseq 0) := by
  unfold M.takePart
  dsimp only
  have c1 : ¬ ((decide (d.part = 3) && d.first && decide (m.dev.mirror.applied + 1 < d.mseq)) = true) := by
    rw [hpt]; simp
  rw [if_neg c1]
  have c2 : ¬ ((decide (d.mseq ≤ m.dev.mirror.applied) || m.dev.mirror.heldParts.any fun e => e.mseq == d.mseq) = true) := by
    rw [hh, decide_eq_false (by omega)]; simp
  rw [if_neg c2, M.hold_first m d hh]
  generalize hm1 : (m.modMirror fun r => { r with heldParts := [d] }) = m1
  have h1 : m1.dev.mirror.heldParts = [d] := by rw [← hm1]; rfl
  have h2 : m1.dev.mirror.applied = m.dev.mirror.applied := by rw [← hm1]; rfl
  have e3 : (m1.modMirror fun r => { r with heldParts := r.heldParts.filter fun e => e.mseq != d.mseq }).modMirror (fun r => { r with applied := d.mseq }) = m.modMirror fun r => { r with applied := d.mseq } := by
    rw [← hm1]; unfold M.modMirror; dsimp only
    have : [d].filter (fun e => e.mseq != d.mseq) = [] := by simp
    rw [this, ← hh]
  have e2 : M.applyHeld m1.dev.mirror.heldParts.length m1 = (m.modMirror fun r => { r with applied := d.mseq }).writeUnits d.addr d.data := by
    rw [h1]
    show M.applyHeld 1 m1 = _
    unfold M.applyHeld
    rw [h1, List.find?_cons, show (d.mseq == m1.dev.mirror.applied + 1) = true from by rw [beq_iff_eq]; omega]
    show M.applyHeld 0 _ = _
    unfold M.applyHeld M.applyPart
    dsimp only
    rw [hpt, e3]; rfl
  rw [e2]
  have w := M.onlyMem_writeUnits d.data d.addr (m.modMirror fun r => { r with applied := d.mseq })
  generalize (m.modMirror fun r => { r with applied := d.mseq }).writeUnits d.addr d.data = mw at w
  have w1 : mw.deviceId = m.deviceId := by unfold M.deviceId M.obj; rw [w.fuse, w.dev]; rfl
  have w2 : mw.partner = m.partner := by unfold M.partner M.objFld M.obj; rw [w.fuse, w.dev]; rfl
  have w3 : mw.dev.mirror.applied = d.mseq := by rw [w.dev]; rfl
  rw [w2, w3]
  unfold M.message
  rw [w1]

theorem M.dropHeld_eq_self (m : M) (i : Nat) (h : ∀ t ∈ (m.core i).waiters, t.phase ≠ .mirrorWait) : m.dropHeld i = m := by
  have np : ∀ t ∈ (m.core i).waiters, (t.phase == .mirrorWait) = false := fun t ht => by simpa using h t ht
  have fold : ∀ (f : M → Nat → M), (∀ x, f m x = (match (m.ctx i x).parkedRun with
      | some s => if s.phase == .mirrorWait then (m.modCtx i x fun r => { r with parkedRun := none, parkedReady := none, parkReady := false }).endChain i x else m
      | none => m)) → (List.range 16).foldl f m = m := by
    intro f hf
    apply foldl_eq_self
    intro x _
    rw [hf]
    cases hp : (m.ctx i x).parkedRun with
    | none => rfl
    | some t => dsimp only; rw [np t (Core.parked_waiter _ x _ hp)]; rfl
  unfold M.dropHeld
  dsimp only
  cases hr : (m.core i).run with
  | none => exact fold _ fun x => rfl
  | some t =>
    dsimp only
    have := np t (Core.run_waiter _ _ hr)
    rw [if_neg (by rw [this]; simp)]
    exact fold _ fun x => rfl

end Sys2Proof.Machine
end

