-- ==== Sys2Proof/WellFormed.lean ====
section
/-! DEFINITION. Which commands are well formed: their operands lie in the ranges the manual gives their fields. A command that
is not well formed has a meaning too; no party can send it. -/

namespace Sys2Proof

open Sys2Proof.Machine

/-- The fields of a message fit the header of R312, and its data is one to sixteen units of at most 64 bytes. -/
def Msg.wf (x : Machine.Msg) : Bool :=
  x.dest < 2 ^ 16 && x.src < 2 ^ 16 && x.addr < 2 ^ 48 && x.tag < 2 ^ 12 && x.lenM1 < 16 && x.op < 2 ^ 6 && x.ctx < 16 &&
    x.hops < 64 && x.resp < 256 && x.atom < 16 && x.resv < 16 && x.data.length <= 17 && x.data.all fun d => d.1.length <= 64

/-- The fields of a flit fit R298, and its slots are fifteen. -/
def LFlit.wf (f : Machine.LFlit) : Bool :=
  f.kind < 16 && f.seq < 2 ^ 16 && f.ack < 2 ^ 16 && f.fmt < 16 && f.slots.length == 15 && f.slots.all fun s => s < 2 ^ 128

/-- Is a command well formed? -/
def Instr.wf : Instr → Bool
  | .coreStart _ _ _ => true
  | .clrErr _ _ => true
  | .coreAbort _ _ => true
  | .abortLatch _ => true
  | .registerWrite offset wide _ _ => offset < 2 ^ 26 && offset % (if wide then 8 else 4) == 0
  | .manifestFetchDone _ => true
  | .recordSlotReserve _ => true
  | .outriderPrefetch _ => true
  | .matrix _ => true
  | .convoyMac _ => true
  | .convoyAdd _ => true
  | .convoyMax _ => true
  | .convoyCmp _ => true
  | .convert _ => true
  | .vectorAdd _ => true
  | .vectorSub _ => true
  | .vectorMul _ => true
  | .vectorMax _ => true
  | .vectorMin _ => true
  | .axpb _ => true
  | .funcOp _ => true
  | .rmsnorm _ => true
  | .layernorm _ => true
  | .rope _ => true
  | .routeTop2 _ => true
  | .amax _ => true
  | .score _ => true
  | .softmax _ => true
  | .kvAppend _ => true
  | .move _ => true
  | .transposingMove _ => true
  | .send _ => true
  | .circulate _ => true
  | .combine _ => true
  | .gather _ => true
  | .broadcast _ => true
  | .reduceChildren _ => true
  | .gradientFold _ => true
  | .barrier _ => true
  | .waitFlag _ => true
  | .signal _ => true
  | .xbarrier _ => true
  | .tableLoad _ => true
  | .branch _ => true
  | .checkpoint _ => true
  | .manifestCommit _ => true
  | .drainLimitExpiry _ => true
  | .segmentArrive _ _ => true
  | .convoyStepEnd _ => true
  | .stepGrant _ => true
  | .bankAccess unit _ _ _ _ => unit % 64 == 0
  | .refreshDue _ => true
  | .scrubUnit _ _ => true
  | .sramScrub _ _ _ _ _ => true
  | .bucketLeak _ _ => true
  | .sparingCopyDone _ => true
  | .repairMapWrite _ => true
  | .tractModeWrite _ _ _ _ => true
  | .tractConversionStart _ _ => true
  | .tractConversionDone _ _ => true
  | .bazaarCoreRead _ line _ => line % 64 == 0
  | .bazaarWindowClose _ => true
  | .bazaarAccess _ _ _ => true
  | .ringInject _ => true
  | .ringTransferArrive _ => true
  | .cisternOwnerWrite _ _ _ => true
  | .cisternClearStart _ => true
  | .cisternClearDone _ => true
  | .flitSend _ => true
  | .payload _ flit => LFlit.wf flit
  | .idle _ flit => LFlit.wf flit
  | .nak _ flit => LFlit.wf flit
  | .retrainReq _ flit => LFlit.wf flit
  | .replayTimeout _ _ => true
  | .laneSignalLoss _ => true
  | .linkDetect _ => true
  | .linkTrainPhaseEnd _ _ _ => true
  | .linkNegotiate _ _ _ _ _ _ _ => true
  | .linkHoldExpiry _ => true
  | .linkDrainExpiry _ => true
  | .retrain _ _ => true
  | .linkEnable _ _ _ => true
  | .read _ msg => Msg.wf msg
  | .readData _ msg => Msg.wf msg
  | .write _ msg => Msg.wf msg
  | .writeAck _ msg => Msg.wf msg
  | .fetchAdd _ msg => Msg.wf msg
  | .swap _ msg => Msg.wf msg
  | .cas64 _ msg => Msg.wf msg
  | .maxU32 _ msg => Msg.wf msg
  | .addSatU32 _ msg => Msg.wf msg
  | .or32 _ msg => Msg.wf msg
  | .atomicData _ msg => Msg.wf msg
  | .flagSet _ msg => Msg.wf msg
  | .barrierArrive _ msg => Msg.wf msg
  | .barrierRelease _ msg => Msg.wf msg
  | .heartbeat _ msg => Msg.wf msg
  | .collReady _ msg => Msg.wf msg
  | .collData _ msg => Msg.wf msg
  | .mirrorDelta _ msg => Msg.wf msg
  | .mirrorAck _ msg => Msg.wf msg
  | .takeoverNotice _ msg => Msg.wf msg
  | .requestTimeout _ => true
  | .tagRelease _ => true
  | .collTimeout _ => true
  | .xtimeout _ => true
  | .heartbeatSend => true
  | .partnerLost => true
  | .mirrorLag => true
  | .soloTimeout => true
  | .endPair _ => true
  | .resync _ => true
  | .takeover _ => true
  | .hostBar2Read _ length => 1 <= length
  | .hostBar2Write _ data _ => 1 <= data.length
  | .hostAtomic offset _ wide _ _ => offset % (if wide then 8 else 4) == 0
  | .functionLevelReset => true
  | .perst => true
  | .mboxSubmit => true
  | .mboxClear _ => true
  | .lapFrameReceive _ _ _ _ _ content _ => content.length <= 1500
  | .ledgerRead => true
  | .ledgerWrite => true
  | .describe => true
  | .discover => true
  | .trayReport _ _ entries => entries.length <= 255
  | .failsafeRepeat => true
  | .failsafeAck _ => true
  | .claim _ => true
  | .release _ => true
  | .leaseExpiry => true
  | .save _ => true
  | .forget _ => true
  | .saveDone _ => true
  | .mgmtSettingsApply => true
  | .faultLogClear _ => true
  | .memoryLogClear _ _ => true
  | .faultLogPersist _ => true
  | .ledgerFlagSet _ _ _ => true
  | .ledgerFlagClear _ _ _ => true
  | .contextOpen _ _ _ => true
  | .contextClose _ _ _ => true
  | .quantumExpiry _ => true
  | .contextSwitch _ => true
  | .parkedResume _ => true
  | .fence _ _ => true
  | .unfence _ _ => true
  | .domainOn _ _ => true
  | .domainOff _ _ => true
  | .domainTransitionDone _ => true
  | .capPeriod _ _ => true
  | .pstateChangeDone _ => true
  | .feedOutOfRange _ => true
  | .feedRestore _ => true
  | .pwrAlertAssert _ => true
  | .pwrAlertRelease => true
  | .floorHoldEnd => true
  | .pwrAlertLong => true
  | .phaseFault _ _ => true
  | .currentLimitTrip _ _ _ => true
  | .senseEvent _ _ => true
  | .sensorSample _ _ => true
  | .thermalTick => true
  | .traySilenceTimeout => true
  | .coolantRelease => true
  | .missingEdge _ => true
  | .clockJudgeWindow _ _ => true
  | .srcReq _ _ _ => true
  | .twpOscLoss => true
  | .heldDomainTimeout => true
  | .resetCore _ _ => true
  | .resetTier _ _ _ => true
  | .resetPartition _ _ => true
  | .resetDevice _ => true
  | .resetBegin => true
  | .spineQuiesceEnd _ => true
  | .resetRelease => true
  | .powerOn => true
  | .bringupStageEnd _ _ _ => true
  | .mcHeartbeat => true
  | .mcTimeout => true
  | .restartLimit => true
  | .bondTestPeriod => true
  | .runTest _ => true
  | .laneTestDone _ _ _ _ _ _ => true
  | .tollIntegrate contexts _ => contexts.length == 16
  | .attestRequest _ => true
  | .attestReportReady => true
  | .beginUpdate _ _ => true
  | .applyPackage _ => true
  | .applyDone _ _ _ => true
  | .activate _ => true
  | .startFailTimeout => true
  | .confirm _ => true
  | .revert _ => true
  | .cancel _ => true
  | .chunk _ _ => true
  | .confirmLimitExpiry => true
  | .alignLoss _ => true
  | .flitProtocolError _ flit => LFlit.wf flit
  | .messageProtocolError _ msg => Msg.wf msg
  | .flagSetReturn _ msg => Msg.wf msg
  | .perstRelease => true
  | .ltcTimeout => true
  | .holdUpExpiry => true
  | .refreshDone _ => true

/-- The place of a command in spec/opcode_table.json, from 0. -/
def Instr.row : Instr → Nat
  | .coreStart _ _ _ => 0
  | .clrErr _ _ => 1
  | .coreAbort _ _ => 2
  | .abortLatch _ => 3
  | .registerWrite _ _ _ _ => 4
  | .manifestFetchDone _ => 5
  | .recordSlotReserve _ => 6
  | .outriderPrefetch _ => 7
  | .matrix _ => 8
  | .convoyMac _ => 9
  | .convoyAdd _ => 10
  | .convoyMax _ => 11
  | .convoyCmp _ => 12
  | .convert _ => 13
  | .vectorAdd _ => 14
  | .vectorSub _ => 15
  | .vectorMul _ => 16
  | .vectorMax _ => 17
  | .vectorMin _ => 18
  | .axpb _ => 19
  | .funcOp _ => 20
  | .rmsnorm _ => 21
  | .layernorm _ => 22
  | .rope _ => 23
  | .routeTop2 _ => 24
  | .amax _ => 25
  | .score _ => 26
  | .softmax _ => 27
  | .kvAppend _ => 28
  | .move _ => 29
  | .transposingMove _ => 30
  | .send _ => 31
  | .circulate _ => 32
  | .combine _ => 33
  | .gather _ => 34
  | .broadcast _ => 35
  | .reduceChildren _ => 36
  | .gradientFold _ => 37
  | .barrier _ => 38
  | .waitFlag _ => 39
  | .signal _ => 40
  | .xbarrier _ => 41
  | .tableLoad _ => 42
  | .branch _ => 43
  | .checkpoint _ => 44
  | .manifestCommit _ => 45
  | .drainLimitExpiry _ => 46
  | .segmentArrive _ _ => 47
  | .convoyStepEnd _ => 48
  | .stepGrant _ => 49
  | .bankAccess _ _ _ _ _ => 50
  | .refreshDue _ => 51
  | .scrubUnit _ _ => 52
  | .sramScrub _ _ _ _ _ => 53
  | .bucketLeak _ _ => 54
  | .sparingCopyDone _ => 55
  | .repairMapWrite _ => 56
  | .tractModeWrite _ _ _ _ => 57
  | .tractConversionStart _ _ => 58
  | .tractConversionDone _ _ => 59
  | .bazaarCoreRead _ _ _ => 60
  | .bazaarWindowClose _ => 61
  | .bazaarAccess _ _ _ => 62
  | .ringInject _ => 63
  | .ringTransferArrive _ => 64
  | .cisternOwnerWrite _ _ _ => 65
  | .cisternClearStart _ => 66
  | .cisternClearDone _ => 67
  | .flitSend _ => 68
  | .payload _ _ => 69
  | .idle _ _ => 70
  | .nak _ _ => 71
  | .retrainReq _ _ => 72
  | .replayTimeout _ _ => 73
  | .laneSignalLoss _ => 74
  | .linkDetect _ => 75
  | .linkTrainPhaseEnd _ _ _ => 76
  | .linkNegotiate _ _ _ _ _ _ _ => 77
  | .linkHoldExpiry _ => 78
  | .linkDrainExpiry _ => 79
  | .retrain _ _ => 80
  | .linkEnable _ _ _ => 81
  | .read _ _ => 82
  | .readData _ _ => 83
  | .write _ _ => 84
  | .writeAck _ _ => 85
  | .fetchAdd _ _ => 86
  | .swap _ _ => 87
  | .cas64 _ _ => 88
  | .maxU32 _ _ => 89
  | .addSatU32 _ _ => 90
  | .or32 _ _ => 91
  | .atomicData _ _ => 92
  | .flagSet _ _ => 93
  | .barrierArrive _ _ => 94
  | .barrierRelease _ _ => 95
  | .heartbeat _ _ => 96
  | .collReady _ _ => 97
  | .collData _ _ => 98
  | .mirrorDelta _ _ => 99
  | .mirrorAck _ _ => 100
  | .takeoverNotice _ _ => 101
  | .requestTimeout _ => 102
  | .tagRelease _ => 103
  | .collTimeout _ => 104
  | .xtimeout _ => 105
  | .heartbeatSend => 106
  | .partnerLost => 107
  | .mirrorLag => 108
  | .soloTimeout => 109
  | .endPair _ => 110
  | .resync _ => 111
  | .takeover _ => 112
  | .hostBar2Read _ _ => 113
  | .hostBar2Write _ _ _ => 114
  | .hostAtomic _ _ _ _ _ => 115
  | .functionLevelReset => 116
  | .perst => 117
  | .mboxSubmit => 118
  | .mboxClear _ => 119
  | .lapFrameReceive _ _ _ _ _ _ _ => 120
  | .ledgerRead => 121
  | .ledgerWrite => 122
  | .describe => 123
  | .discover => 124
  | .trayReport _ _ _ => 125
  | .failsafeRepeat => 126
  | .failsafeAck _ => 127
  | .claim _ => 128
  | .release _ => 129
  | .leaseExpiry => 130
  | .save _ => 131
  | .forget _ => 132
  | .saveDone _ => 133
  | .mgmtSettingsApply => 134
  | .faultLogClear _ => 135
  | .memoryLogClear _ _ => 136
  | .faultLogPersist _ => 137
  | .ledgerFlagSet _ _ _ => 138
  | .ledgerFlagClear _ _ _ => 139
  | .contextOpen _ _ _ => 140
  | .contextClose _ _ _ => 141
  | .quantumExpiry _ => 142
  | .contextSwitch _ => 143
  | .parkedResume _ => 144
  | .fence _ _ => 145
  | .unfence _ _ => 146
  | .domainOn _ _ => 147
  | .domainOff _ _ => 148
  | .domainTransitionDone _ => 149
  | .capPeriod _ _ => 150
  | .pstateChangeDone _ => 151
  | .feedOutOfRange _ => 152
  | .feedRestore _ => 153
  | .pwrAlertAssert _ => 154
  | .pwrAlertRelease => 155
  | .floorHoldEnd => 156
  | .pwrAlertLong => 157
  | .phaseFault _ _ => 158
  | .currentLimitTrip _ _ _ => 159
  | .senseEvent _ _ => 160
  | .sensorSample _ _ => 161
  | .thermalTick => 162
  | .traySilenceTimeout => 163
  | .coolantRelease => 164
  | .missingEdge _ => 165
  | .clockJudgeWindow _ _ => 166
  | .srcReq _ _ _ => 167
  | .twpOscLoss => 168
  | .heldDomainTimeout => 169
  | .resetCore _ _ => 170
  | .resetTier _ _ _ => 171
  | .resetPartition _ _ => 172
  | .resetDevice _ => 173
  | .resetBegin => 174
  | .spineQuiesceEnd _ => 175
  | .resetRelease => 176
  | .powerOn => 177
  | .bringupStageEnd _ _ _ => 178
  | .mcHeartbeat => 179
  | .mcTimeout => 180
  | .restartLimit => 181
  | .bondTestPeriod => 182
  | .runTest _ => 183
  | .laneTestDone _ _ _ _ _ _ => 184
  | .tollIntegrate _ _ => 185
  | .attestRequest _ => 186
  | .attestReportReady => 187
  | .beginUpdate _ _ => 188
  | .applyPackage _ => 189
  | .applyDone _ _ _ => 190
  | .activate _ => 191
  | .startFailTimeout => 192
  | .confirm _ => 193
  | .revert _ => 194
  | .cancel _ => 195
  | .chunk _ _ => 196
  | .confirmLimitExpiry => 197
  | .alignLoss _ => 198
  | .flitProtocolError _ _ => 199
  | .messageProtocolError _ _ => 200
  | .flagSetReturn _ _ => 201
  | .perstRelease => 202
  | .ltcTimeout => 203
  | .holdUpExpiry => 204
  | .refreshDone _ => 205

end Sys2Proof
end

