-- ==== Sys2Proof/Laws/PerInstr.lean ====
section
/-! SUPPORT. The statement made of every command as syntax: it stands in one row of the table. -/

namespace Sys2Proof.Laws.Family

open Sys2Proof.Machine

/-- The command is a row of the table of 206. -/
def Statement (i : Instr) : Prop := i.row < 206

theorem coreStart (core : Fin 24) (ctx : Fin 16) (clr : Bool) : Statement (.coreStart core ctx clr) := Nat.le_of_ble_eq_true rfl
theorem clrErr (core : Fin 24) (ctx : Fin 16) : Statement (.clrErr core ctx) := Nat.le_of_ble_eq_true rfl
theorem coreAbort (core : Fin 24) (ctx : Fin 16) : Statement (.coreAbort core ctx) := Nat.le_of_ble_eq_true rfl
theorem abortLatch (core : Fin 24) : Statement (.abortLatch core) := Nat.le_of_ble_eq_true rfl
theorem registerWrite (offset : Nat) (wide : Bool) (value : W64) (poisoned : Bool) : Statement (.registerWrite offset wide value poisoned) := Nat.le_of_ble_eq_true rfl
theorem manifestFetchDone (core : Fin 24) : Statement (.manifestFetchDone core) := Nat.le_of_ble_eq_true rfl
theorem recordSlotReserve (core : Fin 24) : Statement (.recordSlotReserve core) := Nat.le_of_ble_eq_true rfl
theorem outriderPrefetch (core : Fin 24) : Statement (.outriderPrefetch core) := Nat.le_of_ble_eq_true rfl
theorem matrix (core : Fin 24) : Statement (.matrix core) := Nat.le_of_ble_eq_true rfl
theorem convoyMac (core : Fin 24) : Statement (.convoyMac core) := Nat.le_of_ble_eq_true rfl
theorem convoyAdd (core : Fin 24) : Statement (.convoyAdd core) := Nat.le_of_ble_eq_true rfl
theorem convoyMax (core : Fin 24) : Statement (.convoyMax core) := Nat.le_of_ble_eq_true rfl
theorem convoyCmp (core : Fin 24) : Statement (.convoyCmp core) := Nat.le_of_ble_eq_true rfl
theorem convert (core : Fin 24) : Statement (.convert core) := Nat.le_of_ble_eq_true rfl
theorem vectorAdd (core : Fin 24) : Statement (.vectorAdd core) := Nat.le_of_ble_eq_true rfl
theorem vectorSub (core : Fin 24) : Statement (.vectorSub core) := Nat.le_of_ble_eq_true rfl
theorem vectorMul (core : Fin 24) : Statement (.vectorMul core) := Nat.le_of_ble_eq_true rfl
theorem vectorMax (core : Fin 24) : Statement (.vectorMax core) := Nat.le_of_ble_eq_true rfl
theorem vectorMin (core : Fin 24) : Statement (.vectorMin core) := Nat.le_of_ble_eq_true rfl
theorem axpb (core : Fin 24) : Statement (.axpb core) := Nat.le_of_ble_eq_true rfl
theorem funcOp (core : Fin 24) : Statement (.funcOp core) := Nat.le_of_ble_eq_true rfl
theorem rmsnorm (core : Fin 24) : Statement (.rmsnorm core) := Nat.le_of_ble_eq_true rfl
theorem layernorm (core : Fin 24) : Statement (.layernorm core) := Nat.le_of_ble_eq_true rfl
theorem rope (core : Fin 24) : Statement (.rope core) := Nat.le_of_ble_eq_true rfl
theorem routeTop2 (core : Fin 24) : Statement (.routeTop2 core) := Nat.le_of_ble_eq_true rfl
theorem amax (core : Fin 24) : Statement (.amax core) := Nat.le_of_ble_eq_true rfl
theorem score (core : Fin 24) : Statement (.score core) := Nat.le_of_ble_eq_true rfl
theorem softmax (core : Fin 24) : Statement (.softmax core) := Nat.le_of_ble_eq_true rfl
theorem kvAppend (core : Fin 24) : Statement (.kvAppend core) := Nat.le_of_ble_eq_true rfl
theorem move (core : Fin 24) : Statement (.move core) := Nat.le_of_ble_eq_true rfl
theorem transposingMove (core : Fin 24) : Statement (.transposingMove core) := Nat.le_of_ble_eq_true rfl
theorem send (core : Fin 24) : Statement (.send core) := Nat.le_of_ble_eq_true rfl
theorem circulate (core : Fin 24) : Statement (.circulate core) := Nat.le_of_ble_eq_true rfl
theorem combine (core : Fin 24) : Statement (.combine core) := Nat.le_of_ble_eq_true rfl
theorem gather (core : Fin 24) : Statement (.gather core) := Nat.le_of_ble_eq_true rfl
theorem broadcast (core : Fin 24) : Statement (.broadcast core) := Nat.le_of_ble_eq_true rfl
theorem reduceChildren (core : Fin 24) : Statement (.reduceChildren core) := Nat.le_of_ble_eq_true rfl
theorem gradientFold (core : Fin 24) : Statement (.gradientFold core) := Nat.le_of_ble_eq_true rfl
theorem barrier (core : Fin 24) : Statement (.barrier core) := Nat.le_of_ble_eq_true rfl
theorem waitFlag (core : Fin 24) : Statement (.waitFlag core) := Nat.le_of_ble_eq_true rfl
theorem signal (core : Fin 24) : Statement (.signal core) := Nat.le_of_ble_eq_true rfl
theorem xbarrier (core : Fin 24) : Statement (.xbarrier core) := Nat.le_of_ble_eq_true rfl
theorem tableLoad (core : Fin 24) : Statement (.tableLoad core) := Nat.le_of_ble_eq_true rfl
theorem branch (core : Fin 24) : Statement (.branch core) := Nat.le_of_ble_eq_true rfl
theorem checkpoint (core : Fin 24) : Statement (.checkpoint core) := Nat.le_of_ble_eq_true rfl
theorem manifestCommit (core : Fin 24) : Statement (.manifestCommit core) := Nat.le_of_ble_eq_true rfl
theorem drainLimitExpiry (core : Fin 24) : Statement (.drainLimitExpiry core) := Nat.le_of_ble_eq_true rfl
theorem segmentArrive (lq : Fin 96) (group : Fin 128) : Statement (.segmentArrive lq group) := Nat.le_of_ble_eq_true rfl
theorem convoyStepEnd (lq : Fin 96) : Statement (.convoyStepEnd lq) := Nat.le_of_ble_eq_true rfl
theorem stepGrant (tier : Fin 6) : Statement (.stepGrant tier) := Nat.le_of_ble_eq_true rfl
theorem bankAccess (unit : Nat) (source : Nat) (data : Option (List (Option Byte))) (poison : Bool) (err : UnitErr) : Statement (.bankAccess unit source data poison err) := Nat.le_of_ble_eq_true rfl
theorem refreshDue (lq : Fin 96) : Statement (.refreshDue lq) := Nat.le_of_ble_eq_true rfl
theorem scrubUnit (lq : Fin 96) (err : UnitErr) : Statement (.scrubUnit lq err) := Nat.le_of_ble_eq_true rfl
theorem sramScrub (store : Nat) (block : Nat) (err : List (Nat × BitVec 16)) (rErr : BitVec 16) (cErr : BitVec 16) : Statement (.sramScrub store block err rErr cErr) := Nat.le_of_ble_eq_true rfl
theorem bucketLeak (cls : Fin 8) (inst : Nat) : Statement (.bucketLeak cls inst) := Nat.le_of_ble_eq_true rfl
theorem sparingCopyDone (bank : Fin 196608) : Statement (.sparingCopyDone bank) := Nat.le_of_ble_eq_true rfl
theorem repairMapWrite (bank : Fin 196608) : Statement (.repairMapWrite bank) := Nat.le_of_ble_eq_true rfl
theorem tractModeWrite (party : Party) (column : Fin 24) (sub : Fin 24) (value : W64) : Statement (.tractModeWrite party column sub value) := Nat.le_of_ble_eq_true rfl
theorem tractConversionStart (column : Fin 24) (tract : Fin 1536) : Statement (.tractConversionStart column tract) := Nat.le_of_ble_eq_true rfl
theorem tractConversionDone (column : Fin 24) (tract : Fin 1536) : Statement (.tractConversionDone column tract) := Nat.le_of_ble_eq_true rfl
theorem bazaarCoreRead (core : Fin 24) (line : Nat) (set : BitVec 24) : Statement (.bazaarCoreRead core line set) := Nat.le_of_ble_eq_true rfl
theorem bazaarWindowClose (line : Nat) : Statement (.bazaarWindowClose line) := Nat.le_of_ble_eq_true rfl
theorem bazaarAccess (addr : Nat) (data : Option (List Byte)) (poison : Bool) : Statement (.bazaarAccess addr data poison) := Nat.le_of_ble_eq_true rfl
theorem ringInject (core : Fin 24) : Statement (.ringInject core) := Nat.le_of_ble_eq_true rfl
theorem ringTransferArrive (core : Fin 24) : Statement (.ringTransferArrive core) := Nat.le_of_ble_eq_true rfl
theorem cisternOwnerWrite (party : Party) (core : Fin 24) (value : BitVec 32) : Statement (.cisternOwnerWrite party core value) := Nat.le_of_ble_eq_true rfl
theorem cisternClearStart (core : Fin 24) : Statement (.cisternClearStart core) := Nat.le_of_ble_eq_true rfl
theorem cisternClearDone (core : Fin 24) : Statement (.cisternClearDone core) := Nat.le_of_ble_eq_true rfl
theorem flitSend (link : Fin 32) : Statement (.flitSend link) := Nat.le_of_ble_eq_true rfl
theorem payload (link : Fin 32) (flit : LFlit) : Statement (.payload link flit) := Nat.le_of_ble_eq_true rfl
theorem idle (link : Fin 32) (flit : LFlit) : Statement (.idle link flit) := Nat.le_of_ble_eq_true rfl
theorem nak (link : Fin 32) (flit : LFlit) : Statement (.nak link flit) := Nat.le_of_ble_eq_true rfl
theorem retrainReq (link : Fin 32) (flit : LFlit) : Statement (.retrainReq link flit) := Nat.le_of_ble_eq_true rfl
theorem replayTimeout (link : Fin 32) (sender : Bool) : Statement (.replayTimeout link sender) := Nat.le_of_ble_eq_true rfl
theorem laneSignalLoss (link : Fin 32) : Statement (.laneSignalLoss link) := Nat.le_of_ble_eq_true rfl
theorem linkDetect (link : Fin 32) : Statement (.linkDetect link) := Nat.le_of_ble_eq_true rfl
theorem linkTrainPhaseEnd (link : Fin 32) (lanes : BitVec 4) (ok : Bool) : Statement (.linkTrainPhaseEnd link lanes ok) := Nat.le_of_ble_eq_true rfl
theorem linkNegotiate (link : Fin 32) (versions : BitVec 16) (partnerId : BitVec 16) (partnerLink : BitVec 5) (partnerSerial : W64) (lastSeq : BitVec 12) (fresh : Bool) : Statement (.linkNegotiate link versions partnerId partnerLink partnerSerial lastSeq fresh) := Nat.le_of_ble_eq_true rfl
theorem linkHoldExpiry (link : Fin 32) : Statement (.linkHoldExpiry link) := Nat.le_of_ble_eq_true rfl
theorem linkDrainExpiry (link : Fin 32) : Statement (.linkDrainExpiry link) := Nat.le_of_ble_eq_true rfl
theorem retrain (party : Party) (link : Fin 32) : Statement (.retrain party link) := Nat.le_of_ble_eq_true rfl
theorem linkEnable (party : Party) (link : Fin 32) (enable : Bool) : Statement (.linkEnable party link enable) := Nat.le_of_ble_eq_true rfl
theorem read (link : Fin 32) (msg : Msg) : Statement (.read link msg) := Nat.le_of_ble_eq_true rfl
theorem readData (link : Fin 32) (msg : Msg) : Statement (.readData link msg) := Nat.le_of_ble_eq_true rfl
theorem write (link : Fin 32) (msg : Msg) : Statement (.write link msg) := Nat.le_of_ble_eq_true rfl
theorem writeAck (link : Fin 32) (msg : Msg) : Statement (.writeAck link msg) := Nat.le_of_ble_eq_true rfl
theorem fetchAdd (link : Fin 32) (msg : Msg) : Statement (.fetchAdd link msg) := Nat.le_of_ble_eq_true rfl
theorem swap (link : Fin 32) (msg : Msg) : Statement (.swap link msg) := Nat.le_of_ble_eq_true rfl
theorem cas64 (link : Fin 32) (msg : Msg) : Statement (.cas64 link msg) := Nat.le_of_ble_eq_true rfl
theorem maxU32 (link : Fin 32) (msg : Msg) : Statement (.maxU32 link msg) := Nat.le_of_ble_eq_true rfl
theorem addSatU32 (link : Fin 32) (msg : Msg) : Statement (.addSatU32 link msg) := Nat.le_of_ble_eq_true rfl
theorem or32 (link : Fin 32) (msg : Msg) : Statement (.or32 link msg) := Nat.le_of_ble_eq_true rfl
theorem atomicData (link : Fin 32) (msg : Msg) : Statement (.atomicData link msg) := Nat.le_of_ble_eq_true rfl
theorem flagSet (link : Fin 32) (msg : Msg) : Statement (.flagSet link msg) := Nat.le_of_ble_eq_true rfl
theorem barrierArrive (link : Fin 32) (msg : Msg) : Statement (.barrierArrive link msg) := Nat.le_of_ble_eq_true rfl
theorem barrierRelease (link : Fin 32) (msg : Msg) : Statement (.barrierRelease link msg) := Nat.le_of_ble_eq_true rfl
theorem heartbeat (link : Fin 32) (msg : Msg) : Statement (.heartbeat link msg) := Nat.le_of_ble_eq_true rfl
theorem collReady (link : Fin 32) (msg : Msg) : Statement (.collReady link msg) := Nat.le_of_ble_eq_true rfl
theorem collData (link : Fin 32) (msg : Msg) : Statement (.collData link msg) := Nat.le_of_ble_eq_true rfl
theorem mirrorDelta (link : Fin 32) (msg : Msg) : Statement (.mirrorDelta link msg) := Nat.le_of_ble_eq_true rfl
theorem mirrorAck (link : Fin 32) (msg : Msg) : Statement (.mirrorAck link msg) := Nat.le_of_ble_eq_true rfl
theorem takeoverNotice (link : Fin 32) (msg : Msg) : Statement (.takeoverNotice link msg) := Nat.le_of_ble_eq_true rfl
theorem requestTimeout (tag : Fin 4096) : Statement (.requestTimeout tag) := Nat.le_of_ble_eq_true rfl
theorem tagRelease (tag : Fin 4096) : Statement (.tagRelease tag) := Nat.le_of_ble_eq_true rfl
theorem collTimeout (core : Fin 24) : Statement (.collTimeout core) := Nat.le_of_ble_eq_true rfl
theorem xtimeout (group : Fin 16) : Statement (.xtimeout group) := Nat.le_of_ble_eq_true rfl
theorem heartbeatSend : Statement (.heartbeatSend) := Nat.le_of_ble_eq_true rfl
theorem partnerLost : Statement (.partnerLost) := Nat.le_of_ble_eq_true rfl
theorem mirrorLag : Statement (.mirrorLag) := Nat.le_of_ble_eq_true rfl
theorem soloTimeout : Statement (.soloTimeout) := Nat.le_of_ble_eq_true rfl
theorem endPair (party : Party) : Statement (.endPair party) := Nat.le_of_ble_eq_true rfl
theorem resync (party : Party) : Statement (.resync party) := Nat.le_of_ble_eq_true rfl
theorem takeover (party : Party) : Statement (.takeover party) := Nat.le_of_ble_eq_true rfl
theorem hostBar2Read (offset : Nat) (length : Nat) : Statement (.hostBar2Read offset length) := Nat.le_of_ble_eq_true rfl
theorem hostBar2Write (offset : Nat) (data : List Byte) (poisoned : Bool) : Statement (.hostBar2Write offset data poisoned) := Nat.le_of_ble_eq_true rfl
theorem hostAtomic (offset : Nat) (op : Fin 3) (wide : Bool) (operand : W64) (compare : W64) : Statement (.hostAtomic offset op wide operand compare) := Nat.le_of_ble_eq_true rfl
theorem functionLevelReset : Statement (.functionLevelReset) := Nat.le_of_ble_eq_true rfl
theorem perst : Statement (.perst) := Nat.le_of_ble_eq_true rfl
theorem mboxSubmit : Statement (.mboxSubmit) := Nat.le_of_ble_eq_true rfl
theorem mboxClear (irqEn : Bool) : Statement (.mboxClear irqEn) := Nat.le_of_ble_eq_true rfl
theorem lapFrameReceive (dest : BitVec 48) (source : BitVec 48) (lap : Bool) (tagged : Bool) (fcsOk : Bool) (content : List Byte) (stale : Bool) : Statement (.lapFrameReceive dest source lap tagged fcsOk content stale) := Nat.le_of_ble_eq_true rfl
theorem ledgerRead : Statement (.ledgerRead) := Nat.le_of_ble_eq_true rfl
theorem ledgerWrite : Statement (.ledgerWrite) := Nat.le_of_ble_eq_true rfl
theorem describe : Statement (.describe) := Nat.le_of_ble_eq_true rfl
theorem discover : Statement (.discover) := Nat.le_of_ble_eq_true rfl
theorem trayReport (source : BitVec 48) (word : W64) (entries : List W64) : Statement (.trayReport source word entries) := Nat.le_of_ble_eq_true rfl
theorem failsafeRepeat : Statement (.failsafeRepeat) := Nat.le_of_ble_eq_true rfl
theorem failsafeAck (word : W64) : Statement (.failsafeAck word) := Nat.le_of_ble_eq_true rfl
theorem claim (party : Party) : Statement (.claim party) := Nat.le_of_ble_eq_true rfl
theorem release (party : Party) : Statement (.release party) := Nat.le_of_ble_eq_true rfl
theorem leaseExpiry : Statement (.leaseExpiry) := Nat.le_of_ble_eq_true rfl
theorem save (party : Party) : Statement (.save party) := Nat.le_of_ble_eq_true rfl
theorem forget (party : Party) : Statement (.forget party) := Nat.le_of_ble_eq_true rfl
theorem saveDone (ok : Bool) : Statement (.saveDone ok) := Nat.le_of_ble_eq_true rfl
theorem mgmtSettingsApply : Statement (.mgmtSettingsApply) := Nat.le_of_ble_eq_true rfl
theorem faultLogClear (party : Party) : Statement (.faultLogClear party) := Nat.le_of_ble_eq_true rfl
theorem memoryLogClear (party : Party) (layer : Fin 24) : Statement (.memoryLogClear party layer) := Nat.le_of_ble_eq_true rfl
theorem faultLogPersist (sub : Fin 240) : Statement (.faultLogPersist sub) := Nat.le_of_ble_eq_true rfl
theorem ledgerFlagSet (party : Party) (core : Fin 24) (flag : Fin 1024) : Statement (.ledgerFlagSet party core flag) := Nat.le_of_ble_eq_true rfl
theorem ledgerFlagClear (party : Party) (core : Fin 24) (flag : Fin 1024) : Statement (.ledgerFlagClear party core flag) := Nat.le_of_ble_eq_true rfl
theorem contextOpen (party : Party) (core : Fin 24) (ctx : Fin 16) : Statement (.contextOpen party core ctx) := Nat.le_of_ble_eq_true rfl
theorem contextClose (party : Party) (core : Fin 24) (ctx : Fin 16) : Statement (.contextClose party core ctx) := Nat.le_of_ble_eq_true rfl
theorem quantumExpiry (core : Fin 24) : Statement (.quantumExpiry core) := Nat.le_of_ble_eq_true rfl
theorem contextSwitch (core : Fin 24) : Statement (.contextSwitch core) := Nat.le_of_ble_eq_true rfl
theorem parkedResume (core : Fin 24) : Statement (.parkedResume core) := Nat.le_of_ble_eq_true rfl
theorem fence (party : Party) (core : Fin 24) : Statement (.fence party core) := Nat.le_of_ble_eq_true rfl
theorem unfence (party : Party) (core : Fin 24) : Statement (.unfence party core) := Nat.le_of_ble_eq_true rfl
theorem domainOn (party : Party) (dom : Fin 38) : Statement (.domainOn party dom) := Nat.le_of_ble_eq_true rfl
theorem domainOff (party : Party) (dom : Fin 38) : Statement (.domainOff party dom) := Nat.le_of_ble_eq_true rfl
theorem domainTransitionDone (dom : Fin 38) : Statement (.domainTransitionDone dom) := Nat.le_of_ble_eq_true rfl
theorem capPeriod (power : BitVec 16) (next : BitVec 16) : Statement (.capPeriod power next) := Nat.le_of_ble_eq_true rfl
theorem pstateChangeDone (unit : Fin 30) : Statement (.pstateChangeDone unit) := Nat.le_of_ble_eq_true rfl
theorem feedOutOfRange (feed : Fin 2) : Statement (.feedOutOfRange feed) := Nat.le_of_ble_eq_true rfl
theorem feedRestore (feed : Fin 2) : Statement (.feedRestore feed) := Nat.le_of_ble_eq_true rfl
theorem pwrAlertAssert (causes : BitVec 5) : Statement (.pwrAlertAssert causes) := Nat.le_of_ble_eq_true rfl
theorem pwrAlertRelease : Statement (.pwrAlertRelease) := Nat.le_of_ble_eq_true rfl
theorem floorHoldEnd : Statement (.floorHoldEnd) := Nat.le_of_ble_eq_true rfl
theorem pwrAlertLong : Statement (.pwrAlertLong) := Nat.le_of_ble_eq_true rfl
theorem phaseFault (pos : Fin 31) (cluster : Fin 70) : Statement (.phaseFault pos cluster) := Nat.le_of_ble_eq_true rfl
theorem currentLimitTrip (pos : Fin 31) (cluster : Fin 70) (phase : Fin 9) : Statement (.currentLimitTrip pos cluster phase) := Nat.le_of_ble_eq_true rfl
theorem senseEvent (pos : Fin 31) (cluster : Fin 70) : Statement (.senseEvent pos cluster) := Nat.le_of_ble_eq_true rfl
theorem sensorSample (first : Bool) (readings : List (Nat × Nat × Option (BitVec 16) × Option (BitVec 16))) : Statement (.sensorSample first readings) := Nat.le_of_ble_eq_true rfl
theorem thermalTick : Statement (.thermalTick) := Nat.le_of_ble_eq_true rfl
theorem traySilenceTimeout : Statement (.traySilenceTimeout) := Nat.le_of_ble_eq_true rfl
theorem coolantRelease : Statement (.coolantRelease) := Nat.le_of_ble_eq_true rfl
theorem missingEdge (src : Fin 3) : Statement (.missingEdge src) := Nat.le_of_ble_eq_true rfl
theorem clockJudgeWindow (clock : Fin 38) (within : Bool) : Statement (.clockJudgeWindow clock within) := Nat.le_of_ble_eq_true rfl
theorem srcReq (party : Party) (pll : Fin 36) (src : Bool) : Statement (.srcReq party pll src) := Nat.le_of_ble_eq_true rfl
theorem twpOscLoss : Statement (.twpOscLoss) := Nat.le_of_ble_eq_true rfl
theorem heldDomainTimeout : Statement (.heldDomainTimeout) := Nat.le_of_ble_eq_true rfl
theorem resetCore (party : Party) (target : BitVec 8) : Statement (.resetCore party target) := Nat.le_of_ble_eq_true rfl
theorem resetTier (party : Party) (target : BitVec 8) (fullLayer : Bool) : Statement (.resetTier party target fullLayer) := Nat.le_of_ble_eq_true rfl
theorem resetPartition (party : Party) (target : BitVec 8) : Statement (.resetPartition party target) := Nat.le_of_ble_eq_true rfl
theorem resetDevice (party : Party) : Statement (.resetDevice party) := Nat.le_of_ble_eq_true rfl
theorem resetBegin : Statement (.resetBegin) := Nat.le_of_ble_eq_true rfl
theorem spineQuiesceEnd (absorbed : BitVec 32) : Statement (.spineQuiesceEnd absorbed) := Nat.le_of_ble_eq_true rfl
theorem resetRelease : Statement (.resetRelease) := Nat.le_of_ble_eq_true rfl
theorem powerOn : Statement (.powerOn) := Nat.le_of_ble_eq_true rfl
theorem bringupStageEnd (ok : Bool) (bad : BitVec 24) (cold : BitVec 6) : Statement (.bringupStageEnd ok bad cold) := Nat.le_of_ble_eq_true rfl
theorem mcHeartbeat : Statement (.mcHeartbeat) := Nat.le_of_ble_eq_true rfl
theorem mcTimeout : Statement (.mcTimeout) := Nat.le_of_ble_eq_true rfl
theorem restartLimit : Statement (.restartLimit) := Nat.le_of_ble_eq_true rfl
theorem bondTestPeriod : Statement (.bondTestPeriod) := Nat.le_of_ble_eq_true rfl
theorem runTest (party : Party) : Statement (.runTest party) := Nat.le_of_ble_eq_true rfl
theorem laneTestDone (core : Fin 24) (segment : Fin 6) (crossing : Fin 28) (lane : BitVec 12) (ok : Bool) (last : Bool) : Statement (.laneTestDone core segment crossing lane ok last) := Nat.le_of_ble_eq_true rfl
theorem tollIntegrate (contexts : List W64) (unattributed : W64) : Statement (.tollIntegrate contexts unattributed) := Nat.le_of_ble_eq_true rfl
theorem attestRequest (party : Party) : Statement (.attestRequest party) := Nat.le_of_ble_eq_true rfl
theorem attestReportReady : Statement (.attestReportReady) := Nat.le_of_ble_eq_true rfl
theorem beginUpdate (party : Party) (proc : Fin 4) : Statement (.beginUpdate party proc) := Nat.le_of_ble_eq_true rfl
theorem applyPackage (party : Party) : Statement (.applyPackage party) := Nat.le_of_ble_eq_true rfl
theorem applyDone (sigOk : Bool) (tagOk : Bool) (digestOk : Bool) : Statement (.applyDone sigOk tagOk digestOk) := Nat.le_of_ble_eq_true rfl
theorem activate (party : Party) : Statement (.activate party) := Nat.le_of_ble_eq_true rfl
theorem startFailTimeout : Statement (.startFailTimeout) := Nat.le_of_ble_eq_true rfl
theorem confirm (party : Party) : Statement (.confirm party) := Nat.le_of_ble_eq_true rfl
theorem revert (party : Party) : Statement (.revert party) := Nat.le_of_ble_eq_true rfl
theorem cancel (party : Party) : Statement (.cancel party) := Nat.le_of_ble_eq_true rfl
theorem chunk (party : Party) (data : BitVec 512) : Statement (.chunk party data) := Nat.le_of_ble_eq_true rfl
theorem confirmLimitExpiry : Statement (.confirmLimitExpiry) := Nat.le_of_ble_eq_true rfl
theorem alignLoss (link : Fin 32) : Statement (.alignLoss link) := Nat.le_of_ble_eq_true rfl
theorem flitProtocolError (link : Fin 32) (flit : LFlit) : Statement (.flitProtocolError link flit) := Nat.le_of_ble_eq_true rfl
theorem messageProtocolError (link : Fin 32) (msg : Msg) : Statement (.messageProtocolError link msg) := Nat.le_of_ble_eq_true rfl
theorem flagSetReturn (link : Fin 32) (msg : Msg) : Statement (.flagSetReturn link msg) := Nat.le_of_ble_eq_true rfl
theorem perstRelease : Statement (.perstRelease) := Nat.le_of_ble_eq_true rfl
theorem ltcTimeout : Statement (.ltcTimeout) := Nat.le_of_ble_eq_true rfl
theorem holdUpExpiry : Statement (.holdUpExpiry) := Nat.le_of_ble_eq_true rfl
theorem refreshDone (lq : Fin 96) : Statement (.refreshDone lq) := Nat.le_of_ble_eq_true rfl

end Sys2Proof.Laws.Family
end

