-- ==== Sys2Proof/Laws/Requests.lean ====
section
/-! SUPPORT. The Ledger (16_ledger.md): entries read and described, writes rejected and applied, the words written to trigger objects. -/

namespace Sys2Proof.Machine

theorem M.readEntry_ok (m : M) (e : PduEntry) (o : ObjSpec) (h : m.readReason e true = 0) (ho : objSpec e.idx e.sub = some o) :
    m.readEntry e = (true, replyEntry e.idx e.sub o.size 0 0 [(m.readObj e.idx e.sub o).1], (m.readObj e.idx e.sub o).2.markRead e.idx e.sub) := by
  unfold M.readEntry; simp only [h, ho]

theorem M.describeEntry_ok (m : M) (e : PduEntry) (o : ObjSpec) (h : m.readReason e false = 0) (ho : objSpec e.idx e.sub = some o) :
    m.describeEntry e = (true, replyEntry e.idx e.sub 32 0 0 [descriptor o (m.defaultOf e.idx e.sub)], m) := by
  unfold M.describeEntry; simp only [h, ho]

theorem rejects_unavail {c : Instr} {s : State} {p : Party} {idx sub : Nat} {v : M → Nat} {o : ObjSpec}
    (e : exec c s = s.run fun m => m.partyWrite p idx sub (v m)) (h1 : (M.of s).hears p = true) (h2 : (M.of s).responder = true)
    (ho : objSpec idx sub = some o) : Rejects c s idx sub (v (M.of s)) 0xA := by
  refine does_of e ?_
  have hf : (M.of s).writeField p idx sub o.size (v (M.of s)) = (2, 0xA, M.of s) := by
    unfold M.writeField
    rw [ho]
    dsimp only
    rw [if_pos (by simp [h2])]
    rfl
  unfold M.partyWrite M.reported
  rw [if_neg (by simp [h1]), ho]
  dsimp only
  rw [hf]

theorem M.available_5201 (m : M) (l : Fin 24) : m.unavailable (0x5201 + l.val) false = false := by
  unfold M.unavailable
  rw [show (decide ((0x5201 + l.val) / 4096 = 9)) = false from decide_eq_false (by omega)]; simp

theorem M.reported_led (m : M) (idx sub v a b : Nat) (h : ∀ m : M, m.freeView idx sub = none) : ∃ d, (m.reported idx sub v a b) = m.modLed fun _ => d := by
  unfold M.reported
  cases ho : objSpec idx sub with
  | none => exact ⟨m.dev.led, rfl⟩
  | some o =>
    dsimp only
    have : (m.readObj idx sub o).2 = m := by
      unfold M.readObj; split
      · rfl
      · split
        · rfl
        · rw [h]
    rw [this]; exact ⟨_, rfl⟩

/-- An applied write ends as its effect does. -/
theorem ends_of_applies {c : Instr} {s : State} {idx sub v : Nat} {g : M → M} {P : M → Prop} (h : Applies c s idx sub v g) (hv : ∀ m : M, m.freeView idx sub = none)
    (ha : M.Aside (M.of s) (g (M.of s))) (hP : ∀ m' d, M.Like m' ((g (M.of s)).modLed fun _ => d) → (M.of s).SameWork m' → P m') : Ends c s P := by
  obtain ⟨d, hd⟩ := M.reported_led (g (M.of s)) idx sub v 0 0 hv
  refine ⟨_, h, ?_⟩
  have e1 : M.Like (M.of (s.after fun m => (g m).reported idx sub v 0 0)) ((g (M.of s)).modLed fun _ => d) := by
    constructor
    · exact ha.fuse.symm
    · show ((g (M.of s)).reported idx sub v 0 0).dev = _; rw [hd]
  refine hP _ d e1 ?_
  have q : (M.of s).SameMem (M.of (s.after fun m => (g m).reported idx sub v 0 0)) := by
    have : ((g (M.of s)).reported idx sub v 0 0).ops = [] := by rw [hd]; exact ha.ops
    unfold State.after; rw [this]; exact ⟨fun _ => rfl, fun _ => rfl⟩
  exact M.Aside.sameWork (ha.trans (c := (g (M.of s)).modLed fun _ => d) ⟨rfl, rfl, rfl, rfl, rfl, rfl⟩) e1 q

theorem M.wipe_log (idx n : Nat) (hn : n < 255) (m : M) :
    let r := (List.range n).foldl (fun (m : M) k => if m.obj idx (k + 1) = 0 then m else m.setObj idx (k + 1) 0) m
    M.ObjsOnly m r ∧ (∀ k, k < n → r.obj idx (k + 1) = 0) ∧ ∀ i j, j < 256 → (i ≠ idx ∨ n < j ∨ j = 0) → r.obj i j = m.obj i j := by
  intro r
  refine ⟨M.objsOnly_foldl _ (fun a k => ?_) _ _, fun k hk => ?_, fun i j hj h => ?_⟩
  · split
    · exact M.ObjsOnly.refl a
    · exact a.objsOnly_setObj _ _ _
  · refine foldl_at _ k (fun _ => True) (fun a => a.obj idx (k + 1) = 0) (List.range n) (fun _ _ _ _ _ => trivial) (fun a _ => ?_) (fun a x hne hx h => ?_) List.nodup_range (List.mem_range.mpr hk) m trivial
    · split
      · assumption
      · rw [M.obj_setObj_same]
    · have := List.mem_range.mp hx
      split
      · exact h
      · rw [M.obj_setObj_ne _ _ _ _ _ _ (by omega) (by omega) (by simp; omega)]; exact h
  · refine foldl_keeps _ (fun a : M => a.obj i j) (List.range n) (fun a x hx => ?_) m
    have := List.mem_range.mp hx
    split
    · rfl
    · rw [M.obj_setObj_ne _ _ _ _ _ _ hj (by omega) (by simp; omega)]

theorem resv_flag (n : Nat) (f : Fin 1024) (hn : n = 2 ^ 16 ∨ n = 2 ^ 17) : (oTrig [⟨17, 17, .trig⟩, ⟨16, 16, .trig⟩, ⟨9, 0, .trig⟩]).reservedSet (n + f.val) = false := by
  unfold ObjSpec.reservedSet
  rw [List.any_eq_false]
  intro i hi
  have hi : i < 32 := List.mem_range.mp hi
  have hf := f.isLt
  by_cases c : (oTrig [⟨17, 17, .trig⟩, ⟨16, 16, .trig⟩, ⟨9, 0, .trig⟩]).covered i = true
  · rw [c]; simp
  · have : i ≠ 17 ∧ i ≠ 16 ∧ 9 < i := by
      refine ⟨?_, ?_, ?_⟩
      · rintro rfl; exact c (by decide)
      · rintro rfl; exact c (by decide)
      · by_contra h; have h : i < 10 := by omega
        apply c; clear * - h; revert i; decide
    have t : (n + f.val).testBit i = false := by
      rw [Nat.testBit_eq_decide_div_mod_eq]
      apply decide_eq_false
      obtain ⟨f, hf'⟩ := f
      dsimp only at *
      obtain ⟨t1, t2, t3⟩ := this
      clear c
      rcases hn with rfl | rfl <;> interval_cases i <;> omega
    rw [t]; simp

theorem flag_parts (f : Fin 1024) : fld (2 ^ 16 + f.val) 9 0 = f.val ∧ (2 ^ 16 + f.val).testBit 16 = true ∧ (2 ^ 16 + f.val).testBit 17 = false ∧
    fld (2 ^ 17 + f.val) 9 0 = f.val ∧ (2 ^ 17 + f.val).testBit 16 = false ∧ (2 ^ 17 + f.val).testBit 17 = true := by
  have := f.isLt
  simp only [Nat.testBit_eq_decide_div_mod_eq, decide_eq_true_eq, decide_eq_false_iff_not]
  unfold fld bitsAt
  refine ⟨?_, ?_, ?_, ?_, ?_, ?_⟩ <;> omega

theorem trig_any (l : List FieldSpec) (h : ∀ f ∈ l, f.rule = .trig) (v : Nat) : (oTrig l).badCode v = false ∧ (oTrig l).clampAll v = v :=
  takesAny l (fun f hf x => by rw [h f hf]; rfl) v

theorem judge_rw (fs : List FieldSpec) (h : fs.all (fun f => match f.rule with | .rw => true | .ro => true | .trig => true | _ => false) = true) : ∀ f ∈ fs, ∀ x, f.rule.judge x = some x := by
  intro f hf x
  have := List.all_eq_true.mp h f hf
  cases hr : f.rule <;> simp_all [FRule.judge]

theorem reserved_none (o : ObjSpec) (v : Nat) (h : ∀ i, i < 8 * o.size → o.covered i = false → v.testBit i = false) : o.reservedSet v = false := by
  unfold ObjSpec.reservedSet
  rw [List.any_eq_false]
  intro i hi
  rw [List.mem_range] at hi
  cases hc : o.covered i with
  | true => simp
  | false => rw [h i hi hc]; simp

theorem domain_word : ∀ (st : Fin 16) (c : Fin 2), setFld (setFld 0 7 4 st.val) 1 0 c.val = 16 * st.val + c.val := by decide

theorem M.store_domain (m : M) (d : Nat) (c : Fin 2) : (oRWD tyB32 4 0 false [⟨7, 4, .ro⟩, ⟨1, 0, .codes [0, 1]⟩]).store (m.obj 0x3100 (d + 1)) c.val = 16 * m.domState d + c.val := by
  have h : m.domState d < 16 := fld_lt _ 7 4
  have := domain_word ⟨m.domState d, h⟩ c
  rw [← this]
  have h2 : fld c.val 1 0 = c.val := by clear this; revert c; decide
  show setFld (setFld 0 7 4 (fld (m.obj 0x3100 (d + 1)) 7 4)) 1 0 (fld c.val 1 0) = _
  rw [h2]; rfl

theorem M.domDone_eq (m : M) (d : Nat) (h : Tab.find? m.dev.power.heldReq d = none) : m.domDone d = if m.domState d = 1 then m.domOff d else if m.domState d = 3 then m.domNowOn d else m := by
  unfold M.domDone; dsimp only; rw [h]; exact ite_self _

end Sys2Proof.Machine
end

