-- ==== Sys2Proof/Laws/Sources.lean ====
section
/-! SUPPORT. Clock sources and PLLs (19_clocks_reset_bringup.md R423 to R434): a PLL made safe or lost, sources judged in windows, the word of a switch request. -/

namespace Sys2Proof.Machine

theorem M.dropSource_none (m : M) (k : Nat) (h : ∀ n, 1 ≤ n → n ≤ 36 → m.pllSrc n ≠ k) : m.dropSource k = m := by
  unfold M.dropSource
  apply foldl_eq_self
  intro n hn
  obtain ⟨x, hx, rfl⟩ := List.mem_map.mp hn
  have := List.mem_range.mp hx
  rw [if_neg (h _ (by omega) (by omega))]

theorem M.pllSrc_congr (m m' : M) (h : ∀ j, j < 256 → m'.obj 0x2010 j = m.obj 0x2010 j) (n : Nat) (hn : n ≤ 36) : m'.pllSrc n = m.pllSrc n := by
  unfold M.pllSrc M.objFld; rw [h _ (by omega)]

theorem M.obj_cutSteps (m : M) (t i j : Nat) : (m.cutSteps t).obj i j = m.obj i j := by
  unfold M.cutSteps
  apply foldl_keeps _ (fun a : M => a.obj i j)
  intro a k _
  dsimp only
  split
  · show (M.modRun _ _ _).obj i j = _
    have : ∀ (l : List Nat) (b : M), (l.foldl (fun (m : M) n => m.modLq n fun q => { Lq.zero with scrubUnit := q.scrubUnit, held := q.held, queue := q.queue }) b).obj i j = b.obj i j := by
      intro l b
      exact foldl_keeps (fun (m : M) n => m.modLq n fun q => { Lq.zero with scrubUnit := q.scrubUnit, held := q.held, queue := q.queue }) (fun a : M => a.obj i j) l (fun a n _ => rfl) b
    exact (this _ _)
  · rfl

theorem M.traffic_cutSteps (m : M) (t : Nat) : M.Traffic m (m.cutSteps t) := by
  unfold M.cutSteps
  apply M.traffic_foldl
  intro a k
  dsimp only
  split
  · exact (M.traffic_foldl _ _ (fun m n => M.traffic_modLq m n _) _).trans (M.traffic_modCore _ _ _)
  · exact M.Traffic.refl _

theorem M.cutSteps_ops (m : M) (t : Nat) : (m.cutSteps t).ops = m.ops := by
  unfold M.cutSteps
  apply foldl_keeps _ (fun a : M => a.ops)
  intro a k _
  dsimp only
  split
  · have : ∀ (l : List Nat) (b : M), (l.foldl (fun (m : M) n => m.modLq n fun q => { Lq.zero with scrubUnit := q.scrubUnit, held := q.held, queue := q.queue }) b).ops = b.ops := by
      intro l b
      exact foldl_keeps (fun (m : M) n => m.modLq n fun q => { Lq.zero with scrubUnit := q.scrubUnit, held := q.held, queue := q.queue }) (fun a : M => a.ops) l (fun a n _ => rfl) b
    exact (this _ _)
  · rfl

/-- What the loss of one PLL may change. -/
structure PllDrop (m m' : M) (n : Nat) : Prop where
  fuse : m'.fuse = m.fuse
  ops : m'.ops = m.ops
  obj : ∀ i j, j < 256 → (i, j) ≠ (0x2010, n) → (i, j) ≠ (0x2001, 1) → m'.obj i j = m.obj i j
  syn : n ≠ 36 → m'.obj 0x2001 1 = m.obj 0x2001 1
  up : m'.dev.pcieUp = m.dev.pcieUp

theorem M.pllSafe_drop (m : M) (n : Nat) : PllDrop m (m.pllSafe n) n := by
  unfold M.pllSafe mgmtPll
  split
  · have := M.traffic_cutSteps m (n - 0x19)
    obtain ⟨f, _, _, _, _, _, _, _, _, _, _, _, _, _, _, e⟩ := this
    exact ⟨f, M.cutSteps_ops _ _, fun i j _ _ _ => M.obj_cutSteps _ _ _ _, fun _ => M.obj_cutSteps _ _ _ _, by rw [e]⟩
  · split
    · rename_i h; subst h
      exact ⟨rfl, rfl, fun i j hj _ h => M.obj_setObjBit_ne _ _ _ _ _ _ _ hj (by decide) h, fun h => absurd rfl h, rfl⟩
    · exact ⟨rfl, rfl, fun _ _ _ _ _ => rfl, fun _ => rfl, rfl⟩

theorem M.obj_setPll (m : M) (n st i j : Nat) (hn : n < 256) (hj : j < 256) (h : (i, j) ≠ (0x2010, n)) : (m.setPll n st).obj i j = m.obj i j :=
  M.obj_setObjFld_ne _ _ _ _ _ _ _ _ hj hn h

theorem M.pllLose_drop (m : M) (n : Nat) (b : Bool) (hn : n < 256) : PllDrop m (m.pllLose n b) n := by
  unfold M.pllLose
  dsimp only
  split
  · exact ⟨rfl, rfl, fun _ _ _ _ _ => rfl, fun _ => rfl, rfl⟩
  · have d1 : PllDrop m (if m.pllState n = 2 then m.pllSafe n else m) n := by
      split
      · exact M.pllSafe_drop _ _
      · exact ⟨rfl, rfl, fun _ _ _ _ _ => rfl, fun _ => rfl, rfl⟩
    generalize (if m.pllState n = 2 then m.pllSafe n else m) = a at d1
    obtain ⟨h1, h2, h3, h4, h5⟩ := d1
    have ne : ((0x2001 : Nat), 1) ≠ (0x2010, n) := by simp
    split
    · refine ⟨h1, h2, fun i j hj h h' => ?_, fun h => ?_, h5⟩
      · unfold M.pllSwitch; rw [M.obj_setPll _ _ _ _ _ hn hj h, M.obj_setObjFld_ne _ _ _ _ _ _ _ _ hj hn h, h3 _ _ hj h h']
      · unfold M.pllSwitch; rw [M.obj_setPll _ _ _ _ _ hn (by decide) ne, M.obj_setObjFld_ne _ _ _ _ _ _ _ _ (by decide) hn ne, h4 h]
    · refine ⟨h1, h2, fun i j hj h h' => ?_, fun h => ?_, h5⟩
      · rw [M.obj_satObj_ne _ _ _ _ _ _ _ _ hj hn h, M.obj_setPll _ _ _ _ _ hn hj h, h3 _ _ hj h h']
      · rw [M.obj_satObj_ne _ _ _ _ _ _ _ _ (by decide) hn ne, M.obj_setPll _ _ _ _ _ hn (by decide) ne, h4 h]

theorem mem_pll (n : Nat) (h : n ∈ (List.range 0x24).map (· + 1)) : 1 ≤ n ∧ n ≤ 36 := by
  obtain ⟨x, hx, rfl⟩ := List.mem_map.mp h
  have := List.mem_range.mp hx
  omega

theorem nodup_pll : ((List.range 0x24).map (· + 1)).Nodup := by decide

theorem M.serveHostHeld_nil (m : M) (h : m.dev.host.held = []) : m.serveHostHeld = m := by unfold M.serveHostHeld; rw [h]; rfl

theorem M.judgeRun_good (m : M) (k : Nat) (h : Tab.get m.dev.clocks.runs 0 k < 255) : m.judgeRun k true = (Tab.get m.dev.clocks.runs 0 k + 1, m.modClocks fun c => { c with runs := Tab.put c.runs k (Tab.get m.dev.clocks.runs 0 k + 1) }) := by
  unfold M.judgeRun; dsimp only
  rw [if_pos rfl, if_pos (by omega), Nat.min_eq_left (by omega)]; rfl

theorem M.judgeRun_first (m : M) (k : Nat) (h : Tab.get m.dev.clocks.runs 0 k < 2 ^ 16) : m.judgeRun k false = (1, m.modClocks fun c => { c with runs := Tab.put c.runs k (2 ^ 16 + 1) }) := by
  unfold M.judgeRun; dsimp only
  rw [if_neg (by simp), if_pos h]; rfl

theorem M.judgeRun_bad (m : M) (k r : Nat) (h : Tab.get m.dev.clocks.runs 0 k = 2 ^ 16 + r) (hr : r < 255) : m.judgeRun k false = (r + 1, m.modClocks fun c => { c with runs := Tab.put c.runs k (2 ^ 16 + (r + 1)) }) := by
  unfold M.judgeRun; dsimp only
  rw [if_neg (by simp), h, if_neg (by omega), show 2 ^ 16 + r - 2 ^ 16 = r by omega, Nat.min_eq_left (by omega)]; rfl

def pllSpec : ObjSpec := oRWD tyB32 4 0 false [⟨31, 24, .ro⟩, ⟨11, 11, .ro⟩, ⟨10, 10, .rw⟩, ⟨8, 8, .rw⟩, ⟨5, 4, .ro⟩, ⟨2, 0, .ro⟩]

theorem objSpec_pll : ∀ n : Fin 36, objSpec 0x2010 (n.val + 1) = some pllSpec := by decide

theorem pll_legal (v : Nat) (b : Bool) (h : ∀ i, v.testBit i = true → i ∈ [0, 1, 2, 4, 5, 8, 10, 11] ∨ (24 ≤ i ∧ i < 32)) :
    ∀ i, (setBit v 8 b).testBit i = true → i ∈ [0, 1, 2, 4, 5, 8, 10, 11] ∨ (24 ≤ i ∧ i < 32) := by
  intro i hi
  rw [testBit_setBit] at hi
  split at hi
  · rename_i h8; subst h8; left; decide
  · exact h i hi

theorem pllSpec_reserved (v : Nat) (h : ∀ i, v.testBit i = true → i ∈ [0, 1, 2, 4, 5, 8, 10, 11] ∨ (24 ≤ i ∧ i < 32)) : pllSpec.reservedSet v = false := by
  unfold ObjSpec.reservedSet
  rw [List.any_eq_false]
  intro i hi
  have hi : i < 32 := List.mem_range.mp hi
  by_cases c : v.testBit i = true
  · have : pllSpec.covered i = true := by
      rcases h i c with h | h
      · simp only [List.mem_cons, List.not_mem_nil, or_false] at h
        rcases h with h | h | h | h | h | h | h | h <;> subst h <;> decide
      · have : ∀ k : Fin 8, pllSpec.covered (24 + k.val) = true := by decide
        have := this ⟨i - 24, by omega⟩
        rwa [show 24 + (i - 24) = i by omega] at this
    rw [this]; simp
  · simp at c; rw [c]; simp

theorem pllSpec_store (old v : Nat) (ho : ∀ i, old.testBit i = true → i ∈ [0, 1, 2, 4, 5, 8, 10, 11] ∨ (24 ≤ i ∧ i < 32)) (b : Bool) (hv : v = setBit old 8 b) : pllSpec.store old v = v := by
  have e : pllSpec.store old v = setFld (setFld (setFld (setFld (setFld (setFld 0 31 24 (fld old 31 24)) 11 11 (fld old 11 11)) 10 10 (fld v 10 10)) 8 8 (fld v 8 8)) 5 4 (fld old 5 4)) 2 0 (fld old 2 0) := rfl
  rw [e]
  apply Nat.eq_of_testBit_eq
  intro i
  have hb : v.testBit i = if i = 8 then b else old.testBit i := by rw [hv, testBit_setBit]
  have sf : ∀ x hi lo w k, lo ≤ hi → (setFld x hi lo (fld w hi lo)).testBit k = if lo ≤ k ∧ k ≤ hi then w.testBit k else x.testBit k := by
    intro x hi lo w k hl
    unfold setFld fld
    rw [testBit_putBits]
    by_cases c : lo ≤ k ∧ k ≤ hi
    · rw [if_pos c, if_pos (by omega), testBit_bitsAt, decide_eq_true (by omega), show lo + (k - lo) = k by omega]; rfl
    · rw [if_neg c, if_neg (by omega)]
  rw [sf _ _ _ _ _ (by decide), sf _ _ _ _ _ (by decide), sf _ _ _ _ _ (by decide), sf _ _ _ _ _ (by decide), sf _ _ _ _ _ (by decide), sf _ _ _ _ _ (by decide), Nat.zero_testBit]
  by_cases c : old.testBit i = true
  · rcases ho i c with h | h
    · simp only [List.mem_cons, List.not_mem_nil, or_false] at h
      rcases h with h | h | h | h | h | h | h | h <;> subst h <;> simp [hb]
    · rw [if_neg (by omega), if_neg (by omega), if_neg (by omega), if_neg (by omega), if_neg (by omega), if_pos (by omega), hb, if_neg (by omega)]
  · have c : old.testBit i = false := by simpa using c
    by_cases h8 : i = 8
    · subst h8; simp
    · rw [hb, if_neg h8, c]
      split
      · rfl
      · split
        · rfl
        · rw [if_neg (by omega)]
          split
          · have : i = 10 := by omega
            rfl
          · split
            · rfl
            · split <;> rfl

end Sys2Proof.Machine
end

