-- ==== Sys2Proof/Tests/Slice0.lean ====
section
/-! SUPPORT. Tests: ill-formed commands that the checks refuse, and, for each statement with hypotheses, a named witness of states and
operands that meet them. A state is one helper's and a change to it; every theorem is about one step at most. -/

set_option Elab.async false

namespace Sys2Proof.Tests

open Sys2Proof.Machine

/-! ## States -/

/-- A device in service: STAGE 0x04, both sources and every PLL judged good, the host's link up, party `port 5` the owner. -/
def up : State :=
  let m := ((List.range 37).foldl (fun (m : M) k => m.setObj 0x2010 k 2) ((M.of State.reset).setObj 0x2001 1 0x1F)).setObj 0x1010 1 4
  { State.reset with dev := { m.dev with pcieUp := true, led := { m.dev.led with owner := some (.port 5) } } }

/-- The device in service after a change. -/
def upWith (f : M → M) : State := { up with mem := up.mem.applyAll (f (M.of up)).ops, dev := (f (M.of up)).dev }

/-- Words of a manifest, from word numbers and values. -/
def wordsOf (l : List (Nat × Nat)) : List W64 :=
  (List.range 64).map fun i => BitVec.ofNat 64 ((l.filter fun e => e.1 == i).foldl (fun a e => a + e.2) 0)

/-- A valid manifest of a kind that stands in a slot. -/
def slotOf (kind : Nat) (l : List (Nat × Nat)) : Slot := { Slot.fetched 0x4000 2 with kind, words := wordsOf ((0, kind) :: l) }

/-- Core 3 with a manifest in its ready slot. -/
def readyWith (kind : Nat) (l : List (Nat × Nat)) (f : M → M := id) : State :=
  upWith fun m => (f m).modCore 3 fun c => { c with ready := some (slotOf kind l), active := 4, current := 2 }

def mayRun (s : State) (kind : Nat) (l : List (Nat × Nat)) : Bool :=
  (M.of s).coreRuns 3 && ((M.of s).core 3).run.isNone && ((M.of s).core 3).ready == some (slotOf kind l) && (M.of s).pathsRun 3 (slotOf kind l).words

theorem mayRun_of {s : State} {kind : Nat} {l : List (Nat × Nat)} (h : mayRun s kind l = true) : (M.of s).MayRun 3 (slotOf kind l) kind := by
  simp only [mayRun, Bool.and_eq_true, beq_iff_eq, Option.isNone_iff_eq_none] at h
  obtain ⟨⟨⟨h1, h2⟩, h3⟩, h4⟩ := h
  exact ⟨h1, h2, h3, rfl, rfl, rfl, h4⟩

/-! ## The front of the queue, chains and registers -/

/-- Context 15 may use memory up to 0x1000FFFF and is open on core 23 with a program and a ring of one record. -/
def startable (f : Core → Core := id) : State := upWith fun m =>
  ((m.setObj 0x8001 24 0x8000).setObj 0x801F 1 (0x10000000 * 2 ^ 80 + 3)).modCore 23 fun c =>
    f (c.setCtx 15 { CtxRegs.zero with programBase := 0x4000, recordBase := 0x8000, recordSlots := 1 })

theorem up_ready : (M.of up).live = true ∧ (M.of up).ready = true ∧ (M.of up).hostUp = true ∧ (M.of up).coreRuns 23 = true ∧
    (M.of up).fabricRuns = true ∧ (M.of up).watchRuns = true ∧ (M.of up).hears (.port 5) = true ∧ (M.of up).responder = false := by decide +kernel

theorem up_serves : (M.of up).Serves (.port 5) := by unfold M.Serves; decide +kernel

theorem witness_StepKeepsMemoryForm : up.sound ∧ step up = .next up ∧ up.pending = [] := ⟨by unfold State.sound; decide +kernel, rfl, rfl⟩

theorem witness_StartTakesTheChain :
    ((M.of (startable)).windowDead 23 = false ∧ (M.of (startable)).mayStart 23 15 = true) ∧
    ((M.of (startable fun c => { c with active := 0x8000, halted := 0x8000 })).mayStart 23 15 = true) := by decide +kernel

theorem witness_StartErrorIsSetAndCleared :
    (M.of up).windowDead 23 = false ∧ (M.of up).mayStart 23 15 = false ∧ (M.of up).windowDead 0 = false ∧ (M.of up).mayStart 0 0 = false := by decide +kernel

/-- Core 3 with an abort request of context 2. -/
def aborting (f : Core → Core) : State := upWith fun m => m.modCore 3 fun c => f { c with abortCtx := 2, abortRes := 1, current := 2 }

def abortDue (s : State) : Bool :=
  let c := (M.of s).core 3
  (M.of s).live && !(M.of s).clockHeld 3 && c.abortRes == 1 && !c.abortLatched && c.disabling.isNone

theorem witness_AbortIsRequestedAndLatches :
    ((M.of up).windowDead 23 = false ∧ ((M.of up).core 23).abortRes ≠ 1) ∧
    (abortDue (aborting id) = true ∧ bit16 ((M.of (aborting id)).core 3).active 2 = false) ∧
    (abortDue (aborting fun c => { c with active := 4 }) = true ∧ bit16 ((M.of (aborting fun c => { c with active := 4 })).core 3).active 2 = true ∧
      ((M.of (aborting fun c => { c with active := 4 })).core 3).run = none ∧ ((M.of (aborting fun c => { c with active := 4 })).core 3).ready = none ∧
      ((M.of (aborting fun c => { c with active := 4 })).ctx 3 2).parkedRun = none) ∧
    (abortDue (aborting fun c => { c with active := 4, run := some (slotOf 6 []) }) = true ∧
      ((M.of (aborting fun c => { c with active := 4, run := some (slotOf 6 []) })).core 3).run.isSome = true) := by decide +kernel

theorem witness_RegisterWritesTakeEffect : (M.of up).hostUp = true ∧ (M.of up).windowDead 0 = false ∧ (M.of up).windowDead 23 = false := by decide +kernel

theorem witness_BadRegisterWritesAreDiscarded :
    (M.of up).hostUp = true ∧ (M.of up).dev.host.discarded < 0xFFFF ∧ (M.of up).isReg 0x27000 = true ∧ (M.of up).dev.host.poisonRx < 0xFFFF := by decide +kernel

/-- Core 23 runs context 15, whose ring has a free slot, with a manifest where `f` puts it. -/
def running (f : Core → Core) : State := startable fun c => f { c with active := 0x8000, current := 15 }

def running15 (l : List (Nat × Nat)) : Slot := { slotOf 6 l with ctx := 15 }

theorem witness_FetchAndReservation :
    ((M.of (running fun c => { c with fetch := some 0x4000 })).coreRuns 23 = true ∧
      ((M.of (running fun c => { c with fetch := some 0x4000 })).core 23).fetch = some 0x4000 ∧
      ((M.of (running fun c => { c with fetch := some 0x4000 })).core 23).empty = true ∧
      ((M.of (running fun c => { c with fetch := some 0x4000 })).core 23).disabling = none) ∧
    (M.of up).lineFails 3 2 0x4000 0x4000 = some 0 ∧
    ((M.of (running fun c => { c with wait := some (running15 []) })).coreRuns 23 = true ∧
      ((M.of (running fun c => { c with wait := some (running15 []) })).core 23).wait = some (running15 []) ∧
      (M.of (running fun c => { c with wait := some (running15 []) })).mayReserve 23 (running15 []) = true ∧
      ((M.of (running fun c => { c with wait := some (running15 []) })).core 23).ready = none ∧
      ((running15 []).fixed.isSome || (running15 []).kind != kExchange || xop (running15 []).words != 3) = true) := by decide +kernel

def doneSlot (l : List (Nat × Nat)) : Slot := { slotOf 6 l with phase := .done }

theorem witness_CommitAndRecord :
    ((M.of (running fun c => { c with run := some (doneSlot []) })).coreRuns 23 = true ∧
      ((M.of (running fun c => { c with run := some (doneSlot []) })).core 23).due = some (doneSlot []) ∧
      ((doneSlot []).stop.isSome || (doneSlot []).fixed.isSome || !namesRecord (doneSlot []).words) = true) ∧
    (((M.of (running fun c => { c with run := some (doneSlot [(0, 2 ^ 41), (4, 2 ^ 48)]) })).core 23).due = some (doneSlot [(0, 2 ^ 41), (4, 2 ^ 48)]) ∧
      namesRecord (doneSlot [(0, 2 ^ 41), (4, 2 ^ 48)]).words = true ∧
      (M.of (running fun c => { c with run := some (doneSlot [(0, 2 ^ 41), (4, 2 ^ 48)]) })).recordsHere (doneSlot [(0, 2 ^ 41), (4, 2 ^ 48)]).words = false ∧
      (doneSlot [(0, 2 ^ 41), (4, 2 ^ 48)]).commitStep = 0) := by decide +kernel

theorem witness_DrainLimitStopsManifests :
    (M.of (running fun c => { c with disabling := some .fence })).live = true ∧
      (M.of (running fun c => { c with disabling := some .fence })).dev.reset = none ∧
      ((M.of (running fun c => { c with disabling := some .fence })).core 23).disabling.isSome = true ∧
      bit16 ((M.of (running fun c => { c with closing := 0x8000 })).core 23).closing 15 = true ∧
      (slotOf 6 []).stop = none ∧ (slotOf 6 []).phase ≠ .mirrorWait := by decide +kernel

/-- The manifest after the one at hand lies at 0x5000: a MOVE with nothing but its header. -/
def ahead : State := { running (fun c => { c with ctrl := 0xFFFF, run := some { slotOf 6 [(1, 0x5000), (9, 8)] with ctx := 15 } }) with
  mem := (running id).mem.applyAll [.put 0x5000 6, .put 0x5001 1, .put 0x5002 2] }

theorem witness_OutriderGoesAhead :
    let sl : Slot := { slotOf 6 [(1, 0x5000), (9, 8)] with ctx := 15 }
    let c := (M.of ahead).core 23
    let t := (M.of ahead).fetchSlot 23 15 0x5000
    (M.of ahead).coreRuns 23 = true ∧ c.run = some sl ∧ sl.stop = none ∧ c.outrider.ahead < c.horizon sl ∧
      (if c.outrider.ahead = 0 then ((M.of ahead).aheadOf 23 sl.ctx sl.addr sl.words sl.target).map (·.1) else c.outrider.at?) = some 0x5000 ∧
      (M.of ahead).pointerOk 15 0x5000 = true ∧ t.fixed = none ∧ checkForm t.words = none ∧ t.kind ∉ [kSync, kCheckpoint, kTable] ∧
      hKind t.words ≠ kBranch := by decide +kernel

/-! ## The host's side -/

theorem witness_HostWritesLand :
    up.sound ∧ (M.of up).hostUp = true ∧ (M.of up).ready = true ∧ 2 ^ 30 - 2 + [1#8, 2#8].length ≤ 2 ^ (M.of up).dev.host.b2Log2 ∧
      (M.of up).mirrorRole ≠ 2 ∧ (M.of up).dev.host.b2Base.toNat + (2 ^ 30 - 2) + 2 ≤ memEnd ∧
      (M.of up).reqHeld { offset := 2 ^ 30 - 2, window := 2 ^ 30 - 2, req := .write [1, 2] true } = false ∧
      (∀ l ∈ linesOf (2 ^ 30 - 2) 2, (M.of up).reach none (max l (2 ^ 30 - 2)) = true) := by unfold State.sound; decide +kernel

/-- Two requests wait for a clock. -/
def waiting (r : HostRequest) : State := upWith fun m => m.modHost fun h => { h with held := [{ offset := 64, window := 64, req := r }] }

theorem witness_HostReadsAnswer :
    ((M.of (upWith fun m => m.setObj 0x2010 0x1F 1)).hostUp = true ∧
      (M.of (upWith fun m => m.setObj 0x2010 0x1F 1)).reqHeld { offset := 2 ^ 30 - 1, window := 2 ^ 30 - 1, req := .read 1 } = true) ∧
    ((M.of (upWith fun m => m.setObj 0x1010 1 3)).reqHeld { offset := 64, window := 64, req := .read 1 } = false ∧
      (M.of (upWith fun m => m.setObj 0x1010 1 3)).hostLines 64 1 = none) ∧
    ((M.of up).reqHeld { offset := 60, window := 60, req := .read 8 } = false ∧ (M.of up).ready = true ∧
      (∀ l ∈ linesOf 60 8, (M.of up).reach none (max l 60) = true)) ∧
    ((M.of (waiting (.read 1))).live = true ∧ (M.of (waiting (.read 1))).dev.host.held = [⟨64, 64, .read 1⟩]) ∧
    (M.of (waiting (.write [1] false))).dev.host.held = [⟨64, 64, .write [1] false⟩] := by decide +kernel

theorem witness_HostAtomicsAnswer :
    (M.of up).hostUp = true ∧ (M.of up).ready = true ∧ (M.of up).mirrorRole ≠ 2 ∧ 2 ^ 30 - 8 + 8 ≤ 2 ^ (M.of up).dev.host.b2Log2 ∧
      (M.of up).dev.host.b2Base.toNat = 0 ∧
      ((M.of up).reqHeld { offset := 2 ^ 30 - 8, window := 2 ^ 30 - 8, req := .atomic 2 true 1 0 } = false ∧ (2 ^ 30 - 8) % 8 = 0 ∧
        (∀ l ∈ linesOf (2 ^ 30 - 8) 8, (M.of up).reach none (max l (2 ^ 30 - 8)) = true) ∧ (M.of up).marked (2 ^ 30 - 8) = false) ∧
      ((M.of up).reqHeld { offset := 60, window := 60, req := .atomic 0 true 1 0 } = false ∧ 60 % 8 ≠ 0 ∧
        (∀ l ∈ linesOf 60 8, (M.of up).reach none (max l 60) = true)) ∧
      (M.of (upWith fun m => m.setMark 0 true)).marked 8 = true ∧
      (M.of (upWith fun m => m.setMark 0 true)).reqHeld { offset := 8, window := 8, req := .atomic 1 false 1 0 } = false := by decide +kernel

theorem witness_FunctionLevelResetClearsThePort :
    ((M.of up).hostUp = true ∧ ∀ i : Fin 24, ((M.of up).core i).active = 0) ∧
    ((M.of (aborting fun c => { c with active := 4, run := some (slotOf 6 []) })).hostUp = true ∧
      (∀ j : Fin 24, j ≠ 3 → ((M.of (aborting fun c => { c with active := 4, run := some (slotOf 6 []) })).core j).active = 0) ∧
      ((M.of (aborting fun c => { c with active := 4, run := some (slotOf 6 []) })).core 3).active = BitVec.ofNat 16 (2 ^ 2) ∧
      ((M.of (aborting fun c => { c with active := 4, run := some (slotOf 6 []) })).core 3).current = 2 ∧
      ((M.of (aborting fun c => { c with active := 4, run := some (slotOf 6 []) })).core 3).run = some (slotOf 6 []) ∧
      (slotOf 6 []).kind ≠ kSync) := by decide +kernel

theorem witness_MailboxTakesOneRequest :
    let s := upWith fun m => m.modHost fun h => { h with mboxReq := [(7, 0x70)] }
    ((M.of s).hostUp = true ∧ (M.of s).dev.host.mboxBusy = false ∧
      0x7000 = natOf [Tab.get (M.of s).dev.host.mboxReq 0 6, Tab.get (M.of s).dev.host.mboxReq 0 7]) ∧
    (M.of (upWith fun m => m.modHost fun h => { h with mboxBusy := true })).dev.host.mboxBusy = true := by decide +kernel

/-! ## Manifests -/

/-- Core 3 may run a manifest of each kind, and of each operation of a kind. -/
def kindRuns (kind : Nat) (l : List (Nat × Nat)) : Bool := mayRun (readyWith kind l) kind l

theorem witness_ManifestsRunToTheirEnd :
    (∀ k ∈ [kMatrix, kScore, kSoftmax, kFold], kindRuns k [] = true) ∧
    (kindRuns kExchange [(8, 2)] = true ∧ xop (slotOf kExchange [(8, 2)]).words = 2) ∧
    (∀ op ∈ List.range 13, kindRuns kVector [(8, op)] = true ∧ vop (slotOf kVector [(8, op)]).words = op) := by decide +kernel

theorem witness_IntegerConversionIsSymmetric :
    127 < roundInt (ctlOf []).mode true 0 (Frac.shift (Frac.ofNat 2) 6) ∧ 7 < roundInt (ctlOf []).mode false 0 (Frac.shift (Frac.ofNat 8) 0) := by
  decide +kernel

theorem witness_SmallFloatPatterns :
    (0x7E / 8 % 16 = 15 ∧ 0x7E % 8 < 7) ∧ 0x1F / 4 % 8 = 7 ∧ 0x1F / 8 % 4 = 3 ∧ 0x7 / 2 % 4 = 3 ∧ (254 % 256 ≤ 0xFE ∧ 127 ≤ 254 % 256) := by
  decide

theorem witness_ConvoysGoToTheBanks :
    ∀ op ∈ List.range 4, kindRuns kConvoy [(8, op + 0xF0)] = true ∧ nbuOp (slotOf kConvoy [(8, op + 0xF0)]).words = op := by decide +kernel

theorem witness_AppendsGoToTheBanks : kindRuns kKv [] = true := by decide +kernel

theorem witness_MovesRun :
    (kindRuns kMove [] = true ∧ mvT (slotOf kMove []).words = false) ∧
    (kindRuns kMove [(8, 2 ^ 16)] = true ∧ mvT (slotOf kMove [(8, 2 ^ 16)]).words = true) ∧
    (∀ i, i < 2 → regSpace (slotOf kMove []).words i = 2 → regBase (slotOf kMove []).words i / 2 ^ 48 = (M.of up).deviceId) := by decide +kernel

theorem witness_RingSendersWait :
    ∀ op ∈ [0, 1], kindRuns kExchange [(8, op)] = true ∧ xop (slotOf kExchange [(8, op)]).words = op := by decide +kernel

/-! ## The ring -/

/-- A transfer of core 1 that stands at a stop. -/
def xfer (dest : Option Nat) (at_ : Nat) (returning : Bool := false) : RingXfer :=
  { sender := 1, manifest := 0x4000, dest, returning, at_, wsOff := 0x7FFFC0, data := [1, 2], poison := [false] }

/-- It stands on the ring. -/
def onRing (x : RingXfer) (f : M → M := id) : State := upWith fun m => { f m with dev := { (f m).dev with ring := [x] } }

/-- The transfer that reaches `core` next. -/
def reaches (s : State) (core : Nat) (x : RingXfer) : Bool :=
  (M.of s).live && (M.of s).fabricRuns && (M.of s).dev.ring.find? (fun y => nextStop y.at_ == core) == some x

theorem witness_RingTransfersTravel :
    (Tab.get (M.of (upWith fun m => { m with dev := { m.dev with ringOut := [(1, [xfer none 1])], ringCredits := [(3, 127)] } })).dev.ringOut [] 1 =
        [xfer none 1] ∧
      ∀ t ∈ (M.of up).ringTargets (xfer none 1),
        Tab.get (M.of (upWith fun m => { m with dev := { m.dev with ringCredits := [(3, 127)] } })).dev.ringCredits 0 t < 128) ∧
    reaches (onRing (xfer (some 1) 0 true)) 1 (xfer (some 1) 0 true) = true ∧
    reaches (onRing (xfer (some 1) 2 true)) 3 (xfer (some 1) 2 true) = true ∧
    (reaches (onRing (xfer (some 1) 1) fun m => m.setObj 0x7001 3 1) 2 (xfer (some 1) 1) = true ∧
      (M.of (onRing (xfer (some 1) 1) fun m => m.setObj 0x7001 3 1)).coreAbsent 2 = true) ∧
    reaches (onRing (xfer (some 3) 1)) 2 (xfer (some 3) 1) = true ∧
    (reaches (onRing (xfer none 1) fun m => m.setObj 0x7001 3 1) 2 (xfer none 1) = true) ∧
    (reaches (onRing (xfer (some 1) 1)) 2 (xfer (some 1) 1) = true ∧ (M.of (onRing (xfer (some 1) 1))).coreAbsent 2 = false) ∧
    (reaches (onRing (xfer none 3)) 0 (xfer none 3) = true ∧ (M.of (onRing (xfer none 3))).coreAbsent 0 = false) := by decide +kernel

/-! ## Collectives, synchronisation, control -/

def gatherSlot (cop : Nat) : Slot := slotOf kExchange [(8, 3), (11, cop * 2 ^ 60)]

/-- Core 3 may run a collective of group 0, which has `size` members of which this device is the first. -/
def collState (cop size : Nat) (c : Option Coll) : State :=
  readyWith kExchange [(8, 3), (11, cop * 2 ^ 60)] fun m => (m.setObj 0x6400 1 (2 ^ 32 + (size - 1) * 2 ^ 16)).modFab fun f =>
    { f with colls := match c with | some c => [(3, c)] | none => [] }

def collHas (cop : Nat) (sentTo got : List Nat) : Coll := { cop, group := 0, id := 0, readyFrom := [], got, sentTo, nodes := [] }

/-- What a collective of two is when it has sent and received all. -/
def collComplete (cop size : Nat) (c : Coll) : Bool :=
  let ws := (gatherSlot cop).words
  let formed := if cop = 2 then ((List.range (totalIters ws)).foldl (fun c k => Coll.form ws 0 k (planOf ws).s (0, 0) c) (c, 0)).1 else c
  mayRun (collState cop size (some c)) kExchange [(8, 3), (11, cop * 2 ^ 60)] && ((M.of (collState cop size (some c))).collRank 0) == some 0 &&
    (M.of (collState cop size (some c))).collSize 0 == size && (collReceivers ws size 0).all c.sentTo.contains &&
    (collSenders ws size 0).all (fun q => (List.range (collMsgs ws)).all fun x => c.got.contains (collKey q x)) &&
    (cop != 2 || (List.range (totalIters ws)).all fun k => (formed.node ws 0 ((planOf ws).gives 0) k).isSome)

theorem witness_CollectivesRun :
    (∀ cop ∈ [0, 1, 2], mayRun (collState cop 2 none) kExchange [(8, 3), (11, cop * 2 ^ 60)] = true ∧ xop (gatherSlot cop).words = 3 ∧
      collCop (gatherSlot cop).words = cop ∧ collGroup (gatherSlot cop).words = 0) ∧
    (collComplete 0 2 (collHas 0 [1] [2 ^ 20]) = true ∧ collComplete 1 2 (collHas 1 [1] []) = true ∧
      collComplete 2 1 { collHas 2 [] [] with nodes := [(nodeKey (0, 0) 0, [])] } = true) ∧
    (∀ cop ∈ [0, 1], (collReceivers (gatherSlot cop).words 2 0).all (collHas cop [] []).sentTo.contains = false ∧
      (collHas cop [] []).readyFrom = []) ∧
    (collReceivers (slotOf kExchange [(0, 2 ^ 48), (8, 3), (11, 2 * 2 ^ 60)]).words 2 0).all (collHas 2 [] []).sentTo.contains = false := by
  decide +kernel

/-- Core 3 may run a SYNC of an operation, in barrier group 15 whose members `f` names. -/
def syncState (l : List (Nat × Nat)) (f : M → M) : State := readyWith kSync l f

theorem witness_SyncsRun :
    (∀ op ∈ [0, 3], mayRun (syncState [(8, op + 15 * 16)] fun m => m.setObj 0x8050 16 0x800008) kSync [(8, op + 15 * 16)] = true ∧
      syncOp (slotOf kSync [(8, op + 15 * 16)]).words = op ∧
      ∃ i ∈ (M.of (syncState [(8, op + 15 * 16)] fun m => m.setObj 0x8050 16 0x800008)).members 15,
        (setBit (Tab.get (M.of (syncState [(8, op + 15 * 16)] fun m => m.setObj 0x8050 16 0x800008)).dev.fab.arrivals 0 15) 3 true).testBit i = false) ∧
    ((∀ i ∈ (M.of (syncState [(8, 15 * 16)] fun m => m.setObj 0x8050 16 8)).members 15, (setBit 0 3 true).testBit i = true) ∧
      (M.of (syncState [(8, 15 * 16)] fun m => m.setObj 0x8050 16 8)).dev.fab.xlocal.contains 15 = false ∧
      (∀ i, i < 24 → ∀ q ∈ ((M.of (syncState [(8, 15 * 16)] fun m => m.setObj 0x8050 16 8)).core i).waiters, q.syncWaits (isXBarrierOf 15) = false)) ∧
    (let s := syncState [(8, 1 + 1023 * 2 ^ 8)] fun m => m.modCore 3 fun c => { c with flags := BitVec.ofNat 1024 (2 ^ 1023) };
      mayRun s kSync [(8, 1 + 1023 * 2 ^ 8)] = true ∧ syncOp (slotOf kSync [(8, 1 + 1023 * 2 ^ 8)]).words = 1 ∧
      wf (slotOf kSync [(8, 1 + 1023 * 2 ^ 8)]).words 8 17 8 = 1023 ∧ ((M.of s).core 3).flags.toNat.testBit 1023 = true) ∧
    (mayRun (syncState [(8, 1)] id) kSync [(8, 1)] = true ∧ ((M.of (syncState [(8, 1)] id)).core 3).flags.toNat.testBit 0 = false) ∧
    (mayRun (syncState [(8, 2)] id) kSync [(8, 2)] = true ∧ signalDevice (slotOf kSync [(8, 2)]).words = (M.of (syncState [(8, 2)] id)).deviceId) := by
  decide +kernel

theorem witness_ControlManifestsRun :
    kindRuns kTable [] = true ∧ kindRuns kBranch [] = true ∧ kindRuns kCheckpoint [] = true ∧ (M.of up).mirrorRole ≠ 2 := by decide +kernel

/-! ## Messages -/

/-- A message from device 7. -/
def msgOf (op addr : Nat) (data : List (List Byte × Bool) := []) (atom resp : Nat := 0) : Msg :=
  { dest := 0, src := 7, addr, tag := 4095, lenM1 := 0, op, ctx := 0, hops := 63, resp, atom, resv := 0, data }

/-- The message stands first in the receive buffer of link 31. -/
def arriving (x : Msg) (f : M → M := id) : State :=
  upWith fun m => (f m).modLink 31 fun k => if opSideband x.op then { k with rxSb := x.slots } else { k with rxBulk := x.slots }

def arrives (x : Msg) (f : M → M := id) : Bool :=
  let m := M.of (arriving x f)
  m.live && m.fabricRuns && m.msgFirst 31 x && !x.foreign && x.dest == m.deviceId

theorem arrives_of {x : Msg} {f : M → M} (h : arrives x f = true) : (M.of (arriving x f)).Arrives 31 x := by
  simp only [arrives, Bool.and_eq_true, Bool.not_eq_true', beq_iff_eq] at h
  exact ⟨h.1.1.1.1, h.1.1.1.2, h.1.1.2, h.1.2, h.2⟩

/-- A GATHER of core 3 waits for rank 1, which is device 7. -/
def gathering (m : M) : M :=
  ((m.setObj 0x6400 1 (7 * 2 ^ 32 + 2 ^ 16)).modFab fun f => { f with colls := [(3, collHas 0 [1] [])] }).modCore 3 fun c =>
    { c with run := some { gatherSlot 0 with phase := .waiting } }

theorem witness_CollectiveMessagesAct :
    (arrives (msgOf opCollReady (255 * 2 ^ 40 + 15 * 2 ^ 36 + 2 ^ 20)) = true ∧
      (M.of (arriving (msgOf opCollReady (255 * 2 ^ 40 + 15 * 2 ^ 36 + 2 ^ 20)))).dev.fab.colls = []) ∧
    (arrives (msgOf opCollReady (2 ^ 20)) gathering = true ∧
      (M.of (arriving (msgOf opCollReady (2 ^ 20)) gathering)).dev.fab.colls.find? (fun e => e.2.group == 0 && e.2.id == 0) =
        some (3, collHas 0 [1] [])) ∧
    arrives (msgOf opCollReady (2 ^ 20) [] 0 2) gathering = true ∧ arrives (msgOf opCollData (2 ^ 20) [] 0 2) gathering = true ∧
    (arrives (msgOf opCollData (2 ^ 20) [(List.replicate 64 5, false)]) gathering = true ∧
      (M.of (arriving (msgOf opCollData (2 ^ 20) [(List.replicate 64 5, false)]) gathering)).collSlot 3 = some { gatherSlot 0 with phase := .waiting } ∧
      (M.of (arriving (msgOf opCollData (2 ^ 20) [(List.replicate 64 5, false)]) gathering)).rankOf 0 7 = some 1 ∧
      0 < collMsgs (gatherSlot 0).words ∧ (collHas 0 [1] []).got.contains (collKey 1 0) = false ∧ collCop (gatherSlot 0).words < 2) ∧
    (Tab.find? (M.of (upWith gathering)).dev.fab.colls 3).isSome = true := by decide +kernel

/-! ## Contexts -/

/-- Core 3 with contexts 2 and 15 active. -/
def twoChains (f : Core → Core) : State := upWith fun m => m.modCore 3 fun c => f { c with active := 0x8004, current := 2 }

theorem witness_ContextsTakeTurns :
    (let s := upWith fun m => m.modCore 3 fun c => { c with active := 4, current := 2 };
      (M.of s).coreRuns 3 = true ∧ bit16 ((M.of s).core 3).active 2 = true ∧ ((M.of s).core 3).rivals = []) ∧
    (let t := { slotOf kSync [(8, 1)] with phase := .waiting };
      let s := twoChains fun c => { c with run := some t };
      bit16 ((M.of s).core 3).active ((M.of s).core 3).current = true ∧ ((M.of s).core 3).rivals ≠ [] ∧ ((M.of s).core 3).disabling = none ∧
        bit16 ((M.of s).core 3).closing ((M.of s).core 3).current = false ∧ ((M.of s).core 3).run = some t ∧ t.kind = kSync ∧ t.stop = none ∧
        syncOp t.words ≠ 2) ∧
    (let s := twoChains fun c => { c with quantumUp := true };
      ((M.of s).core 3).run = none ∧ ((M.of s).core 3).ready = none ∧ ((M.of s).core 3).wait = none ∧ ((M.of s).core 3).disabling = none ∧
        ((M.of s).core 3).nextContext = some 15 ∧ 15 ≠ ((M.of s).core 3).current ∧ ((M.of s).ctx 3 15).parkedRun = none) ∧
    (let t := { slotOf kSync [(8, 1)] with phase := .done };
      let s := twoChains fun c => { c.setCtx 15 { CtxRegs.zero with parkedRun := some t, parkReady := true } with quantumUp := true };
      ((M.of s).core 3).nextContext = some 15 ∧ ((M.of s).ctx 3 15).parkedRun = some t) := by decide +kernel

theorem witness_ContextsOpenAndClose :
    (let s := upWith fun m => m.setObj 0x803F 24 0x00010001;
      (M.of s).objBit 0x8001 24 15 = false ∧ (M.of s).fusedOff 23 = false ∧ (M.of s).fenced 23 = false ∧ (M.of s).obj 0x8001 24 < 2 ^ 16 ∧
        (M.of s).objFld 0x803F 24 9 0 ≤ (M.of s).objFld 0x803F 24 25 16 ∧ (M.of s).obj 0x803F 24 ≠ 0 ∧ (M.of s).hears (.port 5) = true ∧
        (M.of s).responder = false ∧ (M.of s).dev.led.owner = some (.port 5)) ∧
    (let s := upWith fun m => m.setObj 0x8001 24 0x8000;
      (M.of s).objBit 0x8001 24 15 = true ∧ bit16 ((M.of s).core 23).active 15 = false ∧ ((M.of s).ctx 23 15).parkedRun = none ∧
        ((M.of s).core 23).run = none ∧ ((M.of s).core 23).ready = none ∧ (M.of s).ownsCistern 23 15 = false) := by decide +kernel

/-! ## Banks -/

/-- Layer quadrant 95 with work for banks 0 to 31. -/
def working (f : Lq → Lq) (g : M → M := id) : State :=
  upWith fun m => (g m).modLq 95 fun q => f { q with work := [100, 50], firstBank := 0, banks := 32 }

theorem witness_BankStepsFollowTheirSegments :
    (let q := (M.of (working id)).lq 95;
      (M.of (working id)).banksRun 95 = true ∧ 1 ∈ q.groups ∧ 1 ∉ q.arrived ∧ q.halves < min 2 q.work.length ∧ q.groups.all (q.arrived ++ [1]).contains = false) ∧
    (let q := (M.of (working fun q => { q with arrived := [0] })).lq 95;
      1 ∈ q.groups ∧ 1 ∉ q.arrived ∧ q.halves < min 2 q.work.length ∧ q.groups.all (q.arrived ++ [1]).contains = true) ∧
    (let s := working (fun q => { q with halves := 1, readyAt := some 7 }) fun m => m.setObj 0x3141 6 2048;
      (M.of s).live = true ∧ (M.of s).domUp 29 = true ∧ (M.of s).tierRuns 5 = true ∧ (M.of s).firstReady 5 = some 95 ∧
        ((M.of s).lq 95).refreshing = false ∧ (M.of s).objFld 0x5021 96 3 0 ≤ (M.of s).obj 0x5020 1 ∧
        ((M.of s).lq 95).banks + (((tierLqs 5).filter fun k => ((M.of s).lq k).stepping.isSome).map fun k => ((M.of s).lq k).banks).foldl (· + ·) 0 ≤
          (M.of s).objFld 0x3141 6 15 0) ∧
    (∀ c ∈ [99, 100], let s := working fun q => { q with halves := 1, stepping := some c };
      (M.of s).tierRuns (tierOf (95 / 4)) = true ∧ ((M.of s).lq 95).stepping = some c ∧ ((M.of s).lq 95).work = [100, 50] ∧
        ((M.of s).lq 95).held = [] ∧ ((M.of s).lq 95).queue = [] ∧ (M.of s).objFld 0x5021 96 3 0 = 0) := by decide +kernel

theorem witness_RefreshesAreOwedAndTaken :
    let s := working fun q => { q with refreshing := true };
    (M.of s).banksRun 95 = true ∧ ((M.of s).lq 95).refreshing = true ∧ ((M.of s).lq 95).held = [] ∧ ((M.of s).lq 95).queue = [] := by decide +kernel

theorem witness_BanksServeAccesses :
    (let u := memEnd - 64;
      let s := working fun q => { q with refreshing := true };
      u % 64 = 0 ∧ u < memEnd ∧ (M.of s).reach (some (u / columnSize)) u = true ∧ (M.of s).tierRuns (u / columnSize / 4) = true ∧ u / lqSize = 95 ∧
        (((M.of s).lq 95).busyBank (bankOf u) || ((M.of s).lq 95).refreshing) = true) ∧
    (let s := working fun q => { q with stepping := some 9 };
      (M.of s).reach none (95 * lqSize) = true ∧ ((M.of s).lq 95).busyBank (bankOf (95 * lqSize)) = true) ∧
    (up.sound ∧ (M.of up).reach none 0 = true ∧ (M.of up).tierRuns 0 = true ∧ (((M.of up).lq 0).busyBank (bankOf 0) || ((M.of up).lq 0).refreshing) = false ∧
      (List.replicate 64 (7 : Byte)).length = 64) ∧
    (let s := upWith fun m => m.modLq 95 fun q => { q with scrubUnit := lqUnits - 1 };
      let u := 95 * lqSize + 64 * (lqUnits - 1);
      (M.of s).banksRun 95 = true ∧ ((M.of s).lq 95).scrubUnit < lqUnits ∧ (((M.of s).lq 95).busyBank (bankOf u) || ((M.of s).lq 95).refreshing) = false ∧
        (M.of s).marked u = false ∧ ((M.of s).lq 95).scrubUnit + 1 = lqUnits ∧ (M.of s).dev.convs = []) ∧
    ((M.of up).banksRun 0 = true ∧ ((M.of up).lq 0).scrubUnit + 1 < lqUnits) := by unfold State.sound; decide +kernel

theorem witness_SramScrubMendsOneBit :
    up.sound ∧ (M.of up).live = true ∧ (M.of up).bazUp = true ∧ (M.of up).coreDown 23 = false ∧ (M.of up).fusedOff 23 = false ∧
      (M.of up).marked (bazBase + 32 * 8388607 % bazSize) = false ∧ (M.of up).marked (wsBase (92 / 4) + 32 * 0 % wsSize) = false := by
  unfold State.sound; decide +kernel

theorem witness_RepairsAreRecorded :
    (let s := upWith fun m => m.modBank 196607 fun k => { k with copy := some ⟨true, 31, 31⟩ };
      (M.of s).live = true ∧ ((M.of s).bank 196607).copy = some ⟨true, 31, 31⟩) ∧
    (let s := upWith fun m => m.modBank 0 fun k => { k with unwritten := [2 ^ 62] };
      ((M.of s).bank 0).unwritten = [2 ^ 62] ∧ (M.of s).dev.repairMap.length < 32768) := by decide +kernel

theorem witness_TractModesConvert :
    ((bitsSet ((M.of up).obj 0x5127 24 ^^^ (2 ^ 63)) 64).any (fun i => (M.of up).converting 23 (64 * 23 + i)) = false) ∧
    ((M.of up).banksRun (4 * 23 + 1535 / 384) = true ∧ (M.of up).dev.cores.any (fun e => e.2.slots.any ((M.of up).slotTouches e.1 23 1535)) = false) ∧
    (let s := upWith fun m => { m with dev := { m.dev with convs := [⟨23, 1535, true, true⟩] } };
      (M.of s).dev.convs.any (fun x => x.column == 23 && x.tract == 1535 && x.begun) = true) := by decide +kernel

theorem witness_CisternsAreCleared :
    ((M.of up).fuse.gradOn = true ∧ (M.of up).objBit 0x2040 24 8 = false ∧ 31 ≠ (M.of up).objFld 0x8040 24 4 0) ∧
    (let s := upWith fun m => m.modCore 23 fun c => { c with cisPending := true };
      (M.of s).coreDown 23 = false ∧ ((M.of s).core 23).cisPending = true ∧ (M.of s).cisFree 23 = true) ∧
    (M.of (upWith fun m => m.setObjBit 0x8040 24 5 true)).objBit 0x8040 24 5 = true := by decide +kernel

/-- A window of cores 3 and 23 on the last Bazaar line, which core 3 has joined. -/
def windowed : State := upWith fun m => { m with dev := { m.dev with windows := [⟨bazBase + bazSize - 256, 0x800008, [3]⟩] } }

theorem witness_BazaarMergesReads :
    (inBazaar (bazBase + bazSize - 64) = true ∧ (M.of up).bazUp = true ∧ (M.of up).coreRuns 3 = true ∧ (M.of up).dev.windows = [] ∧
      bitsSet 0x800008 24 ≠ [] ∧ (bitsSet 0x800008 24).all [3].contains = false) ∧
    ((M.of windowed).dev.windows.find? (fun w => w.line == (bazBase + bazSize - 64) / 256 * 256) = some ⟨bazBase + bazSize - 256, 0x800008, [3]⟩ ∧
      (M.of windowed).coreRuns 23 = true ∧ (bitsSet 0x800008 24).all (addOnce [3] 23).contains = true ∧
      (bitsSet 0x800008 24).all (addOnce [3] 3).contains = false) ∧
    (inBazaar bazBase = true ∧ (M.of up).mirrorRole ≠ 2 ∧ bazBase + [1#8].length ≤ bazBase + bazSize) := by decide +kernel

/-! ## Links -/

/-- Link 31 in a state. -/
def linkIn (st : Nat) (f : Link → Link := id) (g : M → M := id) : State := upWith fun m => ((g m).setObj 0x611F 2 st).modLink 31 f

/-- A good flit. -/
def flitOf (kind seq : Nat) : LFlit :=
  { kind, seq, ack := 4095, creditBulk := 255, creditSb := 255, fmt := 1, resv := 0, sbMap := 1, fillMap := 1, poisonMap := 0
    slots := List.replicate 15 0, good := true, fecBad := false, fecSyms := 0 }

/-- A flit that waits for its acknowledgement. -/
def kept : KeptFlit := { flit := flitOf 1 0, owners := [.none] }

theorem witness_FlitsAreTaken :
    ((M.of (linkIn 4)).linkUp 31 = true ∧ ((M.of (linkIn 4)).link 31).draining = false ∧ (flitOf 1 0).fecSyms = 0) ∧
    ({ flitOf 1 0 with good := false }.good = false ∧ { flitOf 1 0 with good := false }.fecBad = false) ∧
    ((flitOf 4 0).whole = true ∧ (flitOf 4 0).foreign = true ∧ ((M.of (linkIn 4)).link 31).reqDue = 0) ∧
    (∀ k ∈ [0, 1, 2, 3], (flitOf k 0).whole = true ∧ (flitOf k 0).foreign = false) ∧
    ((flitOf 1 0).seq = (((M.of (linkIn 4)).link 31).rxLast + 1) % 4096 ∧ (flitOf 1 4095).seq ≠ (((M.of (linkIn 4)).link 31).rxLast + 1) % 4096) ∧
    ((((M.of (linkIn 4)).link 31).credit (flitOf 2 0)).replaying = (((M.of (linkIn 4)).link 31).credit (flitOf 2 0)).replay.length) ∧
    ((((M.of (linkIn 4 fun k => { k with replay := [kept] })).link 31).credit (flitOf 2 0)).replaying ≠
        (((M.of (linkIn 4 fun k => { k with replay := [kept] })).link 31).credit (flitOf 2 0)).replay.length ∧
      Tab.get (M.of (linkIn 4)).dev.buckets 0 (bucketKey 3 31) + 1 < (M.of (linkIn 4)).objFld 0x7030 3 31 0) := by decide +kernel

theorem witness_FlitsGoOut :
    ((M.of (linkIn 4 fun k => { k with nakDue := true })).linkUp 31 = true ∧ (M.of (linkIn 4)).mirrorRole ≠ 1 ∧
      ((M.of (linkIn 4 fun k => { k with nakDue := true })).link 31).nakDue = true) ∧
    (let k := (M.of (linkIn 4 fun k => { k with reqDue := 3 })).link 31;
     k.nakDue = false ∧ 1 < k.reqDue) ∧
    (let k := (M.of (linkIn 4 fun k => { k with replay := [kept], replaying := 1 })).link 31;
     k.nakDue = false ∧ k.reqDue = 0 ∧ k.replaying ≠ 0 ∧ k.replaying ≤ k.replay.length) ∧
    (let k := (M.of (linkIn 4)).link 31;
     k.nakDue = false ∧ k.reqDue = 0 ∧ k.replaying = 0 ∧ k.txSb = [] ∧ k.txMirror = [] ∧ k.txBulk = [] ∧ k.replaying = k.replay.length) ∧
    (let x : TxMsg := { owner := .none, slots := (msgOf opFlagSet 5).slots };
     let k := (M.of (linkIn 4 fun k => { k with txSb := [x] })).link 31;
     k.txSb = [x] ∧ 0 < x.slots.length ∧ x.slots.length ≤ min 15 k.crSb ∧ k.replay.length < 1024 ∧ k.reqDue = 0) ∧
    (let k := (M.of (linkIn 4 fun k => { k with nakOut := true, replay := [kept] })).link 31;
     k.nakOut = true ∧ k.replaying ≠ k.replay.length) := by decide +kernel

theorem witness_LinksTrain :
    (M.of (linkIn 4)).live = true ∧
    ((M.of (linkIn 4)).linkState 31 = lsActive ∧ ((M.of (linkIn 4)).link 31).reqDue = 0) ∧ (M.of (linkIn 1)).linkState 31 = lsDetect ∧
    (let k := (M.of (linkIn 2 fun k => { k with phase := 2, lanes := 15 })).link 31;
     1 ≤ k.phase ∧ k.phase ≤ 2 ∧ (15#4).toNat &&& k.lanes = k.lanes) ∧
    ((M.of (linkIn 2 fun k => { k with phase := 3 })).link 31).phase = 3 ∧
    (((M.of (linkIn 2 fun k => { k with phase := 4 })).link 31).phase = 4 ∧ (M.of (linkIn 2)).linkState 31 ≠ lsActive) ∧
    (((M.of (linkIn 2 fun k => { k with phase := 6, lanes := 15 })).link 31).phase = 6 ∧
      ((M.of (linkIn 2 fun k => { k with phase := 6, lanes := 15 })).link 31).lanes < 16) ∧
    (let k := (M.of (linkIn 3 fun k => { k with phase := 5, downHeld := true })).link 31;
     k.phase = 5 ∧ (2#16).getLsbD 1 = true ∧ k.mode = 0 ∧ k.downHeld = true ∧ (M.of (linkIn 3)).linkState 31 ≠ lsActive) ∧
    (let k := (M.of (linkIn 3 fun k => { k with phase := 5 })).link 31;
     k.phase = 5 ∧ (1#16).getLsbD 1 = false ∧ k.replay = [] ∧ k.mid = 0) ∧
    ((M.of (linkIn 5)).linkState 31 = lsRetrain ∧ ((M.of (linkIn 5)).link 31).downHeld = false) ∧
    (let k := (M.of (linkIn 4 fun k => { k with draining := true })).link 31;
     k.draining = true ∧ k.replay = [] ∧ k.mid = 0 ∧ k.txSb = [] ∧ k.txMirror = [] ∧ k.txBulk = []) ∧
    ((M.of (linkIn 4 id fun m => m.setObj 0x611F 1 (16 * 7))).obj 0x611F 1 = 16 * 7 ∧ 7 % 2 = 1 ∧ 7 < 8) ∧
    ((M.of (linkIn 0 id fun m => m.setObj 0x611F 1 0)).obj 0x611F 1 = 16 * 0 ∧ (M.of (linkIn 0)).linkState 31 = lsDisabled ∧
      (M.of (linkIn 0)).domOn (30 + 31 / 8) = true) := by decide +kernel

/-! ## Requests from other devices, and answers -/

/-- A window for reads, writes and atomics over memory up to 0x1003F. -/
def windowOpen (m : M) : M := m.setObj 0x6300 16 (0x10000 * 2 ^ 80 + 7)

theorem witness_RemoteRequestsAreServed :
    (∀ op ∈ [opRead, opWrite], arrives (msgOf op 0x10000 [(List.replicate 64 1, false)]) windowOpen = true ∧
      arrives (msgOf op 0x10040 [(List.replicate 64 1, false)]) windowOpen = true) ∧
    (let s := arriving (msgOf opWrite 0x10000 [(List.replicate 64 1, false)]) windowOpen;
     s.sound ∧ (M.of s).windowAllows 0 0x10000 64 = true ∧ (M.of s).windowAllows 1 0x10000 64 = true ∧ remoteSpace 0x10000 = true ∧
       (M.of s).reachAll none 0x10000 64 = true ∧ (M.of s).mirrorRole ≠ 2 ∧ (flatUnits [(List.replicate 64 (1 : Byte), false)]).length = 64 ∧
       (M.of s).windowAllows 0 0x10040 64 = false ∧ (M.of s).windowAllows 1 0x10040 64 = false) ∧
    (∀ a ∈ List.range 6, let x := msgOf opAtomic (if a < 3 then 0x10038 else 0x1003C) [(List.replicate 16 255, false)] a;
     let w := if a < 3 then 8 else 4;
     arrives x windowOpen = true ∧ x.addr % w = 0 ∧ (M.of (arriving x windowOpen)).windowAllows 2 x.addr w = true ∧ remoteSpace x.addr = true ∧
       (M.of (arriving x windowOpen)).reachAll none x.addr w = true ∧ (M.of (arriving x windowOpen)).marked x.addr = false ∧
       (M.of (arriving x fun m => (windowOpen m).setMark 0x10000 true)).marked x.addr = true) ∧
    (let x := msgOf 0x3F 0;
     let m := M.of (arriving x fun m => m.setObj 0x611F 2 4);
     m.live = true ∧ m.fabricRuns = true ∧ m.msgFirst 31 x = true ∧ x.foreign = true ∧ m.linkState 31 = lsActive ∧ (m.link 31).reqDue = 0) := by
  unfold State.sound; decide +kernel

/-- The request of tag 4095 is outstanding. -/
def asked (issuer : Issuer) (op : Nat) (lost : Bool := false) (m : M) : M :=
  m.modFab fun f => { f with outstanding := [(4095, { issuer, dest := 7, op, addr := 64, units := 1, into := 0x4000, lost })] }

theorem witness_ResponsesComplete :
    (∀ e ∈ [(opWriteAck, opWrite, Issuer.manifest 3, 0), (opAtomicData, opAtomic, .amaxMerge 3, 0), (opFlagSet, opFlagSet, .signal 3, 3),
        (opReadData, opRead, .manifest 3, 1), (opReadData, opRead, .amaxRead 3 7, 0), (opReadData, opRead, .manifest 3, 0)],
      arrives (msgOf e.1 64 [(List.replicate 64 1, true)] 0 e.2.2.2) (asked e.2.2.1 e.2.1) = true ∧
      ((Tab.find? (M.of (arriving (msgOf e.1 64 [(List.replicate 64 1, true)] 0 e.2.2.2) (asked e.2.2.1 e.2.1))).dev.fab.outstanding 4095).map fun o =>
        (o.op, o.issuer, o.lost)) = some (e.2.1, e.2.2.1, false)) ∧
    ((M.of up).dev.fab.waiting = [] ∧ 0x4000 / 2 ^ 48 = (M.of up).deviceId ∧ 0x4000 % 64 = 0 ∧ (M.of up).reach (some 3) 0x4000 = true) ∧
    (arrives (msgOf opWriteAck 64) = true ∧ Tab.find? (M.of up).dev.fab.outstanding 4095 = none) ∧
    ((Tab.find? (M.of (upWith (asked (.manifest 3) opRead))).dev.fab.outstanding 4095).map (·.lost) = some false ∧
      (Tab.find? (M.of (upWith (asked (.manifest 3) opRead true))).dev.fab.outstanding 4095).map (·.lost) = some true) := by decide +kernel

theorem witness_FlagsAndBarriersArrive :
    (arrives (msgOf opFlagSet (23 * 1024 + 1023)) = true ∧
      (M.of (arriving (msgOf opFlagSet (23 * 1024 + 1023)) fun m => m.setObj 0x8080 1 0)).objBit 0x8080 1 15 = false) ∧
    (let s := arriving (msgOf opFlagSet (23 * 1024 + 1023)) fun m => m.setObj 0x8080 1 0x8000;
     (M.of s).objBit 0x8080 1 (1023 / 64) = true ∧ bitsAt (23 * 1024 + 1023) 10 5 = 23 ∧ (M.of s).coreAbsent 23 = false ∧
       ((M.of s).core 23).waiters.filter (fun t => t.syncWaits (isWaitOn 1023)) = [] ∧ ((M.of s).core 23).flags.toNat.testBit 1023 = false) ∧
    (∀ op ∈ [opArrive, opRelease], let x := msgOf op (15 * 2 ^ 44 + 4095 * 2 ^ 32 + 1);
     let f := fun m : M => (m.setObj 0x8050 16 (4095 * 2 ^ 24 + 8)).setObj 0x6400 1 (2 ^ 32 + 2 * 2 ^ 16);
     arrives x f = true ∧ barrierGen x.addr = (M.of (arriving x f)).objFld 0x8050 (barrierGroup x.addr + 1) 35 24 ∧
       (M.of (arriving x f)).collRank ((M.of (arriving x f)).objFld 0x8050 16 43 40) = some 0 ∧
       (List.range ((M.of (arriving x f)).collSize 0)).all (addOnce [] 1).contains = false) ∧
    (M.of (upWith fun m => m.modFab fun f => { f with xlocal := [15] })).dev.fab.xlocal.contains 15 = true := by decide +kernel

/-! ## Mirror pairs -/

/-- Device 7 is the partner over link 31; the role and the pair's state. -/
def paired (role st : Nat) (m : M) : M :=
  ((m.setObj 0x6500 1 (7 * 2 ^ 48 + role * 2 ^ 24 + 31 * (2 ^ 28 + 2 ^ 33 + 2 ^ 38 + 2 ^ 43))).setObjFld 0x6500 4 3 0 st).setObj 0x6500 2 1000

/-- Mirror state as `f` leaves it. -/
def pairedWith (role st : Nat) (f : Mirror → Mirror) (m : M) : M := (paired role st m).modMirror f

/-- A part of a delta: its descriptor, and a unit. -/
def partOf (mseq part : Nat) : Msg :=
  msgOf opDelta 0 [(bytesOf (mseq * 2 ^ 80 + 0x4000 * 2 ^ 32 + part * 2 ^ 28) 16, false), (List.replicate 64 9, false)]

theorem witness_MirrorPairsFollowTheirMessages :
    (∀ op ∈ [opHeartbeat, opMirrorAck, opTakeover], arrives (msgOf op 5) (paired 1 2) = true ∧
      (M.of (arriving (msgOf op 5) (paired 1 2))).fromPartner 31 (msgOf op 5) = true) ∧
    (∀ q ∈ [0, 1, 2], let x := partOf q 0;
     arrives x (paired 2 5) = true ∧ (M.of (arriving x (paired 2 5))).fromPartner 31 x = true ∧ x.badDelta = false ∧
       (M.of (arriving x (paired 2 5))).takesParts = true ∧ (M.of (arriving x (paired 2 5))).dev.mirror.heldParts = [] ∧
       (M.of (arriving x (paired 2 5))).dev.mirror.applied = 0 ∧ x.delta.mseq = q ∧ x.delta.part = 0) ∧
    ((M.of (upWith (paired 1 2))).mirrorRole = 1 ∧ (M.of (upWith (paired 1 2))).mirrorState = 2 ∧ (M.of (upWith (paired 1 2))).live = true ∧
      (M.of (upWith (paired 1 2))).objBit 0x6500 4 8 = false ∧
      (∀ i, i < 24 → (∀ t ∈ ((M.of (upWith (paired 1 2))).core i).waiters, t.phase ≠ .mirrorWait) ∧
        ∀ c ∈ (M.of (upWith (paired 1 2))).mirrorContexts, bit16 ((M.of (upWith (paired 1 2))).core i).active c = false)) ∧
    (M.of (upWith (pairedWith 1 2 fun r => { r with unacked := [(partOf 1 0).delta] }))).dev.mirror.unacked ≠ [] ∧
    ((M.of (upWith (paired 1 3))).mirrorState = 3 ∧ (M.of (upWith (paired 1 3))).obj 0x6500 2 ≠ 0) ∧
    (M.of (upWith fun m => (paired 1 3 m).setObj 0x6510 16 (0x1000 * 2 ^ 48 + 0x4000))).mirrorRanges ≠ [] ∧
    (let m := M.of (upWith (paired 2 5));
     m.mirrorRole = 2 ∧ m.mirrorState = 5 ∧ m.dev.mirror.images = [] ∧ m.bundle.filter m.linkActive = []) := by decide +kernel

/-! ## The Ledger's ports -/

/-- A request PDU with one entry and a value of eight bytes or none. -/
def requestOf (op idx sub len : Nat) (value : Option Nat) : List Byte :=
  let n := 24 + (if value.isSome then 8 else 0)
  bytesOf (n * 2 ^ 48 + 2 ^ 24 + 2 ^ 8 + op) 8 ++ bytesOf 0 8 ++ bytesOf (len * 2 ^ 24 + sub * 2 ^ 16 + idx) 8 ++
    (match value with | some v => bytesOf v 8 | none => [])

/-- A request waits in the Ledger's queue. -/
def queued (party : Party) (pdu : List Byte) : State := upWith fun m => m.modLed fun d => { d with queue := [{ party, pdu }] }

/-- What stands in front of it is answered as a request of an operation with an entry. -/
def servable (party : Party) (op : Nat) (write : Bool) (e : Option PduEntry) (pdu : List Byte) : Bool :=
  let m := M.of (queued party pdu)
  m.dev.led.queue == [{ party, pdu }] && m.ledgerRuns && !m.responder && headerOk pdu && pduOp pdu == op && !pduAon pdu &&
    entriesOf write (pduCount pdu) ((pdu.drop 16).take (pduLength pdu - 16)) == some e.toList

def discoverPdu : List Byte := bytesOf (16 * 2 ^ 48 + 2 ^ 8 + pduDiscover) 8 ++ bytesOf 0 8

theorem witness_LedgerRequestsAreAnswered :
    (servable .mailbox pduRead false (some ⟨0x1001, 1, 8, 0⟩) (requestOf pduRead 0x1001 1 8 none) = true ∧
      (M.of up).readReason ⟨0x1001, 1, 8, 0⟩ true = 0 ∧ (objSpec 0x1001 1).isSome = true) ∧
    (servable .mailbox pduDescribe false (some ⟨0x9021, 1, 64, 0⟩) (requestOf pduDescribe 0x9021 1 64 none) = true ∧
      (M.of up).readReason ⟨0x9021, 1, 64, 0⟩ false = 0) ∧
    servable .mailbox pduWrite true (some ⟨0x1040, 2, 4, 1⟩) (requestOf pduWrite 0x1040 2 4 (some 1)) = true ∧
    (servable (.port 9) pduDiscover false none discoverPdu = true ∧ (M.of up).keptReply 9 0 = none) := by decide +kernel

/-- A frame's content: a DISCOVER, padded. -/
def frameOf : List Byte := discoverPdu ++ List.replicate 30 0

theorem witness_PortsTakeFramesAndPerst :
    ((M.of up).ledgerRuns = true ∧ 46 ≤ frameOf.length ∧ pduLength frameOf ≤ frameOf.length ∧ (M.of up).mac ≠ broadcast ∧
      (BitVec.ofNat 48 (M.of up).mac).toNat = (M.of up).mac ∧
      pduOp (frameOf.take (max 16 (pduLength frameOf))) ≠ pduTrayReport ∧ pduOp (frameOf.take (max 16 (pduLength frameOf))) ≠ pduFailsafeAck ∧
      (M.of up).keptReply 9 0 = none ∧ ((M.of up).dev.led.queue.filter fun q => q.party != .mailbox).length < 16) ∧
    (M.of (upWith fun m => m.modMgmt fun g => { g with kept := [(9, 0, [1])] })).keptReply 9 0 = some [1] ∧
    (let m := M.of (upWith fun m => m.setObj 0x2100 3 0);
     m.live = true ∧ m.dev.perst = false ∧ m.objBit 0x2100 3 0 = false ∧ ∀ i : Fin 24, (m.core i).active = 0) ∧
    (let m := M.of (upWith fun m => { m with dev := { m.dev with perst := true } });
     m.dev.perst = true ∧ m.live = true) := by decide +kernel


/-! ## Heat and power -/

theorem witness_HeatIsJudgedAndCooled :
    (let e : W64 := BitVec.ofNat 64 (2000 * 2 ^ 48 + (256 * 45 - 1) * 2 ^ 16 + (M.of up).nodeId);
     let f := fld e.toNat 63 48;
     let t := toSigned 16 (fld e.toNat 31 16);
     (M.of up).watchRuns = true ∧ (M.of up).trayMac = 0 ∧ (M.of up).dev.mgmt.traySeq = none ∧ (M.of up).dev.mgmt.flows = [] ∧
       1 ≤ fld (0x10005#64).toNat 23 16 ∧ e.toNat % 256 = (M.of up).nodeId ∧ f ≠ 0xFFFF ∧ 2000 ≤ f ∧ fld e.toNat 31 16 ≠ 0x8000 ∧
       256 * 15 ≤ t ∧ t < 256 * 45 ∧ (fld (0x10005#64).toNat 31 24).testBit 1 = false) ∧
    (let m := M.of (upWith fun m => m.modHeat fun h => { h with coolantFloor := false });
     m.watchRuns = true ∧ m.dev.heat.coolantFloor = false ∧ m.dev.tripped = false) ∧
    (let m := M.of (upWith fun m => ((m.setObj 0x4010 2 (2500 * 2 ^ 48 + 256 * 43 * 2 ^ 16)).modHeat fun h => { h with
       coolantFloor := true, causes := [] }).modMgmt fun g => { g with traySeq := some 5 });
     m.dev.heat.coolantFloor = true ∧ m.dev.mgmt.traySeq ≠ none ∧ m.dev.heat.causes = [] ∧ entryFlow (m.obj 0x4010 2) = some 2500 ∧
       entryInlet (m.obj 0x4010 2) = some (256 * 43) ∧ (m.obj 0x4010 2).testBit 9 = false) ∧
    (∀ e ∈ [(256, 999), (256, 1000), (512, 0)], let m := M.of (upWith fun m => ((m.modHeat fun h => { h with causes := [1] }).modMgmt fun g =>
       { g with failsafe := some (e.1 + (M.of up).nodeId), failsafeCount := e.2 }));
     m.dev.mgmt.failsafe = some (e.1 + m.nodeId) ∧ m.failsafeCause = some 1 ∧ m.dev.mgmt.failsafeCount = e.2) ∧
    ((M.of (upWith fun m => m.modMgmt fun g => { g with failsafe := some 0x105 })).dev.mgmt.failsafe = some (0x105#64).toNat) ∧
    (pairOk 0x405E 16 = true ∧ pairOk 0x4043 32 = true ∧ (M.of up).dev.heat.suspectRun = [] ∧ (M.of up).dev.heat.calmRun = [] ∧
      (M.of up).objFld 0x405E 16 3 1 = 0 ∧ (-10240 : Int) ≤ (0xD800#16).toInt ∧ (38400 - 2 ^ 16 : Int) < (0x7FFF#16).toInt ∧
      (0xD800#16).toInt ≤ 38400 ∧ (0xD800#16).toInt - (0xDD00#16).toInt ≤ 1280 ∧ (0xDD00#16).toInt - (0xD800#16).toInt ≤ 1280) := by
  decide +kernel

/-- No floor is held. -/
def cool (f : M → M := id) : State := upWith fun m => (f m).modHeat fun h => { h with coolantFloor := false, baseFloor := false, causes := [] }

theorem witness_PowerIsCappedAndMetered :
    ((M.of (cool)).live = true ∧ (M.of (cool)).floorHeld = false ∧ (M.of up).floorHeld = true) ∧
    ((M.of (cool)).appliedCap < 7200 ∧ (M.of (cool fun m => m.setObj 0x3020 1 7000)).appliedCap < 7200) ∧
    (let m := M.of (cool fun m => ((((m.setObj 0x4020 2 6000).setObj 0x4020 3 6000).setObjFld 0x3030 1 0 0 0).modPower fun p => { p with okPeriods := 1800 }));
     m.floorHeld = false ∧ m.noExcursion = false ∧ m.dev.power.lowering = false ∧ m.dev.power.overPeriods = 0 ∧ 1800 ≤ m.dev.power.okPeriods ∧
       m.appliedCap < 7200) ∧
    ((M.of (cool fun m => m.setObjBit 0x3030 1 0 true)).noExcursion = true) ∧
    ((M.of up).pllRuns 24 = true ∧ (M.of up).pllRuns 30 = true) ∧
    (let m := M.of (upWith fun m => m.setObjFld 0x3010 1 1 0 3);
     m.objBit 0x3010 1 0 = true ∧ m.objBit 0x3010 1 1 = true ∧ m.dev.powered = true) ∧
    (let m := M.of (upWith fun m => m.setObjFld 0x3010 1 1 0 2);
     m.objBit 0x3010 1 1 = true ∧ m.objBit 0x3010 1 0 = false) ∧
    (let m := M.of (upWith fun m => m.setObjFld 0x3010 1 1 0 0);
     m.objBit 0x3010 1 0 = false ∧ m.objBit 0x3010 1 1 = false) ∧
    ((M.of up).dev.power.alertLow = false ∧ (M.of (upWith fun m => m.modPower fun p => { p with alertLow := true })).dev.power.alertLow = true ∧
      (M.of (upWith fun m => m.modPower fun p => { p with alertHold := true })).dev.power.alertHold = true) ∧
    (∀ n ∈ [0, 1, 2], (M.of (upWith fun m => m.setObjFld 0x3212 64 3 2 n)).objFld 0x3212 64 3 2 = n ∧ 63 < clusterCount 18 ∧ isComputePos 18 = true ∧
      (M.of (upWith fun m => m.setObjFld 0x3212 64 3 2 n)).objFld 0x3212 64 1 0 ≠ 3) ∧
    (let one := (256 * 18 + 63) * 16 + 8;
     Tab.get (M.of up).dev.buckets 0 (bucketKey 6 one) + 1 < (M.of up).objFld 0x7030 6 31 0 ∧
       (let m := M.of (upWith fun m => m.modBuckets fun b => Tab.put b (bucketKey 6 one) (m.objFld 0x7030 6 31 0));
        m.objFld 0x7030 6 31 0 ≤ Tab.get m.dev.buckets 0 (bucketKey 6 one) + 1 ∧ m.objFld 0x3212 64 3 2 = 0)) ∧
    (Tab.get (M.of up).dev.buckets 0 (bucketKey 5 (256 * 18 + 63)) + 1 < (M.of up).objFld 0x7030 5 31 0 ∧
      (let m := M.of (upWith fun m => m.modBuckets fun b => Tab.put b (bucketKey 5 (256 * 18 + 63)) (m.objFld 0x7030 5 31 0));
       m.objFld 0x7030 5 31 0 ≤ Tab.get m.dev.buckets 0 (bucketKey 5 (256 * 18 + 63)) + 1)) ∧
    [(1 : W64), 2].length ≤ 16 := by decide +kernel

/-! ## The owner, fences, domains -/

/-- The party of the statements owns the Ledger. -/
theorem serves_of {s : State} (h : ((M.of s).hears (.port 5) && !(M.of s).responder && (M.of s).dev.led.owner == some (.port 5)) = true) :
    (M.of s).Serves (.port 5) := by
  simp only [Bool.and_eq_true, Bool.not_eq_true', beq_iff_eq] at h
  exact ⟨h.1.1, h.1.2, h.2⟩

def served (s : State) : Bool := (M.of s).hears (.port 5) && !(M.of s).responder && (M.of s).dev.led.owner == some (.port 5)

theorem witness_OwnerCommandsAreApplied :
    (let m := M.of (upWith fun m => m.modLed fun d => { d with owner := none });
     m.hears .mailbox = true ∧ m.responder = false ∧ m.dev.led.owner = none) ∧
    ((M.of up).hears .mailbox = true ∧ (M.of up).dev.led.owner = some (.port 5) ∧ Party.port 5 ≠ .mailbox) ∧
    (served up = true ∧ (M.of up).objBit 0x1020 2 0 = false) ∧
    (served (upWith fun m => m.setObjBit 0x1020 2 0 true) = true ∧ (M.of (upWith fun m => m.setObjBit 0x1020 2 0 true)).objBit 0x1020 2 0 = true) ∧
    ((M.of up).coreAbsent 23 = false ∧ ((M.of up).core 23).waiters = [] ∧ ((M.of up).core 23).flags.toNat.testBit 1023 = false) ∧
    ((M.of up).ledgerRuns = true ∧ (M.of up).live = true ∧ (M.of up).dev.powered = true) ∧
    (let m := M.of (upWith fun m => (m.setObjBit 0x1020 2 0 true).modLed fun d => { d with saving := some [] });
     m.objBit 0x1020 2 0 = true ∧ m.dev.led.saving = some []) ∧
    (let m := M.of (upWith fun m => (m.setObjBit 0x1020 2 0 true).modLed fun d => { d with erasing := true });
     m.dev.led.saving = none ∧ m.dev.led.erasing = true) ∧
    (M.of (upWith fun m => m.modMgmt fun g => { g with applyDue := true })).dev.mgmt.applyDue = true ∧
    (let m := M.of (upWith fun m => m.modMgmt fun g => { g with responder := true });
     m.hears .mailbox = true ∧ m.responder = true) := by decide +kernel

/-- Core 23 is fenced for a cause. -/
def fencedFor (cause : Nat) (m : M) : M := (m.setObj 0x7001 24 (cause * 256 + 1)).setObjFld 0x3100 24 7 4 2

/-- A domain in a state. -/
def domIn (d st : Nat) (f : M → M := id) : State := upWith fun m => (f m).setObjFld 0x3100 (d + 1) 7 4 st

/-- The first core is fused off. -/
def fusedState : State := { up with fuse := { up.fuse with grade := 0x02FFFFFE } }

theorem witness_FencesAndDomainsSwitch :
    (served fusedState = true ∧ (M.of fusedState).fusedOff 0 = true) ∧
    ((M.of up).fusedOff 23 = false ∧ (M.of (upWith (fencedFor 1))).fenced 23 = true ∧ (M.of up).fenced 23 = false) ∧
    (let m := M.of (upWith fun m => m.modCore 23 fun c => { c with ready := some (slotOf 6 []) });
     m.fenced 23 = false ∧ (m.core 23).disabling = none ∧ (m.core 23).ready ≠ none) ∧
    (let m := M.of up;
     (m.core 23).disabling = none ∧ (m.core 23).run = none ∧ (m.core 23).ready = none ∧ (m.core 23).active = 0 ∧
       (∀ x, x < 16 → (m.ctx 23 x).parkedRun = none) ∧ m.domState 23 ≠ 4) ∧
    (∀ c ∈ [1, 2, 3, 4], (M.of (upWith (fencedFor c))).objFld 0x7001 24 15 8 = c ∧ (M.of (upWith (fencedFor c))).fenced 23 = true ∧
      (M.of (upWith (fencedFor c))).domState 23 = 2 ∧ 23 ∉ (M.of (upWith (fencedFor c))).dev.faults.trunkBad ∧ served (upWith (fencedFor c)) = true) ∧
    (∀ d ∈ [0, 23, 24, 29, 30, 33, 34, 35, 36, 37], ∀ st ∈ [0, 1, 2, 3, 4], (M.of (domIn d st)).domState d = st ∧
      (M.of (domIn d st)).live = true ∧ Tab.find? (M.of (domIn d st)).dev.power.heldReq d = none ∧
      (d ≠ 0 ∨ ((M.of (domIn d st)).fenced d = false ∧ ((M.of (domIn d st)).core d).run = none ∧ ((M.of (domIn d st)).core d).ready = none))) ∧
    (∀ d ∈ [0, 29, 33, 36, 37], ∀ st ∈ [0, 1, 2, 3, 4], served (domIn d st) = true) ∧
    (∀ d ∈ [34, 35], served (domIn d 0) = true) ∧
    ((M.of (domIn 23 2 (fencedFor 1))).fenced 23 = true ∧ served (domIn 23 2 (fencedFor 1)) = true) ∧
    (let m := M.of (domIn 23 1 fun m => m.modCore 23 fun c => { c with run := some (slotOf 6 []) });
     m.domState 23 = 1 ∧ (m.core 23).run ≠ none) := by decide +kernel

/-! ## Clocks -/

/-- Judgement runs of clocks. -/
def judged (l : List (Nat × Nat)) (f : M → M := id) : State := upWith fun m => (f m).modClocks fun _ => { runs := l }

theorem witness_ClocksAreJudged :
    ((M.of up).dev.powered = true ∧ (M.of up).dev.oscLost = false ∧
      (M.of (upWith fun m => { m with dev := { m.dev with oscLost := true } })).dev.oscLost = true) ∧
    ((M.of up).watchRuns = true ∧ (M.of up).objBit 0x2001 1 0 = true ∧ (M.of up).objBit 0x2001 1 1 = true ∧ (M.of up).objBit 0x2001 1 4 = true ∧
      (∀ n, n < 37 → 1 ≤ n → (M.of up).pllSrc n ≠ 1) ∧ (M.of up).dev.tripped = false ∧ (M.of up).dev.host.held = []) ∧
    ((M.of (upWith fun m => (List.range 37).foldl (fun (m : M) k => m.setObj 0x2010 k 0x22) m)).objBit 0x2001 1 0 = true ∧
      ∀ n, n < 37 → 1 ≤ n → (M.of (upWith fun m => (List.range 37).foldl (fun (m : M) k => m.setObj 0x2010 k 0x12) m)).pllSrc n = 1) ∧
    (let m := M.of (upWith fun m => ((List.range 32).foldl (fun (m : M) k => m.setObj 0x2010 k 0x412) m).setObj 0x2010 36 0x22);
     m.objBit 0x2001 1 4 = true ∧ m.pllSrc 36 = 2 ∧ m.pllSrc 31 = 1 ∧ m.pllState 31 = 2 ∧ m.objBit 0x2010 31 10 = true) ∧
    (let m := M.of (judged [(1, 2)]);
     Tab.get m.dev.clocks.runs 0 1 < 3) ∧
    (let m := M.of (judged [(1, 3)] fun m => (m.setObjBit 0x2001 1 3 false).setObj 0x2010 36 0);
     Tab.get m.dev.clocks.runs 0 1 = 3 ∧ m.objBit 0x2001 1 3 = false ∧ m.pllState 36 = 0) ∧
    (let m := M.of (judged [(0, 2 ^ 16 + 1)]);
     Tab.get m.dev.clocks.runs 0 0 = 2 ^ 16 + 1 ∧ m.objBit 0x2001 1 1 = true ∧ m.objBit 0x2001 1 2 = true ∧ ∀ n, n < 37 → 1 ≤ n → m.pllSrc n ≠ 1) ∧
    (Tab.get (M.of (judged [(0, 2)])).dev.clocks.runs 0 0 < 3 ∧ (M.of (judged [] fun m => m.setObjBit 0x2001 1 1 false)).objBit 0x2001 1 1 = false) ∧
    (∀ e ∈ [(7, 1), (7, 4), (2 ^ 16 - 1, 2), (2 ^ 16 + 2, 2), (0, 0)], let m := M.of (judged [(25, e.1)] fun m => m.setObj 0x2010 24 e.2);
     Tab.get m.dev.clocks.runs 0 25 = e.1 ∧ m.pllState 24 = e.2) ∧
    (served up = true ∧ (M.of up).obj 0x2010 31 = 2 ∧ (M.of up).pllSrc 31 = 0 ∧ (M.of up).objBit 0x2001 1 2 = true ∧
      (M.of (upWith fun m => m.setObjBit 0x2001 1 2 false)).objBit 0x2001 1 2 = false) := by decide +kernel

/-! ## Resets, bring-up, tests -/

/-- A reset is under way. -/
def resetting (r : ResetReq) (f : M → M := id) : State := upWith fun m => { f m with dev := { (f m).dev with reset := some r } }

/-- STAGE at a value. -/
def staged (n : Nat) : State := upWith fun m => m.setObj 0x1010 1 n

/-- A bond test pass runs; every spare of core 23 is used up where `full` says so. -/
def testing (full : Bool) : State := upWith fun m => (m.setObjBit 0x7060 3 0 true).modFaults fun f =>
  { f with spares := if full then (List.range 6).map fun seg => (spareKey 23 seg (segCrossings 23 seg - 1), segSpares seg) else [] }

theorem witness_ResetsBringUpAndTests :
    (served up = true ∧ (M.of up).dev.reset = none ∧ (M.of up).fusedOff 23 = false ∧ (M.of fusedState).fusedOff 0 = true) ∧
    (served (resetting ⟨1, 0, false, false, false⟩) = true ∧ (M.of (resetting ⟨1, 0, false, false, false⟩)).dev.reset ≠ none) ∧
    (∀ l ∈ [1, 2, 3, 4], (M.of (resetting ⟨l, 0, false, false, false⟩)).live = true) ∧
    (let r : ResetReq := ⟨2, 6, true, true, false⟩;
     r.spine = true ∧ (∀ i ∈ (M.of (resetting r)).resetCores r, ((M.of (resetting r)).core i).run = none ∧ ((M.of (resetting r)).core i).ready = none)) ∧
    (let r : ResetReq := ⟨1, 23, false, true, false⟩;
     let m := M.of (resetting r fun m => m.modCore 23 fun c => { c with run := some (slotOf 6 []) });
     ∃ i ∈ m.resetCores r, (m.core i).run ≠ none) ∧
    (let r : ResetReq := ⟨1, 23, false, true, false⟩;
     (M.of (resetting r)).fusedOff 23 = false ∧ ((M.of (resetting r)).core 23).run = none ∧ ((M.of (resetting r)).core 23).ready = none) ∧
    (let r : ResetReq := ⟨4, 0, false, true, true⟩;
     (resetting r).mem.wf = true ∧ ∀ i ∈ (M.of (resetting r)).resetCores r, ((M.of (resetting r)).core i).run = none ∧ ((M.of (resetting r)).core i).ready = none) ∧
    (let s := upWith fun m => { m with dev := { m.dev with powered := false } };
     s.mem.wf = true ∧ (M.of s).dev.powered = false) ∧
    (∀ n ∈ [0, 1, 2, 3], (M.of (staged n)).obj 0x1010 1 = n) ∧
    ((M.of (staged 0)).srcStable 1 = true ∧ (M.of (staged 0)).objBit 0x2001 1 4 = true ∧ ((M.of (staged 1)).verifyImages 0).1 = true ∧
      (M.of (staged 3)).stage3Ready = true ∧ (staged 3).mem.wf = true ∧ (M.of (upWith fun m => m.setObj 0x2010 1 1)).stage3Ready = false) ∧
    ((M.of up).pllState 36 = 2 ∧ (M.of up).dev.faults.mcDown = false ∧ (M.of up).dev.sec.mc.pending = false ∧ (M.of up).dev.sec.ltc.pending = false) ∧
    (∀ a ∈ [1, 2], let s := upWith fun m => (m.setObjFld 0x7050 3 1 0 a).modFaults fun f => { f with mcDown := true, mcRestarted := true };
     (M.of s).dev.faults.mcDown = true ∧ (M.of s).dev.faults.mcRestarted = true ∧ (M.of s).objFld 0x7050 3 1 0 = a ∧ s.mem.wf = true) ∧
    ((M.of up).objBit 0x7060 3 0 = false ∧ (M.of up).ready = true ∧ (∀ i, i < 24 → ∀ seg, seg < 6 → (M.of up).sparesLeft i seg ≠ 0) ∧
      (M.of (testing false)).objBit 0x7060 3 0 = true ∧ served (testing false) = true) ∧
    (∀ seg, seg < 6 → segCrossings 23 seg - 1 < segCrossings 23 seg ∧ 511 < segData seg ∧
      (M.of (testing false)).sparesUsed 23 seg (segCrossings 23 seg - 1) < segSpares seg ∧
      (M.of (testing true)).sparesUsed 23 seg (segCrossings 23 seg - 1) = segSpares seg) ∧
    (23 ∉ (M.of (testing true)).dev.portClosed ∧ (M.of (testing true)).fenced 23 = false ∧ (M.of (testing true)).fusedOff 23 = false ∧
      (M.of (testing true)).dev.faults.groupsOut = [] ∧ (M.of (testing true)).live = true) := by decide +kernel

theorem witness_StageOneVerifies : (M.of (staged 1)).verifyImages 0 = (true, M.of (staged 1)) := by
  have h : ((M.of (staged 1)).verifyImages 0).1 = true ∧ ((M.of (staged 1)).verifyImages 0).2.dev = (M.of (staged 1)).dev ∧
      ((M.of (staged 1)).verifyImages 0).2.ops = [] ∧ ((M.of (staged 1)).verifyImages 0).2.base = (staged 1).mem ∧
      ((M.of (staged 1)).verifyImages 0).2.fuse = (staged 1).fuse := by decide +kernel
  revert h
  generalize (M.of (staged 1)).verifyImages 0 = q
  obtain ⟨a, ⟨f, b, o, d⟩⟩ := q
  rintro ⟨rfl, rfl, rfl, rfl, rfl⟩
  rfl

/-! ## Reports and updates -/

/-- The update session in a state, for a processor; its other slot holds an image. -/
def session (st p : Nat) (pending : Bool := false) (f : Security → Security := id) : State := upWith fun m =>
  (((m.setObjFld 0x9020 2 3 0 st).setObjFld 0x9020 2 9 8 p).modProc p fun q => { q with other := some q.active, pending }).modSec f

/-- A package header in memory at 0x4000: layout 1, a key and an SVN. -/
def package (key svn : Nat) (s : State) : State :=
  { s with mem := s.mem.applyAll [.put 0x4000 1, .put 0x4003 (BitVec.ofNat 8 key), .put 0x4008 (BitVec.ofNat 8 svn)]
           dev := ((M.of s).setObj 0x9020 3 0x4000).dev }

theorem witness_ReportsAndUpdatesRun :
    (served up = true ∧ (M.of up).domState 36 = 0 ∧ (M.of up).objBit 0x9010 3 0 = false ∧
      (M.of (upWith fun m => m.setObjBit 0x9010 3 0 true)).objBit 0x9010 3 0 = true) ∧
    ((M.of up).sessState = 0 ∧ (M.of up).anyPending = false ∧ (M.of (session 4 3 true)).anyPending = true) ∧
    (∀ st ∈ [1, 2, 3, 4, 5], ∀ p ∈ [1, 2, 3], (M.of (session st p)).sessState = st ∧ (M.of (session st p)).sessProc = p ∧
      ((M.of (session st p)).proc p).other.isSome = true ∧ (st ≠ 4 ∨ served (session st p) = true)) ∧
    (((M.of (session 4 2 true)).proc 2).pending = true ∧ (M.of (session 4 2 true)).pendingProc = some 2) ∧
    (let s := { package 0 0 (session 1 1) with mem := ((package 0 0 (session 1 1)).mem.applyAll [.mark 0x4000 true]) };
     (M.of s).pkgPoisoned = true ∧ (M.of s).sessState = 1) ∧
    (let s := package 3 0 (session 1 1 false fun q => { q with revoked := 8 });
     (M.of s).pkgPoisoned = false ∧ (M.of s).pkgNum 0 2 = 1 ∧ (M.of s).pkgNum 3 1 = 3 ∧ (M.of s).dev.sec.revoked.testBit 3 = true) ∧
    (let s := package 0 1 (session 1 1 false fun q => { q with mc := { q.mc with floor := 2 } });
     (M.of s).pkgPoisoned = false ∧ (M.of s).pkgNum 8 1 < ((M.of s).proc 1).floor ∧ (M.of s).dev.sec.revoked.testBit ((M.of s).pkgNum 3 1) = false) ∧
    ((M.of (upWith fun m => m.setObj 0x9020 6 (0x3000000 - 64))).obj 0x9020 6 + 64 ≤ 0x3000000) ∧
    ((M.of up).dev.sec.forming = none ∧ (M.of (upWith fun m => m.modSec fun k => { k with forming := some [1] })).dev.sec.forming = some [1]) ∧
    ((M.of (session 2 3 false fun q => { q with applying := some (.inl 9) })).dev.sec.applying = some (.inl 9) ∧
      (M.of (session 2 3 false fun q => { q with applying := some (.inl 9) })).sessState = 2 ∧
      ((M.of (session 2 3 false fun q => { q with applying := some (.inr q.twp.active) })).dev.sec.applying.map Sum.isRight) = some true) ∧
    ((M.of up).watchRuns = true ∧ (M.of up).pendingProc = none ∧ (M.of (session 4 1 true)).pendingProc = some 1 ∧
      (M.of (session 4 1 true)).dev.faults.mcDown = false) := by decide +kernel

/-! ## Ill-formed commands -/

theorem test_wf_register_offset : Instr.wf (.registerWrite 4 true 0 false) = false ∧ Instr.wf (.registerWrite (2 ^ 26) false 0 false) = false ∧
    Instr.wf (.registerWrite 8 true 0 false) = true := by decide

theorem test_wf_units_and_lines : Instr.wf (.bankAccess 32 2 none false []) = false ∧ Instr.wf (.bazaarCoreRead 0 (bazBase + 32) 0) = false ∧
    Instr.wf (.bankAccess 64 2 none false []) = true := by decide

theorem test_wf_flit : Instr.wf (.payload 0 { flitOf 1 0 with slots := [] }) = false ∧ Instr.wf (.idle 0 { flitOf 0 (2 ^ 16) with kind := 16 }) = false ∧
    Instr.wf (.nak 0 { flitOf 2 0 with fmt := 16 }) = false ∧ Instr.wf (.retrainReq 0 (flitOf 3 5)) = true := by decide

theorem test_wf_message : Instr.wf (.read 0 { msgOf 1 0 with dest := 2 ^ 16 }) = false ∧ Instr.wf (.write 0 { msgOf 3 (2 ^ 48) with tag := 0 }) = false ∧
    Instr.wf (.swap 0 { msgOf 5 0 with atom := 16 }) = false ∧ Instr.wf (.flagSet 0 { msgOf 8 0 with tag := 4096 }) = false ∧
    Instr.wf (.collData 0 { msgOf 16 0 with data := [(List.replicate 65 0, false)] }) = false ∧ Instr.wf (.heartbeat 0 (msgOf 11 0)) = true := by decide

theorem test_wf_host : Instr.wf (.hostBar2Read 0 0) = false ∧ Instr.wf (.hostBar2Write 0 [] false) = false ∧
    Instr.wf (.hostAtomic 4 0 true 0 0) = false ∧ Instr.wf (.hostAtomic 4 0 false 0 0) = true := by decide

theorem test_wf_lists : Instr.wf (.tollIntegrate [1] 0) = false ∧ Instr.wf (.trayReport 0 0 (List.replicate 256 0)) = false ∧
    Instr.wf (.lapFrameReceive 0 0 true false true (List.replicate 1501 0) false) = false := by decide +kernel

end Sys2Proof.Tests
end

section
/-! Number formats (R33, R36, R43): what the decoders and the rounding of `Machine/Num.lean` give, said once per
function, and the obligations on the small float patterns, the power-of-two scales and the integer formats. -/

namespace Sys2Proof.Machine

/-! ## Floating patterns -/

/-- A pattern up to the largest finite code, with an exponent field other than zero, is a normal number. -/
theorem FloatPar.decode_normal (p : FloatPar) (code : Nat) (hfinite : code % 2 ^ (p.e + p.m) ≤ p.maxCode)
    (hnormal : code / 2 ^ p.m % 2 ^ p.e ≠ 0) :
    p.decode code = .fin (code / 2 ^ (p.e + p.m) % 2 == 1)
      (Frac.shift (Frac.ofNat (code % 2 ^ p.m + 2 ^ p.m)) (((code / 2 ^ p.m % 2 ^ p.e : Nat) : Int) - p.bias - p.m)) := by
  simp only [FloatPar.decode, Nat.not_lt.mpr hfinite, hnormal, if_false]

theorem FloatPar.decode_finite (p : FloatPar) (code : Nat) (hfinite : code % 2 ^ (p.e + p.m) ≤ p.maxCode) :
    ∃ n q, p.decode code = .fin n q := by
  simp only [FloatPar.decode, Nat.not_lt.mpr hfinite, if_false]
  split <;> exact ⟨_, _, rfl⟩

theorem FloatPar.decode_above (p : FloatPar) (code : Nat) (hinf : p.hasInf = false)
    (habove : p.maxCode < code % 2 ^ (p.e + p.m)) :
    p.decode code = .nan (code / 2 ^ (p.e + p.m) % 2 == 1) none := by
  simp [FloatPar.decode, habove, hinf]

theorem FloatPar.decode_isNaN_iff (p : FloatPar) (code : Nat) (hinf : p.hasInf = false) :
    (p.decode code).isNaN = true ↔ p.maxCode < code % 2 ^ (p.e + p.m) := by
  rcases Nat.lt_or_ge p.maxCode (code % 2 ^ (p.e + p.m)) with habove | hfinite
  · simp [FloatPar.decode_above p code hinf habove, Val.isNaN, habove]
  · obtain ⟨n, q, hdecode⟩ := FloatPar.decode_finite p code hfinite
    simp [hdecode, Val.isNaN, hfinite]

theorem FloatPar.decode_isInf_of_not_hasInf (p : FloatPar) (code : Nat) (hinf : p.hasInf = false) :
    (p.decode code).isInf = false := by
  rcases Nat.lt_or_ge p.maxCode (code % 2 ^ (p.e + p.m)) with habove | hfinite
  · rw [FloatPar.decode_above p code hinf habove]; rfl
  · obtain ⟨n, q, hdecode⟩ := FloatPar.decode_finite p code hfinite
    rw [hdecode]; rfl

theorem ElemFmt.decode_of_float {f : ElemFmt} {p : FloatPar} (hf : f.float? = some p) (e8m0 : Bool) (code : Nat) :
    f.decode e8m0 code = p.decode code := by
  simp only [ElemFmt.decode, hf]

/-- In a format whose largest finite code is its largest pattern, every pattern is a finite number. -/
theorem ElemFmt.decode_finite_of_full {f : ElemFmt} {p : FloatPar} (hf : f.float? = some p)
    (hfull : p.maxCode + 1 = 2 ^ (p.e + p.m)) (e8m0 : Bool) (code : Nat) : ∃ n q, f.decode e8m0 code = .fin n q := by
  rw [ElemFmt.decode_of_float hf]
  have hlow : code % 2 ^ (p.e + p.m) < 2 ^ (p.e + p.m) := Nat.mod_lt _ (Nat.two_pow_pos _)
  exact FloatPar.decode_finite p code (by omega)

/-- A pattern of known exponent field, up to the largest finite code, read with the fields of its format: `k` is the
exponent field with the bias and the mantissa's width taken off. -/
theorem ElemFmt.decode_normal {f : ElemFmt} {p : FloatPar} (hf : f.float? = some p) (e8m0 : Bool) {code ex : Nat} {k : Int}
    (hfinite : code % 2 ^ (p.e + p.m) ≤ p.maxCode) (hex : code / 2 ^ p.m % 2 ^ p.e = ex) (hnormal : ex ≠ 0)
    (hk : (ex : Int) - p.bias - p.m = k) :
    f.decode e8m0 code = .fin (code / 2 ^ (p.e + p.m) % 2 == 1)
      (Frac.shift (Frac.ofNat (2 ^ p.m + code % 2 ^ p.m)) k) := by
  subst hex hk
  rw [ElemFmt.decode_of_float hf, FloatPar.decode_normal p code hfinite hnormal, Nat.add_comm (2 ^ p.m)]

theorem e4m3_isNaN_iff (code : Nat) : (ElemFmt.e4m3.decode false code).isNaN = true ↔ code % 128 = 0x7F := by
  rw [ElemFmt.decode_of_float (f := .e4m3) rfl, FloatPar.decode_isNaN_iff _ _ rfl]
  change 126 < code % 128 ↔ code % 128 = 127
  omega

theorem e4m3_isInf (code : Nat) : (ElemFmt.e4m3.decode false code).isInf = false := by
  rw [ElemFmt.decode_of_float (f := .e4m3) rfl]
  exact FloatPar.decode_isInf_of_not_hasInf _ _ rfl

theorem e4m3_decode_top (code : Nat) (hexp : code / 8 % 16 = 15) (hman : code % 8 < 7) :
    ElemFmt.e4m3.decode false code = .fin (code / 128 % 2 == 1) (Frac.shift (Frac.ofNat (8 + code % 8)) 5) := by
  have hfinite : code % 128 ≤ 126 := by omega
  exact ElemFmt.decode_normal (f := .e4m3) rfl false hfinite hexp (by decide) (by decide)

theorem e3m2_decode_top (code : Nat) (hexp : code / 4 % 8 = 7) :
    ElemFmt.e3m2.decode false code = .fin (code / 32 % 2 == 1) (Frac.shift (Frac.ofNat (4 + code % 4)) 2) := by
  have hfinite : code % 32 ≤ 31 := by omega
  exact ElemFmt.decode_normal (f := .e3m2) rfl false hfinite hexp (by decide) (by decide)

theorem e2m3_decode_top (code : Nat) (hexp : code / 8 % 4 = 3) :
    ElemFmt.e2m3.decode false code = .fin (code / 32 % 2 == 1) (Frac.shift (Frac.ofNat (8 + code % 8)) (-1)) := by
  have hfinite : code % 32 ≤ 31 := by omega
  exact ElemFmt.decode_normal (f := .e2m3) rfl false hfinite hexp (by decide) (by decide)

theorem e2m1_decode_top (code : Nat) (hexp : code / 2 % 4 = 3) :
    ElemFmt.e2m1.decode false code = .fin (code / 8 % 2 == 1) (Frac.shift (Frac.ofNat (2 + code % 2)) 1) := by
  have hfinite : code % 8 ≤ 7 := by omega
  exact ElemFmt.decode_normal (f := .e2m1) rfl false hfinite hexp (by decide) (by decide)

theorem six_and_four_bit_floats_finite (code : Nat) :
    ∀ f ∈ [ElemFmt.e3m2, .e2m3, .e2m1], ∃ n q, f.decode false code = .fin n q := by
  intro f hf
  simp only [List.mem_cons, List.not_mem_nil, or_false] at hf
  rcases hf with rfl | rfl | rfl
  · exact ElemFmt.decode_finite_of_full (f := .e3m2) rfl rfl false code
  · exact ElemFmt.decode_finite_of_full (f := .e2m3) rfl rfl false code
  · exact ElemFmt.decode_finite_of_full (f := .e2m1) rfl rfl false code

/-- Settles O25: E4M3 has no infinity, so its only pattern beyond the largest finite code is NaN; the three smaller
formats have no pattern beyond it. -/
theorem smallFloatPatterns : Obligations.SmallFloatPatterns := fun code =>
  ⟨e4m3_isNaN_iff code, e4m3_isInf code, e4m3_decode_top code, six_and_four_bit_floats_finite code,
    e3m2_decode_top code, e2m3_decode_top code, e2m1_decode_top code⟩

/-! ## Power-of-two scales -/

theorem Frac.pow2_natCast (n : Nat) : Frac.pow2 n = ⟨((2 ^ n : Nat) : Int), 1⟩ := by
  rw [Frac.pow2, if_neg (by omega), Int.toNat_natCast]

theorem Frac.pow2_neg_natCast {n : Nat} (hn : 0 < n) : Frac.pow2 (-n) = ⟨1, 2 ^ n⟩ := by
  rw [Frac.pow2, if_pos (by omega), Int.neg_neg, Int.toNat_natCast]

theorem e8m0_decode_nan {b : Nat} (hb : b % 256 = 0xFF) : ScaleFmt.e8m0.decode b = .nan false :=
  if_pos hb

theorem e8m0_decode_pos {b : Nat} (hb : b % 256 ≠ 0xFF) :
    ScaleFmt.e8m0.decode b = .pos (Frac.pow2 ((b % 256 : Nat) - 127)) :=
  if_neg hb

theorem e8m0_decode_below_one {b : Nat} (hb : b % 256 < 127) :
    ScaleFmt.e8m0.decode b = .pos ⟨1, 2 ^ (127 - b % 256)⟩ := by
  have hexp : ((b % 256 : Nat) : Int) - 127 = -((127 - b % 256 : Nat) : Int) := by omega
  rw [e8m0_decode_pos (by omega), hexp, Frac.pow2_neg_natCast (by omega)]

theorem e8m0_decode_from_one {b : Nat} (hone : 127 ≤ b % 256) (hb : b % 256 ≤ 0xFE) :
    ScaleFmt.e8m0.decode b = .pos ⟨((2 ^ (b % 256 - 127) : Nat) : Int), 1⟩ := by
  have hexp : ((b % 256 : Nat) : Int) - 127 = ((b % 256 - 127 : Nat) : Int) := by omega
  rw [e8m0_decode_pos (by omega), hexp, Frac.pow2_natCast]

theorem e8m0_decode_ne_zero (b : Nat) : ScaleFmt.e8m0.decode b ≠ .zero := by
  by_cases hb : b % 256 = 0xFF
  · rw [e8m0_decode_nan hb]; exact ScaleVal.noConfusion
  · rw [e8m0_decode_pos hb]; exact ScaleVal.noConfusion

/-- Settles O24, by the sign of the exponent E - 127. -/
theorem powerOfTwoScales : Obligations.PowerOfTwoScales := fun b =>
  ⟨e8m0_decode_below_one, e8m0_decode_from_one, e8m0_decode_nan, e8m0_decode_ne_zero b⟩

/-! ## Integer formats -/

theorem signedOf_of_lt {w n : Nat} (hn : n < 2 ^ (w - 1)) : signedOf w n = n := by
  have hlow : n % 2 ^ w = n := Nat.mod_eq_of_lt (hn.trans_le (Nat.pow_le_pow_right Nat.two_pos (Nat.sub_le w 1)))
  simp only [signedOf, hlow, hn, if_true]

theorem signedOf_two_pow_sub {w n : Nat} (hw : 0 < w) (hpos : 0 < n) (hn : n < 2 ^ (w - 1)) :
    signedOf w (2 ^ w - n) = -(n : Int) := by
  have hpow : 2 ^ (w - 1) * 2 = 2 ^ w := Nat.two_pow_pred_mul_two hw
  have hlow : (2 ^ w - n) % 2 ^ w = 2 ^ w - n := Nat.mod_eq_of_lt (by omega)
  have hhigh : ¬ 2 ^ w - n < 2 ^ (w - 1) := by omega
  simp only [signedOf, hlow, hhigh, if_false]
  omega

/-- The code of a sign and a magnitude below half the range reads back as that sign and magnitude. -/
theorem signedOf_intCode {w n : Nat} (hw : 0 < w) (neg : Bool) (hn : n < 2 ^ (w - 1)) :
    signedOf w (intCode w neg n) = if neg then -(n : Int) else n := by
  cases neg with
  | false => exact signedOf_of_lt hn
  | true =>
    rcases n.eq_zero_or_pos with rfl | hpos
    · exact signedOf_of_lt hn
    · have hcode : intCode w true n = 2 ^ w - n := if_pos (by simpa using hpos.ne')
      rw [hcode]
      exact signedOf_two_pow_sub hw hpos hn

/-- The magnitude at which an integer format saturates: 127 in INT8, 7 in INT4 (R36). -/
def intTop (f : ElemFmt) : Nat := 2 ^ (f.bits - 1) - 1

/-- The integer that a magnitude rounds to before it saturates; INT8 under E8M0 counts in 2⁻⁶ (R35). -/
def intRounded (f : ElemFmt) (e8m0 : Bool) (c : RCtl) (r : Nat) (neg : Bool) (mag : Frac) : Nat :=
  roundInt c.mode neg r (Frac.shift mag (if f == .int8 && e8m0 then 6 else 0))

section
variable {f : ElemFmt} (hf : f = .int8 ∨ f = .int4) (e8m0 : Bool) (c : RCtl) (floorClip : Bool) (r : Nat)
include hf

theorem writeElem_int_fin (neg : Bool) (mag : Frac) :
    writeElem f e8m0 c floorClip r (.fin neg mag) =
      if floorClip && Frac.lt (f.top e8m0) mag then ⟨intCode f.bits neg (intTop f), true, false⟩
      else if intTop f < intRounded f e8m0 c r neg mag then ⟨intCode f.bits neg (intTop f), true, !c.sat⟩
      else ⟨intCode f.bits neg (intRounded f e8m0 c r neg mag), false, false⟩ := by
  rcases hf with rfl | rfl <;> rfl

theorem writeElem_int_inf (neg : Bool) :
    writeElem f e8m0 c floorClip r (.inf neg) = ⟨intCode f.bits neg (intTop f), false, !c.sat⟩ := by
  rcases hf with rfl | rfl <;> rfl

theorem writeElem_int_nan (neg : Bool) (payload : Option Nat) :
    writeElem f e8m0 c floorClip r (.nan neg payload) = ⟨0, false, true⟩ := by
  rcases hf with rfl | rfl <;> rfl

theorem signedOf_intCode_of_le_intTop (neg : Bool) {n : Nat} (hn : n ≤ intTop f) :
    signedOf f.bits (intCode f.bits neg n) = if neg then -(n : Int) else n := by
  have hbits : 0 < f.bits := by rcases hf with rfl | rfl <;> decide
  exact signedOf_intCode hbits neg (hn.trans_lt (Nat.sub_one_lt (Nat.two_pow_pos _).ne'))

/-- Every code an integer format is given is that of a sign and a magnitude up to the top. -/
theorem writeElem_int_code (q : Val) :
    ∃ neg n, n ≤ intTop f ∧ (writeElem f e8m0 c floorClip r q).code = intCode f.bits neg n := by
  cases q with
  | fin neg mag =>
    rw [writeElem_int_fin hf]
    split_ifs with hclip hover
    · exact ⟨neg, _, le_rfl, rfl⟩
    · exact ⟨neg, _, le_rfl, rfl⟩
    · exact ⟨neg, _, Nat.not_lt.mp hover, rfl⟩
  | inf neg => exact ⟨neg, _, le_rfl, by rw [writeElem_int_inf hf]⟩
  | nan neg payload => exact ⟨false, 0, Nat.zero_le _, by rw [writeElem_int_nan hf]; rfl⟩

theorem signedOf_writeElem_int_bounds (q : Val) :
    -(intTop f : Int) ≤ signedOf f.bits (writeElem f e8m0 c floorClip r q).code ∧
      signedOf f.bits (writeElem f e8m0 c floorClip r q).code ≤ intTop f := by
  obtain ⟨neg, n, hn, hcode⟩ := writeElem_int_code hf e8m0 c floorClip r q
  rw [hcode, signedOf_intCode_of_le_intTop hf neg hn]
  split <;> omega

theorem signedOf_writeElem_int_of_intTop_lt (neg : Bool) (mag : Frac) (hover : intTop f < intRounded f e8m0 c r neg mag) :
    signedOf f.bits (writeElem f e8m0 c floorClip r (.fin neg mag)).code = if neg then -(intTop f : Int) else intTop f := by
  have hcode : (writeElem f e8m0 c floorClip r (.fin neg mag)).code = intCode f.bits neg (intTop f) := by
    rw [writeElem_int_fin hf, if_pos hover]
    split_ifs <;> rfl
  rw [hcode, signedOf_intCode_of_le_intTop hf neg le_rfl]

end

/-- Settles O23: every code written is that of a sign and a magnitude up to 127 or 7, and beyond it the magnitude is the
top's. -/
theorem integerConversionIsSymmetric : Obligations.IntegerConversionIsSymmetric := by
  refine ⟨fun e8m0 c floorClip r q => ?_, fun e8m0 c r neg mag => ⟨fun hover => ?_, fun hover => ?_⟩⟩
  · obtain ⟨hlow8, hhigh8⟩ := signedOf_writeElem_int_bounds (.inl rfl) e8m0 c floorClip r q
    obtain ⟨hlow4, hhigh4⟩ := signedOf_writeElem_int_bounds (.inr rfl) e8m0 c floorClip r q
    exact ⟨hlow8, hhigh8, hlow4, hhigh4⟩
  · exact signedOf_writeElem_int_of_intTop_lt (.inl rfl) e8m0 c false r neg mag hover
  · exact signedOf_writeElem_int_of_intTop_lt (.inr rfl) e8m0 c false r neg mag hover

end Sys2Proof.Machine
end

section
/-! The Bazaar (05_matrix_arrays.md R110 to R113): what a core read makes of the windows, said once per case of R111 and
R112, what a store at a local address of a device that is no secondary leaves, and the obligation on both. -/

namespace Sys2Proof.Machine

/-! ## What each Bazaar command runs -/

theorem exec_bazaarCoreRead (i : Fin 24) (line : Nat) (set : BitVec 24) (s : State) :
    exec (.bazaarCoreRead i line set) s = s.run fun m =>
      m.when (inBazaar line && m.bazUp && m.fabricRuns && m.coreRuns i) fun m =>
        m.coreRead i (bazLine line) (if set = 0 then 2 ^ i.val else set.toNat) := rfl

theorem exec_bazaarWindowClose (line : Nat) (s : State) :
    exec (.bazaarWindowClose line) s = s.run fun m =>
      m.when (m.live && m.bazUp && m.fabricRuns) fun m => m.windowClose (bazLine line) := rfl

theorem exec_bazaarAccess (a : Nat) (data : Option (List Byte)) (p : Bool) (s : State) :
    exec (.bazaarAccess a data p) s = s.run fun m =>
      m.when (inBazaar a && m.live && m.bazUp && m.fabricRuns) fun m => m.bazaarAccess a data p := rfl

theorem M.when_of {m : M} {c : Bool} {f : M → M} (hc : c = true) : m.when c f = f m := by
  rw [hc, M.when_true]

/-! ## The list of open windows -/

/-- The device with another list of open windows. -/
def M.withWindows (m : M) (ws : List Window) : M := { m with dev := { m.dev with windows := ws } }

@[simp] theorem M.windows_withWindows (m : M) (ws : List Window) : (m.withWindows ws).dev.windows = ws := rfl

@[simp] theorem M.withWindows_withWindows (m : M) (vs ws : List Window) :
    (m.withWindows vs).withWindows ws = m.withWindows ws := rfl

@[simp] theorem M.withWindows_self (m : M) : m.withWindows m.dev.windows = m := rfl

theorem M.windowClose_withWindows {m : M} {ws : List Window} {line : Nat} {w : Window}
    (hfind : ws.find? (fun x => x.line == line) = some w) :
    (m.withWindows ws).windowClose line = (m.withWindows (ws.filter fun x => x.line != line)).deliverLine line w.joined :=
  M.windowClose_eq _ _ _ hfind

section
variable {ws : List Window} {line : Nat} {w : Window} (hnone : ws.find? (fun x => x.line == line) = none) (hline : w.line = line)
include hnone hline

theorem windows_find_append : (ws ++ [w]).find? (fun x => x.line == line) = some w := by
  rw [List.find?_append, hnone]
  simp [hline]

theorem windows_filter_append : (ws ++ [w]).filter (fun x => x.line != line) = ws := by
  rw [List.filter_append, windows_filter_none _ _ hnone]
  simp [hline]

end

/-- A reader that is its whole set is all of it. -/
theorem bitsSet_two_pow_all (i n : Nat) : (bitsSet (2 ^ i) n).all [i].contains = true := by
  simp only [bitsSet, Nat.testBit_two_pow, List.all_eq_true, List.mem_filter, decide_eq_true_eq]
  rintro x ⟨-, rfl⟩
  simp

/-! ## A core read at its bank -/

section
variable {m : M} {i line set : Nat}

section
variable (hnone : m.dev.windows.find? (fun w => w.line == line) = none)
  (hroom : (m.dev.windows.filter fun w => bazBank w.line == bazBank line).length < 16)
include hnone hroom

/-- No window holds the line and its bank has room: a window of the one reader, closed at once where its set is that reader. -/
theorem M.coreRead_of_no_window :
    m.coreRead i line set =
      if (bitsSet set 24).all [i].contains then (m.withWindows (m.dev.windows ++ [⟨line, set, [i]⟩])).windowClose line
      else m.withWindows (m.dev.windows ++ [⟨line, set, [i]⟩]) := by
  unfold M.coreRead
  rw [hnone]
  exact if_neg (Nat.not_le.mpr hroom)

theorem M.coreRead_opens (hothers : (bitsSet set 24).all [i].contains = false) :
    m.coreRead i line set = m.withWindows (m.dev.windows ++ [⟨line, set, [i]⟩]) := by
  rw [M.coreRead_of_no_window hnone hroom, hothers]
  rfl

/-- The window of a reader alone in its set closes as it opens: the windows stand, and the line is delivered. -/
theorem M.coreRead_alone : m.coreRead i line (2 ^ i) = m.deliverLine line [i] := by
  rw [M.coreRead_of_no_window hnone hroom, if_pos (bitsSet_two_pow_all i 24),
    M.windowClose_withWindows (windows_find_append hnone rfl), windows_filter_append hnone rfl, M.withWindows_self]

end

section
variable {w : Window} (hsome : m.dev.windows.find? (fun w => w.line == line) = some w)
include hsome

/-- A window holds the line: the read joins it, and closes it where it was the last of the set. -/
theorem M.coreRead_of_window :
    m.coreRead i line set =
      let joined := m.withWindows (m.dev.windows.map fun x =>
        if x.line = line then { w with joined := addOnce w.joined i } else x)
      if (bitsSet w.set 24).all (addOnce w.joined i).contains then joined.windowClose line else joined := by
  unfold M.coreRead
  rw [hsome]
  rfl

theorem M.coreRead_joins (hmore : (bitsSet w.set 24).all (addOnce w.joined i).contains = false) :
    m.coreRead i line set = m.withWindows (m.dev.windows.map fun x =>
      if x.line = line then { w with joined := addOnce w.joined i } else x) := by
  rw [M.coreRead_of_window hsome, hmore]
  rfl

theorem M.coreRead_completes (hlast : (bitsSet w.set 24).all (addOnce w.joined i).contains = true) :
    m.coreRead i line set =
      (m.withWindows (m.dev.windows.filter fun x => x.line != line)).deliverLine line (addOnce w.joined i) := by
  have hline : ({ w with joined := addOnce w.joined i } : Window).line = line := by simpa using List.find?_some hsome
  rw [M.coreRead_of_window hsome, hlast]
  simp only [if_true]
  rw [M.windowClose_withWindows (windows_find_map _ _ w _ hline hsome), windows_filter_map _ _ _ hline]

end

end

/-- A core read that its bank and its core can serve does what `coreRead` makes of the state. -/
theorem does_bazaarCoreRead {i : Fin 24} {line : Nat} {set : BitVec 24} {s : State} {g : M → M}
    (hbaz : inBazaar line = true) (hup : (M.of s).bazUp = true) (hclk : (M.of s).fabricRuns = true)
    (hcore : (M.of s).coreRuns i = true)
    (heff : (M.of s).coreRead i (line / 256 * 256) (if set = 0 then 2 ^ i.val else set.toNat) = g (M.of s)) :
    Does (.bazaarCoreRead i line set) s g :=
  does_of (exec_bazaarCoreRead i line set s) ((M.when_of (by simp [hbaz, hup, hclk, hcore])).trans heff)

/-! ## A store at a local address of a device that is no secondary -/

/-- A line that no byte of a store lies on is not one of the store's lines. -/
theorem not_mem_linesOf {a n x : Nat} (hn : 0 < n) (hoff : ∀ k, k < n → lineOf (a + k) ≠ lineOf x) : lineOf x ∉ linesOf a n := by
  rw [mem_linesOf a n x hn]
  rintro ⟨hlow, hhigh⟩
  refine hoff (max a (lineOf x) - a) (by omega) ?_
  simp only [lineOf] at *
  omega

section
variable {m : M} (hrole : m.mirrorRole ≠ 2) (src a : Nat) (ds : List (Option Byte × Bool))
include hrole

theorem M.byte_putLocal (x : Nat) :
    (m.putLocal src a ds).byte x =
      if a ≤ x ∧ x < a + ds.length then ((ds.getD (x - a) (none, false)).1).getD (m.byte x) else m.byte x := by
  rw [M.putLocal_eq m src a ds hrole, M.byte_storeMask, (m.delivered_closeWindows a ds.length).byte]

theorem M.marked_putLocal_of_not_mem {x : Nat} (hx : lineOf x ∉ linesOf a ds.length) :
    (m.putLocal src a ds).marked x = m.marked x := by
  rw [M.putLocal_eq m src a ds hrole, M.marked_storeMask, if_neg hx, (m.delivered_closeWindows a ds.length).marked]

theorem M.windows_putLocal :
    (m.putLocal src a ds).dev.windows =
      m.dev.windows.filter fun w => !(a < w.line + 256 && w.line < a + ds.length) := by
  rw [M.putLocal_eq m src a ds hrole, (M.onlyMem_storeMask _ a ds).dev, M.closeWindows_windows]

end

theorem M.byte_putLocal_data {m : M} (hrole : m.mirrorRole ≠ 2) (src a : Nat) (p : Bool) {ds : List Byte} {k : Nat}
    (hk : k < ds.length) : (m.putLocal src a (ds.map fun b => (some b, p))).byte (a + k) = ds.getD k 0 := by
  rw [M.byte_putLocal hrole, if_pos (by simp [hk])]
  simp [hk]

/-- A command that stores bytes, all with one mark, at a local address of a device that is no secondary: they are what is read
there, all other bytes stand, and so do the marks of the other lines; the windows on the bytes are closed; all else stands. -/
theorem ends_putLocal {c : Instr} {s : State} {f : M → M} {src a : Nat} {p : Bool} {ds : List Byte} (e : exec c s = s.run f)
    (hf : f (M.of s) = (M.of s).putLocal src a (ds.map fun b => (some b, p))) (hne : ds ≠ [])
    (hrole : (M.of s).mirrorRole ≠ 2) (hsound : s.sound) :
    Ends c s fun m' =>
      (∀ k, k < ds.length → m'.byte (a + k) = ds.getD k 0) ∧ (M.of s).SameOutside m' a ds.length ∧
      (∀ x, (∀ k, k < ds.length → lineOf (a + k) ≠ lineOf x) → m'.marked x = (M.of s).marked x) ∧
      m'.dev.windows = (M.of s).dev.windows.filter (fun w => !(a < w.line + 256 && w.line < a + ds.length)) ∧
      (M.of s).SameObjs m' [] ∧ (M.of s).SameCores m' [] ∧ (M.of s).SameLqs m' [] := by
  have hwrote : M.Wrote (M.of s) (f (M.of s)) := hf ▸ M.wrote_putLocal _ src a _
  have hlen : (ds.map fun b => (some b, p)).length = ds.length := List.length_map _
  refine ends_mem e hsound hwrote.fuse hwrote.base fun m' hlike hbyte hmark => ⟨fun k hk => ?_, fun x hx => ?_, fun x hx => ?_, ?_,
    LikeViews.sameObjs hlike fun i j hj hi _ => hwrote.obj i j hj hi, LikeViews.sameCores hlike fun i _ => hwrote.core i,
    LikeViews.sameLqs hlike fun n _ => hwrote.lq n⟩
  · rw [hbyte, hf, M.byte_putLocal_data hrole src a p hk]
  · rw [hbyte, hf, M.byte_putLocal hrole, if_neg (by omega)]
  · rw [hmark, hf]
    exact M.marked_putLocal_of_not_mem hrole src a _ (hlen ▸ not_mem_linesOf (List.length_pos_iff.mpr hne) hx)
  · rw [hlike.dev, hf, M.windows_putLocal hrole, hlen]

/-! ## Merging -/

theorem M.bazaarAccess_some (m : M) {a : Nat} (p : Bool) {ds : List Byte} (hend : a + ds.length ≤ bazBase + bazSize) :
    m.bazaarAccess a (some ds) p = m.putLocal m.deviceId a (ds.map fun b => (some b, p)) := by
  rw [M.bazaarAccess, List.take_of_length_le (by omega)]

/-- Settles O44, by the cases of a core read at its bank (no window, alone in its set, the last to join, one of those that
join) and by what a store at a local address leaves. -/
theorem bazaarMergesReads : Obligations.BazaarMergesReads := by
  refine ⟨fun i line set s hbaz hup hclk hcore => ⟨fun hnone hroom => ⟨?opens, ?alone⟩, fun w hsome => ⟨?completes, ?joins⟩⟩,
    fun line w s hlive hup hclk hsome => ?closes, fun a p s hbaz hlive hup hclk => ?access⟩
  case opens =>
    exact fun ⟨_, hothers⟩ => does_bazaarCoreRead hbaz hup hclk hcore (M.coreRead_opens hnone hroom hothers)
  case alone =>
    exact fun hwant => does_bazaarCoreRead hbaz hup hclk hcore ((congrArg _ hwant).trans (M.coreRead_alone hnone hroom))
  case completes =>
    exact fun hlast => does_bazaarCoreRead hbaz hup hclk hcore (M.coreRead_completes hsome hlast)
  case joins =>
    exact fun hmore => does_bazaarCoreRead hbaz hup hclk hcore (M.coreRead_joins hsome hmore)
  case closes =>
    exact does_of (exec_bazaarWindowClose line s)
      ((M.when_of (by simp [hlive, hup, hclk])).trans (M.windowClose_eq _ _ w hsome))
  case access =>
    have hserved : (inBazaar a && (M.of s).live && (M.of s).bazUp && (M.of s).fabricRuns) = true := by
      simp [hbaz, hlive, hup, hclk]
    refine ⟨does_of (exec_bazaarAccess a none p s) (M.when_of hserved), fun ds hne hend hrole hsound => ?_⟩
    exact ends_putLocal (exec_bazaarAccess a (some ds) p s) ((M.when_of hserved).trans (M.bazaarAccess_some _ p hend))
      hne hrole hsound

end Sys2Proof.Machine
end

section
/-! The registers of a core's window (06_manifest_execution.md R119 to R122, R136; 15 R349): a START that is taken and one that
is refused, the clearing of START_ERR, what a host's 64-bit write to a register makes of the state, and the obligations on
them. -/

namespace Sys2Proof.Machine

/-- A command that changes core `i` alone leaves every object, the other cores, the links and the layer quadrants. -/
theorem ends_onlyCore {c : Instr} {s : State} {f : M → M} {r : M} {i : Nat} {P : M → Prop} (e : exec c s = s.run f)
    (hr : f (M.of s) = r) (honly : OnlyCore (M.of s) r i)
    (hP : ∀ m', M.Like m' r → (M.of s).SameObjs m' [] → (M.of s).SameCores m' [i] → (M.of s).SameLinks m' [] →
      (M.of s).SameLqs m' [] → P m') : Ends c s P :=
  ends_to e hr honly.fuse fun m' hlike => hP m' hlike
    (LikeViews.sameObjs hlike fun a b _ _ _ => honly.objs a b) (LikeViews.sameCores hlike honly.sameCores)
    (LikeViews.sameLinks hlike fun l _ => honly.links l) (LikeViews.sameLqs hlike fun n _ => honly.lqs n)

/-! ## START and CLR_ERR -/

theorem exec_coreStart (i : Fin 24) (x : Fin 16) (clr : Bool) (s : State) :
    exec (.coreStart i x clr) s = s.run fun m => m.writeStart i x true clr := rfl

theorem exec_clrErr (i : Fin 24) (x : Fin 16) (s : State) :
    exec (.clrErr i x) s = s.run fun m => m.writeStart i x false true := rfl

/-- What the CLR_ERR bit of a write of CORE.START does before the write is judged (R120). -/
def M.clearStartErr (m : M) (i x : Nat) (clr : Bool) : M :=
  if clr then m.modCore i fun c => { c with startErr := setBit16 c.startErr x false } else m

section
variable (m : M) (i x : Nat) (clr : Bool)

@[simp] theorem M.clearStartErr_false : m.clearStartErr i x false = m := rfl

@[simp] theorem M.clearStartErr_true :
    m.clearStartErr i x true = m.modCore i fun c => { c with startErr := setBit16 c.startErr x false } := rfl

theorem M.core_clearStartErr :
    (m.clearStartErr i x clr).core i = { m.core i with
      startErr := if clr then setBit16 (m.core i).startErr x false else (m.core i).startErr } := by
  cases clr with
  | false => rfl
  | true => rw [M.clearStartErr_true, M.core_modCore_same]; rfl

theorem M.ctx_clearStartErr (y : Nat) : (m.clearStartErr i x clr).ctx i y = m.ctx i y := by
  rw [M.ctx, M.core_clearStartErr]
  rfl

theorem M.onlyCore_clearStartErr : OnlyCore m (m.clearStartErr i x clr) i := by
  cases clr with
  | false => exact OnlyCore.refl m i
  | true => rw [M.clearStartErr_true]; exact OnlyCore.modCore m i _

/-- START_ERR has no part in the conditions of R120. -/
theorem M.mayStart_clearStartErr : (m.clearStartErr i x clr).mayStart i x = m.mayStart i x := by
  cases clr with
  | false => rfl
  | true =>
    simp only [M.clearStartErr_true, M.mayStart, M.ringOk, M.coreDown, M.ctx, M.core_modCore_same]
    rfl

variable {m i}

theorem M.writeStart_clear (hlive : m.windowDead i = false) :
    m.writeStart i x false clr = m.clearStartErr i x clr := by
  simp [M.writeStart, hlive, M.clearStartErr]

variable {x}

theorem M.writeStart_taken (hlive : m.windowDead i = false) (hmay : m.mayStart i x = true) :
    m.writeStart i x true clr = (m.clearStartErr i x clr).takeStart i x := by
  rw [← M.mayStart_clearStartErr m i x clr] at hmay
  simp only [M.clearStartErr] at hmay
  simp [M.writeStart, hlive, M.clearStartErr, hmay]

theorem M.writeStart_refused (hlive : m.windowDead i = false) (hmay : m.mayStart i x = false) :
    m.writeStart i x true clr = (m.clearStartErr i x clr).startErr i x := by
  rw [← M.mayStart_clearStartErr m i x clr] at hmay
  simp only [M.clearStartErr] at hmay
  simp [M.writeStart, hlive, M.clearStartErr, hmay]

end

/-- Settles O7: clearing START_ERR leaves what a START reads and gives (R120). -/
theorem startTakesTheChain : Obligations.StartTakesTheChain := by
  intro core ctx clr s m hlive hmay
  have honly : OnlyCore m ((m.clearStartErr core ctx clr).takeStart core ctx) core :=
    (m.onlyCore_clearStartErr core ctx clr).trans (onlyCore_takeStart _ _ _)
  refine ends_onlyCore (exec_coreStart core ctx clr s) (M.writeStart_taken clr hlive hmay) honly
    fun m' hlike hobjs hcores hlinks hlqs => ?_
  obtain ⟨hactive, hhalted, hidle, hresumed⟩ := takeStart_facts (m.clearStartErr core ctx clr) core ctx ctx.isLt
  simp only [M.core_clearStartErr, M.ctx_clearStartErr] at hidle hresumed
  rw [LikeViews.core hlike, LikeViews.ctx hlike]
  exact ⟨hactive, hhalted, hidle, hresumed, hobjs, hcores, hlinks, hlqs⟩

section
variable (m : M) (i x : Nat)

/-- START_ERR of the context is set in the core; the vector that is raised is no core's. -/
theorem M.core_startErr_same :
    (m.startErr i x).core i = { m.core i with startErr := setBit16 (m.core i).startErr x true } :=
  ((M.kept_raise _ 391).cores i).trans (M.core_modCore_same m i _)

theorem M.core_startErr_ne {j : Nat} (hj : j ≠ i) : (m.startErr i x).core j = m.core j :=
  ((M.kept_raise _ 391).cores j).trans ((M.core_modCore m i _ j).trans (if_neg hj))

theorem M.obj_startErr (a b : Nat) : (m.startErr i x).obj a b = m.obj a b := M.obj_raise _ 391 a b

theorem M.fuse_startErr : (m.startErr i x).fuse = m.fuse := (M.kept_raise _ 391).fuse

end

/-- Settles O8, by the two writes of CORE.START that start nothing: a START refused and CLR_ERR alone. -/
theorem startErrorIsSetAndCleared : Obligations.StartErrorIsSetAndCleared := by
  refine ⟨fun core ctx clr s hlive hmay => ?refused, fun core ctx s hlive => ?cleared⟩
  case refused =>
    have hcleared := (M.of s).onlyCore_clearStartErr core ctx clr
    refine ends_to (exec_coreStart core ctx clr s) (M.writeStart_refused clr hlive hmay)
      ((M.fuse_startErr _ _ _).trans hcleared.fuse) fun m' hlike => ?_
    rw [LikeViews.core hlike, M.core_startErr_same, M.core_clearStartErr]
    refine ⟨(bit16_setBit16 _ _ _ _ ctx.isLt).trans (if_pos rfl), rfl, rfl, rfl,
      LikeViews.sameObjs hlike fun a b _ _ _ => (M.obj_startErr _ _ _ a b).trans (hcleared.objs a b),
      LikeViews.sameCores hlike fun j hj => ?_⟩
    have hne : j ≠ core := by simpa using hj
    exact (M.core_startErr_ne _ _ _ hne).trans (hcleared.core j hne)
  case cleared =>
    refine ends_onlyCore (exec_clrErr core ctx s) (M.writeStart_clear ctx true hlive)
      ((M.of s).onlyCore_clearStartErr core ctx true) fun m' hlike hobjs hcores _ _ => ?_
    rw [LikeViews.core hlike, M.core_clearStartErr]
    exact ⟨(bit16_setBit16 _ _ _ _ ctx.isLt).trans (if_pos rfl),
      fun x hne hx => (bit16_setBit16 _ _ _ _ hx).trans (if_neg hne), rfl, hobjs, hcores⟩

/-! ## Register writes -/

theorem exec_registerWrite (o : Nat) (wide : Bool) (v : W64) (p : Bool) (s : State) :
    exec (.registerWrite o wide v p) s = s.run fun m => m.when m.hostUp fun m => m.writeBar0 o wide v p := rfl

/-- An aligned 64-bit write to a register of a live core window is the core's (R119, R344). -/
theorem M.writeBar0_core {m : M} {i a o : Nat} (hi : i < 24) (ha : a = 0x10000 + 0x1000 * i + o) (ho : o < 0x500)
    (halign : o % 8 = 0) (hlive : m.windowDead i = false) (v : W64) :
    m.writeBar0 a true v false = m.writeCore i o v := by
  have hcore : (a - 0x10000) / 0x1000 = i := by omega
  have hoff : a % 0x1000 = o := by omega
  have hreg : m.isReg a = true := by
    simp only [M.isReg, hcore, hoff, hlive, Bool.not_false, Bool.and_true, Bool.or_eq_true, Bool.and_eq_true,
      decide_eq_true_eq]
    omega
  have hwide : ¬ ((!true || decide (a % 8 ≠ 0)) = true) := by simp; omega
  have hport : a ≠ 8 ∧ ¬ (0x1000 ≤ a ∧ a < 0x1C00) ∧ 0x10000 ≤ a ∧ a < 0x28000 := by omega
  obtain ⟨hbase, hirq, hlow, hhigh⟩ := hport
  simp only [M.writeBar0, Bool.false_eq_true, if_false, hreg, if_true, hwide, hbase, Bool.and_eq_true, decide_eq_true_eq, hirq,
    hlow, hhigh, and_self, hcore, hoff]

/-- An IRQ_MODE entry takes COALESCE and MODE from the value written (R349). -/
theorem M.writeBar0_irqMode (m : M) (k : Fin 384) (v : W64) :
    m.writeBar0 (0x1000 + 8 * k.val) true v false = m.modHost fun h => { h with
      irqMode := Tab.put h.irqMode k (setFld (setFld (Tab.get h.irqMode 0 k) 31 16 (fld v.toNat 31 16)) 1 0 v.toNat) } := by
  have hk := k.isLt
  have hentry : (0x1000 + 8 * k.val - 0x1000) / 8 = k.val := by omega
  have hreg : m.isReg (0x1000 + 8 * k.val) = true := by
    simp only [M.isReg, Bool.or_eq_true, Bool.and_eq_true, decide_eq_true_eq]
    omega
  have hwide : ¬ ((!true || decide ((0x1000 + 8 * k.val) % 8 ≠ 0)) = true) := by simp
  have hport : 0x1000 + 8 * k.val ≠ 8 ∧ 0x1000 ≤ 0x1000 + 8 * k.val ∧ 0x1000 + 8 * k.val < 0x1C00 := by omega
  obtain ⟨hbase, hlow, hhigh⟩ := hport
  simp only [M.writeBar0, Bool.false_eq_true, if_false, hreg, if_true, hwide, hbase, Bool.and_eq_true, decide_eq_true_eq, hlow,
    hhigh, and_self, hentry]

section
variable {m : M} {i : Nat} (hlive : m.windowDead i = false) (x : Fin 16) (v : W64)
include hlive

theorem M.writeCore_programBase :
    m.writeCore i (0x100 + 0x40 * x.val) v = m.modCtx i x fun r =>
      if bit16 (m.core i).active x then r else { r with programBase := v } := by
  have hreg : (0x100 + 0x40 * x.val) % 0x40 = 0 := by omega
  have hwindow : 0x100 + 0x40 * x.val ≠ 8 ∧ 0x100 + 0x40 * x.val ≠ 0x10 ∧ 0x100 + 0x40 * x.val ≠ 0x20 ∧
      0x100 + 0x40 * x.val < 0x500 := by omega
  simp [M.writeCore, hlive, hreg, hwindow]

theorem M.writeCore_recordTail :
    m.writeCore i (0x120 + 0x40 * x.val) v = m.modCtx i x fun r =>
      { r with recordTail := BitVec.ofNat 64 (v.toNat % 2 ^ 32) } := by
  have hctx : (0x120 + 0x40 * x.val - 0x100) / 0x40 = x.val := by omega
  have hreg : (0x120 + 0x40 * x.val) % 0x40 = 0x20 := by omega
  have hwindow : 0x120 + 0x40 * x.val ≠ 8 ∧ 0x120 + 0x40 * x.val ≠ 0x10 ∧ 0x120 + 0x40 * x.val ≠ 0x20 ∧
      0x100 ≤ 0x120 + 0x40 * x.val ∧ 0x120 + 0x40 * x.val < 0x500 := by omega
  simp [M.writeCore, hlive, hctx, hreg, hwindow]

theorem M.writeCore_ctrl :
    m.writeCore i 0x10 v = m.modCore i fun c =>
      if c.active = 0 then { c with ctrl := BitVec.ofNat 64 (ctrlOf v.toNat), ctrlNext := none }
      else { c with ctrlNext := some (BitVec.ofNat 64 (ctrlOf v.toNat)) } := by
  simp [M.writeCore, hlive]

end

/-- COALESCE and MODE written, the count of records kept (R349). -/
theorem fld_irqMode (e v : Nat) :
    let e' := setFld (setFld e 31 16 (fld v 31 16)) 1 0 v
    fld e' 1 0 = fld v 1 0 ∧ fld e' 31 16 = fld v 31 16 ∧ fld e' 47 32 = fld e 47 32 := by
  refine ⟨?_, ?_, ?_⟩
  · rw [fld_setFld_same]; simp [fld, bitsAt]
  · rw [fld_setFld_above _ _ _ _ _ _ (by decide) (by decide), fld_setFld_same]
    exact Nat.mod_eq_of_lt (fld_lt v 31 16)
  · rw [fld_setFld_above _ _ _ _ _ _ (by decide) (by decide), fld_setFld_above _ _ _ _ _ _ (by decide) (by decide)]

/-- Settles O10, register by register: each write is one change of one context, of one core or of the host port. -/
theorem registerWritesTakeEffect : Obligations.RegisterWritesTakeEffect := by
  intro core ctx v s hup hlive
  have hctx := ctx.isLt
  refine ⟨?programBase, ?recordTail, ?ctrl, fun k => ?irqMode⟩
  case programBase =>
    refine ends_onlyCore (exec_registerWrite _ _ _ _ s) ((M.when_of hup).trans
      ((M.writeBar0_core (o := 0x100 + 0x40 * ctx.val) core.isLt (by omega) (by omega) (by omega) hlive v).trans
        (M.writeCore_programBase hlive ctx v))) (OnlyCore.modCtx _ _ _ _)
      fun m' hlike hobjs hcores _ _ => ⟨?_, fun y hy => ?_, hobjs, hcores⟩
    · rw [LikeViews.ctx hlike, M.ctx_modCtx, if_pos ⟨rfl, rfl⟩]
      rfl
    · rw [LikeViews.ctx hlike, M.ctx_modCtx, if_neg fun h => hy h.2]
      rfl
  case recordTail =>
    refine ends_onlyCore (exec_registerWrite _ _ _ _ s) ((M.when_of hup).trans
      ((M.writeBar0_core (o := 0x120 + 0x40 * ctx.val) core.isLt (by omega) (by omega) (by omega) hlive v).trans
        (M.writeCore_recordTail hlive ctx v))) (OnlyCore.modCtx _ _ _ _)
      fun m' hlike hobjs hcores _ _ => ⟨?_, hobjs, hcores⟩
    rw [LikeViews.ctx hlike, M.ctx_modCtx, if_pos ⟨rfl, rfl⟩]
    rfl
  case ctrl =>
    refine ends_onlyCore (exec_registerWrite _ _ _ _ s) ((M.when_of hup).trans
      ((M.writeBar0_core core.isLt rfl (by decide) (by decide) hlive v).trans (M.writeCore_ctrl hlive v)))
      (OnlyCore.modCore _ _ _)
      fun m' hlike _ hcores _ _ => ⟨?_, hcores⟩
    rw [LikeViews.core hlike, M.core_modCore_same]
  case irqMode =>
    refine ends_to (exec_registerWrite _ _ _ _ s) ((M.when_of hup).trans (M.writeBar0_irqMode _ k v)) rfl
      fun m' hlike => ?_
    obtain ⟨hmode, hcoalesce, hcount⟩ := fld_irqMode (Tab.get (M.of s).dev.host.irqMode 0 k) v.toNat
    rw [hlike.dev, M.modHost_self, Tab.get_put_same]
    exact ⟨hmode, hcoalesce, hcount, LikeViews.sameObjs hlike fun _ _ _ _ _ => rfl,
      LikeViews.sameCores hlike fun _ _ => rfl⟩

end Sys2Proof.Machine
end

section
/-! A manifest on its way to the run slot (06_manifest_execution.md R125 to R127, R132, R136, R147, R148): its fetch and
validation, its record slot, the Outrider that looks beyond it, and the kinds whose work is done at once. -/

namespace Sys2Proof.Machine

/-! ## Fetch -/

theorem exec_manifestFetchDone (i : Fin 24) (s : State) :
    exec (.manifestFetchDone i) s = s.run fun m => m.when (m.coreRuns i) fun m => m.fetchDone i := rfl

theorem exec_recordSlotReserve (i : Fin 24) (s : State) :
    exec (.recordSlotReserve i) s = s.run fun m => m.when (m.coreRuns i) fun m => m.reserve i := rfl

theorem M.fetchDone_eq {m : M} {i addr : Nat} (hfetch : (m.core i).fetch = some addr) (hempty : (m.core i).empty = true)
    (hdisabling : (m.core i).disabling = none) :
    m.fetchDone i =
      let sl := m.validate i (m.fetchSlot i (m.core i).current addr)
      ((m.modCore i fun c => { c with fetch := none, wait := some sl }).sendRecordReads i sl).reserve i := by
  simp [M.fetchDone, hfetch, hempty, hdisabling]

/-- A manifest whose header line is in no window that allows reading (R522). -/
theorem M.fetchSlot_outside {m : M} {i x addr : Nat} (hfails : m.lineFails i x (addr % 2 ^ 48) (addr % 2 ^ 48) = some 0) :
    m.fetchSlot i x addr = (Slot.fetched addr x).reject rsAddress 0 := by
  simp only [M.fetchSlot, hfails]

/-- A verdict reached at the fetch stands. -/
theorem M.validate_of_fixed {m : M} {i : Nat} {s : Slot} (hfixed : s.fixed.isSome = true) : m.validate i s = s := by
  rw [M.validate, if_pos hfixed]

theorem M.validate_outside {m : M} {i x addr : Nat} (hfails : m.lineFails i x (addr % 2 ^ 48) (addr % 2 ^ 48) = some 0) :
    m.validate i (m.fetchSlot i x addr) = (Slot.fetched addr x).reject rsAddress 0 := by
  rw [M.fetchSlot_outside hfails]
  exact M.validate_of_fixed rfl

/-! ## Record slots -/

/-- The manifest takes the record slot at RECORD_HEAD and enters the ready slot (R136). -/
def M.takeRecordSlot (m : M) (i : Nat) (s : Slot) : M :=
  (m.modCtx i s.ctx fun r => { r with
      recordHead := BitVec.ofNat 64 (((m.ctx i s.ctx).recordHead.toNat + 1) % 2 ^ 32)
      nextPtr := if s.fixed.isNone then s.words.getD 1 0 else r.nextPtr }).modCore i fun c =>
    { c with wait := none, ready := some { s with recNo := some (m.ctx i s.ctx).recordHead.toNat } }

section
variable (m : M) (i : Nat) (s : Slot)

theorem M.onlyCore_takeRecordSlot : OnlyCore m (m.takeRecordSlot i s) i :=
  (OnlyCore.modCtx m i s.ctx _).trans (OnlyCore.modCore _ i _)

theorem M.core_takeRecordSlot :
    ∃ cs, (m.takeRecordSlot i s).core i = { m.core i with
      wait := none, ready := some { s with recNo := some (m.ctx i s.ctx).recordHead.toNat }, ctxs := cs } := by
  rw [M.takeRecordSlot, M.core_modCore_same, M.core_modCtx, if_pos rfl]
  exact ⟨_, rfl⟩

theorem M.recordHead_takeRecordSlot :
    ((m.takeRecordSlot i s).ctx i s.ctx).recordHead =
      BitVec.ofNat 64 (((m.ctx i s.ctx).recordHead.toNat + 1) % 2 ^ 32) := by
  rw [M.takeRecordSlot, M.ctx, M.core_modCore_same, M.core_modCtx, if_pos rfl]
  exact congrArg CtxRegs.recordHead (Core.ctx_setCtx_same _ _ _)

variable {m i s}

/-- A manifest that may reserve does, and one that is no member of a collective tells nobody. -/
theorem M.reserve_eq (hwait : (m.core i).wait = some s) (hmay : m.mayReserve i s = true) (hready : (m.core i).ready = none)
    (hdisabling : (m.core i).disabling = none) (hkind : (s.fixed.isSome || s.kind != kExchange || xop s.words != 3) = true) :
    m.reserve i = m.takeRecordSlot i s := by
  have hcoll : ¬ (s.fixed.isNone && s.kind == kExchange && xop s.words == 3) = true := by
    simpa [Option.isSome_iff_ne_none, Classical.or_iff_not_imp_left] using hkind
  simp only [M.reserve, hwait, hmay, hready, hdisabling, Bool.not_true, Option.isSome_none, Bool.or_self, Bool.false_eq_true,
    if_false, hcoll]
  rfl

end

/-- Settles O12: what is fetched is judged once, and a manifest that waits takes its slot when nothing keeps it from it. -/
theorem fetchAndReservation : Obligations.FetchAndReservation := by
  refine ⟨fun core addr s hruns hfetch hempty hdisabling => ?fetched, fun m i x addr hfails => ?outside,
    fun core sl s hruns hwait hmay hready hdisabling hkind => ?reserved⟩
  case fetched =>
    exact does_of (exec_manifestFetchDone core s) ((M.when_of hruns).trans (M.fetchDone_eq hfetch hempty hdisabling))
  case outside =>
    rw [M.validate_outside hfails]
    exact ⟨rfl, rfl⟩
  case reserved =>
    refine ends_onlyCore (exec_recordSlotReserve core s)
      ((M.when_of hruns).trans (M.reserve_eq hwait hmay hready hdisabling hkind)) (M.onlyCore_takeRecordSlot _ _ _)
      fun m' hlike hobjs hcores _ _ => ?_
    obtain ⟨cs, hcore⟩ := (M.of s).core_takeRecordSlot core sl
    rw [LikeViews.core hlike, LikeViews.ctx hlike, M.recordHead_takeRecordSlot, hcore]
    exact ⟨rfl, rfl, rfl, rfl, hobjs, hcores⟩

/-! ## The Outrider -/

theorem exec_outriderPrefetch (i : Fin 24) (s : State) :
    exec (.outriderPrefetch i) s = s.run fun m => m.when (m.coreRuns i) fun m => m.outriderStep i := rfl

/-- Staging adds lines to the core's Outrider, or does nothing (R148). -/
theorem M.stageFor_cases (m : M) (i : Nat) (s : Slot) (before : List (Nat × Nat)) :
    m.stageFor i s before = m ∨ ∃ lines, m.stageFor i s before = m.modCore i fun c => { c with
      outrider := { c.outrider with staged := c.outrider.staged ++ lines } } := by
  rw [M.stageFor]
  split
  · exact .inl rfl
  · exact .inr ⟨_, rfl⟩

theorem M.onlyCore_stageFor (m : M) (i : Nat) (s : Slot) (before : List (Nat × Nat)) : OnlyCore m (m.stageFor i s before) i := by
  rcases m.stageFor_cases i s before with h | ⟨lines, h⟩
  · rw [h]; exact OnlyCore.refl m i
  · rw [h]; exact OnlyCore.modCore m i _

theorem M.core_stageFor (m : M) (i : Nat) (s : Slot) (before : List (Nat × Nat)) :
    ∃ staged, (m.stageFor i s before).core i = { m.core i with outrider := { (m.core i).outrider with staged } } := by
  rcases m.stageFor_cases i s before with h | ⟨lines, h⟩
  · exact ⟨_, by rw [h]⟩
  · exact ⟨_, by rw [h, M.core_modCore_same]⟩

/-- The pointer after a manifest that is no BRANCH is the one it holds; nothing is predicted (R147). -/
theorem M.aheadOf_of_not_branch (m : M) (i x addr : Nat) {ws : List W64} (target : Option Nat) (hkind : hKind ws ≠ kBranch) :
    m.aheadOf i x addr ws target = some (hNext ws, none) := 
  if_neg hkind

/-- The Outrider passes the manifest `t`: it stands one further ahead, at `t`'s next pointer. -/
def M.passManifest (m : M) (i : Nat) (t : Slot) (writes : List (Nat × Nat)) : M :=
  m.modCore i fun c => { c with outrider := { c.outrider with
    ahead := c.outrider.ahead + 1, at? := some (hNext t.words), writes } }

/-- Within its depth the Outrider stages for a valid manifest at which it does not stop, and passes it (R147). -/
theorem M.outriderStep_eq {m : M} {i p : Nat} {s : Slot} (hrun : (m.core i).run = some s) (hstop : s.stop = none)
    (hdepth : (m.core i).outrider.ahead < (m.core i).horizon s)
    (hnext : (if (m.core i).outrider.ahead = 0 then (m.aheadOf i s.ctx s.addr s.words s.target).map (·.1)
      else (m.core i).outrider.at?) = some p)
    (hp : p ≠ 0) (hpointer : m.pointerOk s.ctx p = true) (hfixed : (m.fetchSlot i s.ctx p).fixed = none)
    (hform : checkForm (m.fetchSlot i s.ctx p).words = none)
    (hkind : (m.fetchSlot i s.ctx p).kind ∉ [kSync, kCheckpoint, kTable])
    (hbranch : hKind (m.fetchSlot i s.ctx p).words ≠ kBranch) :
    ∃ before writes, m.outriderStep i =
      (m.stageFor i (m.fetchSlot i s.ctx p) before).passManifest i (m.fetchSlot i s.ctx p) writes := by
  simp only [List.mem_cons, List.not_mem_nil, or_false, not_or] at hkind
  obtain ⟨hsync, hcheckpoint, htable⟩ := hkind
  have hstep : m.outriderStep i =
      let t := m.fetchSlot i s.ctx p
      let before := (m.core i).outrider.writes ++ m.writeSpans s.words
      (m.stageFor i t before).passManifest i t (before ++ (m.stageFor i t before).writeSpans t.words) := by
    simp only [M.outriderStep, hrun, hnext, hstop, Nat.not_le.mpr hdepth, hp, hpointer, hfixed, hform, hsync, hcheckpoint,
      htable, M.aheadOf_of_not_branch _ _ _ _ _ hbranch, Option.isSome_none, Option.isSome_some, decide_false, Bool.or_self,
      Bool.not_true, Bool.false_eq_true, if_false, Option.map_some, List.append_nil, Bool.toNat_true]
    rfl
  exact ⟨_, _, hstep⟩

/-- Settles O15: staging and passing a manifest are changes of the core's Outrider. -/
theorem outriderGoesAhead : Obligations.OutriderGoesAhead := by
  intro core sl p s hruns c o t hrun hstop hdepth hnext hp hpointer hfixed hform hkind hbranch
  obtain ⟨before, writes, hstep⟩ := M.outriderStep_eq hrun hstop hdepth hnext hp hpointer hfixed hform hkind hbranch
  obtain ⟨staged, hstaged⟩ := (M.of s).core_stageFor core t before
  refine ends_onlyCore (exec_outriderPrefetch core s) ((M.when_of hruns).trans hstep)
    ((M.onlyCore_stageFor _ _ _ _).trans (OnlyCore.modCore _ _ _)) fun m' hlike hobjs hcores _ hlqs => ?_
  have hcore : m'.core core = { c with outrider := { o with
      staged, ahead := o.ahead + 1, at? := some (hNext t.words), writes } } := by
    rw [LikeViews.core hlike, M.passManifest, M.core_modCore_same, hstaged]
  rw [hcore]
  exact ⟨rfl, rfl, ⟨staged, o.followed, writes, rfl⟩, hobjs, hcores, hlqs⟩

/-! ## Kinds whose work is done at once -/

theorem exec_matrix (i : Fin 24) (s : State) :
    exec (.matrix i) s = s.run fun m => m.runKind i kMatrix (fun _ => true) Job.matrix := rfl

theorem exec_score (i : Fin 24) (s : State) :
    exec (.score i) s = s.run fun m => m.runKind i kScore (fun _ => true) fun j => j.each fun j k => j.scoreRow k := rfl

theorem exec_softmax (i : Fin 24) (s : State) :
    exec (.softmax i) s = s.run fun m => m.runKind i kSoftmax (fun _ => true) fun j => j.each Job.softmaxIter := rfl

theorem exec_combine (i : Fin 24) (s : State) :
    exec (.combine i) s = s.run fun m =>
      m.runKind i kExchange (fun ws => xop ws == 2) fun j => j.each Job.combineIter := rfl

theorem exec_gradientFold (i : Fin 24) (s : State) :
    exec (.gradientFold i) s = s.run fun m => m.runKind i kFold (fun _ => true) fun j =>
      j.each fun j k => (List.range 128).foldl (fun (j : Job) r => j.foldRow k r) j := rfl

section
variable {c : Instr} {core : Fin 24} {sl : Slot} {s : State} {op : Nat}

/-- A VECTOR whose work keeps what a manifest's work keeps runs to its end. -/
theorem vector_done {f : Job → Job} (hrun : (M.of s).MayRun core sl kVector) (hkeeps : ∀ j, Job.Keeps j (f j))
    (e : exec c s = s.run fun m => m.runKind core kVector (fun ws => vop ws == op) f) (hop : vop sl.words = op) :
    Ends c s fun m' => (M.of s).StandsDone m' core sl :=
  done_of e hrun (beq_iff_eq.mpr hop) hkeeps

/-- So does one that writes a row per iteration, whatever the row is. -/
theorem vectorRows_done {row : Job → Nat → List Elem} (hrun : (M.of s).MayRun core sl kVector)
    (e : exec c s = s.run fun m => m.runVector core op row) (hop : vop sl.words = op) :
    Ends c s fun m' => (M.of s).StandsDone m' core sl :=
  vector_done hrun (fun j => j.keeps_each _ fun j k => j.keeps_vecOut k _) e hop

end

/-- Settles O21: the work of each of these kinds keeps what `Job.Keeps` names, iteration by iteration. -/
theorem manifestsRunToTheirEnd : Obligations.ManifestsRunToTheirEnd := by
  refine fun core sl s => ⟨fun hrun => ?matrix, fun hrun => ?score, fun hrun => ?softmax, fun hrun hop => ?combine,
    fun hrun => ?fold, fun hrun => ?vector⟩
  case matrix => exact done_of (exec_matrix core s) hrun rfl Job.keeps_matrix
  case score => exact done_of (exec_score core s) hrun rfl fun j => j.keeps_each _ fun j k => j.keeps_scoreRow k
  case softmax => exact done_of (exec_softmax core s) hrun rfl fun j => j.keeps_each _ fun j k => j.keeps_softmaxIter k
  case combine =>
    exact done_of (exec_combine core s) hrun (beq_iff_eq.mpr hop) fun j => j.keeps_each _ fun j k => j.keeps_combineIter k
  case fold =>
    exact done_of (exec_gradientFold core s) hrun rfl fun j =>
      j.keeps_each _ fun j k => Job.keeps_foldl _ (fun j r => j.keeps_foldRow k r) _ j
  case vector =>
    have rows {c : Instr} {op : Nat} {row : Job → Nat → List Elem} := vectorRows_done (c := c) (op := op) (row := row) hrun
    simp only [List.forall_mem_cons]
    exact ⟨rows rfl, rows rfl, rows rfl, rows rfl, rows rfl, rows rfl, rows rfl, vector_done hrun Job.keeps_funcAll rfl, rows rfl,
      rows rfl, rows rfl, vector_done hrun (fun j => j.keeps_each _ fun j k => j.keeps_route k) rfl, rows rfl,
      List.forall_mem_nil _⟩

end Sys2Proof.Machine
end

section
/-! KV_APPEND at the banks (07_manifest_reference.md R172; 08 R209; 09 R224): the bank work it has in a layer quadrant, what giving
that work changes, and how the manifest stands afterwards. -/

namespace Sys2Proof.Machine

theorem exec_kvAppend (i : Fin 24) (s : State) :
    exec (.kvAppend i) s = s.run fun m => m.runKind i kKv (fun _ => true) Job.kv := rfl

/-! ## The work -/

/-- Bank work of a KV_APPEND in layer quadrant `n`: one entry for each vector that has any there. -/
def M.appendWork (m : M) (ws : List W64) (n : Nat) : List Nat :=
  ((List.range (totalIters ws)).map fun k => m.kvWork ws n k).filter (0 < ·)

/-- The banks of layer quadrant `n` that a KV_APPEND writes. -/
def appendBanks (ws : List W64) (n : Nat) : List Nat :=
  ((List.range (totalIters ws)).flatMap fun k =>
    ((kvParts ws k).filter fun p => p.1 / lqSize == n).map fun p => bankOf p.1).eraseDups

/-- A KV_APPEND gives layer quadrant `l` of its column the work it has there, as one step. -/
def Job.appendTo (ws : List W64) (j : Job) (l : Nat) : Job :=
  if (j.m.appendWork ws (4 * j.core + l)).isEmpty then j
  else j.stepping [l] ((appendBanks ws (4 * j.core + l)).foldl min 2048) (appendBanks ws (4 * j.core + l)).length
    [(j.m.appendWork ws (4 * j.core + l)).foldl (· + ·) 0] 1

theorem Job.kv_eq (j : Job) : j.kv = (List.range 4).foldl (Job.appendTo j.s.words) (j.each Job.kvIter) := rfl

/-- The work depends on memory's tract modes alone, which the vectors' stores leave. -/
theorem M.appendWork_congr {a b : M} {n : Nat} (ws : List W64) (hn : n < 96)
    (hobjs : ∀ i j, j < 256 → i ≠ 0x7100 → b.obj i j = a.obj i j) : b.appendWork ws n = a.appendWork ws n := by
  simp only [M.appendWork, M.kvWork_congr a b ws n _ hn hobjs]

/-! ## Giving the work -/

/-- `b` is `a` once the layer quadrants `ls` of the column have been given what `work` names for them: one step for each that has
any. The manifest waits if one has. -/
structure Job.GaveWork (work : Nat → List Nat) (ls : List Nat) (a b : Job) : Prop where
  core : b.core = a.core
  fuse : b.m.fuse = a.m.fuse
  dev : ∃ x, b.m.dev = { a.m.dev with lqs := x }
  slot : b.s = { a.s with phase := if ls.all fun l => (work l).isEmpty then a.s.phase else .waiting }
  given : ∀ l ∈ ls, (b.m.lq (4 * a.core + l)).work =
    if (work l).isEmpty then (a.m.lq (4 * a.core + l)).work else [(work l).foldl (· + ·) 0]
  others : a.m.SameLqs b.m (ls.map (4 * a.core + ·))

namespace Job.GaveWork
variable {work : Nat → List Nat} {ls : List Nat} {a b c : Job}

theorem nil (work : Nat → List Nat) (a : Job) : GaveWork work [] a a :=
  ⟨rfl, rfl, ⟨_, rfl⟩, rfl, fun _ h => absurd h List.not_mem_nil, fun _ _ => rfl⟩

/-- One quadrant first, then others. -/
theorem cons {l : Nat} (hl : l ∉ ls) (h : GaveWork work [l] a b) (k : GaveWork work ls b c) : GaveWork work (l :: ls) a c := by
  obtain ⟨x, hx⟩ := h.dev
  obtain ⟨y, hy⟩ := k.dev
  have hfirst : c.m.lq (4 * a.core + l) = b.m.lq (4 * a.core + l) := k.others _ (by simpa [h.core] using hl)
  have hrest : ∀ n, n ≠ 4 * a.core + l → b.m.lq n = a.m.lq n := fun n hn => h.others n (by simpa using hn)
  refine ⟨k.core.trans h.core, k.fuse.trans h.fuse, ⟨y, by rw [hy, hx]⟩, ?slot, ?given, fun n hn => ?others⟩
  case slot =>
    rw [k.slot, h.slot]
    cases hw : (work l).isEmpty <;> simp [hw]
  case given =>
    rintro n (_ | ⟨_, hn⟩)
    · rw [hfirst, h.given l List.mem_cons_self]
    · have hne : n ≠ l := fun e => hl (e ▸ hn)
      rw [← h.core, k.given n hn, h.core, hrest _ (by omega)]
  case others =>
    rw [List.map_cons, List.mem_cons, not_or] at hn
    rw [k.others n (by rw [h.core]; exact hn.2), hrest n hn.1]

theorem coreOf (h : GaveWork work ls a b) (i : Nat) : b.m.core i = a.m.core i := by
  obtain ⟨x, hx⟩ := h.dev
  rw [M.core, hx, M.core]

theorem link (h : GaveWork work ls a b) (l : Nat) : b.m.link l = a.m.link l := by
  obtain ⟨x, hx⟩ := h.dev
  rw [M.link, hx, M.link]

theorem obj (h : GaveWork work ls a b) (i j : Nat) : b.m.obj i j = a.m.obj i j := by
  obtain ⟨x, hx⟩ := h.dev
  rw [M.obj, h.fuse, hx, M.obj]

end Job.GaveWork

theorem Job.stepping_one (j : Job) (l first count : Nat) (work : List Nat) (halves : Nat) :
    (j.stepping [l] first count work halves).m = j.m.modLq (4 * j.core + l) fun q =>
      { q with work, arrived := [], halves, readyAt := none, firstBank := first, banks := count } := rfl

/-- The step that a quadrant is given leaves the work in the others. -/
theorem Job.appendWork_appendTo (ws : List W64) (j : Job) (l n : Nat) :
    (j.appendTo ws l).m.appendWork ws n = j.m.appendWork ws n := by
  unfold Job.appendTo
  split <;> rfl

/-- A quadrant without work stands; one with work takes it as a step, and the manifest waits. -/
theorem Job.gaveWork_appendTo (ws : List W64) {work : Nat → List Nat} (j : Job) (l : Nat)
    (hwork : j.m.appendWork ws (4 * j.core + l) = work l) : Job.GaveWork work [l] j (j.appendTo ws l) := by
  unfold Job.appendTo
  rw [hwork]
  split
  case isTrue hnone =>
    exact ⟨rfl, rfl, ⟨_, rfl⟩, by simp [hnone], List.forall_mem_singleton.mpr (if_pos hnone).symm, fun _ _ => rfl⟩
  case isFalse hsome =>
    refine ⟨rfl, rfl, ⟨_, rfl⟩, by simp [hsome, Job.stepping], ?given, ?others⟩
    case given => rw [List.forall_mem_singleton, if_neg hsome, Job.stepping_one, M.lq_modLq_same]
    case others =>
      rw [Job.stepping_one]
      exact M.sameLqs_modLq _ _ _

theorem Job.gaveWork_foldl (ws : List W64) {work : Nat → List Nat} {ls : List Nat} (hls : ls.Nodup) (j : Job)
    (hwork : ∀ l ∈ ls, j.m.appendWork ws (4 * j.core + l) = work l) :
    Job.GaveWork work ls j (ls.foldl (Job.appendTo ws) j) := by
  induction ls generalizing j with
  | nil => exact Job.GaveWork.nil work j
  | cons l ls ih =>
    obtain ⟨hl, hnodup⟩ := List.nodup_cons.mp hls
    have hfirst := j.gaveWork_appendTo ws l (hwork l List.mem_cons_self)
    refine hfirst.cons hl (ih hnodup _ fun n hn => ?_)
    rw [hfirst.core, Job.appendWork_appendTo]
    exact hwork n (List.mem_cons_of_mem l hn)

/-- A KV_APPEND stores its vectors, then gives the column's quadrants the work that the vectors had in them at first: the stores
leave every object. -/
theorem Job.gaveWork_kv {work : Nat → List Nat} (j : Job) (hcore : j.core < 24)
    (hwork : ∀ l < 4, j.m.appendWork j.s.words (4 * j.core + l) = work l) :
    Job.GaveWork work (List.range 4) (j.each Job.kvIter) j.kv := by
  have hstored := j.keeps_each Job.kvIter Job.keeps_kvIter
  refine j.kv_eq ▸ Job.gaveWork_foldl _ List.nodup_range _ fun l hl => ?_
  have hlt := List.mem_range.mp hl
  rw [hstored.core, ← hwork l hlt]
  exact M.appendWork_congr _ (by omega) hstored.objs

/-! ## How the manifest stands -/

/-- The manifest that has given its work stands in the run slot, done where there was none; the rest is as it was. -/
theorem M.Entered.settled_gaveWork {m : M} {i : Nat} {sl : Slot} {j stored given : Job} {work : Nat → List Nat} {ls : List Nat}
    (e : m.Entered i sl j) (k : Job.Keeps j stored) (g : Job.GaveWork work ls stored given) :
    let r := given.settle i
    r.fuse = m.fuse ∧ (r.core i).ready = none ∧
    (∃ tr ps ex mg, (r.core i).run = some { sl with
      phase := if ls.all fun l => (work l).isEmpty then .done else .waiting
      progress := totalIters sl.words, trCount := tr, poisonCount := ps, excCount := ex, merges := mg }) ∧
    (∀ l ∈ ls, (r.lq (4 * i + l)).work = if (work l).isEmpty then (m.lq (4 * i + l)).work else [(work l).foldl (· + ·) 0]) ∧
    m.SameLqs r (ls.map (4 * i + ·)) ∧ m.SameObjs r [] ∧ m.SameCores r [i] ∧ m.SameLinks r [] := by
  obtain ⟨hfuse, hready, ⟨tr, ps, ex, mg, hrun⟩, -, hobjs, hcores, hlinks, hlqs⟩ := e.settled k
  rw [Job.settle_core] at hready hrun
  have hcore : stored.core = i := k.core.trans e.core
  have hslot := Option.some.inj hrun
  have hlq : ∀ n, stored.m.lq n = m.lq n := fun n => hlqs n List.not_mem_nil
  refine ⟨g.fuse.trans hfuse, ?ready, ⟨tr, ps, ex, mg, ?run⟩, fun l hl => ?work, fun n hn => ?lqs, fun a b hb ha hn => ?objs,
    fun a ha => ?cores, fun a ha => ?links⟩
  case ready =>
    rw [Job.settle_core, g.coreOf]
    exact hready
  case run => rw [Job.settle_core, g.slot, hslot]
  case work => rw [Job.settle_lq, ← hcore, g.given l hl, hlq]
  case lqs => rw [Job.settle_lq, g.others n (hcore ▸ hn), hlq]
  case objs =>
    rw [Job.settle_obj, g.obj]
    exact hobjs a b hb ha hn
  case cores =>
    have hne : a ≠ i := fun h => ha (List.mem_singleton.mpr h)
    rw [Job.settle_core_ne _ _ _ hne, g.coreOf, ← hcores a ha, Job.settle_core_ne _ _ _ hne]
  case links =>
    rw [Job.settle_link, g.link]
    exact hlinks a ha

/-- Settles O27: the work is what it was before the vectors were stored, and it is given quadrant by quadrant. -/
theorem appendsGoToTheBanks : Obligations.AppendsGoToTheBanks := by
  intro core sl s hrun work
  obtain ⟨j, hentered, heq⟩ := (M.of s).runThen_run core kKv sl (fun _ => true) Job.kv (fun m _ => m) hrun rfl
  have hcore := hentered.core
  have hwork : ∀ l < 4, j.m.appendWork j.s.words (4 * j.core + l) = work l := fun l hl => by
    rw [hentered.slot, hcore]
    exact M.appendWork_congr _ (by omega) fun a b _ _ => hentered.only.objs a b
  obtain ⟨hfuse, hready, hran, hgiven, hlqs, hobjs, hcores, hlinks⟩ :=
    hentered.settled_gaveWork (j.keeps_each _ Job.keeps_kvIter) (j.gaveWork_kv (by omega) hwork)
  refine ends_to (exec_kvAppend core s) heq hfuse fun m' hlike => ?_
  rw [LikeViews.core hlike]
  refine ⟨hready, hran, fun l => ?_, LikeViews.sameLqs hlike hlqs, LikeViews.sameObjs hlike hobjs,
    LikeViews.sameCores hlike hcores, LikeViews.sameLinks hlike hlinks⟩
  rw [LikeViews.lq hlike]
  exact hgiven l (List.mem_range.mpr l.isLt)

end Sys2Proof.Machine
end

section
/-! The near-bank units and the banks (08_near_bank_convoys.md R187 to R204; 12_memory_integrity.md R268 to R275): the rules of one
layer quadrant's changes, then convoys, steps, refreshes, accesses and tract modes with the obligations on them. -/

namespace Sys2Proof.Machine

/-! ## One layer quadrant changed -/

/-- The working states differ in layer quadrant `n`, in the order of the steps that wait and in the objects `objs` alone. -/
structure OnlyLq (a b : M) (n : Nat) (objs : List (Nat × Nat)) : Prop where
  fuse : b.fuse = a.fuse
  ops : b.ops = a.ops
  cores : b.dev.cores = a.dev.cores
  lqs : a.SameLqs b [n]
  objs : a.SameObjs b objs

namespace OnlyLq
variable {a b c : M} {n : Nat} {objs : List (Nat × Nat)}

theorem refl (m : M) (n : Nat) (objs : List (Nat × Nat)) : OnlyLq m m n objs :=
  ⟨rfl, rfl, rfl, fun _ _ => rfl, fun _ _ _ _ _ => rfl⟩

theorem trans (h : OnlyLq a b n objs) (k : OnlyLq b c n objs) : OnlyLq a c n objs :=
  ⟨k.fuse.trans h.fuse, k.ops.trans h.ops, k.cores.trans h.cores, fun i hi => (k.lqs i hi).trans (h.lqs i hi),
    fun i j hj hi hn => (k.objs i j hj hi hn).trans (h.objs i j hj hi hn)⟩

theorem modLq (m : M) (n : Nat) (f : Lq → Lq) (objs : List (Nat × Nat)) : OnlyLq m (m.modLq n f) n objs :=
  ⟨rfl, rfl, rfl, m.sameLqs_modLq n f, fun _ _ _ _ _ => rfl⟩

theorem setObj (m : M) (n idx v : Nat) {sub : Nat} (hsub : sub < 256) : OnlyLq m (m.setObj idx sub v) n [(idx, sub)] :=
  ⟨rfl, rfl, rfl, fun _ _ => rfl, fun i j hj _ hn => m.obj_setObj_ne _ _ _ i j hj hsub (by simpa using hn)⟩

theorem core (h : OnlyLq a b n objs) (i : Nat) : b.core i = a.core i := by
  rw [M.core, h.cores, M.core]

/-- What a command that changes one layer quadrant and the objects `objs` leaves. -/
theorem ends {i : Instr} {s : State} {f : M → M} {r : M} {P : M → Prop} (e : exec i s = s.run f) (hr : f (M.of s) = r)
    (h : OnlyLq (M.of s) r n objs)
    (hP : ∀ m', M.Like m' r → (M.of s).SameMem m' → (M.of s).SameLqs m' [n] → (M.of s).SameObjs m' objs →
      (M.of s).SameCores m' [] → P m') : Ends i s P :=
  ends_quiet e hr h.fuse h.ops fun m' hlike hmem => hP m' hlike hmem (LikeViews.sameLqs hlike h.lqs)
    (LikeViews.sameObjs hlike h.objs) (LikeViews.sameCores hlike fun i _ => h.core i)

end OnlyLq

/-! ## Convoys -/

theorem exec_convoyMac (i : Fin 24) (s : State) :
    exec (.convoyMac i) s = s.run fun m => m.runConvoy i 0 Job.macIter := rfl

theorem exec_convoyAdd (i : Fin 24) (s : State) :
    exec (.convoyAdd i) s = s.run fun m => m.runConvoy i 1 (Job.inPlaceIter Val.add) := rfl

theorem exec_convoyMax (i : Fin 24) (s : State) :
    exec (.convoyMax i) s = s.run fun m => m.runConvoy i 2 (Job.inPlaceIter maxV) := rfl

theorem exec_convoyCmp (i : Fin 24) (s : State) :
    exec (.convoyCmp i) s = s.run fun m => m.runConvoy i 3 Job.cmpIter := rfl

/-- The staged broadcast operands of iteration `k` are consumed (R148). -/
def Job.consumeBroadcast (ws : List W64) (j : Job) (k : Nat) : Job :=
  (j.consume (j.reg 0 k) (ebAt ws 11 (cK ws))).consume (j.reg 1 k) (if scaledAt ws 11 then sbAt ws 11 (cK ws) else 0)

/-- What a convoy does before the banks take over: its results, and the staged lines it consumes. -/
def Job.convoyResults (step : Job → Nat → Job) (j : Job) : Job :=
  (j.each step).each (Job.consumeBroadcast j.s.words)

theorem Job.convoy_eq (step : Job → Nat → Job) (j : Job) :
    j.convoy step = let ws := j.s.words
      (j.convoyResults step).stepping (cLqs ws) (cFirst ws) (cBanks ws) (convoyWork ws) 0 := rfl

theorem Job.keeps_convoyResults {step : Job → Nat → Job} (hstep : ∀ j k, Job.Keeps j (step j k)) (j : Job) :
    Job.Keeps j (j.convoyResults step) :=
  (j.keeps_each step hstep).trans (Job.keeps_each _ _ fun j _ => (j.keeps_consume _ _).trans (Job.keeps_consume _ _ _))

/-- A convoy whose iterations keep what a manifest's work keeps gives the banks its work and waits for them. -/
theorem ends_convoy {c : Instr} {core : Fin 24} {op : Nat} {sl : Slot} {s : State} {step : Job → Nat → Job}
    (hrun : (M.of s).MayRun core sl kConvoy) (hstep : ∀ j k, Job.Keeps j (step j k))
    (e : exec c s = s.run fun m => m.runConvoy core op step) (hop : nbuOp sl.words = op) :
    Ends c s fun m' =>
      (m'.core core).ready = none ∧
      (∃ tr ps ex mg, (m'.core core).run = some { sl with
        phase := .waiting, progress := totalIters sl.words, trCount := tr, poisonCount := ps, excCount := ex, merges := mg }) ∧
      (∀ l ∈ cLqs sl.words, m'.lq (4 * core + l) = { (M.of s).lq (4 * core + l) with
        work := convoyWork sl.words, arrived := [], halves := 0, readyAt := none, firstBank := cFirst sl.words
        banks := cBanks sl.words }) ∧
      (M.of s).SameLqs m' ((cLqs sl.words).map (4 * core.val + ·)) ∧ (M.of s).SameObjs m' [] ∧ (M.of s).SameCores m' [core] ∧
      (M.of s).SameLinks m' [] := by
  obtain ⟨j, hentered, heq⟩ := (M.of s).runThen_run core kConvoy sl (fun ws => nbuOp ws == op) (Job.convoy step) (fun m _ => m)
    hrun (beq_iff_eq.mpr hop)
  have hwords : j.s.words = sl.words := by rw [hentered.slot]
  rw [Job.convoy_eq, hwords] at heq
  obtain ⟨hfuse, hready, hwaits, hlqs, hobjs, hcores, hlinks⟩ := step_after hentered (j.keeps_convoyResults hstep)
    (cLqs sl.words) (cFirst sl.words) (cBanks sl.words) (convoyWork sl.words) 0
  refine ends_to e heq hfuse fun m' hlike => ?_
  rw [LikeViews.core hlike]
  refine ⟨hready, hwaits, fun l hl => ?_, LikeViews.sameLqs hlike fun n hn => ?_, LikeViews.sameObjs hlike hobjs,
    LikeViews.sameCores hlike hcores, LikeViews.sameLinks hlike hlinks⟩
  · rw [LikeViews.lq hlike, hlqs, if_pos (List.mem_map_of_mem hl)]
  · rw [hlqs, if_neg hn]

/-- Settles O26: the four operations differ in the iteration alone. -/
theorem convoysGoToTheBanks : Obligations.ConvoysGoToTheBanks := by
  intro core sl s hrun
  simp only [List.forall_mem_cons]
  exact ⟨ends_convoy hrun Job.keeps_macIter (exec_convoyMac core s),
    ends_convoy hrun (Job.keeps_inPlaceIter Val.add) (exec_convoyAdd core s),
    ends_convoy hrun (Job.keeps_inPlaceIter maxV) (exec_convoyMax core s),
    ends_convoy hrun Job.keeps_cmpIter (exec_convoyCmp core s), List.forall_mem_nil _⟩

/-! ## Segments and grants -/

theorem exec_segmentArrive (n : Fin 96) (g : Fin 128) (s : State) :
    exec (.segmentArrive n g) s = s.run fun m => m.when (m.banksRun n) fun m => m.segmentArrive n g := rfl

theorem exec_stepGrant (t : Fin 6) (s : State) :
    exec (.stepGrant t) s = s.run fun m => m.when (m.live && m.domUp (24 + t.val) && m.tierRuns t) fun m => m.stepGrant t := rfl

/-- The next place in the order of the steps that wait is taken (R204). -/
def M.nextPlace (m : M) : M := { m with dev := { m.dev with readyCtr := m.dev.readyCtr + 1 } }

theorem M.readyStep_eq (m : M) (n : Nat) :
    m.readyStep n =
      if (m.lq n).work.isEmpty || (m.lq n).halves = 0 || (m.lq n).stepping.isSome || (m.lq n).readyAt.isSome then m
      else m.nextPlace.modLq n fun q => { q with readyAt := some m.dev.readyCtr } := rfl

/-- A step that can begin waits from now on, where none does yet. -/
theorem M.lq_readyStep {m : M} {n : Nat} (hwork : (m.lq n).work ≠ []) (hhalves : (m.lq n).halves ≠ 0) :
    (m.readyStep n).lq n = { m.lq n with
      readyAt := if (m.lq n).stepping.isSome || (m.lq n).readyAt.isSome then (m.lq n).readyAt else some m.dev.readyCtr } := by
  have hcan : ((m.lq n).work.isEmpty || (m.lq n).halves = 0 || (m.lq n).stepping.isSome || (m.lq n).readyAt.isSome) =
      ((m.lq n).stepping.isSome || (m.lq n).readyAt.isSome) := by
    rw [List.isEmpty_eq_false_iff.mpr hwork, decide_eq_false hhalves, Bool.false_or, Bool.false_or]
  rw [M.readyStep_eq, hcan]
  split
  · rfl
  · exact M.lq_modLq_same _ n _

theorem OnlyLq.readyStep (m : M) (n : Nat) (objs : List (Nat × Nat)) : OnlyLq m (m.readyStep n) n objs := by
  rw [M.readyStep_eq]
  split
  · exact OnlyLq.refl m n objs
  · obtain ⟨hfuse, hops, hcores, hlqs, hobjs⟩ := OnlyLq.modLq m.nextPlace n (fun q => { q with readyAt := some m.dev.readyCtr }) objs
    exact ⟨hfuse, hops, hcores, hlqs, hobjs⟩

section
variable {m : M} {n g : Nat} (hsel : g ∈ (m.lq n).groups) (hnew : g ∉ (m.lq n).arrived)
  (hfree : (m.lq n).halves < min 2 (m.lq n).work.length)
include hsel hnew hfree

/-- A segment that has a free buffer half in a selected group is noted there; the last group makes it whole (R191). -/
theorem M.segmentArrive_eq :
    m.segmentArrive n g =
      if (m.lq n).groups.all ((m.lq n).arrived ++ [g]).contains then
        (m.modLq n fun q => { q with arrived := [], halves := q.halves + 1 }).readyStep n
      else m.modLq n fun q => { q with arrived := q.arrived ++ [g] } := by
  have hdue : ¬ (!(m.lq n).groups.contains g || (m.lq n).arrived.contains g ||
      decide (min 2 (m.lq n).work.length ≤ (m.lq n).halves)) = true := by
    simp only [Bool.or_eq_true, Bool.not_eq_true', List.contains_iff_mem, decide_eq_true_eq, ← Bool.not_eq_true, not_or, not_not]
    exact ⟨⟨hsel, hnew⟩, Nat.not_le.mpr hfree⟩
  exact if_neg hdue

theorem OnlyLq.segmentArrive : OnlyLq m (m.segmentArrive n g) n [] := by
  rw [M.segmentArrive_eq hsel hnew hfree]
  split
  · exact (OnlyLq.modLq m n _ []).trans (OnlyLq.readyStep _ n [])
  · exact OnlyLq.modLq m n _ []

theorem M.lq_segmentArrive_last (hlast : (m.lq n).groups.all ((m.lq n).arrived ++ [g]).contains = true) :
    (m.segmentArrive n g).lq n = { m.lq n with
      arrived := [], halves := (m.lq n).halves + 1
      readyAt := if (m.lq n).stepping.isSome || (m.lq n).readyAt.isSome then (m.lq n).readyAt else some m.dev.readyCtr } := by
  have hwork : (m.lq n).work ≠ [] := fun h => by simp [h] at hfree
  have hlq := M.lq_modLq_same m n fun q => { q with arrived := [], halves := q.halves + 1 }
  rw [M.segmentArrive_eq hsel hnew hfree, if_pos hlast,
    M.lq_readyStep (by rw [hlq]; exact hwork) (by rw [hlq]; exact Nat.succ_ne_zero _), hlq]
  rfl

end

/-- The tier's longest-waiting step is granted where its layer quadrant does not refresh or owe too many refreshes and the applied
budget has room (R204). -/
theorem M.stepGrant_eq {m : M} {t n : Nat} (hfirst : m.firstReady t = some n) (hidle : (m.lq n).refreshing = false)
    (howed : m.objFld 0x5021 (n + 1) 3 0 ≤ m.postpone)
    (hroom : (m.lq n).banks + (((tierLqs t).filter fun k => (m.lq k).stepping.isSome).map fun k => (m.lq k).banks).foldl (· + ·) 0 ≤
      m.objFld 0x3141 (t + 1) 15 0) :
    m.stepGrant t = m.modLq n fun q => { q with
      readyAt := none, stepping := some (min (stepMax (bankMHz (m.tierState t))) (q.work.headD 0)) } := by
  simp only [M.stepGrant, hfirst, hidle, Nat.not_lt.mpr howed, Nat.not_lt.mpr hroom, decide_false, Bool.or_self, Bool.false_eq_true,
    if_false]

/-! ## The end of a step -/

theorem exec_convoyStepEnd (n : Fin 96) (s : State) :
    exec (.convoyStepEnd n) s = s.run fun m => m.when (m.live && m.tierRuns (tierOf (n.val / 4))) fun m => m.stepEnd n := rfl

/-- A layer quadrant after a step of `c` bank cycles: of its first segment so many are done, and the last takes its half. -/
def Lq.worked (q : Lq) (c : Nat) : Lq :=
  match q.work with
  | [] => { q with stepping := none }
  | w :: rest =>
    if w ≤ c then { q with stepping := none, work := rest, halves := q.halves - (if rest.isEmpty then q.halves else 1) }
    else { q with stepping := none, work := (w - c) :: rest }

section
variable {q : Lq} {c w : Nat} {rest : List Nat} (hwork : q.work = w :: rest)
include hwork

theorem Lq.worked_part (hc : c < w) : q.worked c = { q with stepping := none, work := (w - c) :: rest } := by
  simp only [Lq.worked, hwork, Nat.not_le.mpr hc, if_false]

theorem Lq.worked_whole (hc : w ≤ c) :
    q.worked c = { q with stepping := none, work := rest, halves := if rest = [] then 0 else q.halves - 1 } := by
  simp only [Lq.worked, hwork, hc, if_true, List.isEmpty_iff]
  split <;> simp

end

theorem Lq.worked_waiting (q : Lq) (c : Nat) :
    (q.worked c).stepping = none ∧ (q.worked c).held = q.held ∧ (q.worked c).queue = q.queue := by
  unfold Lq.worked
  split
  · exact ⟨rfl, rfl, rfl⟩
  · split <;> exact ⟨rfl, rfl, rfl⟩

namespace LqAt
variable {a b : M} {n : Nat} {st : Option Nat} {w : List Nat} {hv : Nat}

theorem core (h : LqAt a b n st w hv) (i : Nat) : b.core i = a.core i := by
  rw [M.core, h.cores, M.core]

theorem obj (h : LqAt a b n st w hv) (i j : Nat) : b.obj i j = a.obj i j := by
  rw [M.obj, h.fuse, h.objs, M.obj]

end LqAt

theorem M.lqAt_modLq {m : M} {n : Nat} {f : Lq → Lq} (hheld : (f (m.lq n)).held = []) (hqueue : (f (m.lq n)).queue = []) :
    LqAt m (m.modLq n f) n (f (m.lq n)).stepping (f (m.lq n)).work (f (m.lq n)).halves := by
  have hlq := M.lq_modLq_same m n f
  exact ⟨rfl, rfl, rfl, fun k hk => m.sameLqs_modLq n f k (by simpa using hk), by rw [hlq], by rw [hlq], by rw [hlq],
    hlq ▸ hheld, hlq ▸ hqueue⟩

/-- After a step's boundary a layer quadrant whose next step is not ready refreshes if it owes one, or serves what waits (R193,
R202). -/
def M.rest (m : M) (n : Nat) : M :=
  if (m.lq n).readyAt.isNone then
    if ((m.idleRefresh n).lq n).refreshing then m.idleRefresh n else (m.idleRefresh n).serveAll n
  else m

/-- One that owes no refresh and holds no access keeps its work. -/
theorem LqAt.rest {a b : M} {n : Nat} {st : Option Nat} {w : List Nat} {hv : Nat} (h : LqAt a b n st w hv)
    (howed : a.objFld 0x5021 (n + 1) 3 0 = 0) : LqAt a (b.rest n) n st w hv := by
  have hnone : b.objFld 0x5021 (n + 1) 3 0 = 0 := (congrArg (fld · 3 0) (h.obj _ _)).trans howed
  have hidle : b.idleRefresh n = b := by simp [M.idleRefresh, hnone]
  rw [M.rest, hidle]
  split
  · split
    · exact h
    · exact h.serveAll
  · exact h

/-- The end of a step with no refresh owed: the work done, the boundary, then the judgement whether the core's convoy is done. -/
theorem M.stepEnd_eq {m : M} {n c : Nat} (hstep : (m.lq n).stepping = some c) (howed : m.objFld 0x5021 (n + 1) 3 0 = 0) :
    m.stepEnd n = ((((m.modLq n fun q => q.worked c).serveHeld n).readyStep n).rest n).convoyDone (n / 4) := by
  simp only [M.stepEnd, hstep, M.objFld_modLq, howed, Nat.lt_irrefl, decide_false, Bool.false_and, Bool.false_eq_true, if_false]
  rfl

theorem M.lqAt_step {m : M} {n c : Nat} (hheld : (m.lq n).held = [])
    (hqueue : (m.lq n).queue = []) (howed : m.objFld 0x5021 (n + 1) 3 0 = 0) :
    LqAt m ((((m.modLq n fun q => q.worked c).serveHeld n).readyStep n).rest n) n none ((m.lq n).worked c).work
      ((m.lq n).worked c).halves := by
  obtain ⟨hnone, hheld', hqueue'⟩ := (m.lq n).worked_waiting c
  have hworked := M.lqAt_modLq (f := fun q => q.worked c) (hheld'.trans hheld) (hqueue'.trans hqueue)
  exact (hnone ▸ hworked).serveHeld.ready.rest howed

/-! ## When a convoy is done -/

theorem M.onlyCore_convoyDone (m : M) (i : Nat) : OnlyCore m (m.convoyDone i) i := by
  unfold M.convoyDone
  split
  · exact OnlyCore.modCore _ _ _
  · exact OnlyCore.refl m i

/-- A core with bank work left is not done. -/
theorem M.convoyDone_of_work {m : M} {n : Nat} (hwork : (m.lq n).work ≠ []) : m.convoyDone (n / 4) = m := by
  have hleft : (List.range 4).all (fun l => (m.lq (4 * (n / 4) + l)).work.isEmpty) = false := by
    rw [List.all_eq_false]
    exact ⟨n % 4, by simp [Nat.mod_lt], by rw [Nat.div_add_mod]; simpa using hwork⟩
  exact if_neg (by simp [hleft])

/-- The end of a step where no refresh is owed and no access held: the work done is gone; only where none is left may the core's
manifest change. -/
theorem ends_stepEnd {n : Fin 96} {c : Nat} {s : State} (hlive : (M.of s).live = true)
    (hruns : (M.of s).tierRuns (tierOf (n.val / 4)) = true) (hstep : ((M.of s).lq n).stepping = some c)
    (hheld : ((M.of s).lq n).held = []) (hqueue : ((M.of s).lq n).queue = [])
    (howed : (M.of s).objFld 0x5021 (n + 1) 3 0 = 0) {cores : List Nat}
    (hcores : n.val / 4 ∈ cores ∨ (((M.of s).lq n).worked c).work ≠ []) :
    Ends (.convoyStepEnd n) s fun m' =>
      (m'.lq n).stepping = none ∧ (m'.lq n).work = (((M.of s).lq n).worked c).work ∧
      (m'.lq n).halves = (((M.of s).lq n).worked c).halves ∧
      (M.of s).SameLqs m' [n.val] ∧ (M.of s).SameObjs m' [] ∧ (M.of s).SameCores m' cores := by
  have hat := M.lqAt_step (c := c) hheld hqueue howed
  have heq := M.stepEnd_eq hstep howed
  generalize ((((M.of s).modLq n fun q => q.worked c).serveHeld n).readyStep n).rest n = b at hat heq
  have honly := b.onlyCore_convoyDone (n.val / 4)
  refine ends_to (exec_convoyStepEnd n s) ((M.when_of (by rw [hlive, hruns]; rfl)).trans heq) (honly.fuse.trans hat.fuse)
    fun m' hlike => ?_
  rw [LikeViews.lq hlike, honly.lqs]
  refine ⟨hat.st, hat.work, hat.halves,
    LikeViews.sameLqs hlike fun k hk => (honly.lqs k).trans (hat.others k (by simpa using hk)),
    LikeViews.sameObjs hlike fun i j _ _ _ => (honly.objs i j).trans (hat.obj i j), LikeViews.sameCores hlike fun i hi => ?_⟩
  rcases hcores with hmem | hwork
  · exact (honly.core i fun h => hi (h ▸ hmem)).trans (hat.core i)
  · rw [M.convoyDone_of_work (hat.work ▸ hwork), hat.core]

/-- Settles O37: a segment noted, a step granted and a step ended are each one change of one layer quadrant. -/
theorem bankStepsFollowTheirSegments : Obligations.BankStepsFollowTheirSegments := by
  refine ⟨fun n g s hruns hsel hnew hfree => ⟨fun hmore => ?noted, fun hlast => ?whole⟩,
    fun t n s hlive hup hruns hfirst hidle howed hroom => ?granted,
    fun n c w rest s hlive hruns hstep hwork hheld hqueue howed => ⟨fun hc => ?part, fun hc => ?finished⟩⟩
  case noted =>
    refine does_of (exec_segmentArrive n g s) ((M.when_of hruns).trans ?_)
    rw [M.segmentArrive_eq hsel hnew hfree, if_neg (by rw [hmore]; exact Bool.false_ne_true)]
  case whole =>
    refine OnlyLq.ends (exec_segmentArrive n g s) (M.when_of hruns) (OnlyLq.segmentArrive hsel hnew hfree)
      fun m' hlike _ hlqs hobjs hcores => ⟨?_, hlqs, hobjs, hcores⟩
    rw [LikeViews.lq hlike, M.lq_segmentArrive_last hsel hnew hfree hlast]
  case granted =>
    exact does_of (exec_stepGrant t s)
      ((M.when_of (by rw [hlive, hup, hruns]; rfl)).trans (M.stepGrant_eq hfirst hidle howed hroom))
  case part =>
    have hworked := Lq.worked_part hwork hc
    have h := ends_stepEnd hlive hruns hstep hheld hqueue howed (cores := []) (.inr (by rw [hworked]; exact List.cons_ne_nil _ _))
    rwa [hworked] at h
  case finished =>
    have hworked := Lq.worked_whole hwork hc
    have h := ends_stepEnd hlive hruns hstep hheld hqueue howed (.inl (List.mem_singleton_self _))
    rwa [hworked] at h

end Sys2Proof.Machine
end

section
/-! Refreshes, accesses to the banks and the memory scrubber (08_near_bank_convoys.md R197, R198, R201 to R203;
12_memory_integrity.md R268, R270, R275). -/

namespace Sys2Proof.Machine

/-! ## Refreshes -/

theorem exec_refreshDue (n : Fin 96) (s : State) :
    exec (.refreshDue n) s = s.run fun m => m.when (m.banksRun n) fun m => m.refreshDue n := rfl

theorem exec_refreshDone (n : Fin 96) (s : State) :
    exec (.refreshDone n) s = s.run fun m => m.when (m.banksRun n) fun m => m.refreshDone n := rfl

theorem OnlyLq.idleRefresh (m : M) (n : Nat) (objs : List (Nat × Nat)) : OnlyLq m (m.idleRefresh n) n objs := by
  rcases m.idleRefresh_eq n with h | ⟨h, -⟩
  · rw [h]; exact OnlyLq.modLq m n _ objs
  · rw [h]; exact OnlyLq.refl m n objs

theorem M.lq_idleRefresh (m : M) (n : Nat) :
    (m.idleRefresh n).lq n = { m.lq n with
      refreshing := (m.lq n).refreshing || ((m.lq n).stepping.isNone && decide (0 < m.objFld 0x5021 (n + 1) 3 0)) } :=
  (m.idleRefresh_lq n).1

@[simp] theorem M.objFld_idleRefresh (m : M) (n idx sub hi lo : Nat) :
    (m.idleRefresh n).objFld idx sub hi lo = m.objFld idx sub hi lo := by
  obtain ⟨-, -, -, hobj, -⟩ := m.idleRefresh_lq n
  rw [M.objFld, hobj, M.objFld]

/-- The count of refreshes owed, written. -/
theorem M.owed_setObjFld (m : M) (n : Nat) {v : Nat} (hv : v < 16) :
    (m.setObjFld 0x5021 (n + 1) 3 0 v).objFld 0x5021 (n + 1) 3 0 = v :=
  (m.objFld_setObjFld_same _ _ 3 0 v).trans (Nat.mod_eq_of_lt hv)

theorem OnlyLq.refreshDue (m : M) {n : Nat} (hn : n < 96) : OnlyLq m (m.refreshDue n) n [(0x5021, n + 1)] :=
  (OnlyLq.setObj m n _ _ (by omega)).trans (OnlyLq.idleRefresh _ n _)

/-- Nothing that waits: to serve it changes nothing else (R202). -/
theorem M.serveAll_of_empty {m : M} {n : Nat} (hheld : (m.lq n).held = []) (hqueue : (m.lq n).queue = []) :
    m.serveAll n = m.modLq n fun q => { q with held := [], queue := [] } := by
  simp only [M.serveAll, hheld, hqueue, List.append_nil, List.foldl_nil]

section
variable {m : M} {n : Nat} (hrefresh : (m.lq n).refreshing = true) (hheld : (m.lq n).held = []) (hqueue : (m.lq n).queue = [])
include hrefresh hheld hqueue

/-- A refresh that ends with nothing waiting: one less is owed, and the next one owed may begin. -/
theorem M.refreshDone_eq :
    m.refreshDone n =
      ((m.refreshed n).modLq n fun q => { q with refreshing := false, held := [], queue := [] }).idleRefresh n := by
  have hlq := M.lq_modLq_same (m.refreshed n) n fun q => { q with refreshing := false }
  rw [M.refreshDone, if_neg (by simp [hrefresh]), M.serveAll_of_empty (by rw [hlq]; exact hheld) (by rw [hlq]; exact hqueue),
    M.modLq_modLq]

theorem M.lq_refreshDone :
    (m.refreshDone n).lq n = { m.lq n with
      refreshing := (m.lq n).stepping.isNone && decide (0 < m.objFld 0x5021 (n + 1) 3 0 - 1) } := by
  have hlt : m.objFld 0x5021 (n + 1) 3 0 < 16 := fld_lt _ 3 0
  rw [M.refreshDone_eq hrefresh hheld hqueue, M.lq_idleRefresh, M.lq_modLq_same, M.objFld_modLq, M.refreshed,
    M.owed_setObjFld _ _ (by omega), M.lq_setObjFld]
  simp only [hheld, hqueue, Bool.false_or]

theorem M.owed_refreshDone : (m.refreshDone n).objFld 0x5021 (n + 1) 3 0 = m.objFld 0x5021 (n + 1) 3 0 - 1 := by
  have hlt : m.objFld 0x5021 (n + 1) 3 0 < 16 := fld_lt _ 3 0
  rw [M.refreshDone_eq hrefresh hheld hqueue, M.objFld_idleRefresh, M.objFld_modLq, M.refreshed, M.owed_setObjFld _ _ (by omega)]

theorem OnlyLq.refreshDone (hn : n < 96) : OnlyLq m (m.refreshDone n) n [(0x5021, n + 1)] := by
  rw [M.refreshDone_eq hrefresh hheld hqueue]
  exact (OnlyLq.setObj m n _ _ (by omega)).trans ((OnlyLq.modLq _ n _ _).trans (OnlyLq.idleRefresh _ n _))

end

/-- Settles O38: a refresh that falls due and one that ends change the count owed and one layer quadrant. -/
theorem refreshesAreOwedAndTaken : Obligations.RefreshesAreOwedAndTaken := by
  refine fun n s hruns => ⟨?due, fun hrefresh hheld hqueue => ?done⟩
  case due =>
    refine OnlyLq.ends (exec_refreshDue n s) (M.when_of hruns) (OnlyLq.refreshDue _ n.isLt)
      fun m' hlike _ hlqs hobjs hcores => ⟨?_, ?_, hlqs, hobjs, hcores⟩
    · rw [LikeViews.objFld hlike, M.refreshDue, M.objFld_idleRefresh, M.owed_setObjFld _ _ (by omega)]
    · rw [LikeViews.lq hlike, M.refreshDue, M.lq_idleRefresh, M.owed_setObjFld _ _ (by omega),
        decide_eq_true (by omega : 0 < min 8 ((M.of s).objFld 0x5021 (n.val + 1) 3 0 + 1)), Bool.and_true]
      rfl
  case done =>
    refine OnlyLq.ends (exec_refreshDone n s) (M.when_of hruns) (OnlyLq.refreshDone hrefresh hheld hqueue n.isLt)
      fun m' hlike _ hlqs hobjs hcores => ⟨?_, ?_, hlqs, hobjs, hcores⟩
    · rw [LikeViews.objFld hlike, M.owed_refreshDone hrefresh hheld hqueue]
    · rw [LikeViews.lq hlike, M.lq_refreshDone hrefresh hheld hqueue]
      simp only [Nat.sub_pos_iff_lt]

/-! ## Accesses -/

theorem exec_bankAccess (u source : Nat) (data : Option (List (Option Byte))) (p : Bool) (err : UnitErr) (s : State) :
    exec (.bankAccess u source data p err) s = s.run fun m =>
      m.when (lineOf u < memEnd && m.reach (if source = 1 then some (lineOf u / columnSize) else none) (lineOf u) &&
        m.tierRuns (lineOf u / columnSize / 4)) fun m =>
          m.bankAccess { unit := lineOf u, source, data := data.map (·.take 64), poison := p, err } := rfl

section
variable {m : M} {h : HeldAccess} {n : Nat} (hn : h.unit / lqSize = n)

section
include hn

/-- An access to a bank in mid-step, or in a layer quadrant that refreshes, is held, eight to a bank (R197, R198, R202). -/
theorem M.bankAccess_held (hbusy : ((m.lq n).busyBank (bankOf h.unit) || (m.lq n).refreshing) = true) :
    m.bankAccess h =
      if heldAt (m.lq n).held (bankOf h.unit) < 8 then m.modLq n fun q => { q with held := q.held ++ [h] }
      else m.modLq n fun q => { q with queue := q.queue ++ [h] } := by
  subst hn
  exact if_pos hbusy

theorem M.bankAccess_free (hfree : ((m.lq n).busyBank (bankOf h.unit) || (m.lq n).refreshing) = false) :
    m.bankAccess h = m.serve h := by
  subst hn
  exact if_neg (by rw [hfree]; exact Bool.false_ne_true)

end

/-- A whole unit is stored unread (R270). -/
theorem M.serve_whole {bs : List Byte} (hlen : bs.length = 64) (hdata : h.data = some (bs.map some)) :
    m.serve h = m.storeMask h.unit (bs.map fun b => (some b, h.poison)) := by
  have hwhole : ((bs.map some).length == 64 && (bs.map some).all (·.isSome)) = true := by
    simp [hlen]
  simp only [M.serve, hdata, hwhole, if_true, List.map_map]
  rfl

/-- A read of a unit without an error changes nothing, but that the scrubber asks for a poisoned unit's reload (R268, R275). -/
theorem M.serve_clean_read (hdata : h.data = none) (herr : h.err = []) (hreload : h.source ≠ 0 ∨ m.marked h.unit = false) :
    m.serve h = m := by
  have hquiet : (h.source = 0 && m.marked h.unit) = false := by
    rcases hreload with hsource | hclean
    · rw [decide_eq_false hsource, Bool.false_and]
    · rw [hclean, Bool.and_false]
  simp only [M.serve, hdata, herr, M.judgeUnit_clean, hquiet, Bool.false_eq_true, if_false]

end

/-- A command that stores one whole unit: its bytes and its mark are what is read there; all else stands. -/
theorem ends_storeUnit {c : Instr} {s : State} {f : M → M} {u : Nat} {p : Bool} {bs : List Byte} (e : exec c s = s.run f)
    (hf : f (M.of s) = (M.of s).storeMask u (bs.map fun b => (some b, p))) (hu : u % 64 = 0) (hlen : bs.length = 64)
    (hsound : s.sound) :
    Ends c s fun m' =>
      (∀ k, k < 64 → m'.byte (u + k) = bs.getD k 0) ∧ m'.marked u = p ∧ (M.of s).SameOutside m' u 64 ∧
      (M.of s).SameObjs m' [] ∧ (M.of s).SameCores m' [] ∧ (M.of s).SameLqs m' [] := by
  have honly : M.OnlyMem (M.of s) (f (M.of s)) := hf ▸ M.onlyMem_storeMask _ _ _
  have hlike' : M.Like (f (M.of s)) (M.of s) := ⟨honly.fuse, honly.dev⟩
  refine ends_mem e hsound honly.fuse honly.base fun m' hlike hbyte hmark => ⟨fun k hk => ?_, ?_, fun x hx => ?_,
    fun i j _ _ _ => (LikeViews.obj hlike i j).trans (LikeViews.obj hlike' i j),
    fun i _ => (LikeViews.core hlike i).trans (LikeViews.core hlike' i),
    fun n _ => (LikeViews.lq hlike n).trans (LikeViews.lq hlike' n)⟩
  · rw [hbyte, hf, M.byte_storeMask, if_pos (by simp [hlen, hk])]
    simp [hlen, hk]
  · have hline : lineOf u = u := by rw [lineOf]; omega
    rw [hmark, hf, M.marked_storeMask_map _ _ _ _ _ (by omega), hline, hlen, if_pos (by omega)]
    simp
  · rw [hbyte, hf, M.byte_storeMask, if_neg (by rw [List.length_map, hlen]; omega)]

/-! ## The memory scrubber -/

theorem exec_scrubUnit (n : Fin 96) (err : UnitErr) (s : State) :
    exec (.scrubUnit n err) s = s.run fun m => m.when (m.banksRun n) fun m => m.scrub n err := rfl

/-- A unit of a free bank without an error or a mark, in no tract under conversion: the scrubber goes on to the next (R275). -/
theorem M.scrub_clean {m : M} {n u : Nat} (hu : u = n * lqSize + 64 * (m.lq n).scrubUnit) (hunit : (m.lq n).scrubUnit < lqUnits)
    (hfree : ((m.lq n).busyBank (bankOf u) || (m.lq n).refreshing) = false) (hclean : m.marked u = false)
    (hconv : (m.dev.convs.any fun c => c.begun && c.column == n / 4 && c.tract == 384 * (n % 4) + tractOf u) = false) :
    m.scrub n [] = m.scrubTo n ((m.lq n).scrubUnit + 1) := by
  have hn : u / lqSize = n := by
    simp only [lqSize, lqUnits] at hu hunit ⊢
    omega
  have hserved : m.bankAccess { unit := u, source := 0, data := none, poison := false, err := [] } = m :=
    (M.bankAccess_free hn hfree).trans (M.serve_clean_read rfl rfl (.inr hclean))
  simp only [M.scrub, ← hu, hconv, Bool.false_eq_true, if_false, hserved]

section
variable (m : M) (n u : Nat)

/-- The count of passes rises where the scrubber wraps. -/
def M.scrubPass : M := if lqUnits ≤ u then m.wrapObj 0x5031 (n + 1) 63 32 1 else m

theorem M.scrubTo_eq :
    m.scrubTo n u = ((m.modLq n fun q => { q with scrubUnit := u % lqUnits }).scrubPass n u).setObjFld 0x5031 (n + 1) 8 0
      (u % lqUnits / 4194304) := rfl

theorem M.lq_scrubPass (k : Nat) : (m.scrubPass n u).lq k = m.lq k := by
  unfold M.scrubPass
  split <;> rfl

theorem OnlyLq.scrubPass {n : Nat} (hn : n < 96) : OnlyLq m (m.scrubPass n u) n [(0x5031, n + 1)] := by
  unfold M.scrubPass
  split
  · exact OnlyLq.setObj m n _ _ (by omega)
  · exact OnlyLq.refl m n _

theorem OnlyLq.scrubTo {n : Nat} (hn : n < 96) : OnlyLq m (m.scrubTo n u) n [(0x5031, n + 1)] :=
  (OnlyLq.modLq m n (fun q => { q with scrubUnit := u % lqUnits }) _).trans
    ((OnlyLq.scrubPass _ u hn).trans (OnlyLq.setObj _ n _ _ (by omega)))

theorem M.lq_scrubTo : (m.scrubTo n u).lq n = { m.lq n with scrubUnit := u % lqUnits } := by
  rw [M.scrubTo_eq, M.lq_setObjFld, M.lq_scrubPass, M.lq_modLq_same]

/-- The tract the scrubber is in (R275). -/
theorem M.scrubTract_scrubTo : (m.scrubTo n u).objFld 0x5031 (n + 1) 8 0 = u % lqUnits / 4194304 := by
  rw [M.scrubTo_eq, M.objFld_setObjFld_same]
  exact Nat.mod_eq_of_lt (by unfold lqUnits; omega)

/-- The count of passes, kept or raised. -/
theorem M.scrubPasses_scrubTo :
    (m.scrubTo n u).objFld 0x5031 (n + 1) 63 32 =
      if lqUnits ≤ u then (m.objFld 0x5031 (n + 1) 63 32 + 1) % 2 ^ 32 else m.objFld 0x5031 (n + 1) 63 32 := by
  rw [M.scrubTo_eq, M.objFld, M.obj_setObjFld_same, fld_setFld_above _ _ _ _ _ _ (by omega) (by omega), M.scrubPass]
  split
  · rw [M.obj_wrapObj_same, wrapFld, fld_setFld_same]
    rfl
  · rfl

end

/-- What an access at the first byte of a unit runs. -/
theorem exec_bankAccess_unit {u source : Nat} (data : Option (List (Option Byte))) (p : Bool) (err : UnitErr) {s : State}
    (hu : u % 64 = 0) (hend : u < memEnd) (hreach : (M.of s).reach (if source = 1 then some (u / columnSize) else none) u = true)
    (hruns : (M.of s).tierRuns (u / columnSize / 4) = true) :
    exec (.bankAccess u source data p err) s =
      s.run fun m => m.bankAccess { unit := u, source, data := data.map (·.take 64), poison := p, err } := by
  have hline : lineOf u = u := by rw [lineOf]; omega
  have hdue : (decide (u < memEnd) && (M.of s).reach (if source = 1 then some (u / columnSize) else none) u &&
      (M.of s).tierRuns (u / columnSize / 4)) = true := by
    rw [hreach, hruns, decide_eq_true hend]; rfl
  rw [exec_bankAccess, hline, State.run, M.when_of hdue, State.run]

/-- Settles O39, by the cases of an access (held, a whole unit stored, a unit read) and the scrubber's next unit. -/
theorem banksServeAccesses : Obligations.BanksServeAccesses := by
  refine ⟨fun u source data p err s hu hend hreach hruns => ?access,
    fun n s hruns hunit hfree hclean hconv => ?scrubbed⟩
  case access =>
    have hexec := exec_bankAccess_unit data p err hu hend hreach hruns
    refine ⟨fun hbusy => does_of hexec (M.bankAccess_held rfl hbusy), fun hfree => ⟨fun bs hlen hdata hsound => ?stored,
      fun hdata herr hsource => ?read⟩⟩
    case stored =>
      have htake : data.map (·.take 64) = some (bs.map some) := by
        rw [hdata, Option.map_some, List.take_of_length_le (by rw [List.length_map]; omega)]
      exact ends_storeUnit hexec ((M.bankAccess_free rfl hfree).trans (M.serve_whole hlen htake)) hu hlen hsound
    case read =>
      exact does_of hexec ((M.bankAccess_free rfl hfree).trans
        (M.serve_clean_read (by rw [hdata]; rfl) herr (.inl hsource)))
  case scrubbed =>
    refine OnlyLq.ends (exec_scrubUnit n [] s) ((M.when_of hruns).trans (M.scrub_clean rfl hunit hfree hclean hconv))
      (OnlyLq.scrubTo _ _ n.isLt) fun m' hlike hmem hlqs hobjs hcores => ?_
    simp only [LikeViews.lq hlike, LikeViews.objFld hlike, M.lq_scrubTo, M.scrubTract_scrubTo, M.scrubPasses_scrubTo, true_and]
    exact ⟨fun hnext => if_neg (by omega), fun hwrap => if_pos (by omega), hmem, hlqs, hobjs, hcores⟩

end Sys2Proof.Machine
end

section
/-! Tract modes (08_near_bank_convoys.md R187, R188): the write of a mode word, and the conversions it asks for. -/

namespace Sys2Proof.Machine

/-! ## The mode word -/

theorem exec_tractModeWrite (p : Party) (c sub : Fin 24) (v : W64) (s : State) :
    exec (.tractModeWrite p c sub v) s = s.run fun m => m.partyWrite p (0x5110 + c.val) (sub.val + 1) v.toNat := rfl

/-- The mode word of 64 tracts: any value, written by the owner. -/
def tractSpec : ObjSpec := oRW tyB64 8 0 false [⟨63, 0, .rw⟩]

theorem objSpec_tract : ∀ c sub : Fin 24, objSpec (0x5110 + c.val) (sub.val + 1) = some tractSpec := by decide

theorem tractSpec_takes (v : Nat) :
    tractSpec.reservedSet v = false ∧ tractSpec.badCode v = false ∧ tractSpec.clampAll v = v := by
  obtain ⟨hcode, hclamp⟩ := takesAny tractSpec.fields (judge_rw _ rfl) v
  refine ⟨reserved_none _ _ fun i hi hcovered => ?_, hcode, hclamp⟩
  have hlt : i < 64 := hi
  have hin : tractSpec.covered i = true := by
    simp [ObjSpec.covered, tractSpec, oRW]
    omega
  exact absurd (hin.symm.trans hcovered) Bool.noConfusion

theorem tractSpec_store (old : Nat) {v : Nat} (hv : v < 2 ^ 64) : tractSpec.store old v = v := by
  show setFld 0 63 0 (fld v 63 0) = v
  rw [fld_all 63 v hv, setFld_all 63 v hv]

/-- The state once the mode word is stored and every tract that changes waits for its conversion. -/
def M.convertTracts (m : M) (c sub v : Nat) (changed : List Nat) : M :=
  let convs := m.dev.convs ++ changed.map fun i => { column := c, tract := 64 * sub + i, toOpen := v.testBit i, begun := false }
  ({ m.setObj (0x5110 + c) (sub + 1) v with dev := { (m.setObj (0x5110 + c) (sub + 1) v).dev with convs } } : M).setObj
    (0x5110 + c) 25 (convs.filter fun x => x.column == c).length

theorem M.applyField_tract {m : M} (p : Party) {c sub v : Nat} (hc : c < 24) (hv : v < 2 ^ 64)
    (hfree : (bitsSet (m.obj (0x5110 + c) (sub + 1) ^^^ v) 64).any (fun i => m.converting c (64 * sub + i)) = false) :
    m.applyField p (0x5110 + c) (sub + 1) tractSpec v =
      (0, m.convertTracts c sub v (bitsSet (m.obj (0x5110 + c) (sub + 1) ^^^ v) 64)) := by
  have hindex : (0x5110 + c) / 4096 = 5 := by omega
  have hcolumn : 0x5110 + c - 0x5110 = c := by omega
  have hrange : (decide (0x5110 ≤ 0x5110 + c) && decide (0x5110 + c ≤ 0x5127)) = true := by simp; omega
  simp only [M.applyField, hindex, M.apply5, hrange, if_true, M.writeTracts, hcolumn, tractSpec_store _ hv, Nat.add_sub_cancel, hfree,
    Bool.false_eq_true, if_false]
  rfl

/-! ## Conversions -/

theorem exec_tractConversionStart (c : Fin 24) (t : Fin 1536) (s : State) :
    exec (.tractConversionStart c t) s = s.run fun m => m.when (m.banksRun (4 * c.val + t.val / 384)) fun m => m.convStart c t := rfl

theorem exec_tractConversionDone (c : Fin 24) (t : Fin 1536) (s : State) :
    exec (.tractConversionDone c t) s = s.run fun m => m.when (m.banksRun (4 * c.val + t.val / 384)) fun m => m.convDone c t := rfl

/-- The device with other conversions under way or waiting. -/
def M.withConvs (m : M) (l : List Conversion) : M := { m with dev := { m.dev with convs := l } }

/-- A conversion of tract `t` of column `c` that has begun. -/
def Conversion.start (c t : Nat) (x : Conversion) : Conversion :=
  { x with begun := x.begun || (x.column == c && x.tract == t) }

section
variable {m : M} {c t : Nat}

theorem M.convStart_eq (hfree : (m.dev.cores.any fun e => e.2.slots.any (m.slotTouches e.1 c t)) = false) :
    m.convStart c t = m.withConvs (m.dev.convs.map (Conversion.start c t)) := by
  have hstart : (fun x : Conversion => if x.column = c && x.tract = t then { x with begun := true } else x) = Conversion.start c t := by
    funext x
    show (if x.column == c && x.tract == t then { x with begun := true } else x) = _
    rw [Conversion.start]
    cases x.column == c && x.tract == t
    · simp
    · simp
  rw [M.convStart, if_neg (by rw [hfree]; exact Bool.false_ne_true), hstart, M.withConvs]

theorem M.convDone_eq (hbegun : (m.dev.convs.any fun x => x.column == c && x.tract == t && x.begun) = true) :
    m.convDone c t =
      let left := m.dev.convs.filter fun x => !(x.column == c && x.tract == t)
      (m.withConvs left).setObj (0x5110 + c) 25 (left.filter fun x => x.column == c).length :=
  if_pos hbegun

end

/-- Settles O42, by what the write of a mode word, the start of a conversion and its end make of the conversions. -/
theorem tractModesConvert : Obligations.TractModesConvert := by
  refine ⟨fun p c sub v s hserves hfree => ?written, fun c t s hruns => ⟨fun hfree => ?begun, fun hbegun => ?done⟩⟩
  case written =>
    obtain ⟨hhears, hup, howner⟩ := hserves
    obtain ⟨hreserved, hcode, hclamp⟩ := tractSpec_takes v.toNat
    have havailable : (M.of s).unavailable (0x5110 + c.val) false = false := by
      simp [M.unavailable]
      omega
    exact applies_of (exec_tractModeWrite p c sub v s) hhears hup (fun _ => howner) (objSpec_tract c sub) havailable rfl hreserved
      hcode hclamp (M.applyField_tract p c.isLt v.isLt hfree)
  case begun =>
    exact ends_quiet (exec_tractConversionStart c t s) ((M.when_of hruns).trans (M.convStart_eq hfree)) rfl rfl
      fun m' hlike hmem => ⟨congrArg Dev.convs hlike.dev, hmem, LikeViews.sameObjs hlike fun _ _ _ _ _ => rfl,
        LikeViews.sameCores hlike fun _ _ => rfl, LikeViews.sameLqs hlike fun _ _ => rfl⟩
  case done =>
    refine ends_quiet (exec_tractConversionDone c t s) ((M.when_of hruns).trans (M.convDone_eq hbegun)) rfl rfl
      fun m' hlike hmem => ?_
    have hconvs : m'.dev.convs = (M.of s).dev.convs.filter fun x => !(x.column == c.val && x.tract == t.val) :=
      congrArg Dev.convs hlike.dev
    refine ⟨hconvs, ?_, hmem, LikeViews.sameObjs hlike fun i j hj _ hn => ?_, LikeViews.sameCores hlike fun _ _ => rfl,
      LikeViews.sameLqs hlike fun _ _ => rfl⟩
    · rw [LikeViews.obj hlike, M.obj_setObj_same, hconvs]
    · exact M.obj_setObj_ne _ _ _ _ i j hj (by decide) (by simpa using hn)

end Sys2Proof.Machine
end

section
/-! The Cistern's owner and its clearing (11_training_path.md R255): what the write of the owner object asks for, what the clear
makes of the core and of CLEARING, and the obligation on both. -/

namespace Sys2Proof.Machine

/-! ## The owner's write -/

theorem exec_cisternOwnerWrite (p : Party) (i : Fin 24) (v : BitVec 32) (s : State) :
    exec (.cisternOwnerWrite p i v) s = s.run fun m => m.partyWrite p 0x8040 (i.val + 1) v.toNat := rfl

/-- The owner object of a Cistern: CLEARING, read-only, over the owner's five bits. -/
def cisternSpec : ObjSpec := oRWD tyB32 4 0 false [⟨5, 5, .ro⟩, ⟨4, 4, .rw⟩, ⟨3, 0, .rw⟩]

theorem objSpec_cistern : ∀ i : Fin 24, objSpec 0x8040 (i + 1) = some cisternSpec := by decide

theorem cisternSpec_reservedSet {v : Nat} (hv : v < 32) : cisternSpec.reservedSet v = false := by
  refine reserved_none _ _ fun i _ hcovered => ?_
  have hhigh : 5 ≤ i := by
    by_contra hlow
    simp [ObjSpec.covered, cisternSpec, oRWD] at hcovered
    omega
  exact Nat.testBit_lt_two_pow (hv.trans_le (Nat.pow_le_pow_right (n := 2) (by decide) hhigh))

/-- The owner's bits take the value written; CLEARING stands. -/
theorem cisternSpec_store (old : Nat) {v : Nat} (hv : v < 32) : cisternSpec.store old v = setFld v 5 5 (fld old 5 5) := by
  have hparts : ∀ (v : Fin 32) (clearing : Fin 2),
      setFld (setFld (setFld 0 5 5 clearing) 4 4 (fld v 4 4)) 3 0 (fld v 3 0) = setFld v 5 5 clearing := by decide
  exact hparts ⟨v, hv⟩ ⟨fld old 5 5, fld_lt old 5 5⟩

/-- Another owner, on a device that has a Cistern whose clock is not gated off: a clear is asked for. -/
theorem M.writeCistern_eq {m put : M} {i v : Nat} (hgrad : m.fuse.gradOn = true) (hgate : m.objBit 0x2040 (i + 1) 8 = false)
    (hv : v < 32) (hnew : v ≠ m.objFld 0x8040 (i + 1) 4 0) :
    m.writeCistern put i v = (0, put.modCore i fun c => { c with cisPending := true }) := by
  rw [M.writeCistern, if_neg (by simp [hgrad]), if_neg (by simp [hgate]), fld_all 4 v hv, if_neg hnew]

theorem M.applyField_cistern {m : M} (p : Party) {i v : Nat} (hgrad : m.fuse.gradOn = true)
    (hgate : m.objBit 0x2040 (i + 1) 8 = false) (hv : v < 32) (hnew : v ≠ m.objFld 0x8040 (i + 1) 4 0) :
    m.applyField p 0x8040 (i + 1) cisternSpec v =
      (0, (m.setObj 0x8040 (i + 1) (setFld v 5 5 (m.objFld 0x8040 (i + 1) 5 5))).modCore i fun c => { c with cisPending := true }) := by
  show m.writeCistern (m.setObj 0x8040 (i + 1) (cisternSpec.store (m.obj 0x8040 (i + 1)) v)) i v = _
  rw [M.writeCistern_eq hgrad hgate hv hnew, cisternSpec_store _ hv]
  rfl

/-! ## The clear -/

theorem exec_cisternClearStart (i : Fin 24) (s : State) :
    exec (.cisternClearStart i) s = s.run fun m => m.when (m.live && !m.coreDown i) fun m => m.cisStart i := rfl

theorem exec_cisternClearDone (i : Fin 24) (s : State) :
    exec (.cisternClearDone i) s = s.run fun m => m.when (m.live && !m.coreDown i) fun m => m.cisDone i := rfl

theorem M.cisStart_eq {m : M} {i : Nat} (hasked : (m.core i).cisPending = true) (hfree : m.cisFree i = true) :
    m.cisStart i = (m.modCore i fun c => { c with cisPending := false }).setObjBit 0x8040 (i + 1) 5 true :=
  if_pos (by rw [hasked, hfree]; rfl)

theorem M.cisDone_eq {m : M} {i : Nat} (hclearing : m.objBit 0x8040 (i + 1) 5 = true) :
    m.cisDone i = (m.clearCis i).setObjBit 0x8040 (i + 1) 5 false :=
  if_pos hclearing

/-- An entry of a core whose table of entries and whose list of poisoned ones are empty. -/
theorem M.cis_of_empty {m : M} {i : Nat} (hentries : (m.core i).cistern = []) (hmarks : (m.core i).cisPoison = []) (e : Nat) :
    m.cis i e = (0, false) := by
  rw [M.cis, hentries, hmarks]
  rfl

theorem M.objFld_setObjBit_ne (m : M) (idx sub k : Nat) (b : Bool) {hi lo : Nat} (hk : k < lo ∨ hi < k) :
    (m.setObjBit idx sub k b).objFld idx sub hi lo = m.objFld idx sub hi lo := by
  rw [M.setObjBit, M.objFld, M.obj_setObjFld_same]
  exact fld_setBit_ne _ _ _ _ _ hk

/-- A command that changes one core and its CLEARING bit leaves the owner, memory and all else. -/
theorem ends_clearing {c : Instr} {s : State} {g : M → M} {i : Fin 24} {f : Core → Core} {b : Bool} {P : M → Prop}
    (e : exec c s = s.run g) (hr : g (M.of s) = ((M.of s).modCore i f).setObjBit 0x8040 (i + 1) 5 b)
    (hP : ∀ m', m'.core i = f ((M.of s).core i) → m'.objBit 0x8040 (i + 1) 5 = b →
      m'.objFld 0x8040 (i + 1) 4 0 = (M.of s).objFld 0x8040 (i + 1) 4 0 ∧
      (M.of s).SameMem m' ∧ (M.of s).SameObjs m' [(0x8040, i + 1)] ∧ (M.of s).SameCores m' [i] ∧ (M.of s).SameLqs m' [] → P m') :
    Ends c s P := by
  have honly := OnlyCore.modCore (M.of s) i f
  have hkept := ((M.of s).modCore i f).kept_setObjBit 0x8040 (i + 1) 5 b
  refine ends_quiet e hr rfl rfl fun m' hlike hmem => hP m' ?core ?clearing
    ⟨?owner, hmem, LikeViews.sameObjs hlike fun x y hy _ hn => ?objs, LikeViews.sameCores hlike fun j hj => ?cores,
      LikeViews.sameLqs hlike fun _ _ => rfl⟩
  case core => rw [LikeViews.core hlike, hkept.cores, M.core_modCore_same]
  case clearing => rw [LikeViews.objBit hlike, M.objBit_setObjBit, if_pos rfl]
  case owner => rw [LikeViews.objFld hlike, M.objFld_setObjBit_ne _ _ _ _ _ (.inr (by decide)), M.objFld_modCore]
  case objs => exact (M.obj_setObjBit_ne _ _ _ _ _ x y hy (by omega) (by simpa using hn)).trans (honly.objs x y)
  case cores => exact (hkept.cores j).trans (honly.sameCores j hj)

/-- Settles O43: the write asks for the clear, and its start and its end each change one core and its CLEARING bit. -/
theorem cisternsAreCleared : Obligations.CisternsAreCleared := by
  refine ⟨fun p i v s hserves hgrad hv hgate hnew => ?written,
    fun i s hlive hup => ⟨fun hasked hfree => ?begun, fun hclearing => ?done⟩⟩
  case written =>
    obtain ⟨hhears, hresponds, howner⟩ := hserves
    obtain ⟨hcode, hclamp⟩ := takesAny cisternSpec.fields (judge_rw _ rfl) v.toNat
    exact applies_of (exec_cisternOwnerWrite p i v s) hhears hresponds (fun _ => howner) (objSpec_cistern i) rfl rfl
      (cisternSpec_reservedSet hv) hcode hclamp (M.applyField_cistern p hgrad hgate hv hnew)
  case begun =>
    exact ends_clearing (exec_cisternClearStart i s) ((M.when_of (by rw [hlive, hup]; rfl)).trans (M.cisStart_eq hasked hfree))
      fun m' hcore hbit hrest => ⟨hcore, hbit, hrest⟩
  case done =>
    refine ends_clearing (exec_cisternClearDone i s) ((M.when_of (by rw [hlive, hup]; rfl)).trans (M.cisDone_eq hclearing))
      fun m' hcore hbit hrest => ⟨M.cis_of_empty ?_ ?_, hbit, hcore, hrest⟩
    · rw [hcore]
    · rw [hcore]

end Sys2Proof.Machine
end

section
/-! The SRAM scrubber (12_memory_integrity.md R273, R274, R279): what one wrong bit of a block is judged to be, flips that leave a
block as it was, and the count of blocks mended. -/

namespace Sys2Proof.Machine

theorem exec_sramScrub (store block : Nat) (err : List (Nat × BitVec 16)) (rErr cErr : BitVec 16) (s : State) :
    exec (.sramScrub store block err rErr cErr) s = s.run fun m =>
      m.when m.live fun m => m.sramScrub store block err rErr.toNat cErr.toNat := rfl

/-! ## One wrong bit -/

theorem bitsSet_two_pow : ∀ b : Fin 16, bitsSet (2 ^ b.val) 16 = [b.val] := by decide

theorem oneBit_two_pow (b : Fin 16) : oneBit (2 ^ b.val) = some b.val := by
  rw [oneBit, bitsSet_two_pow]

/-- A fold over the words of a block of which only the step at `w` changes anything. -/
theorem foldl_range_single {α : Type} {f : α → Nat → α} {w : Nat} (hf : ∀ v i, i ≠ w → f v i = v) (z : α) (n : Nat) :
    (List.range n).foldl f z = if w < n then f z w else z := by
  induction n with
  | zero => rfl
  | succ n ih =>
    rw [List.range_succ, List.foldl_append, List.foldl_cons, List.foldl_nil, ih]
    rcases Nat.lt_trichotomy w n with h | h | h
    · rw [if_pos h, if_pos (by omega), hf _ _ h.ne']
    · rw [if_neg (by omega), if_pos (by omega), h]
    · rw [if_neg (by omega), if_neg (by omega), hf _ _ h.ne]

/-- The column parities of a block of which only word `w` is not zero. -/
theorem gfSum_single (w : Fin 16) (x : Nat) : gfSum ((List.range 16).map fun i => if i = w.val then x else 0) = x := by
  rw [gfSum, List.foldl_map, foldl_range_single (w := w.val) (fun v i h => by simp [h]), if_pos w.isLt]
  simp

/-- The row parities of a block of which only row `w` is odd. -/
theorem rowBits_single (w : Fin 16) :
    (List.range 16).foldl (fun v i => if i = w.val then v + 2 ^ i else v) 0 = 2 ^ w.val := by
  rw [foldl_range_single (w := w.val) (fun v i h => if_neg h), if_pos w.isLt]
  simp

theorem toNat_ofNat_two_pow (b : Fin 16) : (BitVec.ofNat 16 (2 ^ b.val)).toNat = 2 ^ b.val :=
  Nat.mod_eq_of_lt (Nat.pow_lt_pow_right (by decide) b.isLt)

/-- One wrong data bit shows in the parity of its row and in that of its column alone: it is flipped back (R273). -/
theorem judgeSram_oneBit {w b : Fin 16} {v : BitVec 16} (hv : v.toNat = 2 ^ b.val) :
    judgeSram false [(w.val, v)] 0 0 = ⟨false, some (w.val, b.val), 1⟩ := by
  have hword : ∀ i : Nat,
      gfSum (([(w.val, v)].filter fun e => e.1 == i).map fun e => e.2.toNat) = if i = w.val then 2 ^ b.val else 0 := by
    intro i
    by_cases h : i = w.val
    · simp [h, gfSum, hv]
    · simp [h, Ne.symm h, gfSum]
  have hodd : ∀ i : Nat, (bitsSet (if i = w.val then 2 ^ b.val else 0) 16).length % 2 = 1 ↔ i = w.val := by
    intro i
    by_cases h : i = w.val
    · simp [h, bitsSet_two_pow]
    · simp [h, bitsSet]
  have hone : ∀ i : Fin 16, 2 ^ i.val ≠ 0xFFFF := by decide
  simp [judgeSram, hword, hodd, rowBits_single, gfSum_single, hone, oneBit_two_pow]

/-! ## Flips -/

/-- The bits of `x.2` flipped in byte `x.1` of the block at `a`. -/
def M.flip (a : Nat) (m : M) (x : Nat × Nat) : M :=
  if x.2 = 0 then m else m.op (.put (a + x.1) (m.byte (a + x.1) ^^^ BitVec.ofNat 8 x.2))

theorem M.scrubLine_eq (m : M) (owner a : Nat) (err : List (Nat × BitVec 16)) (r c : Nat) {f : SramFind}
    (hf : judgeSram (m.marked a) err r c = f) :
    m.scrubLine owner a err r c = (((sramChanges err f).foldl (M.flip a) m).setMark a f.poison).countSram owner f := by
  subst hf
  rfl

theorem M.byte_flip (a : Nat) (m : M) (x : Nat × Nat) (y : Nat) :
    (m.flip a x).byte y = m.byte y ^^^ if a + x.1 = y then BitVec.ofNat 8 x.2 else 0 := by
  unfold M.flip
  by_cases hzero : x.2 = 0
  · simp [hzero]
  · rw [if_neg hzero, M.byte_op_put]
    by_cases hy : a + x.1 = y
    · simp [hy]
    · simp [hy]

theorem M.onlyMem_flip (a : Nat) (m : M) (x : Nat × Nat) : M.OnlyMem m (m.flip a x) := by
  unfold M.flip
  split <;> exact ⟨rfl, rfl, rfl⟩

theorem M.marked_flip (a : Nat) (m : M) (x : Nat × Nat) (y : Nat) : (m.flip a x).marked y = m.marked y := by
  unfold M.flip
  split
  · rfl
  · rw [M.marked_op_put]

theorem M.marked_flips (a : Nat) (l : List (Nat × Nat)) (m : M) (y : Nat) : (l.foldl (M.flip a) m).marked y = m.marked y := by
  induction l generalizing m with
  | nil => rfl
  | cons x r ih => exact (ih _).trans (m.marked_flip a x y)

/-- What flips make of a byte does not depend on the state they are made in. -/
theorem M.byte_flips (a : Nat) (l : List (Nat × Nat)) (y : Nat) :
    ∃ k : Byte, ∀ m : M, (l.foldl (M.flip a) m).byte y = m.byte y ^^^ k := by
  induction l with
  | nil => exact ⟨0, fun m => by simp⟩
  | cons x r ih =>
    obtain ⟨k, hk⟩ := ih
    exact ⟨(if a + x.1 = y then BitVec.ofNat 8 x.2 else 0) ^^^ k, fun m => by
      rw [List.foldl_cons, hk, M.byte_flip, BitVec.xor_assoc]⟩

/-- Flips made twice leave every byte. -/
theorem M.byte_flips_twice (a : Nat) (l : List (Nat × Nat)) (m : M) (y : Nat) :
    ((l ++ l).foldl (M.flip a) m).byte y = m.byte y := by
  obtain ⟨k, hk⟩ := M.byte_flips a l y
  rw [List.foldl_append, hk, hk, BitVec.xor_assoc, BitVec.xor_self, BitVec.xor_zero]

/-- The one wrong bit and its mending flip the same bits of the same bytes. -/
theorem sramChanges_oneBit {w b : Fin 16} {v : BitVec 16} (hv : v.toNat = 2 ^ b.val) :
    ∃ l, sramChanges [(w.val, v)] ⟨false, some (w.val, b.val), 1⟩ = l ++ l :=
  ⟨[(2 * w.val, v.toNat % 256), (2 * w.val + 1, v.toNat / 256 % 256)], by simp [sramChanges, hv]⟩

/-! ## The count of blocks mended -/

/-- A bucket's event leaves every object but the fault log. -/
theorem M.obj_bucketEvent (m : M) (cls inst i j : Nat) (hi : i ≠ 0x7100) (hj : j < 256) :
    (m.bucketEvent cls inst).2.obj i j = m.obj i j := by
  by_cases h : m.objFld 0x7030 cls 31 0 ≤ Tab.get m.dev.buckets 0 (bucketKey cls inst) + 1
  · rw [m.bucketEvent_high cls inst h, M.obj_logFault _ _ _ _ _ _ _ _ hi hj, M.obj_modBuckets]
  · rw [m.bucketEvent_low cls inst (by omega), M.obj_modBuckets]

section
variable (m : M) {owner : Nat} {f : SramFind} (hmended : f.count = 1)
include hmended

theorem M.countSram_mended : m.countSram owner f = ((m.wrapObj 0x5050 (owner + 1) 63 32 1).bucketEvent 7 owner).2 := by
  simp only [M.countSram, hmended]

theorem M.kept_countSram_mended : M.Kept m (m.countSram owner f) := by
  rw [m.countSram_mended hmended]
  exact (m.kept_setObj _ _ _).trans (M.kept_bucketEvent _ _ _)

theorem M.objFld_countSram_mended (howner : owner < 25) :
    (m.countSram owner f).objFld 0x5050 (owner + 1) 63 32 = (m.objFld 0x5050 (owner + 1) 63 32 + 1) % 2 ^ 32 := by
  rw [m.countSram_mended hmended, M.objFld, M.obj_bucketEvent _ _ _ _ _ (by decide) (by omega), M.obj_wrapObj_same, wrapFld,
    fld_setFld_same]
  rfl

theorem M.sameObjs_countSram_mended (howner : owner < 25) :
    m.SameObjs (m.countSram owner f) [(0x5050, owner + 1)] := by
  intro i j hj hi hn
  rw [m.countSram_mended hmended, M.obj_bucketEvent _ _ _ _ _ hi hj]
  exact m.obj_setObj_ne _ _ _ i j hj (by omega) (by simpa using hn)

end

/-! ## The scrubber -/

/-- The state a scrubber makes of a clean block with one wrong bit reads as before in memory, and differs in the count alone. -/
theorem M.scrubLine_oneBit {m : M} (owner : Nat) {a : Nat} {w b : Fin 16} {v : BitVec 16} (hv : v.toNat = 2 ^ b.val)
    (hclean : m.marked a = false) :
    ∃ (n : M) (f : SramFind), f.count = 1 ∧ M.OnlyMem m n ∧ (∀ x, n.byte x = m.byte x) ∧ (∀ x, n.marked x = m.marked x) ∧
      m.scrubLine owner a [(w.val, v)] 0 0 = n.countSram owner f := by
  have hjudge : judgeSram (m.marked a) [(w.val, v)] 0 0 = ⟨false, some (w.val, b.val), 1⟩ := by
    rw [hclean]
    exact judgeSram_oneBit hv
  obtain ⟨l, hl⟩ := sramChanges_oneBit (w := w) hv
  refine ⟨((l ++ l).foldl (M.flip a) m).setMark a false, ⟨false, some (w.val, b.val), 1⟩, rfl,
    (M.onlyMem_foldl _ (M.onlyMem_flip a) _ m).trans ⟨rfl, rfl, rfl⟩, fun x => ?_, fun x => ?_, ?_⟩
  · rw [M.byte_setMark, M.byte_flips_twice]
  · rw [M.setMark, M.marked_op_mark, M.marked_flips]
    split
    next hline => rw [← hclean, ← m.marked_lineOf a, hline, m.marked_lineOf]
    next => rfl
  · rw [m.scrubLine_eq owner a _ 0 0 hjudge, hl]

/-- A command that scrubs one clean block with one wrong bit. -/
theorem ends_scrubLine_oneBit {i : Instr} {s : State} {g : M → M} {owner a : Nat} {w b : Fin 16} {v : BitVec 16}
    (e : exec i s = s.run g)
    (hg : g (M.of s) = (M.of s).scrubLine owner a [(w.val, v)] 0 0) (hv : v.toNat = 2 ^ b.val)
    (hsound : s.sound) (howner : owner < 25) (hclean : (M.of s).marked a = false) :
    Ends i s fun m' =>
      (M.of s).SameMem m' ∧ m'.objFld 0x5050 (owner + 1) 63 32 = ((M.of s).objFld 0x5050 (owner + 1) 63 32 + 1) % 2 ^ 32 ∧
      (M.of s).SameObjs m' [(0x5050, owner + 1)] ∧ (M.of s).SameCores m' [] ∧ (M.of s).SameLqs m' [] := by
  obtain ⟨n, f, hmended, honly, hbyte, hmark, hn⟩ := M.scrubLine_oneBit owner (w := w) hv hclean
  have hg := hg.trans hn
  have hkept : M.Kept n (g (M.of s)) := hg ▸ n.kept_countSram_mended hmended
  have hlike' : M.Like n (M.of s) := ⟨honly.fuse, honly.dev⟩
  refine ends_mem e hsound (hkept.fuse.trans honly.fuse) (hkept.base.trans honly.base) fun m' hlike hbytes hmarks =>
    ⟨⟨fun x => ?_, fun x => ?_⟩, ?_, LikeViews.sameObjs hlike fun i j hj hi hb => ?_, LikeViews.sameCores hlike fun i _ => ?_,
      LikeViews.sameLqs hlike fun k _ => ?_⟩
  · rw [hbytes, hkept.bytes, hbyte]
  · rw [hmarks, hkept.marks, hmark]
  · rw [LikeViews.objFld hlike, hg, n.objFld_countSram_mended hmended howner, LikeViews.objFld hlike']
  · rw [hg, n.sameObjs_countSram_mended hmended howner i j hj hi hb, LikeViews.obj hlike']
  · rw [hkept.cores, LikeViews.core hlike']
  · rw [hkept.lqs, LikeViews.lq hlike']

section
variable {m : M} (block : Nat) (err : List (Nat × BitVec 16)) (r c : Nat)

theorem M.sramScrub_bazaar (hup : m.bazUp = true) :
    m.sramScrub 96 block err r c = m.scrubLine 24 (bazBase + 32 * block % bazSize) err r c := by
  rw [M.sramScrub, if_pos rfl, if_pos hup]

theorem M.sramScrub_waystation {store : Nat} (hstore : store < 96) (hway : store % 4 = 0) (hdown : m.coreDown (store / 4) = false)
    (hfused : m.fusedOff (store / 4) = false) :
    m.sramScrub store block err r c = m.scrubLine (store / 4) (wsBase (store / 4) + 32 * block % wsSize) err r c := by
  rw [M.sramScrub, if_neg hstore.ne, if_neg (by simp [hdown, hfused]; omega)]
  simp only [hway]

end

/-- Settles O40, by the two stores whose blocks lie in addressed memory. -/
theorem sramScrubMendsOneBit : Obligations.SramScrubMendsOneBit := by
  intro store block w b s hsound hlive owner a hstore hclean
  rcases hstore with ⟨hbaz, hup⟩ | ⟨hlt, hway, hdown, hfused⟩
  · subst hbaz
    exact ends_scrubLine_oneBit (exec_sramScrub _ _ _ _ _ s) ((M.when_of hlive).trans (M.sramScrub_bazaar block _ 0 0 hup))
      (toNat_ofNat_two_pow b) hsound (by decide) hclean
  · have howner : owner = store / 4 := if_neg hlt.ne
    have ha : a = wsBase (store / 4) + 32 * block % wsSize := if_neg hlt.ne
    rw [ha] at hclean
    rw [howner]
    exact ends_scrubLine_oneBit (exec_sramScrub _ _ _ _ _ s)
      ((M.when_of hlive).trans (M.sramScrub_waystation block _ 0 0 hlt hway hdown hfused)) (toNat_ofNat_two_pow b) hsound (by omega) hclean

end Sys2Proof.Machine
end

section
/-! Repairs (12_memory_integrity.md R279, R284, R285; 20_faults_fencing.md R447): a sparing copy that is done, a repair written
into the repair map, and a bucket that leaks. -/

namespace Sys2Proof.Machine

/-! ## What changes objects and logs alone -/

/-- The working states differ in the objects, the read marks of the memory logs and the counters of the logs alone. -/
def M.OnlyLogs (a b : M) : Prop :=
  ∃ read fresh devSeq objs,
    b = { a with dev := { a.dev with memLogRead := read, fresh := fresh, devSeq := devSeq, objs := objs } }

namespace M.OnlyLogs
variable {a b c : M}

theorem trans (h : M.OnlyLogs a b) (k : M.OnlyLogs b c) : M.OnlyLogs a c := by
  obtain ⟨_, _, _, _, rfl⟩ := h
  obtain ⟨read, fresh, devSeq, objs, rfl⟩ := k
  exact ⟨read, fresh, devSeq, objs, rfl⟩

theorem setObj (m : M) (idx sub v : Nat) : M.OnlyLogs m (m.setObj idx sub v) := ⟨_, _, _, _, rfl⟩

theorem fuse (h : M.OnlyLogs a b) : b.fuse = a.fuse := by
  obtain ⟨_, _, _, _, rfl⟩ := h
  rfl

theorem ops (h : M.OnlyLogs a b) : b.ops = a.ops := by
  obtain ⟨_, _, _, _, rfl⟩ := h
  rfl

theorem bank (h : M.OnlyLogs a b) (k : Nat) : b.bank k = a.bank k := by
  obtain ⟨_, _, _, _, rfl⟩ := h
  rfl

theorem core (h : M.OnlyLogs a b) (i : Nat) : b.core i = a.core i := by
  obtain ⟨_, _, _, _, rfl⟩ := h
  rfl

theorem lq (h : M.OnlyLogs a b) (n : Nat) : b.lq n = a.lq n := by
  obtain ⟨_, _, _, _, rfl⟩ := h
  rfl

theorem link (h : M.OnlyLogs a b) (l : Nat) : b.link l = a.link l := by
  obtain ⟨_, _, _, _, rfl⟩ := h
  rfl

end M.OnlyLogs

/-! ## A sparing copy that is done -/

theorem exec_sparingCopyDone (b : Fin 196608) (s : State) :
    exec (.sparingCopyDone b) s = s.run fun m => m.when m.live fun m => m.copyDone b := rfl

/-- Bank `b` with the spare of copy `c` in use and its repair to be written (R284, R285). -/
def Bank.useSpare (b : Nat) (c : SparingCopy) (k : Bank) : Bank :=
  { k with
    copy := none
    unwritten := k.unwritten ++ [(if c.isRow then 1 else 2) * 2 ^ 62 + b * 2 ^ 44 + c.index * 2 ^ 31 + c.slot * 2 ^ 26]
    rowsUsed := k.rowsUsed + c.isRow.toNat, colsUsed := k.colsUsed + (!c.isRow).toNat }

/-- MIN_ROWS and MIN_COLS, the fewest spares left in layer quadrant `n` (R279), with a bank that has `rows` and `cols` left. -/
def M.lowerSpares (m : M) (n rows cols : Nat) : M :=
  let m := m.setObjFld 0x5041 (n + 1) 15 8 (min (m.objFld 0x5041 (n + 1) 15 8) rows)
  m.setObjFld 0x5041 (n + 1) 7 0 (min (m.objFld 0x5041 (n + 1) 7 0) cols)

/-- EXHAUSTED, the count of banks without a spare row left (R279), raised where this was the `last` row. -/
def M.countExhausted (m : M) (n : Nat) (last : Bool) : M := if last then m.wrapObj 0x5041 (n + 1) 31 16 1 else m

theorem M.copyDone_eq {m : M} {b : Nat} {c : SparingCopy} (hcopy : (m.bank b).copy = some c) :
    m.copyDone b =
      let spared := m.modBank b (Bank.useSpare b c)
      let rows := m.fuse.minRows - ((m.bank b).rowsUsed + c.isRow.toNat)
      let cols := m.fuse.minCols - ((m.bank b).colsUsed + (!c.isRow).toNat)
      ((spared.lowerSpares (b / 2048) rows cols).countExhausted (b / 2048) (c.isRow && rows == 0)).logMemory (b / 2048)
        (if c.isRow then 0x04 else 0x05) 5 0 0 (spareAddr b c.isRow c.index) := by
  have hbank := m.bank_modBank_same b (Bank.useSpare b c)
  have hrows : (m.modBank b (Bank.useSpare b c)).rowsLeft b = m.fuse.minRows - ((m.bank b).rowsUsed + c.isRow.toNat) := by
    rw [M.rowsLeft, hbank]
    rfl
  have hcols : (m.modBank b (Bank.useSpare b c)).colsLeft b = m.fuse.minCols - ((m.bank b).colsUsed + (!c.isRow).toNat) := by
    rw [M.colsLeft, hbank]
    rfl
  rw [← hrows, ← hcols]
  simp only [M.copyDone, hcopy]
  rfl

section
variable (m : M) (n rows cols : Nat) (last : Bool)

theorem M.OnlyLogs.spares : M.OnlyLogs m ((m.lowerSpares n rows cols).countExhausted n last) := by
  have hlower : M.OnlyLogs m (m.lowerSpares n rows cols) := (M.OnlyLogs.setObj m _ _ _).trans (M.OnlyLogs.setObj _ _ _ _)
  unfold M.countExhausted
  split
  · exact hlower.trans (M.OnlyLogs.setObj _ _ _ _)
  · exact hlower

theorem M.OnlyLogs.copyDone {m : M} {b : Nat} {c : SparingCopy} (hcopy : (m.bank b).copy = some c) :
    M.OnlyLogs (m.modBank b (Bank.useSpare b c)) (m.copyDone b) := by
  rw [M.copyDone_eq hcopy]
  exact (M.OnlyLogs.spares _ _ _ _ _).trans (M.logMemory_shape _ _ _ _ _ _ _)

theorem M.obj_countExhausted (i j : Nat) (hi : i ≠ 0x5041) (hn : n < 96) (hj : j < 256) :
    (m.countExhausted n last).obj i j = m.obj i j := by
  unfold M.countExhausted
  split
  · exact m.obj_setObj_ne _ _ _ i j hj (by omega) (by simp [hi])
  · rfl

theorem M.obj_lowerSpares (i j : Nat) (hi : i ≠ 0x5041) (hn : n < 96) (hj : j < 256) :
    (m.lowerSpares n rows cols).obj i j = m.obj i j := by
  have hne : (i, j) ≠ (0x5041, n + 1) := by simp [hi]
  rw [M.lowerSpares, M.obj_setObjFld_ne _ _ _ _ _ _ i j hj (by omega) hne, M.obj_setObjFld_ne _ _ _ _ _ _ i j hj (by omega) hne]

/-- EXHAUSTED lies above MIN_ROWS and MIN_COLS. -/
theorem M.objFld_countExhausted {hi lo : Nat} (hlow : hi < 16) (hle : lo ≤ hi) :
    (m.countExhausted n last).objFld 0x5041 (n + 1) hi lo = m.objFld 0x5041 (n + 1) hi lo := by
  unfold M.countExhausted
  split
  · rw [M.objFld, M.obj_wrapObj_same, wrapFld, fld_setFld_below _ _ _ _ _ _ hlow hle, M.objFld]
  · rfl

theorem M.rows_lowerSpares :
    (m.lowerSpares n rows cols).objFld 0x5041 (n + 1) 15 8 = min (m.objFld 0x5041 (n + 1) 15 8) rows := by
  have hlt : m.objFld 0x5041 (n + 1) 15 8 < 2 ^ 8 := fld_lt _ 15 8
  rw [M.lowerSpares, M.objFld, M.obj_setObjFld_same, fld_setFld_above _ _ _ _ _ _ (by decide) (by decide), M.obj_setObjFld_same,
    fld_setFld_same]
  exact Nat.mod_eq_of_lt ((min_le_left _ _).trans_lt hlt)

theorem M.cols_lowerSpares :
    (m.lowerSpares n rows cols).objFld 0x5041 (n + 1) 7 0 = min (m.objFld 0x5041 (n + 1) 7 0) cols := by
  have hlt : m.objFld 0x5041 (n + 1) 7 0 < 2 ^ 8 := fld_lt _ 7 0
  have hstands : ∀ v, (m.setObjFld 0x5041 (n + 1) 15 8 v).objFld 0x5041 (n + 1) 7 0 = m.objFld 0x5041 (n + 1) 7 0 := by
    intro v
    rw [M.objFld, M.obj_setObjFld_same, fld_setFld_below _ _ _ _ _ _ (by decide) (by decide), M.objFld]
  rw [M.lowerSpares, M.objFld_setObjFld_same, hstands]
  exact Nat.mod_eq_of_lt ((min_le_left _ _).trans_lt hlt)

end

/-! ## A repair written -/

theorem exec_repairMapWrite (b : Fin 196608) (s : State) :
    exec (.repairMapWrite b) s = s.run fun m => m.when m.live fun m => m.writeRepair b := rfl

/-- The device with another repair map and the count and FULL of 0x5070 that go with it. -/
def M.withRepairs (m : M) (l : List Nat) : M :=
  (({ m with dev := { m.dev with repairMap := l } } : M).setObjFld 0x5070 1 15 0 l.length).setObjBit 0x5070 1 16 (l.length == 32768)

theorem M.writeRepair_eq {m : M} {b e : Nat} {rest : List Nat} (hfirst : (m.bank b).unwritten = e :: rest)
    (hroom : m.dev.repairMap.length < 32768) :
    m.writeRepair b = (m.modBank b fun k => { k with unwritten := rest }).withRepairs (m.dev.repairMap ++ [e]) := by
  simp only [M.writeRepair, hfirst]
  rw [if_neg (by rw [M.modBank_dev_repairMap]; omega)]
  rfl

section
variable (m : M) (l : List Nat)

theorem M.bank_withRepairs (k : Nat) : (m.withRepairs l).bank k = m.bank k := rfl

theorem M.repairCount_withRepairs (hl : l.length < 2 ^ 16) : (m.withRepairs l).objFld 0x5070 1 15 0 = l.length := by
  rw [M.withRepairs, M.objFld_setObjBit_ne _ _ _ _ _ (.inr (by decide)), M.objFld_setObjFld_same]
  exact Nat.mod_eq_of_lt hl

theorem M.repairsFull_withRepairs : (m.withRepairs l).objBit 0x5070 1 16 = decide (l.length = 32768) := by
  rw [M.withRepairs, M.objBit_setObjBit, if_pos rfl, beq_eq_decide]

theorem M.sameObjs_withRepairs : m.SameObjs (m.withRepairs l) [(0x5070, 1)] := by
  intro i j hj _ hn
  have hne : (i, j) ≠ (0x5070, 1) := by simpa using hn
  rw [M.withRepairs, M.obj_setObjBit_ne _ _ _ _ _ i j hj (by decide) hne, M.obj_setObjFld_ne _ _ _ _ _ _ i j hj (by decide) hne]
  rfl

end

/-! ## A bucket that leaks -/

/-- A table of levels once the bucket at `k` has leaked one: a level that is none has no entry. -/
def leakBucket (k : Nat) (t : Tab Nat) : Tab Nat :=
  if Tab.get t 0 k ≤ 1 then Tab.erase t k else Tab.put t k (Tab.get t 0 k - 1)

theorem exec_bucketLeak (cls : Fin 8) (inst : Nat) (s : State) :
    exec (.bucketLeak cls inst) s = s.run fun m => m.modBuckets (leakBucket (bucketKey cls inst)) := by
  have hmod : (fun m : M =>
      if Tab.get m.dev.buckets 0 (bucketKey cls inst) ≤ 1 then m.modBuckets fun b => Tab.erase b (bucketKey cls inst)
      else m.modBuckets fun b => Tab.put b (bucketKey cls inst) (Tab.get m.dev.buckets 0 (bucketKey cls inst) - 1)) =
      fun m => m.modBuckets (leakBucket (bucketKey cls inst)) := by
    funext m
    unfold M.modBuckets leakBucket
    split <;> rfl
  exact congrArg s.run hmod

theorem get_leakBucket_same (k : Nat) (t : Tab Nat) : Tab.get (leakBucket k t) 0 k = Tab.get t 0 k - 1 := by
  unfold leakBucket
  split
  next hlast => rw [Tab.get_erase_same, Nat.sub_eq_zero_of_le hlast]
  next => rw [Tab.get_put_same]

theorem get_leakBucket_ne {k j : Nat} (t : Tab Nat) (hj : j ≠ k) : Tab.get (leakBucket k t) 0 j = Tab.get t 0 j := by
  unfold leakBucket
  split
  · exact Tab.get_erase_ne _ _ _ _ hj
  · exact Tab.get_put_ne _ _ _ _ _ hj

/-- Settles O41: a copy that is done and a repair written each change one bank and its counts; a leak changes one bucket. -/
theorem repairsAreRecorded : Obligations.RepairsAreRecorded := by
  refine ⟨fun b c s hlive hcopy => ?spared, fun b e rest s hlive hfirst hroom => ?written, fun cls inst s => ?leaked⟩
  case spared =>
    have hn : b.val / 2048 < 96 := by omega
    have hlogs := M.OnlyLogs.copyDone hcopy
    refine ends_quiet (exec_sparingCopyDone b s) (M.when_of hlive) hlogs.fuse hlogs.ops
      fun m' hlike hmem => ⟨?_, ?_, ?_, hmem, LikeViews.sameCores hlike fun i _ => hlogs.core i,
        LikeViews.sameLqs hlike fun k _ => hlogs.lq k, LikeViews.sameLinks hlike fun l _ => hlogs.link l, fun i j hj hi hlog => ?_⟩
    · rw [LikeViews.bank hlike, hlogs.bank, M.bank_modBank_same]
      rfl
    · rw [LikeViews.objFld hlike, M.copyDone_eq hcopy, M.objFld, M.obj_logMemory _ _ _ _ _ _ _ _ _ (by omega) (by omega), ← M.objFld,
        M.objFld_countExhausted _ _ _ (by decide) (by decide), M.rows_lowerSpares, M.objFld_modBank]
    · rw [LikeViews.objFld hlike, M.copyDone_eq hcopy, M.objFld, M.obj_logMemory _ _ _ _ _ _ _ _ _ (by omega) (by omega), ← M.objFld,
        M.objFld_countExhausted _ _ _ (by decide) (by decide), M.cols_lowerSpares, M.objFld_modBank]
    · rw [LikeViews.obj hlike, M.copyDone_eq hcopy, M.obj_logMemory _ _ _ _ _ _ _ _ _ hlog hj, M.obj_countExhausted _ _ _ _ _ hi hn hj,
        M.obj_lowerSpares _ _ _ _ _ _ hi hn hj, M.obj_modBank]
  case written =>
    have hlength : ((M.of s).dev.repairMap ++ [e]).length = (M.of s).dev.repairMap.length + 1 := by simp
    refine ends_quiet (exec_repairMapWrite b s) ((M.when_of hlive).trans (M.writeRepair_eq hfirst hroom)) rfl rfl
      fun m' hlike hmem => ⟨congrArg Dev.repairMap hlike.dev, ?_, ?_, ?_, hmem,
        LikeViews.sameObjs hlike (M.sameObjs_withRepairs _ _), LikeViews.sameCores hlike fun _ _ => rfl,
        LikeViews.sameLqs hlike fun _ _ => rfl⟩
    · rw [LikeViews.bank hlike, M.bank_withRepairs, M.bank_modBank_same]
    · rw [LikeViews.objFld hlike, M.repairCount_withRepairs _ _ (by omega), hlength]
    · rw [LikeViews.objBit hlike, M.repairsFull_withRepairs, hlength]
  case leaked =>
    refine ends_quiet (exec_bucketLeak cls inst s) rfl rfl rfl fun m' hlike hmem => ?_
    have hbuckets : m'.dev.buckets = leakBucket (bucketKey cls inst) (M.of s).dev.buckets := congrArg Dev.buckets hlike.dev
    rw [hbuckets]
    exact ⟨get_leakBucket_same _ _, fun k hk => get_leakBucket_ne _ hk, hmem, LikeViews.sameObjs hlike fun _ _ _ _ _ => rfl,
      LikeViews.sameCores hlike fun _ _ => rfl, LikeViews.sameLqs hlike fun _ _ => rfl⟩

end Sys2Proof.Machine
end

section
/-! What a link's commands change (13_itril_link.md R292 to R310): one link, objects of that link, the log and the outputs. -/

namespace Sys2Proof.Machine

/-! ## What changes one link -/

/-- The devices differ in nothing that a statement speaks of but link `l`, the objects listed and the fault log. -/
structure M.OnlyLink (m n : M) (l : Nat) (but : List (Nat × Nat)) : Prop where
  fuse : n.fuse = m.fuse
  ops : n.ops = m.ops
  objs : m.SameObjs n but
  cores : m.SameCores n []
  links : m.SameLinks n [l]
  lqs : m.SameLqs n []

theorem M.OnlyLink.trans {a b c : M} {l : Nat} {but : List (Nat × Nat)} (hab : M.OnlyLink a b l but) (hbc : M.OnlyLink b c l but) :
    M.OnlyLink a c l but where
  fuse := hbc.fuse.trans hab.fuse
  ops := hbc.ops.trans hab.ops
  objs i j hj hi hn := (hbc.objs i j hj hi hn).trans (hab.objs i j hj hi hn)
  cores i hi := (hbc.cores i hi).trans (hab.cores i hi)
  links i hi := (hbc.links i hi).trans (hab.links i hi)
  lqs i hi := (hbc.lqs i hi).trans (hab.lqs i hi)

/-- What `Kept` keeps, with the objects that stand. -/
theorem M.Kept.onlyLink {a b : M} {but : List (Nat × Nat)} (hkept : M.Kept a b) (l : Nat) (hobjs : a.SameObjs b but) :
    M.OnlyLink a b l but :=
  ⟨hkept.fuse, hkept.ops, hobjs, hkept.sameCores _, hkept.sameLinks _, hkept.sameLqs _⟩

section
variable (m : M) (l : Nat) {but : List (Nat × Nat)}

theorem M.onlyLink_modLink (f : Link → Link) : M.OnlyLink m (m.modLink l f) l but :=
  ⟨rfl, rfl, fun _ _ _ _ _ => rfl, fun _ _ => rfl, m.sameLinks_modLink l f, fun _ _ => rfl⟩

theorem M.onlyLink_send (x : Sent) : M.OnlyLink m (m.send x) l but := (m.kept_send x).onlyLink l fun _ _ _ _ _ => rfl

theorem M.onlyLink_setObj {i j : Nat} (v : Nat) (hj : j < 256) (hin : (i, j) ∈ but) : M.OnlyLink m (m.setObj i j v) l but :=
  (m.kept_setObj i j v).onlyLink l fun _ _ hb _ hn => m.obj_setObj_ne _ _ _ _ _ hb hj fun h => hn (h ▸ hin)

theorem M.onlyLink_setObjFld {i j : Nat} (hi lo v : Nat) (hj : j < 256) (hin : (i, j) ∈ but) :
    M.OnlyLink m (m.setObjFld i j hi lo v) l but := m.onlyLink_setObj l _ hj hin

theorem M.onlyLink_setObjBit {i j : Nat} (k : Nat) (b : Bool) (hj : j < 256) (hin : (i, j) ∈ but) :
    M.OnlyLink m (m.setObjBit i j k b) l but := m.onlyLink_setObj l _ hj hin

theorem M.onlyLink_satObj {i j : Nat} (hi lo n : Nat) (hj : j < 256) (hin : (i, j) ∈ but) :
    M.OnlyLink m (m.satObj i j hi lo n) l but := m.onlyLink_setObj l _ hj hin

end

theorem M.onlyLink_setLinkState (m : M) (l : Fin 32) (st r : Nat) {but : List (Nat × Nat)} (hin : (0x6100 + l.val, 2) ∈ but) :
    M.OnlyLink m (m.setLinkState l st r) l but :=
  (m.kept_setLinkState l st r).onlyLink l fun _ _ hj hi hn => m.obj_setLinkState_ne l st r _ _ hj hi fun h => hn (h ▸ hin)

/-- A command that changes one link and objects of it. -/
theorem ends_onlyLink {c : Instr} {s : State} {f : M → M} {r : M} {l : Nat} {but : List (Nat × Nat)} {P : M → Prop}
    (e : exec c s = s.run f) (hr : f (M.of s) = r) (honly : M.OnlyLink (M.of s) r l but)
    (hP : ∀ m', M.Like m' r →
      ((M.of s).SameMem m' ∧ (M.of s).SameObjs m' but ∧ (M.of s).SameCores m' [] ∧ (M.of s).SameLinks m' [l]) →
      (M.of s).SameLqs m' [] → P m') : Ends c s P :=
  ends_quiet e hr honly.fuse honly.ops fun m' hlike hmem => hP m' hlike
    ⟨hmem, LikeViews.sameObjs hlike honly.objs, LikeViews.sameCores hlike honly.cores, LikeViews.sameLinks hlike honly.links⟩
    (LikeViews.sameLqs hlike honly.lqs)

/-! ## The state of a link -/

section
variable (m : M) (l : Fin 32) (st r : Nat)

@[simp] theorem M.link_setLinkState (j : Nat) : (m.setLinkState l st r).link j = m.link j := (m.kept_setLinkState l st r).links j

theorem M.linkState_setLinkState (hst : st < 16) : (m.setLinkState l st r).linkState l = st := by
  rw [M.linkState, M.objFld, m.obj_setLinkState, stateWord_state _ _ _ hst]

theorem M.reason_setLinkState (hr : r < 256) (h0 : r ≠ 0) : (m.setLinkState l st r).objFld (0x6100 + l) 2 23 16 = r := by
  rw [M.objFld, m.obj_setLinkState, stateWord_reason _ _ _ hr h0]

/-- The fields above the reason stand where the new state is neither DISABLED nor FAILED. -/
theorem M.objFld_setLinkState (hoff : st ≠ lsDisabled) (hfailed : st ≠ lsFailed) {hi lo : Nat} (hle : lo ≤ hi) (hlo : 23 < lo) :
    (m.setLinkState l st r).objFld (0x6100 + l) 2 hi lo = m.objFld (0x6100 + l) 2 hi lo := by
  rw [M.objFld, m.obj_setLinkState, stateWord_other _ _ _ _ _ hoff hfailed hle (by omega) (.inr hlo), M.objFld]

end

theorem LikeViews.linkState {a b : M} (h : M.Like a b) (l : Nat) : a.linkState l = b.linkState l := LikeViews.objFld h _ _ _ _

end Sys2Proof.Machine
end

section
/-! Flits that arrive (13_itril_link.md R299, R300, R303, R304, R306): what a link makes of a flit that is not whole, of a foreign
one, and of one of each TYPE, and the obligation on them. -/

namespace Sys2Proof.Machine

/-! ## What each command runs -/

section
variable (l : Fin 32) (f : LFlit) (s : State)

theorem exec_payload : exec (.payload l f) s = s.run fun m => m.receive l f 1 fun m => m.takePayload l f := rfl

theorem exec_idle : exec (.idle l f) s = s.run fun m => m.receive l f 0 fun m => m.modLink l fun k => k.credit f := rfl

theorem exec_nak :
    exec (.nak l f) s = s.run fun m => m.receive l f 2 fun m => (m.modLink l fun k => k.credit f).startReplay l := rfl

theorem exec_retrainReq :
    exec (.retrainReq l f) s = s.run fun m => m.receive l f 3 fun m => (m.modLink l fun k => k.credit f).enterRetrain l 5 := rfl

theorem exec_flitProtocolError : exec (.flitProtocolError l f) s = s.run fun m => m.receive l f 16 id := rfl

end

/-! ## Flits that are refused -/

section
variable {m : M} {l : Nat} {f : LFlit} (kind : Nat) (act : M → M) (hup : m.linkUp l = true) (hsyms : f.fecSyms = 0)
include hup hsyms

theorem M.receive_broken (hgood : f.good = false) (hbad : f.fecBad = false) : m.receive l f kind act = m.modLink l Link.refuse := by
  have hwhole : f.whole = false := by rw [LFlit.whole, hgood, Bool.false_and]
  simp [M.receive, hup, m.fecReport_clean l f hsyms hbad, hwhole]

theorem M.receive_foreign (hwhole : f.whole = true) (hforeign : f.foreign = true) : m.receive l f kind act = m.flitProtocol l := by
  have hbad : f.fecBad = false := by simpa using (Bool.and_eq_true_iff.mp hwhole).2
  simp [M.receive, hup, m.fecReport_clean l f hsyms hbad, hwhole, hforeign]

end

/-- A flit that is refused leaves the request for a retrain as it was. -/
theorem Link.refuse_reqDue (k : Link) : k.refuse.reqDue = k.reqDue := by rw [Link.refuse_eq]

theorem M.flitProtocol_eq {m : M} {l : Nat} (hactive : m.linkState l = lsActive) (hreq : (m.link l).reqDue = 0) :
    m.flitProtocol l = m.modLink l fun k => { k.refuse with reqDue := 3, reqReason := 7 } := by
  have hnone : ((m.modLink l Link.refuse).link l).reqDue = 0 := by rw [M.link_modLink_same, Link.refuse_reqDue, hreq]
  exact ((m.modLink l Link.refuse).wantRetrain_eq l 7 hactive hnone).trans (m.modLink_modLink l _ _)

/-! ## Flits that are taken -/

/-- A link once it has taken the PAYLOAD flit that is next in number. -/
def Link.take (k : Link) (f : LFlit) : Link :=
  { k.credit f with
    rxLast := f.seq, nakDue := false, nakOut := false
    rxSb := k.rxSb ++ f.classSlots true, rxBulk := k.rxBulk ++ f.classSlots false }

theorem Link.take_draining (k : Link) (f : LFlit) : (k.take f).draining = k.draining := k.credit_draining f

section
variable {m : M} {l : Nat} {f : LFlit}

theorem M.takePayload_next (hnext : f.seq = ((m.link l).rxLast + 1) % 4096) : m.takePayload l f = m.modLink l fun k => k.take f :=
  m.modLink_congr l _ _ (if_pos hnext)

theorem M.takePayload_other (hother : f.seq ≠ ((m.link l).rxLast + 1) % 4096) : m.takePayload l f = m.modLink l Link.refuse :=
  m.modLink_congr l _ _ (if_neg hother)

end

theorem Link.refuse_draining (k : Link) : k.refuse.draining = k.draining := by rw [Link.refuse_eq]

/-- A link whose retrain begins, on the lanes it had. -/
def Link.retraining (k : Link) (lanes : Nat) : Link :=
  { k with reqDue := 0, phase := 1, mode := 2, repeats := 0, lanes, nakDue := false }

section
variable (m : M) (l : Fin 32) (r : Nat)

theorem M.enterRetrain_eq :
    m.enterRetrain l r = ((m.setLinkState l lsRetrain r).satObj (0x6100 + l) 4 15 0 1).modLink l fun k =>
      k.retraining (m.objFld (0x6100 + l) 2 35 32) := by
  have hlanes : ((m.setLinkState l lsRetrain r).satObj (0x6100 + l) 4 15 0 1).objFld (0x6100 + l) 2 35 32 =
      m.objFld (0x6100 + l) 2 35 32 := by
    rw [M.objFld, M.obj_satObj_ne _ _ _ _ _ _ _ _ (by decide) (by decide) (by simp), ← M.objFld,
      m.objFld_setLinkState l _ r (by decide) (by decide) (by decide) (by decide)]
  rw [← hlanes]
  rfl

theorem M.link_enterRetrain : (m.enterRetrain l r).link l = (m.link l).retraining (m.objFld (0x6100 + l) 2 35 32) := by
  rw [M.enterRetrain_eq, M.link_modLink_same, M.link_satObj, M.link_setLinkState]

theorem M.objFld_enterRetrain (hi lo : Nat) :
    (m.enterRetrain l r).objFld (0x6100 + l) 2 hi lo = (m.setLinkState l lsRetrain r).objFld (0x6100 + l) 2 hi lo := by
  rw [M.enterRetrain_eq, M.objFld_modLink, M.objFld, M.obj_satObj_ne _ _ _ _ _ _ _ _ (by decide) (by decide) (by simp), M.objFld]

theorem M.retrains_enterRetrain :
    (m.enterRetrain l r).objFld (0x6100 + l) 4 15 0 = min (m.objFld (0x6100 + l) 4 15 0 + 1) 65535 := by
  have hcount : (m.setLinkState l lsRetrain r).obj (0x6100 + l) 4 = m.obj (0x6100 + l) 4 :=
    m.obj_setLinkState_ne l _ r _ _ (by decide) (by omega) (by simp)
  rw [M.enterRetrain_eq, M.objFld_modLink, M.objFld, M.obj_satObj_same, fld_satFld, hcount]
  rfl

theorem M.onlyLink_enterRetrain : M.OnlyLink m (m.enterRetrain l r) l [(0x6100 + l, 2), (0x6100 + l, 4)] := by
  rw [M.enterRetrain_eq]
  exact ((m.onlyLink_setLinkState l lsRetrain r (by simp)).trans
    (M.onlyLink_satObj _ l 15 0 1 (by decide) (by simp))).trans (M.onlyLink_modLink _ l _)

end

/-- Settles O45, by what a link makes of a flit that is broken, foreign, or of each TYPE. -/
theorem flitsAreTaken : Obligations.FlitsAreTaken := by
  intro l f s hup hdrain hsyms k
  have hdrain : ((M.of s).link l).draining = false := hdrain
  have hrefuse (g : Link) : { g with nakDue := g.nakDue || !g.nakOut, nakOut := true } = g.refuse := g.refuse_eq.symm
  refine ⟨fun hgood hbad => ?broken, fun hwhole hforeign hreq => ?foreign, fun hwhole hforeign => ⟨fun hkind hnext => ?next,
    fun hkind hother => ?other, fun hkind => ?idle, fun hkind hnone => ?acked, fun hkind hsome hlevel => ?replayed,
    fun hkind => ?retrain⟩⟩
  case broken =>
    simp only [hrefuse]
    exact does_of (exec_payload l f s) (M.receive_broken 1 _ hup hsyms hgood hbad)
  case foreign =>
    refine does_of (exec_flitProtocolError l f s) ((M.receive_foreign 16 _ hup hsyms hwhole hforeign).trans ?_)
    rw [M.flitProtocol_eq (M.linkUp_active hup) hreq]
    simp only [Link.refuse_eq]
  case next =>
    have htake := M.takePayload_next hnext
    exact does_of (exec_payload l f s) ((M.receive_eq hup hsyms hwhole hforeign hkind (by
      rw [htake, M.link_modLink_same, Link.take_draining, hdrain])).trans htake)
  case other =>
    have htake := M.takePayload_other hother
    simp only [hrefuse]
    exact does_of (exec_payload l f s) ((M.receive_eq hup hsyms hwhole hforeign hkind (by
      rw [htake, M.link_modLink_same, Link.refuse_draining, hdrain])).trans htake)
  case idle =>
    exact does_of (exec_idle l f s) (M.receive_eq hup hsyms hwhole hforeign hkind (by
      rw [M.link_modLink_same, Link.credit_draining, hdrain]))
  case acked =>
    have hnothing := M.startReplay_none ((M.of s).modLink l fun k => k.credit f) l (by rwa [M.link_modLink_same])
    exact does_of (exec_nak l f s) ((M.receive_eq hup hsyms hwhole hforeign hkind (by
      rw [M.startReplay_draining, M.link_modLink_same, Link.credit_draining, hdrain])).trans hnothing)
  case replayed =>
    have hreplay := M.startReplay_some ((M.of s).modLink l fun k => k.credit f) l (by rwa [M.link_modLink_same]) hlevel
    rw [M.modLink_modLink] at hreplay
    exact does_of (exec_nak l f s) ((M.receive_eq hup hsyms hwhole hforeign hkind (by
      rw [M.startReplay_draining, M.link_modLink_same, Link.credit_draining, hdrain])).trans hreplay)
  case retrain =>
    have hlink := M.link_enterRetrain ((M.of s).modLink l fun k => k.credit f) l 5
    rw [M.link_modLink_same, M.objFld_modLink] at hlink
    refine ends_onlyLink (exec_retrainReq l f s) (M.receive_eq hup hsyms hwhole hforeign hkind (by
      rw [hlink]; exact (Link.credit_draining _ f).trans hdrain))
      ((M.onlyLink_modLink _ _ _).trans (M.onlyLink_enterRetrain _ l 5))
      fun m' hlike ⟨hmem, hobjs, hcores, hlinks⟩ hlqs => ⟨?_, ?_, ?_, ?_, hmem, hobjs, hcores, hlinks, hlqs⟩
    · rw [LikeViews.linkState hlike, M.linkState, M.objFld_enterRetrain, ← M.linkState, M.linkState_setLinkState _ _ _ _ (by decide)]
    · rw [LikeViews.objFld hlike, M.objFld_enterRetrain, M.reason_setLinkState _ _ _ _ (by decide) (by decide)]
    · rw [LikeViews.objFld hlike, M.retrains_enterRetrain, M.objFld_modLink]
    · rw [LikeViews.link hlike, hlink]
      rfl

end Sys2Proof.Machine
end

section
/-! Flits that leave (13_itril_link.md R297, R298, R302, R304; 14_fabric_mirroring.md R333): what an ACTIVE link sends next, by what
it owes, and the obligation on it. -/

namespace Sys2Proof.Machine

/-! ## What each command runs -/

/-- The device before link `l` sends: on a bundle link of the primary that has sent its mirror messages, a resync adds its next
copy part. -/
def M.withCopy (m : M) (l : Nat) : M :=
  if m.mirrorRole = 1 && m.bundle.contains l && (m.link l).txMirror.isEmpty then m.copyNext else m

theorem exec_flitSend (l : Fin 32) (s : State) :
    exec (.flitSend l) s = s.run fun m => m.when (m.linkUp l) fun m => (m.withCopy l).flitSend l := rfl

theorem exec_replayTimeout (l : Fin 32) (sender : Bool) (s : State) :
    exec (.replayTimeout l sender) s = s.run fun m => m.when (m.linkUp l) fun m =>
      if sender then m.startReplay l else m.modLink l fun k => if k.nakOut then { k with nakDue := true } else k := rfl

/-! ## The next flit of a link -/

section
variable {m : M} {l : Nat}

theorem M.flitSend_nak (hnak : (m.link l).nakDue = true) :
    m.flitSend l = (m.modLink l fun k => { k.reported (k.blank 2 0) with nakDue := false }).send
      (.flit l ((m.link l).blank 2 0)) := if_pos hnak

variable (hnak : (m.link l).nakDue = false)
include hnak

theorem M.flitSend_retrainReq (hreq : 1 < (m.link l).reqDue) :
    m.flitSend l = (m.modLink l fun k => { k.reported (k.blank 3 0) with reqDue := k.reqDue - 1 }).send
      (.flit l ((m.link l).blank 3 0)) := by
  have howed : (m.link l).reqDue ≠ 0 := by omega
  have hmore : (m.link l).reqDue ≠ 1 := by omega
  simp only [M.flitSend, if_neg (ne_true_of_eq_false hnak), if_pos howed, if_neg hmore]
  rfl

variable (hreq : (m.link l).reqDue = 0)
include hreq

theorem M.flitSend_replay {f : KeptFlit} (hreplaying : (m.link l).replaying ≠ 0)
    (hf : (m.link l).replay[(m.link l).replay.length - (m.link l).replaying]? = some f) :
    m.flitSend l = (m.modLink l fun k => { k with replaying := k.replaying - 1 }).send (.flit l f.flit) := by
  simp only [M.flitSend, if_neg (ne_true_of_eq_false hnak), if_neg (not_not_intro hreq), if_pos hreplaying, hf]
  rfl

variable (hreplaying : (m.link l).replaying = 0)
include hreplaying

theorem M.flitSend_payload {f : LFlit} {k : Link} (hnext : (m.link l).nextPayload = some (f, k)) :
    m.flitSend l = (m.modLink l fun _ => k).send (.flit l f) := by
  simp only [M.flitSend, if_neg (ne_true_of_eq_false hnak), if_neg (not_not_intro hreq), if_neg (not_not_intro hreplaying), hnext]

theorem M.flitSend_idle (hnext : (m.link l).nextPayload = none) :
    m.flitSend l = (m.modLink l fun k => k.reported (k.blank 0 0)).send (.flit l ((m.link l).blank 0 0)) := by
  simp only [M.flitSend, if_neg (ne_true_of_eq_false hnak), if_neg (not_not_intro hreq), if_neg (not_not_intro hreplaying), hnext]
  rfl

end

/-! ## The next PAYLOAD flit -/

/-- No PAYLOAD flit goes out where the replay buffer is full or nothing waits. -/
theorem Link.nextPayload_none {k : Link} (hidle : k.replay.length < 1024 → k.txSb = [] ∧ k.txMirror = [] ∧ k.txBulk = []) :
    k.nextPayload = none := by
  by_cases hfull : 1024 ≤ k.replay.length
  · exact if_pos hfull
  · obtain ⟨hsb, hmirror, hbulk⟩ := hidle (by omega)
    have hslots : ∀ n, (({ k with txSb := [] } : Link).takeBulk n).1 = [] := fun n => Link.takeBulk_nil _ n hmirror hbulk
    simp [Link.nextPayload, hfull, hsb, takeSlots_nil, hslots]

/-- Where the first sideband message fits the credits, the next PAYLOAD flit begins with its slots, and is kept for replay. -/
theorem Link.nextPayload_sideband {k : Link} {x : TxMsg} {r : List TxMsg} (hroom : k.replay.length < 1024) (hqueue : k.txSb = x :: r)
    (hslots : 0 < x.slots.length) (hfits : x.slots.length ≤ min 15 k.crSb) :
    ∃ f k' owners, k.nextPayload = some (f, k') ∧ f.kind = 1 ∧ f.seq = k.txSeq ∧
      f.slots.take x.slots.length = x.slots.map (·.bits) ∧ k'.txSeq = (k.txSeq + 1) % 4096 ∧
      k'.replay = k.replay ++ [{ flit := f, owners }] := by
  obtain ⟨more, owners, left, part, htake⟩ := takeSlots_first (min 15 k.crSb) x r hslots hfits
  have hsome : x.slots ≠ [] := List.ne_nil_of_length_pos hslots
  have hnext : ¬ 1024 ≤ k.replay.length := by omega
  simp only [Link.nextPayload, if_neg hnext, hqueue, htake]
  rw [if_neg (by simp [hsome])]
  refine ⟨_, _, _, rfl, rfl, rfl, ?_, rfl, rfl⟩
  simp

/-- Settles O46, by the branch of the sender that each owed flit takes. -/
theorem flitsGoOut : Obligations.FlitsGoOut := by
  intro l s hup copied k
  have hsend : ((M.of s).when ((M.of s).linkUp l) fun m => (m.withCopy l).flitSend l) = (copied (M.of s)).flitSend l := M.when_of hup
  refine ⟨fun hnak => ?nak, fun hnak hreq => ?retrainReq, fun hnak hreq hreplaying hle => ?replay,
    fun hnak hreq hreplaying hidle => ?idle, fun x r hnak hreq hreplaying hroom hqueue hslots hfits hcopied => ?payload,
    fun hout => ?receiver, fun hnone => ?nothing, fun hsome hlevel => ?sender⟩
  case nak => exact does_of (exec_flitSend l s) (hsend.trans (M.flitSend_nak hnak))
  case retrainReq => exact does_of (exec_flitSend l s) (hsend.trans (M.flitSend_retrainReq hnak hreq))
  case replay =>
    have hin : k.replay.length - k.replaying < k.replay.length := by omega
    have hf := List.getElem?_eq_getElem hin
    exact ⟨_, hf, does_of (exec_flitSend l s) (hsend.trans (M.flitSend_replay hnak hreq hreplaying hf))⟩
  case idle =>
    exact does_of (exec_flitSend l s) (hsend.trans (M.flitSend_idle hnak hreq hreplaying (Link.nextPayload_none hidle)))
  case payload =>
    obtain ⟨f, k', owners, hnext, hkind, hseq, hbits, htxSeq, hreplay⟩ := Link.nextPayload_sideband hroom hqueue hslots hfits
    have hsent := M.flitSend_payload hnak hreq hreplaying hnext
    rw [hcopied] at hsent hsend
    have hlink : (((M.of s).modLink l fun _ => k').send (.flit l f)).link l = k' := by
      rw [M.link_send, M.link_modLink_same]
    refine ends_onlyLink (exec_flitSend l s) (hsend.trans hsent) ((M.onlyLink_modLink _ _ _).trans (M.onlyLink_send _ _ _))
      fun m' hlike hrest _ => ⟨f, ⟨f, owners⟩, ?_, rfl, congrArg Dev.sent hlike.dev, hkind, hseq, hbits, ?_, hrest⟩
    · rw [LikeViews.link hlike, hlink, hreplay]
    · rw [LikeViews.link hlike, hlink, htxSeq]
  case receiver =>
    exact does_of (exec_replayTimeout l false s) ((M.when_of hup).trans ((M.of s).modLink_congr l _ _ (if_pos hout)))
  case nothing => exact does_of (exec_replayTimeout l true s) ((M.when_of hup).trans (M.startReplay_none (M.of s) l hnone))
  case sender =>
    exact does_of (exec_replayTimeout l true s) ((M.when_of hup).trans (M.startReplay_some (M.of s) l hsome hlevel))

end Sys2Proof.Machine
end

section
/-! Training (13_itril_link.md R292, R293, R296, R305 to R308, R310): requests for a retrain, detection, the phases, NEGOTIATE, the
hold and drain limits and the control object of a link, and the obligation on them. -/

namespace Sys2Proof.Machine

/-! ## What each command runs -/

section
variable (l : Fin 32) (s : State)

theorem exec_laneSignalLoss : exec (.laneSignalLoss l) s = s.run fun m => m.when m.live fun m => m.wantRetrain l 3 := rfl

theorem exec_alignLoss : exec (.alignLoss l) s = s.run fun m => m.when m.live fun m => m.wantRetrain l 4 := rfl

theorem exec_linkDetect : exec (.linkDetect l) s = s.run fun m => m.when m.live fun m => m.linkDetect l := rfl

theorem exec_linkTrainPhaseEnd (lanes : BitVec 4) (ok : Bool) :
    exec (.linkTrainPhaseEnd l lanes ok) s = s.run fun m => m.when m.live fun m => m.phaseEnd l lanes.toNat ok := rfl

theorem exec_linkNegotiate (versions partner : BitVec 16) (plink : BitVec 5) (serial : W64) (last : BitVec 12) (fresh : Bool) :
    exec (.linkNegotiate l versions partner plink serial last fresh) s = s.run fun m => m.when m.live fun m =>
      m.negotiate l versions.toNat partner.toNat plink.toNat serial.toNat last.toNat fresh := rfl

theorem exec_linkHoldExpiry :
    exec (.linkHoldExpiry l) s = s.run fun m =>
      m.when (m.live && (m.linkState l == lsTrain || m.linkState l == lsNegotiate || m.linkState l == lsRetrain) &&
        !(m.link l).downHeld) fun m => m.linkDown l false := rfl

theorem exec_linkDrainExpiry :
    exec (.linkDrainExpiry l) s = s.run fun m => m.when (m.live && (m.link l).draining) fun m => m.linkOff l := rfl

theorem exec_retrain (p : Party) :
    exec (.retrain p l) s = s.run fun m => m.partyWrite p (0x6100 + l.val) 1 (m.withBit (0x6100 + l.val) 1 7 true) := rfl

theorem exec_linkEnable (p : Party) (enable : Bool) :
    exec (.linkEnable p l enable) s = s.run fun m => m.partyWrite p (0x6100 + l.val) 1 (m.withBit (0x6100 + l.val) 1 4 enable) := rfl

end

/-! ## Detection -/

/-- A state that is neither DISABLED nor FAILED, taken without a reason, is written to its field alone. -/
theorem stateWord_plain {w st : Nat} (hoff : st ≠ lsDisabled) (hfailed : st ≠ lsFailed) : stateWord w st 0 = setFld w 3 0 st := by
  simp [stateWord, hoff, hfailed]

theorem M.objBit_setLinkState (m : M) (l : Fin 32) {st i : Nat} (hoff : st ≠ lsDisabled) (hfailed : st ≠ lsFailed) (hi : 3 < i) :
    (m.setLinkState l st 0).objBit (0x6100 + l) 2 i = m.objBit (0x6100 + l) 2 i := by
  rw [M.objBit, m.obj_setLinkState, stateWord_plain hoff hfailed, testBit_setFld_outside _ _ _ _ _ (.inr hi) (by decide), M.objBit]

/-- A link whose training begins: fast start on the lanes that are saved, or cold on all four. -/
def Link.detected (k : Link) (fast : Bool) : Link :=
  { k with phase := 1, mode := fast.toNat, repeats := 0, lanes := if fast then (k.saved.getD []).getD 4 0xF else 0xF }

/-- The device once link `l` has seen its partner. -/
def M.detected (m : M) (l : Nat) (fast : Bool) : M :=
  (((m.setObjBit (0x6100 + l) 1 6 false).setObjBit (0x6100 + l) 2 4 fast).setLinkState l lsTrain 0).modLink l fun k => k.detected fast

theorem M.linkDetect_eq {m : M} {l : Nat} (hdetect : m.linkState l = lsDetect) :
    m.linkDetect l = m.detected l ((m.link l).saved.isSome && !m.objBit (linkObj l) 1 6) := by
  simp only [M.linkDetect, if_neg (not_not_intro hdetect)]
  by_cases hfast : ((m.link l).saved.isSome && !m.objBit (linkObj l) 1 6) = true
  · rw [if_pos hfast, hfast]
    rfl
  · rw [if_neg hfast, Bool.eq_false_of_not_eq_true hfast]
    rfl

section
variable (m : M) (l : Fin 32) (fast : Bool)

theorem M.linkState_detected : (m.detected l fast).linkState l = lsTrain := M.linkState_setLinkState _ l _ _ (by decide)

theorem M.forceCold_detected : (m.detected l fast).objBit (0x6100 + l) 1 6 = false := by
  rw [M.detected, M.objBit_modLink, M.objBit, M.obj_setLinkState_ne _ _ _ _ _ _ (by decide) (by omega) (by simp),
    M.obj_setObjBit_ne _ _ _ _ _ _ _ (by decide) (by decide) (by simp), ← M.objBit, M.objBit_setObjBit, if_pos rfl]

theorem M.fastStart_detected : (m.detected l fast).objBit (0x6100 + l) 2 4 = fast := by
  rw [M.detected, M.objBit_modLink, M.objBit_setLinkState _ _ (by decide) (by decide) (by decide), M.objBit_setObjBit, if_pos rfl]

theorem M.link_detected : (m.detected l fast).link l = (m.link l).detected fast := by
  rw [M.detected, M.link_modLink_same, M.link_setLinkState, M.link_setObjBit, M.link_setObjBit]

theorem M.onlyLink_detected : M.OnlyLink m (m.detected l fast) l [(0x6100 + l, 1), (0x6100 + l, 2)] :=
  (((m.onlyLink_setObjBit l 6 false (by decide) (by simp)).trans (M.onlyLink_setObjBit _ l 4 fast (by decide) (by simp))).trans
    (M.onlyLink_setLinkState _ l _ _ (by simp))).trans (M.onlyLink_modLink _ l _)

end

/-! ## Phases -/

section
variable {m : M} {l : Nat} (lanes : Nat)

/-- Lock and equalise, on all lanes in use. -/
theorem M.phaseEnd_lanes (hfirst : 1 ≤ (m.link l).phase) (hlast : (m.link l).phase ≤ 2)
    (hlanes : lanes &&& (m.link l).lanes = (m.link l).lanes) :
    m.phaseEnd l lanes true = m.modLink l fun k => { k with phase := if k.mode = 0 then k.phase + 1 else 3 } := by
  have hruns : (m.link l).phase ≠ 0 := by omega
  simp [M.phaseEnd, hruns, hlast, hlanes]

theorem M.phaseEnd_order (hphase : (m.link l).phase = 3) :
    m.phaseEnd l lanes true = m.modLink l fun k => { k with phase := 4 } := by
  simp [M.phaseEnd, hphase]

theorem M.phaseEnd_frame (hphase : (m.link l).phase = 4) :
    m.phaseEnd l lanes true = (m.setLinkState l lsNegotiate 0).modLink l fun k => { k with phase := 5 } := by
  simp [M.phaseEnd, hphase]

theorem M.phaseEnd_verify (hphase : (m.link l).phase = 6) : m.phaseEnd l lanes true = m.linkPass l := by
  simp [M.phaseEnd, hphase]

end

/-- A link that has passed verify; a cold training saves the settings `fp`. -/
def Link.passed (k : Link) (fp : List Nat) : Link :=
  { k with phase := 0, downHeld := false, saved := if k.mode = 0 then some fp else k.saved }

/-- The device with the lanes and the width of link `l` in its status. -/
def M.withLanes (m : M) (l lanes : Nat) : M :=
  (m.setObjFld (0x6100 + l) 2 35 32 lanes).setObjFld (0x6100 + l) 2 25 24 (if lanes = 0xF then 2 else 1)

theorem M.linkPass_eq (m : M) (l : Nat) :
    m.linkPass l = ((m.withLanes l (m.link l).lanes).modLink l fun k =>
      k.passed ((m.withLanes l (m.link l).lanes).fingerprint l)).setLinkState l lsActive 0 := rfl

section
variable (m : M) (l : Fin 32)

theorem M.link_linkPass : ∃ fp, (m.linkPass l).link l = (m.link l).passed fp :=
  ⟨_, by rw [M.linkPass_eq, M.link_setLinkState, M.link_modLink_same]; rfl⟩

theorem M.linkState_linkPass : (m.linkPass l).linkState l = lsActive := M.linkState_setLinkState _ l _ _ (by decide)

theorem M.lanes_linkPass (hlanes : (m.link l).lanes < 16) : (m.linkPass l).objFld (0x6100 + l) 2 35 32 = (m.link l).lanes := by
  rw [M.linkPass_eq, M.objFld_setLinkState _ _ _ _ (by decide) (by decide) (by decide) (by decide), M.objFld_modLink, M.withLanes, M.objFld,
    M.obj_setObjFld_same, fld_setFld_above _ _ _ _ _ _ (by decide) (by decide), ← M.objFld, M.objFld_setObjFld_same]
  exact Nat.mod_eq_of_lt hlanes

theorem M.width_linkPass : (m.linkPass l).objFld (0x6100 + l) 2 25 24 = if (m.link l).lanes = 0xF then 2 else 1 := by
  rw [M.linkPass_eq, M.objFld_setLinkState _ _ _ _ (by decide) (by decide) (by decide) (by decide), M.objFld_modLink, M.withLanes,
    M.objFld_setObjFld_same]
  split <;> rfl

theorem M.onlyLink_linkPass : M.OnlyLink m (m.linkPass l) l [(0x6100 + l, 2)] := by
  rw [M.linkPass_eq]
  exact (((m.onlyLink_setObjFld l 35 32 _ (by decide) (by simp)).trans (M.onlyLink_setObjFld _ l 25 24 _ (by decide) (by simp))).trans
    (M.onlyLink_modLink _ l _)).trans (M.onlyLink_setLinkState _ l _ _ (by simp))

end

/-! ## Loss -/

/-- A link that has lost what it held; what waits to be sent stands. -/
def Link.down (k : Link) : Link :=
  { k with
    replaying := 0, rxSb := [], rxBulk := [], freeSb := 0, freeBulk := 0, nakDue := false, nakOut := false, reqDue := 0
    downHeld := true }

theorem M.linkFail_idle {m : M} {l : Fin 32} (r : Nat) (hreplay : (m.link l).replay = []) (hmid : (m.link l).mid = 0) :
    m.linkFail l r = (m.setLinkState l lsFailed r).modLink l fun k => ({ k with phase := 0 } : Link).down := by
  have hlink : ((m.setLinkState l lsFailed r).modLink l fun k => { k with phase := 0 }).link l = { m.link l with phase := 0 } := by
    rw [M.link_modLink_same, M.link_setLinkState]
  rw [M.linkFail, M.linkDown_idle _ _ _ (by rw [hlink, hreplay]) (by rw [hlink, hmid]) (by simp), M.modLink_modLink]
  rfl

theorem M.linkOff_idle {m : M} {l : Fin 32} (hreplay : (m.link l).replay = []) (hmid : (m.link l).mid = 0)
    (hqueues : (m.link l).txSb = [] ∧ (m.link l).txMirror = [] ∧ (m.link l).txBulk = []) :
    m.linkOff l = (m.setLinkState l lsDisabled 0).modLink l fun k => ({ k with phase := 0, draining := false } : Link).down := by
  have hlink : ((m.setLinkState l lsDisabled 0).modLink l fun k => { k with phase := 0, draining := false }).link l =
      { m.link l with phase := 0, draining := false } := by
    rw [M.link_modLink_same, M.link_setLinkState]
  rw [M.linkOff, M.linkDown_idle _ _ _ (by rw [hlink, hreplay]) (by rw [hlink, hmid]) (fun _ => by rw [hlink]; exact hqueues),
    M.modLink_modLink]
  rfl

/-! ## NEGOTIATE -/

/-- The device with what NEGOTIATE tells of the partner of link `l`, and the version in use. -/
def M.withPartner (m : M) (l partner plink serial version : Nat) : M :=
  (((m.setObjFld (0x6100 + l) 2 63 48 partner).setObjFld (0x6100 + l) 2 44 40 plink).modLink l fun k =>
    { k with partnerSerial := serial }).setObjFld (0x6100 + l) 2 39 36 version

section
variable (m : M) (l : Nat) (partner plink serial version : Nat)

theorem M.link_withPartner : (m.withPartner l partner plink serial version).link l = { m.link l with partnerSerial := serial } := by
  rw [M.withPartner, M.link_setObjFld, M.link_modLink_same, M.link_setObjFld, M.link_setObjFld]

theorem M.onlyLink_withPartner : M.OnlyLink m (m.withPartner l partner plink serial version) l [(0x6100 + l, 2)] :=
  (((m.onlyLink_setObjFld l 63 48 _ (by decide) (by simp)).trans (M.onlyLink_setObjFld _ l 44 40 _ (by decide) (by simp))).trans
    (M.onlyLink_modLink _ l _)).trans (M.onlyLink_setObjFld _ l 39 36 _ (by decide) (by simp))

theorem M.obj_withPartner :
    (m.withPartner l partner plink serial version).obj (0x6100 + l) 2 =
      setFld (setFld (setFld (m.obj (0x6100 + l) 2) 63 48 partner) 44 40 plink) 39 36 version := by
  rw [M.withPartner, M.obj_setObjFld_same, M.obj_modLink, M.obj_setObjFld_same, M.obj_setObjFld_same]

theorem M.partner_withPartner (hpartner : partner < 2 ^ 16) :
    (m.withPartner l partner plink serial version).objFld (0x6100 + l) 2 63 48 = partner := by
  rw [M.objFld, M.obj_withPartner, fld_setFld_above _ _ _ _ _ _ (by decide) (by decide),
    fld_setFld_above _ _ _ _ _ _ (by decide) (by decide), fld_setFld_same]
  exact Nat.mod_eq_of_lt hpartner

theorem M.partnerLink_withPartner (hplink : plink < 2 ^ 5) :
    (m.withPartner l partner plink serial version).objFld (0x6100 + l) 2 44 40 = plink := by
  rw [M.objFld, M.obj_withPartner, fld_setFld_above _ _ _ _ _ _ (by decide) (by decide), fld_setFld_same]
  exact Nat.mod_eq_of_lt hplink

theorem M.version_withPartner (hversion : version < 2 ^ 4) :
    (m.withPartner l partner plink serial version).objFld (0x6100 + l) 2 39 36 = version := by
  rw [M.objFld, M.obj_withPartner, fld_setFld_same]
  exact Nat.mod_eq_of_lt hversion

end

/-- The device once a cold training goes on from NEGOTIATE. -/
def M.agreed (m : M) (l partner plink serial : Nat) : M :=
  ((m.withPartner l partner plink serial 1).setLinkState l lsTrain 0).modLink l fun k => ({ k with phase := 6 } : Link).restart

section
variable {m : M} {l : Nat} {versions : Nat} (partner plink serial last : Nat) (fresh : Bool) (hphase : (m.link l).phase = 5)
include hphase

/-- A cold training of a link that is down goes on with both sides at SEQ 0. -/
theorem M.negotiate_agreed (hversion : versions.testBit 1 = true) (hcold : (m.link l).mode = 0) (hdown : (m.link l).downHeld = true) :
    m.negotiate l versions partner plink serial last fresh =
      m.agreed l partner plink serial := by
  unfold M.negotiate
  rw [if_neg (not_not_intro hphase), if_neg (by simp [hversion])]
  extract_lets agreed k trained held
  have hk : k = { m.link l with partnerSerial := serial } := m.link_withPartner l partner plink serial 1
  have hmode : k.mode = 0 := by rw [hk, hcold]
  have hheld : k.downHeld = true := by rw [hk, hdown]
  rw [if_neg (by simp [hmode]), if_pos (by simp [hheld])]
  simp only [held, trained, if_pos hheld, hmode, M.modLink_modLink]
  rfl

theorem M.negotiate_refused (hversion : versions.testBit 1 = false) :
    m.negotiate l versions partner plink serial last fresh = (m.withPartner l partner plink serial 0).linkFail l 8 := by
  simp only [M.negotiate, if_neg (not_not_intro hphase), hversion, Bool.not_false, if_true]
  rfl

end

section
variable (m : M) (l : Fin 32) (partner plink serial : Nat)

theorem M.linkState_agreed : (m.agreed l partner plink serial).linkState l = lsTrain := M.linkState_setLinkState _ l _ _ (by decide)

/-- What NEGOTIATE tells stands in the status of the link. -/
theorem M.objFld_agreed {hi lo : Nat} (hle : lo ≤ hi) (hlo : 23 < lo) :
    (m.agreed l partner plink serial).objFld (0x6100 + l) 2 hi lo =
      (m.withPartner l partner plink serial 1).objFld (0x6100 + l) 2 hi lo :=
  M.objFld_setLinkState _ l _ _ (by decide) (by decide) hle hlo

theorem M.link_agreed :
    (m.agreed l partner plink serial).link l = { (m.link l).restart with partnerSerial := serial, phase := 6 } := by
  rw [M.agreed, M.link_modLink_same, M.link_setLinkState, M.link_withPartner]
  rfl

theorem M.onlyLink_agreed : M.OnlyLink m (m.agreed l partner plink serial) l [(0x6100 + l, 2)] :=
  ((m.onlyLink_withPartner l partner plink serial 1).trans (M.onlyLink_setLinkState _ l _ _ (by simp))).trans
    (M.onlyLink_modLink _ l _)

end

/-! ## Control -/

/-- The control object of a link: RETRAIN over FORCE_COLD, ALLOW_X2 and ENABLE. -/
def linkSpec : ObjSpec := oRWD tyB32 4 0 false [⟨7, 7, .trig⟩, ⟨6, 6, .rw⟩, ⟨5, 5, .rw⟩, ⟨4, 4, .rw⟩]

theorem objSpec_link : ∀ l : Fin 32, objSpec (0x6100 + l.val) 1 = some linkSpec := by decide

theorem linkSpec_reservedSet : ∀ n : Fin 16, linkSpec.reservedSet (16 * n) = false := by decide

theorem linkSpec_store (old : Nat) : ∀ n : Fin 16, linkSpec.store old (16 * n) = 16 * (n.val % 8) := by
  have hstore : ∀ n : Fin 16, linkSpec.store 0 (16 * n) = 16 * (n.val % 8) := by decide
  exact hstore

/-- The control word with RETRAIN set, and the ENABLE bit of both words. -/
theorem retrainWord_bits : ∀ e : Fin 8, setBit (16 * e) 7 true = 16 * (e.val + 8) ∧
    (16 * e.val).testBit 4 = decide (e.val % 2 = 1) ∧ (16 * (e.val + 8)).testBit 4 = decide (e.val % 2 = 1) ∧
    (16 * (e.val + 8)).testBit 7 = true := by decide

/-- The control word with ENABLE set has no RETRAIN. -/
theorem enableWord_eq : ∀ e : Fin 8, ∃ n : Fin 8, setBit (16 * e) 4 true = 16 * n.val := by decide

/-- A write of `16n` to the control object of a link. -/
theorem applies_link {c : Instr} {s : State} {p : Party} {l : Fin 32} {i : Nat} {b : Bool} {n : Nat} {g : M → M}
    (e : exec c s = s.run fun m => m.partyWrite p (0x6100 + l.val) 1 (m.withBit (0x6100 + l.val) 1 i b)) (hserves : (M.of s).Serves p)
    (hvalue : (M.of s).withBit (0x6100 + l.val) 1 i b = 16 * n) (hn : n < 16)
    (hg : ((M.of s).setObj (0x6100 + l.val) 1 (16 * (n % 8))).writeLink l (16 * n) = g (M.of s)) :
    Applies c s (0x6100 + l.val) 1 (16 * n) g := by
  obtain ⟨hhears, hup, howner⟩ := hserves
  obtain ⟨hcode, hclamp⟩ := takesAny linkSpec.fields (judge_rw _ rfl) (16 * n)
  have havailable : (M.of s).unavailable (0x6100 + l.val) false = false := by
    simp [M.unavailable]
    omega
  have happly : (M.of s).applyField p (0x6100 + l.val) 1 linkSpec (16 * n) = (0, g (M.of s)) := by
    have hindex : (0x6100 + l.val) / 4096 = 6 := by omega
    have hother : 0x6100 + l.val ≠ 0x6001 := by omega
    have hrange : (decide (0x6100 ≤ 0x6100 + l.val) && decide (0x6100 + l.val ≤ 0x611F)) = true := by simp; omega
    simp only [M.applyField, hindex, M.apply6, if_neg hother, hrange, if_true, linkSpec_store _ ⟨n, hn⟩, Nat.add_sub_cancel_left, hg]
  rw [← hvalue] at hcode hclamp happly ⊢
  exact applies_of (v := fun m => m.withBit (0x6100 + l.val) 1 i b) e hhears hup (fun _ => howner) (objSpec_link l) havailable rfl
    (by rw [hvalue]; exact linkSpec_reservedSet ⟨n, hn⟩) hcode hclamp happly

/-- RETRAIN on an ACTIVE link whose ENABLE is 1. -/
theorem M.writeLink_retrain {m : M} {l : Nat} (c : Nat) (henable : c.testBit 4 = true) (hretrain : c.testBit 7 = true)
    (hon : m.objBit (0x6100 + l) 1 4 = true) (hactive : m.linkState l = lsActive) (hreq : (m.link l).reqDue = 0) :
    m.writeLink l c = (m.modLink l fun k => { k with draining := false }).modLink l fun k => { k with reqDue := 3, reqReason := 6 } := by
  have hwake : m.linkWake l = m.modLink l fun k => { k with draining := false } := by
    have hup : m.linkState l ≠ lsDisabled := by rw [hactive]; decide
    rw [M.linkWake, if_neg (by simp [hup])]
    simp [linkObj, hon]
  have hfailed : (m.modLink l fun k => { k with draining := false }).linkState l ≠ lsFailed := by
    rw [M.linkState_modLink, hactive]
    decide
  rw [M.writeLink, if_pos henable, hwake]
  simp only [hretrain, Bool.not_true, Bool.false_eq_true, if_false, if_neg hfailed]
  exact M.wantRetrain_eq _ l 6 (by rw [M.linkState_modLink, hactive]) (by rw [M.link_modLink_same, hreq])

/-- ENABLE on a DISABLED link whose quadrant is on. -/
theorem M.writeLink_enable {m : M} {l : Nat} (c : Nat) (henable : c.testBit 4 = true) (hretrain : c.testBit 7 = false)
    (hon : m.objBit (0x6100 + l) 1 4 = true) (hoff : m.linkState l = lsDisabled) (hdom : m.domOn (30 + l / 8) = true) :
    m.writeLink l c = m.setLinkState l lsDetect 0 := by
  have hwake : m.linkWake l = m.setLinkState l lsDetect 0 := by
    rw [M.linkWake, if_pos (by simp [linkObj, linkDomain, hon, hdom, hoff])]
  simp [M.writeLink, henable, hretrain, hwake]

/-- The control object holds neither the state of the link nor that of a domain. -/
theorem M.linkState_setControl (m : M) (l : Fin 32) (v : Nat) : (m.setObj (0x6100 + l.val) 1 v).linkState l = m.linkState l := by
  rw [M.linkState, M.objFld, M.obj_setObj_ne _ _ _ _ _ _ (by decide) (by decide) (by simp), ← M.objFld, ← M.linkState]

theorem M.domOn_setControl (m : M) (l : Fin 32) (v : Nat) {d : Nat} (hd : d < 255) :
    (m.setObj (0x6100 + l.val) 1 v).domOn d = m.domOn d := by
  rw [M.domOn, M.domState, M.objFld, M.obj_setObj_ne _ _ _ _ _ _ (by omega) (by decide) (by simp; omega), ← M.objFld, ← M.domState,
    ← M.domOn]

/-- Settles O47, by what each event of a training makes of the link and of its status. -/
theorem linksTrain : Obligations.LinksTrain := by
  intro l s hlive k st
  refine ⟨fun hactive hreq => ?lost, fun hdetect => ?detect, fun lanes => ⟨fun hfirst hlast hlanes => ?lanes, fun hphase => ?order,
    fun hphase _ => ?frame, fun hphase hlanes => ?verify⟩, fun versions partner plink serial last fresh hphase =>
      ⟨fun hversion hcold hdown _ => ?agreed, fun hversion hreplay hmid => ?refused⟩,
    fun htrains hup hreplay hmid => ?hold, fun hdrain hreplay hmid hsb hmirror hbulk => ?drain,
    fun p e hserves he hctrl hodd hactive hreq => ?retrain, fun p e hserves he hctrl hoff hdom => ?enable⟩
  case lost =>
    exact ⟨does_of (exec_laneSignalLoss l s) ((M.when_of hlive).trans (M.wantRetrain_eq _ l 3 hactive hreq)),
      does_of (exec_alignLoss l s) ((M.when_of hlive).trans (M.wantRetrain_eq _ l 4 hactive hreq))⟩
  case detect =>
    refine ends_onlyLink (exec_linkDetect l s) ((M.when_of hlive).trans (M.linkDetect_eq hdetect)) (M.onlyLink_detected _ l _)
      fun m' hlike hrest _ => ⟨?_, ?_, ?_, ?_, hrest⟩
    · rw [LikeViews.linkState hlike, M.linkState_detected]
    · rw [LikeViews.objBit hlike, M.forceCold_detected]
    · rw [LikeViews.objBit hlike, M.fastStart_detected]
      rfl
    · rw [LikeViews.link hlike, M.link_detected]
      rfl
  case lanes =>
    exact does_of (exec_linkTrainPhaseEnd l s lanes true)
      ((M.when_of hlive).trans (M.phaseEnd_lanes lanes.toNat hfirst hlast hlanes))
  case order =>
    exact does_of (exec_linkTrainPhaseEnd l s lanes true) ((M.when_of hlive).trans (M.phaseEnd_order lanes.toNat hphase))
  case frame =>
    refine ends_onlyLink (exec_linkTrainPhaseEnd l s lanes true) ((M.when_of hlive).trans (M.phaseEnd_frame lanes.toNat hphase))
      ((M.onlyLink_setLinkState _ l _ _ (by simp)).trans (M.onlyLink_modLink _ l _)) fun m' hlike hrest _ => ⟨?_, ?_, hrest⟩
    · rw [LikeViews.linkState hlike, M.linkState_modLink, M.linkState_setLinkState _ _ _ _ (by decide)]
    · rw [LikeViews.link hlike, M.link_modLink_same, M.link_setLinkState]
  case verify =>
    obtain ⟨fp, hlink⟩ := M.link_linkPass (M.of s) l
    refine ends_onlyLink (exec_linkTrainPhaseEnd l s lanes true) ((M.when_of hlive).trans (M.phaseEnd_verify lanes.toNat hphase))
      (M.onlyLink_linkPass _ l) fun m' hlike hrest _ => ⟨?_, ?_, ?_, ?_, ?_, fun hwarm => ?_, hrest⟩
    · rw [LikeViews.linkState hlike, M.linkState_linkPass]
    · rw [LikeViews.objFld hlike, M.lanes_linkPass _ _ hlanes]
    · rw [LikeViews.objFld hlike, M.width_linkPass]
    · rw [LikeViews.link hlike, hlink]
      rfl
    · rw [LikeViews.link hlike, hlink]
      rfl
    · rw [LikeViews.link hlike, hlink]
      exact if_neg hwarm
  case agreed =>
    refine ends_onlyLink (exec_linkNegotiate l s versions partner plink serial last fresh)
      ((M.when_of hlive).trans (M.negotiate_agreed _ _ _ _ _ hphase hversion hcold hdown)) (M.onlyLink_agreed _ l _ _ _)
      fun m' hlike hrest _ => ⟨?_, ?_, ?_, ?_, ?_, hrest⟩
    · rw [LikeViews.linkState hlike, M.linkState_agreed]
    · rw [LikeViews.objFld hlike, M.objFld_agreed _ _ _ _ _ (by decide) (by decide), M.partner_withPartner _ _ _ _ _ _ partner.isLt]
    · rw [LikeViews.objFld hlike, M.objFld_agreed _ _ _ _ _ (by decide) (by decide), M.partnerLink_withPartner _ _ _ _ _ _ plink.isLt]
    · rw [LikeViews.objFld hlike, M.objFld_agreed _ _ _ _ _ (by decide) (by decide), M.version_withPartner _ _ _ _ _ _ (by decide)]
    · rw [LikeViews.link hlike, M.link_agreed]
  case refused =>
    have hlink := M.link_withPartner (M.of s) l partner.toNat plink.toNat serial.toNat 0
    have hfail := (M.negotiate_refused partner.toNat plink.toNat serial.toNat last.toNat fresh hphase hversion).trans
      (M.linkFail_idle 8 (by rw [hlink]; exact hreplay) (by rw [hlink]; exact hmid))
    refine ends_onlyLink (exec_linkNegotiate l s versions partner plink serial last fresh) ((M.when_of hlive).trans hfail)
      (((M.onlyLink_withPartner _ l _ _ _ _).trans (M.onlyLink_setLinkState _ l _ _ (by simp))).trans (M.onlyLink_modLink _ l _))
      fun m' hlike hrest _ => ⟨?_, ?_, ?_, ?_, hrest⟩
    · rw [LikeViews.linkState hlike, M.linkState_modLink, M.linkState_setLinkState _ _ _ _ (by decide)]
    · rw [LikeViews.objFld hlike, M.objFld_modLink, M.reason_setLinkState _ _ _ _ (by decide) (by decide)]
    · rw [LikeViews.link hlike, M.link_modLink_same]
      rfl
    · rw [LikeViews.link hlike, M.link_modLink_same]
      rfl
  case hold =>
    have hdue : ((M.of s).live && ((M.of s).linkState l == lsTrain || (M.of s).linkState l == lsNegotiate ||
        (M.of s).linkState l == lsRetrain) && !((M.of s).link l).downHeld) = true := by
      have hup : ((M.of s).link l).downHeld = false := hup
      simpa [hlive, hup, or_assoc] using htrains
    exact does_of (exec_linkHoldExpiry l s) ((M.when_of hdue).trans (M.linkDown_idle _ l false hreplay hmid (by simp)))
  case drain =>
    have hdue : ((M.of s).live && ((M.of s).link l).draining) = true := by rw [hlive]; exact hdrain
    refine ends_onlyLink (exec_linkDrainExpiry l s)
      ((M.when_of hdue).trans (M.linkOff_idle hreplay hmid ⟨hsb, hmirror, hbulk⟩))
      ((M.onlyLink_setLinkState _ l _ _ (by simp)).trans (M.onlyLink_modLink _ l _)) fun m' hlike hrest _ => ⟨?_, ?_, ?_, ?_, hrest⟩
    · rw [LikeViews.linkState hlike, M.linkState_modLink, M.linkState_setLinkState _ _ _ _ (by decide)]
    · rw [LikeViews.link hlike, M.link_modLink_same]
      rfl
    · rw [LikeViews.link hlike, M.link_modLink_same]
      rfl
    · rw [LikeViews.link hlike, M.link_modLink_same]
      rfl
  case retrain =>
    have hvalue : 16 * e + 128 = 16 * (e + 8) := by omega
    have hkept : (e + 8) % 8 = e := by omega
    obtain ⟨hword, hold, henable, hretrain⟩ := retrainWord_bits ⟨e, he⟩
    have hon : (16 * e).testBit 4 = true := hold.trans (decide_eq_true hodd)
    rw [hvalue]
    refine applies_link (exec_retrain l s p) hserves (by rw [M.withBit, hctrl]; exact hword) (by omega) ?_
    rw [hkept]
    exact M.writeLink_retrain _ (henable.trans (decide_eq_true hodd)) hretrain (by rw [M.objBit, M.obj_setObj_same, hon])
      ((M.linkState_setControl _ l _).trans hactive) hreq
  case enable =>
    obtain ⟨n, hn⟩ := enableWord_eq ⟨e, he⟩
    have hn : setBit (16 * e) 4 true = 16 * n.val := hn
    have henable : (16 * n.val).testBit 4 = true := by rw [← hn, testBit_setBit, if_pos rfl]
    have hretrain : (16 * n.val).testBit 7 = false := Nat.testBit_lt_two_pow (by omega)
    rw [hn]
    refine applies_link (exec_linkEnable l s p true) hserves (by rw [M.withBit, hctrl, hn]) (by omega) ?_
    rw [Nat.mod_eq_of_lt n.isLt]
    exact M.writeLink_enable _ henable hretrain (by rw [M.objBit, M.obj_setObj_same, henable])
      ((M.linkState_setControl _ l _).trans hoff) ((M.domOn_setControl _ l _ (by omega)).trans hdom)

end Sys2Proof.Machine
end

section
/-! Messages that arrive, and the requests of other devices (14_fabric_mirroring.md R312 to R314, R319, R322): what a READ,
a WRITE and an ATOMIC that the remote windows permit make of the state, what one that none permits is answered, and the
obligation on them. -/

namespace Sys2Proof.Machine

/-! ## Arrival -/

/-- A command on a message that arrives does what it makes of the state once the message has left the receive buffer. -/
theorem does_arrival {c : Instr} {s : State} {l : Fin 32} {x : Msg} {due : Bool} {act g : M → M} (h : (M.of s).Arrives l x)
    (e : exec c s = s.run fun m => m.message_ l x due act) (hdue : due = true)
    (hact : act ((M.of s).consumeMsg l x) = g (M.of s)) : Does c s g :=
  does_of e ((h.run act due hdue).trans hact)

/-- What a command does is what it runs. -/
theorem Does.run {c : Instr} {s : State} {g : M → M} (h : Does c s g) : exec c s = s.run g := h

/-! ## What each command runs -/

section
variable (l : Fin 32) (x : Msg) (s : State)

theorem exec_read : exec (.read l x) s = s.run fun m => m.message_ l x (x.op == opRead) fun m => m.serveRead x := rfl

theorem exec_write : exec (.write l x) s = s.run fun m => m.message_ l x (x.op == opWrite) fun m => m.serveWrite x := rfl

theorem exec_messageProtocolError :
    exec (.messageProtocolError l x) s = s.run fun m => m.message_ l x x.foreign id := rfl

/-- The commands of the six operations of ATOM. -/
def atomicCommands : List (Instr × Nat) :=
  [(.fetchAdd l x, 0), (.swap l x, 1), (.cas64 l x, 2), (.maxU32 l x, 3), (.addSatU32 l x, 4), (.or32 l x, 5)]

theorem exec_atomic {c : Instr × Nat} (hc : c ∈ atomicCommands l x) :
    exec c.1 s = s.run fun m => m.message_ l x (x.op == opAtomic && x.atom == c.2) fun m => m.serveAtomic x := by
  simp only [atomicCommands, List.mem_cons, List.not_mem_nil, or_false] at hc
  rcases hc with rfl | rfl | rfl | rfl | rfl | rfl
  all_goals rfl

end

theorem atomic_lt_six {l : Fin 32} {x : Msg} {c : Instr × Nat} (hc : c ∈ atomicCommands l x) : c.2 < 6 := by
  have hin : c.2 ∈ (atomicCommands l x).map Prod.snd := List.mem_map_of_mem hc
  exact List.mem_range.mp hin

/-! ## Remote windows -/

section
variable {m : M} {k a n : Nat}

theorem M.judgeRemote_denied (hdenied : m.windowAllows k a n = false) : m.judgeRemote k a n = respDenied := by
  rw [M.judgeRemote, hdenied]
  rfl

/-- A message that leaves the receive buffer changes no window and no place. -/
theorem M.judgeRemote_consumeMsg (m : M) (l : Nat) (x : Msg) (k a n : Nat) :
    (m.consumeMsg l x).judgeRemote k a n = m.judgeRemote k a n := rfl

theorem M.judgeRemote_ok (hallows : m.windowAllows k a n = true) (hspace : remoteSpace a = true)
    (hreach : m.reachAll none a n = true) : m.judgeRemote k a n = respOk := by
  rw [M.judgeRemote, hallows, hspace, if_pos hreach]
  rfl

end

/-! ## READ and WRITE -/

section
variable {m : M} {x : Msg}

theorem M.serveRead_ok (halign : x.addr % 64 = 0) (hok : m.judgeRemote 0 x.addr (64 * (x.lenM1 + 1)) = respOk) :
    m.serveRead x = m.answer x respOk (unitsOf (m.readP x.addr (64 * (x.lenM1 + 1)))) := by
  simp only [M.serveRead, if_pos halign, hok, if_true]

theorem M.serveRead_denied (hdenied : m.judgeRemote 0 x.addr (64 * (x.lenM1 + 1)) = respDenied) :
    m.serveRead x = m.answerBad x respDenied := by
  simp only [M.serveRead, hdenied, ite_self]
  rfl

theorem M.serveWrite_ok (halign : x.addr % 64 = 0) (hok : m.judgeRemote 1 x.addr (64 * (x.lenM1 + 1)) = respOk) :
    m.serveWrite x = (m.putLocal x.src x.addr ((flatUnits x.data).map fun b => (some b.1, b.2))).answer x respOk [] := by
  simp only [M.serveWrite, if_pos halign, hok, if_true]

theorem M.serveWrite_denied (hdenied : m.judgeRemote 1 x.addr (64 * (x.lenM1 + 1)) = respDenied) :
    m.serveWrite x = m.answer x respDenied [] := by
  simp only [M.serveWrite, hdenied, ite_self]
  rfl

end

/-! ## ATOMIC -/

theorem atomWidth_eq (k : Nat) : atomWidth k = if k < 3 then 8 else 4 := by
  rw [atomWidth]
  simp only [Nat.lt_succ_iff]

/-- The new value of each operation (R322), `v` being the operand slot. -/
theorem atomNew_eq {k : Nat} (hk : k < 6) (old v : Nat) :
    atomNew k old v =
      if k = 0 then (old + v % 2 ^ 64) % 2 ^ 64 else if k = 1 then v % 2 ^ 64
      else if k = 2 then (if old = v % 2 ^ 64 then v / 2 ^ 64 % 2 ^ 64 else old)
      else if k = 3 then max old (v % 2 ^ 32) else if k = 4 then min (old + v % 2 ^ 32) (2 ^ 32 - 1) else old ||| v % 2 ^ 32 := by
  have hlow : ∀ w, bitsAt v 0 w = v % 2 ^ w := fun w => by simp [bitsAt]
  have hhigh : bitsAt v 64 64 = v / 2 ^ 64 % 2 ^ 64 := rfl
  match k, hk with
  | 0, _ | 1, _ | 2, _ | 3, _ | 4, _ | 5, _ => simp [atomNew, hlow, hhigh]

section
variable {m : M} {x : Msg} {slot : List Byte} (hdata : x.data = [(slot, false)]) (halign : x.addr % atomWidth x.atom = 0)
  (hok : m.judgeRemote 2 x.addr (atomWidth x.atom) = respOk)
include hdata halign hok

theorem M.serveAtomic_clean (hclean : m.marked x.addr = false) :
    m.serveAtomic x =
      (m.putLocal x.src x.addr
        ((bytesOf (atomNew x.atom (m.num x.addr (atomWidth x.atom)) (natOf slot)) (atomWidth x.atom)).map
          fun b => (some b, false))).answer x respOk [(bytesOf (m.num x.addr (atomWidth x.atom)) 16, false)] := by
  simp [M.serveAtomic, if_pos halign, hok, hdata, M.atomicAt, hclean]

theorem M.serveAtomic_poisoned (hpoison : m.marked x.addr = true) :
    m.serveAtomic x = m.answer x respOk [(bytesOf (m.num x.addr (atomWidth x.atom)) 16, true)] := by
  simp [M.serveAtomic, if_pos halign, hok, hdata, M.atomicAt, hpoison]

end

/-! ## What an answer changes -/

/-- The working states differ in the links, the fabric and the objects alone. -/
structure M.Posted (a b : M) : Prop where
  fuse : b.fuse = a.fuse
  base : b.base = a.base
  ops : b.ops = a.ops
  dev : ∃ links fab objs, b.dev = { a.dev with links, fab, objs }

theorem M.Posted.refl (a : M) : M.Posted a a := ⟨rfl, rfl, rfl, _, _, _, rfl⟩

theorem M.Posted.trans {a b c : M} (hab : M.Posted a b) (hbc : M.Posted b c) : M.Posted a c := by
  obtain ⟨links, fab, objs, hb⟩ := hab.dev
  obtain ⟨links', fab', objs', hc⟩ := hbc.dev
  exact ⟨hbc.fuse.trans hab.fuse, hbc.base.trans hab.base, hbc.ops.trans hab.ops, links', fab', objs', by rw [hc, hb]⟩

section
variable {a b : M} (h : M.Posted a b)
include h

theorem M.Posted.byte (k : Nat) : b.byte k = a.byte k := by rw [M.byte, h.ops, h.base, ← M.byte]

theorem M.Posted.core (i : Nat) : b.core i = a.core i := by
  obtain ⟨_, _, _, hdev⟩ := h.dev
  rw [M.core, hdev, ← M.core]

theorem M.Posted.lq (n : Nat) : b.lq n = a.lq n := by
  obtain ⟨_, _, _, hdev⟩ := h.dev
  rw [M.lq, hdev, ← M.lq]

end

section
variable (m : M)

theorem M.posted_modLink (l : Nat) (f : Link → Link) : M.Posted m (m.modLink l f) := ⟨rfl, rfl, rfl, _, _, _, rfl⟩

theorem M.posted_modFab (f : Fab → Fab) : M.Posted m (m.modFab f) := ⟨rfl, rfl, rfl, _, _, _, rfl⟩

theorem M.posted_satObj (i j hi lo n : Nat) : M.Posted m (m.satObj i j hi lo n) := ⟨rfl, rfl, rfl, _, _, _, rfl⟩

theorem M.posted_nextLink (key : Nat) (ls : List Nat) : M.Posted m (m.nextLink key ls).2 := by
  unfold M.nextLink
  dsimp only
  split
  · exact M.Posted.refl m
  · dsimp only
    exact m.posted_modFab _

theorem M.posted_post (l : Nat) (o : TxOwner) (x : Msg) : M.Posted m (m.post l o x) := by
  unfold M.post
  exact m.posted_modLink _ _

theorem M.posted_emit (o : TxOwner) (x : Msg) : M.Posted m (m.emit o x).2 := by
  unfold M.emit
  dsimp only
  split
  · exact M.Posted.refl m
  · dsimp only
    exact (m.posted_nextLink _ _).trans (M.posted_post _ _ _ _)

theorem M.posted_answer (x : Msg) (resp : Nat) (data : List (List Byte × Bool)) : M.Posted m (m.answer x resp data) := by
  unfold M.answer M.respond
  dsimp only
  split
  · exact m.posted_emit _ _
  · exact m.posted_satObj _ _ _ _ _

end

/-- A byte after a store of bytes with marks, on a device that is no secondary. -/
theorem M.byte_putLocal_marked {m : M} (hrole : m.mirrorRole ≠ 2) (src a : Nat) (ds : List (Byte × Bool)) (k : Nat) :
    (m.putLocal src a (ds.map fun b => (some b.1, b.2))).byte k =
      if a ≤ k ∧ k < a + ds.length then (ds.getD (k - a) (0, false)).1 else m.byte k := by
  rw [M.byte_putLocal hrole, List.length_map]
  split
  · have hlt : k - a < ds.length := by omega
    simp [List.getD_eq_getElem?_getD, hlt]
  · rfl

/-- A WRITE that is served on a device that is no secondary: its bytes are what is read there, all other bytes stand. -/
theorem ends_served_write {l : Fin 32} {x : Msg} {s : State} {ds : List (Byte × Bool)} {resp n : Nat}
    {data : List (List Byte × Bool)} {c : Instr} (hlen : ds.length = n)
    (hdoes : Does c s fun m => ((m.consumeMsg l x).putLocal x.src x.addr (ds.map fun b => (some b.1, b.2))).answer x resp data)
    (hrole : (M.of s).mirrorRole ≠ 2) (hsound : s.sound) :
    Ends c s fun m' =>
      (∀ k, k < n → m'.byte (x.addr + k) = (ds.getD k (0, false)).1) ∧ (M.of s).SameOutside m' x.addr n ∧
      (M.of s).SameCores m' [] ∧ (M.of s).SameLqs m' [] := by
  subst hlen
  have hbyte := M.byte_putLocal_marked (m := (M.of s).consumeMsg l x) hrole x.src x.addr ds
  have hwrote := ((M.of s).consumeMsg l x).wrote_putLocal x.src x.addr (ds.map fun b => (some b.1, b.2))
  have hposted := M.posted_answer (((M.of s).consumeMsg l x).putLocal x.src x.addr (ds.map fun b => (some b.1, b.2))) x resp data
  refine ends_mem hdoes.run hsound (hposted.fuse.trans hwrote.fuse) (hposted.base.trans hwrote.base) fun m' hlike hmem _ =>
    ⟨fun k hk => ?_, fun k hk => ?_, LikeViews.sameCores hlike fun i _ => (hposted.core i).trans (hwrote.core i),
      LikeViews.sameLqs hlike fun n _ => (hposted.lq n).trans (hwrote.lq n)⟩
  · rw [hmem, hposted.byte, hbyte, if_pos (by omega), Nat.add_sub_cancel_left]
  · rw [hmem, hposted.byte, hbyte, if_neg (by omega)]
    rfl

/-- A protocol error of a message, on an ACTIVE link that has no retrain due. -/
theorem M.msgProtocol_eq {m : M} {l : Nat} (hactive : m.linkState l = lsActive) (hdue : (m.link l).reqDue = 0) :
    m.msgProtocol l = (m.satObj 0x6520 1 31 0 1).modLink l fun k => { k with reqDue := 3, reqReason := 7 } := by
  have hstate : (m.satObj 0x6520 1 31 0 1).linkState l = lsActive := by
    rw [M.linkState, M.objFld, M.obj_satObj_ne _ _ _ _ _ _ _ _ (by decide) (by decide) (by simp), ← M.objFld, ← M.linkState,
      hactive]
  exact M.wantRetrain_eq _ l 7 hstate hdue

/-- Settles O48, by what each request makes of the state where a window permits it and where none does. -/
theorem remoteRequestsAreServed : Obligations.RemoteRequestsAreServed := by
  refine ⟨fun l x s h => ⟨fun hop halign hallows hspace hreach => ?read, fun hop hdenied => ?readDenied,
      fun hop hdenied => ?writeDenied, fun hop halign hallows hspace hreach hrole hsound hlen => ?write,
      fun c hc slot hop hatom hdata halign hallows hspace hreach => ?atomic⟩,
    fun l x s hlive hclk hfirst hforeign hactive hdue => ?foreign⟩
  case read =>
    have hok := (M.judgeRemote_consumeMsg _ l x _ _ _).trans (M.judgeRemote_ok hallows hspace hreach)
    exact does_arrival h (exec_read l x s) (beq_iff_eq.mpr hop) (M.serveRead_ok halign hok)
  case readDenied =>
    have hno := (M.judgeRemote_consumeMsg _ l x _ _ _).trans (M.judgeRemote_denied hdenied)
    exact does_arrival h (exec_read l x s) (beq_iff_eq.mpr hop) (M.serveRead_denied hno)
  case writeDenied =>
    have hno := (M.judgeRemote_consumeMsg _ l x _ _ _).trans (M.judgeRemote_denied hdenied)
    exact does_arrival h (exec_write l x s) (beq_iff_eq.mpr hop) (M.serveWrite_denied hno)
  case write =>
    have hok := (M.judgeRemote_consumeMsg _ l x _ _ _).trans (M.judgeRemote_ok hallows hspace hreach)
    refine ⟨?does, ends_served_write hlen ?does hrole hsound⟩
    exact does_arrival h (exec_write l x s) (beq_iff_eq.mpr hop) (M.serveWrite_ok halign hok)
  case atomic =>
    obtain ⟨i, k⟩ := c
    subst hatom
    have hdue : (x.op == opAtomic && x.atom == x.atom) = true := by rw [hop]; simp
    have hwidth : (if x.atom < 3 then 8 else 4) = atomWidth x.atom := (atomWidth_eq x.atom).symm
    rw [hwidth] at halign hallows hreach ⊢
    have hok := (M.judgeRemote_consumeMsg _ l x _ _ _).trans (M.judgeRemote_ok hallows hspace hreach)
    intro v new
    have hnew : new = atomNew x.atom ((M.of s).num x.addr (atomWidth x.atom)) v := (atomNew_eq (atomic_lt_six hc) _ v).symm
    rw [hnew]
    exact ⟨fun hclean => does_arrival h (exec_atomic l x s hc) hdue (M.serveAtomic_clean hdata halign hok hclean),
      fun hpoison => does_arrival h (exec_atomic l x s hc) hdue (M.serveAtomic_poisoned hdata halign hok hpoison)⟩
  case foreign =>
    have hmessage : (M.of s).message_ l x x.foreign id = ((M.of s).consumeMsg l x).msgProtocol l := by
      simp [M.message_, hlive, hclk, hfirst, hforeign]
    have hnone : (((M.of s).consumeMsg l x).link l).reqDue = 0 := by
      rw [M.consumeMsg, M.link_modLink_same]
      split
      · exact hdue
      · exact hdue
    exact does_of (exec_messageProtocolError l x s) (hmessage.trans (M.msgProtocol_eq hactive hnone))

end Sys2Proof.Machine
end

section
/-! Responses (14_fabric_mirroring.md R313 to R315, R320, R474): what a response makes of the request of its tag and of the
manifest that waits for it, what a request that times out and a tag that is released leave, and the obligation on them. -/

namespace Sys2Proof.Machine

/-! ## What each command runs -/

section
variable (l : Fin 32) (x : Msg) (t : Fin 4096) (s : State)

theorem exec_readData : exec (.readData l x) s = s.run fun m => m.message_ l x (x.op == opReadData) fun m => m.completeTag x := rfl

theorem exec_writeAck : exec (.writeAck l x) s = s.run fun m => m.message_ l x (x.op == opWriteAck) fun m => m.completeTag x := rfl

theorem exec_atomicData :
    exec (.atomicData l x) s = s.run fun m => m.message_ l x (x.op == opAtomicData) fun m => m.completeTag x := rfl

theorem exec_flagSetReturn :
    exec (.flagSetReturn l x) s = s.run fun m => m.message_ l x (x.op == opFlagSet) fun m => m.completeTag x := rfl

theorem exec_requestTimeout : exec (.requestTimeout t) s = s.run fun m => m.when m.live fun m => m.loseTag t := rfl

theorem exec_tagRelease : exec (.tagRelease t) s = s.run fun m => m.when m.live fun m => m.freeLost t := rfl

end

/-! ## The request of a tag -/

/-- The device with tag `t` free. -/
def M.releaseTag (m : M) (t : Nat) : M := m.modFab fun f => { f with outstanding := Tab.erase f.outstanding t }

/-- Nothing goes out where no request waits for a tag. -/
theorem M.pump_none {m : M} (hnone : m.dev.fab.waiting = []) : m.pump m.dev.fab.waiting.length = m := by
  rw [hnone]
  rfl

section
variable {m : M} {x : Msg} {o : Outstanding}

/-- A response that answers the request of its tag completes it, where no request waits for a tag. -/
theorem M.completeTag_eq {n : M} (hfind : Tab.find? m.dev.fab.outstanding x.tag = some o) (hheld : o.lost = false)
    (hop : answerOp o.op = some x.op)
    (hdone : (if x.resp = 0 then (m.releaseTag x.tag).completeOk o.issuer o x.data
      else (m.releaseTag x.tag).completeBad o.issuer x.resp) = n)
    (hnone : n.dev.fab.waiting = []) : m.completeTag x = n := by
  have hresponse : m.response x.tag x.resp x.data = n.pump n.dev.fab.waiting.length := by
    rw [M.response, hfind]
    simp only [hheld, Bool.false_eq_true, if_false]
    rw [← hdone]
    rfl
  rw [M.completeTag, hfind]
  simp only [hop, if_true]
  rw [hresponse, M.pump_none hnone]

theorem M.completeTag_stray (hfind : Tab.find? m.dev.fab.outstanding x.tag = none) :
    m.completeTag x = m.satObj 0x6520 3 31 0 1 := by
  rw [M.completeTag, hfind]

/-- An answer other than a READ's tells the manifest that it has come. -/
theorem M.completeOk_other {core : Nat} {data : List (List Byte × Bool)} (hop : o.op ≠ opRead) :
    m.completeOk (.manifest core) o data = m.modRun core fun t => t.answered 0 := if_neg hop

end

/-! ## Data of a READ -/

/-- The line of 64 bytes from the first address of a line. -/
theorem linesOf_unit {a : Nat} (halign : a % 64 = 0) : linesOf a 64 = [a] := by
  have hone : (a + 64 - 1) / 64 - a / 64 + 1 = 1 := by omega
  have haddr : 64 * (a / 64) = a := by omega
  rw [linesOf, if_neg (by decide), hone]
  simp [haddr]

/-- One unit of a READ of a manifest comes in: it goes to its place on this device, and the request is answered. -/
theorem M.completeOk_read_unit {m : M} {o : Outstanding} {core : Nat} {bs : List Byte} {p : Bool} (hop : o.op = opRead)
    (hlow : o.into < 2 ^ 64) (hown : o.into / 2 ^ 48 = m.deviceId) (halign : o.into % 64 = 0)
    (hreach : m.reach (some core) (o.into % 2 ^ 48) = true) :
    m.completeOk (.manifest core) o [(bs, p)] =
      (((m.modRun core fun t => { t with poisonCount := t.poisonCount + p.toNat }).putLocal m.deviceId (o.into % 2 ^ 48)
        (bs.map fun b => (some b, p))).modRun core fun t => { t with trCount := t.trCount + 0 }.answered 0) := by
  have hcount : ([(bs, p)].filter (·.2)).length = p.toNat := by cases p <;> rfl
  have hline : linesOf (o.into % 2 ^ 48) (64 * [(bs, p)].length) = [o.into % 2 ^ 48] := linesOf_unit (by omega)
  simp only [M.completeOk, if_pos hop, if_neg (Nat.not_le.mpr hlow), if_pos hown, hcount, hline, List.zip_cons_cons,
    List.zip_nil_right, List.foldl_cons, List.foldl_nil, M.reach_modRun, hreach, if_true]

/-- A store at a local address lets no request wait. -/
theorem M.waiting_putLocal (m : M) (src a : Nat) (ds : List (Option Byte × Bool)) :
    (m.putLocal src a ds).dev.fab.waiting = m.dev.fab.waiting := by rw [(m.wrote_putLocal src a ds).fab]

/-! ## Time-out and release -/

section
variable {m : M} {t : Nat} {o : Outstanding} (hfind : Tab.find? m.dev.fab.outstanding t = some o)
include hfind

theorem M.loseTag_eq (hheld : o.lost = false) :
    m.loseTag t = (m.modFab fun f => { f with outstanding := Tab.put f.outstanding t { o with lost := true } }).completeBad o.issuer
      respLost := by
  rw [M.loseTag, hfind]
  simp only [hheld, Bool.false_eq_true, if_false]

theorem M.freeLost_eq (hlost : o.lost = true) (hnone : m.dev.fab.waiting = []) : m.freeLost t = m.releaseTag t := by
  rw [M.freeLost, hfind]
  simp only [hlost, if_true]
  exact M.pump_none (m := m.releaseTag t) hnone

end

/-- The response to a request that is outstanding, where no request waits for a tag: the tag is free, and the request completes. -/
theorem does_response {c : Instr} {s : State} {l : Fin 32} {x : Msg} {op : Nat} {o : Outstanding} {g : M → M}
    (e : exec c s = s.run fun m => m.message_ l x (x.op == op) fun m => m.completeTag x) (h : (M.of s).Arrives l x)
    (hop : x.op = op)
    (hfind : Tab.find? (M.of s).dev.fab.outstanding x.tag = some o) (hheld : o.lost = false) (hanswers : answerOp o.op = some op)
    (hdone : (if x.resp = 0 then (((M.of s).consumeMsg l x).releaseTag x.tag).completeOk o.issuer o x.data
      else (((M.of s).consumeMsg l x).releaseTag x.tag).completeBad o.issuer x.resp) = g (M.of s))
    (hnone : (g (M.of s)).dev.fab.waiting = []) : Does c s g :=
  does_arrival h e (beq_iff_eq.mpr hop) (M.completeTag_eq hfind hheld (hanswers.trans (congrArg some hop.symm)) hdone hnone)

/-- Settles O49, by what completes the request of a tag for each kind of issuer. -/
theorem responsesComplete : Obligations.ResponsesComplete := by
  refine ⟨fun l x s h hnone => ⟨fun o core hfind hheld => ⟨fun hop hreq hresp hiss => ?ack, fun hop hreq hresp hiss => ?atomic,
    fun hop hreq hiss => ?flag, fun hop hreq hresp hiss => ?refused, fun g hop hreq hresp hiss => ?record,
    fun bs p hop hreq hresp hiss hdata hlow hown halign hreach => ?data⟩, fun hop hfind => ?stray⟩,
    fun t o s hlive hfind => ⟨fun core hheld hiss => ?timeout, fun hlost hnone => ?release⟩⟩
  case ack =>
    refine does_response (exec_writeAck l x s) h hop hfind hheld (congrArg answerOp hreq) ?_ hnone
    rw [if_pos hresp, hiss]
    exact M.completeOk_other (by rw [hreq]; decide)
  case atomic =>
    refine does_response (exec_atomicData l x s) h hop hfind hheld (congrArg answerOp hreq) ?_ hnone
    rw [if_pos hresp, hiss]
    rfl
  case flag =>
    refine does_response (exec_flagSetReturn l x s) h hop hfind hheld (congrArg answerOp hreq) ?_ hnone
    rw [hiss]
    split
    · rename_i hresp
      rw [hresp]
      rfl
    · rfl
  case refused =>
    refine does_response (exec_readData l x s) h hop hfind hheld (congrArg answerOp hreq) ?_ hnone
    rw [if_neg hresp, hiss]
    rfl
  case record =>
    refine does_response (exec_readData l x s) h hop hfind hheld (congrArg answerOp hreq) ?_ hnone
    rw [if_pos hresp, hiss]
    rfl
  case data =>
    refine does_response (exec_readData l x s) h hop hfind hheld (congrArg answerOp hreq) ?_
      ((M.waiting_putLocal _ _ _ _).trans hnone)
    rw [if_pos hresp, hiss, hdata]
    exact M.completeOk_read_unit hreq hlow hown halign hreach
  case stray =>
    exact does_arrival h (exec_writeAck l x s) (beq_iff_eq.mpr hop) (M.completeTag_stray hfind)
  case timeout =>
    refine does_of (exec_requestTimeout t s) ((M.when_of hlive).trans ((M.loseTag_eq hfind hheld).trans ?_))
    rw [hiss]
    rfl
  case release =>
    exact does_of (exec_tagRelease t s) ((M.when_of hlive).trans (M.freeLost_eq hfind hlost hnone))

end Sys2Proof.Machine
end

section
/-! Messages of collectives (14_fabric_mirroring.md R324, R325, R327): COLL_READY and COLL_DATA of a collective that is
known here and of one that is not, messages that come back unserved, the time-out, and the obligation on them. -/

namespace Sys2Proof.Machine

/-! ## What each command runs -/

section
variable (l : Fin 32) (x : Msg) (core : Fin 24) (s : State)

theorem exec_collReady :
    exec (.collReady l x) s = s.run fun m => m.message_ l x (x.op == opCollReady) fun m =>
      if x.resp ≠ 0 then m.collBad x.addr
      else m.collReadyFrom (bitsAt x.addr 36 4) (bitsAt x.addr 40 8) (bitsAt x.addr 20 16) := rfl

theorem exec_collData :
    exec (.collData l x) s = s.run fun m => m.message_ l x (x.op == opCollData) fun m =>
      if x.resp ≠ 0 then m.collBad x.addr
      else
        let g := bitsAt x.addr 36 4
        match m.rankOf g x.src with
        | some q => m.collDataFrom g (bitsAt x.addr 40 8) q (bitsAt x.addr 20 16) (bitsAt x.addr 0 20) x.data
        | none => m := rfl

theorem exec_collTimeout :
    exec (.collTimeout core) s = s.run fun m =>
      m.when (m.live && (Tab.find? m.dev.fab.colls core).isSome) fun m => m.collFail core := rfl

end

/-! ## A collective found by its group and number -/

/-- The collective of a group and number on this device, with its core. -/
def M.collOf (m : M) (g id : Nat) : Option (Nat × Coll) := m.dev.fab.colls.find? fun e => e.2.group == g && e.2.id == id

section
variable {m : M} {g id : Nat}

theorem M.collReadyFrom_unknown (q : Nat) (hunknown : m.collOf g id = none) :
    m.collReadyFrom g id q = m.modFab fun f => { f with earlyReady := addOnce f.earlyReady ((g * 256 + id) * 65536 + q) } := by
  rw [M.collOf] at hunknown
  rw [M.collReadyFrom, hunknown]

section
variable {i : Nat} {c : Coll} (hknown : m.collOf g id = some (i, c))
include hknown

theorem M.collReadyFrom_known (q : Nat) :
    m.collReadyFrom g id q = (m.modColl i fun c => { c with readyFrom := addOnce c.readyFrom q }).collAdvance i := by
  rw [M.collOf] at hknown
  rw [M.collReadyFrom, hknown]

/-- A message that has not been received yet, in a GATHER (from rank `q`) or a BROADCAST. -/
theorem M.collDataFrom_new {sl : Slot} {q index : Nat} (source : Nat) (data : List (List Byte × Bool))
    (hslot : m.collSlot i = some sl)
    (hindex : index < collMsgs sl.words) (hnew : c.got.contains (collKey q index) = false) (hcop : collCop sl.words < 2) :
    m.collDataFrom g id q source index data =
      ((m.modColl i fun c => { c with got := c.got ++ [collKey q index] }).collPlace i sl (index / unitMsgs sl.words)
        ((if collCop sl.words = 0 then q else 0) * xU sl.words + 1024 * (index % unitMsgs sl.words))
        (flatUnits data)).collAdvance i := by
  rw [M.collOf] at hknown
  have hlate : ¬(c.got.contains (collKey q index) || decide (collMsgs sl.words ≤ index)) = true := by
    rw [hnew]
    simpa using hindex
  have hkind : collCop sl.words = 0 ∨ collCop sl.words = 1 := by omega
  rw [M.collDataFrom, hknown]
  simp only [hslot, if_neg hlate]
  rcases hkind with hgather | hbroadcast
  · simp [hgather]
  · simp [hbroadcast]

end

theorem M.collBad_known {a i : Nat} {c : Coll} (hknown : m.collOf (bitsAt a 36 4) (bitsAt a 40 8) = some (i, c)) :
    m.collBad a = m.collFail i := by
  rw [M.collOf] at hknown
  rw [M.collBad, hknown]

end

/-! ## A collective that fails -/

/-- A manifest that waits in a collective, once the collective has failed (R327). -/
def Slot.collFailed (t : Slot) : Slot :=
  if t.kind == kExchange && t.phase == .waiting then { t with trCount := t.trCount + 1, phase := .done } else t

section
variable (m : M) (i : Nat)

theorem M.core_collFail_same : (m.collFail i).core i = { m.core i with run := (m.core i).run.map Slot.collFailed } :=
  M.core_modCore_same _ _ _

theorem M.core_collFail_ne {j : Nat} (h : j ≠ i) : (m.collFail i).core j = m.core j := by
  rw [M.collFail, M.modRun, M.core_modCore, if_neg h]
  rfl

end

/-- Settles O34, by what each message makes of the collective it is for, and by what its failure leaves. -/
theorem collectiveMessagesAct : Obligations.CollectiveMessagesAct := by
  refine ⟨fun l x s h => ⟨fun hop hresp hunknown => ?early, fun i c hknown => ⟨fun hop hresp => ?ready, fun hop hresp => ?readyBack,
    fun hop hresp => ?dataBack, fun sl r hop hresp hslot hrank hindex hnew hcop => ?data⟩⟩, fun core s hlive hbusy => ?timeout⟩
  case early =>
    exact does_arrival h (exec_collReady l x s) (beq_iff_eq.mpr hop)
      ((if_neg (not_not.mpr hresp)).trans (M.collReadyFrom_unknown (m := (M.of s).consumeMsg l x) _ hunknown))
  case ready =>
    exact does_arrival h (exec_collReady l x s) (beq_iff_eq.mpr hop)
      ((if_neg (not_not.mpr hresp)).trans (M.collReadyFrom_known (m := (M.of s).consumeMsg l x) hknown _))
  case readyBack =>
    exact does_arrival h (exec_collReady l x s) (beq_iff_eq.mpr hop)
      ((if_pos hresp).trans (M.collBad_known (m := (M.of s).consumeMsg l x) hknown))
  case dataBack =>
    exact does_arrival h (exec_collData l x s) (beq_iff_eq.mpr hop)
      ((if_pos hresp).trans (M.collBad_known (m := (M.of s).consumeMsg l x) hknown))
  case data =>
    have hrank : ((M.of s).consumeMsg l x).rankOf (bitsAt x.addr 36 4) x.src = some r := hrank
    refine does_arrival h (exec_collData l x s) (beq_iff_eq.mpr hop) ((if_neg (not_not.mpr hresp)).trans ?_)
    simp only [hrank]
    exact M.collDataFrom_new (m := (M.of s).consumeMsg l x) hknown _ _ hslot hindex hnew hcop
  case timeout =>
    have hdue : ((M.of s).live && (Tab.find? (M.of s).dev.fab.colls core).isSome) = true := by rw [hlive, hbusy]; rfl
    refine ends_quiet (exec_collTimeout core s) (M.when_of hdue) rfl rfl fun m' hlike _ => ⟨?_, ?_,
      LikeViews.sameObjs hlike fun _ _ _ _ _ => rfl, LikeViews.sameCores hlike fun j hj => ?_,
      LikeViews.sameLinks hlike fun _ _ => rfl, LikeViews.sameLqs hlike fun _ _ => rfl⟩
    · rw [LikeViews.core hlike, M.core_collFail_same]
      rfl
    · rw [hlike.dev]
      rfl
    · exact M.core_collFail_ne _ _ (by simpa using hj)

end Sys2Proof.Machine
end

section
/-! Collectives that run (14_fabric_mirroring.md R324 to R327): the manifest of a GATHER, a BROADCAST or a REDUCE_CHILDREN as it
enters the run slot, what is due in its collective then, and the obligation on them. -/

namespace Sys2Proof.Machine

/-! ## What each command runs -/

theorem exec_collective (core : Fin 24) (s : State) {p : Nat × Instr}
    (hp : p ∈ [(0, Instr.gather core), (1, .broadcast core), (2, .reduceChildren core)]) :
    exec p.2 s = s.run fun m => m.runColl core p.1 := by
  simp only [List.mem_cons, List.not_mem_nil, or_false] at hp
  rcases hp with rfl | rfl | rfl
  all_goals rfl

/-! ## The manifest enters the run slot -/

/-- `sl` has moved from the ready slot of core `i` into its run slot; no object and nothing of the fabric differs. -/
structure M.CollEntered (m : M) (i : Nat) (sl : Slot) (b : M) : Prop where
  stands : CollAt m i sl m.dev.fab b
  run : (b.core i).run = some sl
  obj : ∀ x y, b.obj x y = m.obj x y

theorem M.Entered.collEntered {m : M} {i : Nat} {sl : Slot} {j : Job} (e : m.Entered i sl j) (sl' : Slot) :
    m.CollEntered i sl' (({ j with s := sl' } : Job).settle i) := by
  obtain ⟨hfuse, hcore, hothers, hobj, hlink, hlq⟩ := M.Entered.settled_only (j := { j with s := sl' }) e.only
  obtain ⟨cs, hown⟩ := e.own
  have hrun : ((({ j with s := sl' } : Job).settle i).core i).run = some sl' := by rw [hcore]
  have hready : ((({ j with s := sl' } : Job).settle i).core i).ready = none := by
    rw [hcore]
    show (j.m.core i).ready = none
    rw [hown]
  exact ⟨⟨hfuse, fun x y _ _ => hobj x y, hlink, hlq, hothers, hready, ⟨0, _, _, hrun⟩, e.fab.1⟩, hrun, hobj⟩

/-- The collective's manifest as it waits in the run slot. -/
def Slot.collWaiting (sl : Slot) : Slot := { sl with phase := .waiting, progress := 0 }

/-- The manifest of a collective that has failed before it ran. -/
def Slot.collLost (sl : Slot) : Slot := { sl with phase := .done, progress := 0, trCount := sl.trCount + 1 }

section
variable {m : M} {i cop : Nat} {sl : Slot} (h : m.MayRun i sl kExchange) (hop : xop sl.words = 3) (hcop : collCop sl.words = cop)
include h hop hcop

theorem M.runColl_known {c : Coll} (hknown : Tab.find? m.dev.fab.colls i = some c) :
    ∃ b, m.CollEntered i sl.collWaiting b ∧ m.runColl i cop = b.collAdvance i := by
  have hp : (xop sl.words == 3 && collCop sl.words == cop) = true := by rw [hop, hcop]; simp
  obtain ⟨j, henter, hrun⟩ := m.runThen_run i kExchange sl (fun ws => xop ws == 3 && collCop ws == cop)
    (fun j => if (Tab.find? j.m.dev.fab.colls i).isSome then { j with s := { j.s with phase := .waiting, progress := 0 } }
      else { j.tr 1 with s := { (j.tr 1).s with progress := 0 } }) (fun m _ => m.collAdvance i) h hp
  refine ⟨_, henter.collEntered sl.collWaiting, hrun.trans ?_⟩
  simp only [henter.fab.1, hknown, Option.isSome_some, if_true, henter.slot]
  rfl

theorem M.runColl_lost (hlost : Tab.find? m.dev.fab.colls i = none) :
    m.CollEntered i sl.collLost (m.runColl i cop) := by
  have hp : (xop sl.words == 3 && collCop sl.words == cop) = true := by rw [hop, hcop]; simp
  obtain ⟨j, henter, hrun⟩ := m.runThen_run i kExchange sl (fun ws => xop ws == 3 && collCop ws == cop)
    (fun j => if (Tab.find? j.m.dev.fab.colls i).isSome then { j with s := { j.s with phase := .waiting, progress := 0 } }
      else { j.tr 1 with s := { (j.tr 1).s with progress := 0 } }) (fun m _ => m.collAdvance i) h hp
  have hentered := henter.collEntered sl.collLost
  have hnone : Tab.find? (({ j with s := sl.collLost } : Job).settle i).dev.fab.colls i = none := by rw [hentered.stands.fab, hlost]
  have hslot : m.runColl i cop = (({ j with s := sl.collLost } : Job).settle i).collAdvance i := by
    refine hrun.trans ?_
    simp only [henter.fab.1, hlost, Option.isSome_none, Bool.false_eq_true, if_false, Job.tr, henter.slot]
    rfl
  have hadvance : (({ j with s := sl.collLost } : Job).settle i).collAdvance i = ({ j with s := sl.collLost } : Job).settle i := by
    rw [M.collAdvance, hnone]
  rwa [hslot, hadvance]

end

/-! ## What is due in a collective -/

/-- The collective with every node that rank `r` can form, and the words that count as format exceptions. -/
def Coll.allFormed (c : Coll) (ws : List W64) (r : Nat) : Coll × Nat :=
  if collCop ws = 2 then (List.range (totalIters ws)).foldl (fun c k => Coll.form ws r k (planOf ws).s (r, r) c) (c, 0) else (c, 0)

theorem Coll.allFormed_fst (c : Coll) (ws : List W64) (r : Nat) :
    (c.allFormed ws r).1 =
      if collCop ws = 2 then
        ((List.range (totalIters ws)).foldl (fun c k => Coll.form ws r k (planOf ws).s (r, r) c) (c, 0)).1
      else c := apply_ite Prod.fst _ _ _

theorem Coll.allFormed_keeps (c : Coll) (ws : List W64) (r : Nat) :
    (c.allFormed ws r).1.readyFrom = c.readyFrom ∧ (c.allFormed ws r).1.got = c.got ∧ (c.allFormed ws r).1.sentTo = c.sentTo := by
  rw [Coll.allFormed]
  split
  · exact formed_keeps ws r _ _ _ (c, 0)
  · exact ⟨rfl, rfl, rfl⟩

/-- The device once the collective of core `i` is as `f` says. -/
def M.collForm (m : M) (i : Nat) (f : Coll × Nat) : M :=
  (m.modColl i fun _ => f.1).modRun i fun s => { s with excCount := s.excCount + f.2 }

/-- What rank `r` contributes, iteration by iteration, as far as it has it. -/
def M.collAllGives (m : M) (i : Nat) (s : Slot) (c : Coll) (r : Nat) : List (List (Byte × Bool)) :=
  (List.range (totalIters s.words)).filterMap fun k => m.collGives i s c r k

/-- The unit of A1 that holds rank `r`'s own values in a collective, where it holds them. -/
def collOwn (ws : List W64) (r : Nat) : Option Nat :=
  if collCop ws = 0 then some r else if collCop ws = 2 then (planOf ws).rootIndex ((planOf ws).gives r)
  else if r = 0 then some 0 else none

/-- The device once own values are placed, where A1 holds them. -/
def M.collPlaceOwn (m : M) (i : Nat) (s : Slot) (gives : List (List (Byte × Bool))) : Option Nat → M
  | some x => ((List.range (totalIters s.words)).zip gives).foldl (fun (m : M) (u : Nat × List (Byte × Bool)) =>
      m.collPlace i s u.1 (x * xU s.words) u.2) m
  | none => m

/-- The device once own values are placed and the collective is over. -/
def M.collEnd (m : M) (i : Nat) (s : Slot) (r : Nat) (gives : List (List (Byte × Bool))) : M :=
  ((m.collPlaceOwn i s gives (collOwn s.words r)).modFab fun b => { b with colls := Tab.erase b.colls i }).modRun i fun s' =>
    { s' with phase := .done, progress := totalIters s.words }

/-- The device once what rank `r` contributes has gone to those of `n` members that are ready for it and do not have it, where rank
`r` has all of it. -/
def M.collSend (m : M) (i : Nat) (s : Slot) (c : Coll) (n r : Nat) (gives : List (List (Byte × Bool))) : M :=
  let due := (collReceivers s.words n r).filter fun q => c.readyFrom.contains q && !c.sentTo.contains q
  if gives.length == (List.range (totalIters s.words)).length then due.foldl (fun (m : M) q =>
    (m.collSendTo i s r q gives).modColl i fun c => { c with sentTo := addOnce c.sentTo q }) m
  else m

/-- The collective ends where all is sent and received; one that a lost message has ended already is left alone. -/
def M.collClose (m : M) (i : Nat) (s : Slot) (n r : Nat) (gives : List (List (Byte × Bool))) : M :=
  match Tab.find? m.dev.fab.colls i with
  | none => m
  | some c =>
    let got := (collSenders s.words n r).all fun q => (List.range (collMsgs s.words)).all fun x => c.got.contains (collKey q x)
    if gives.length == (List.range (totalIters s.words)).length && (collReceivers s.words n r).all c.sentTo.contains && got then
      m.collEnd i s r gives
    else m

section
variable {m : M} {i : Nat} {c : Coll} (hknown : Tab.find? m.dev.fab.colls i = some c)
include hknown

theorem M.find_collForm (f : Coll × Nat) : Tab.find? (m.collForm i f).dev.fab.colls i = some f.1 := by
  rw [M.collForm, M.modColl, hknown]
  exact Tab.find?_put_same _ _ _

/-- What advancing a collective does: its nodes are formed, its contributions go out, and it ends where it is complete. -/
theorem M.collAdvance_eq {s : Slot} (hrun : (m.core i).run = some s)
    (hwaits : (s.kind == kExchange && s.phase == .waiting && s.stop.isNone) = true) {n r : Nat}
    (hn : m.collSize (collGroup s.words) = n) (hr : (m.collRank (collGroup s.words)).getD 0 = r) :
    let f := c.allFormed s.words r
    let gives := (m.collForm i f).collAllGives i s f.1 r
    m.collAdvance i = ((m.collForm i f).collSend i s f.1 n r gives).collClose i s n r gives := by
  subst hn hr
  rw [M.collAdvance, hknown, hrun]
  have hgoes : ¬(!(s.kind == kExchange && s.phase == .waiting && s.stop.isNone)) = true := by rw [hwaits]; decide
  intro f gives
  refine (if_neg hgoes).trans ?_
  extract_lets ws g n r its formed m' given complete due sent own placed
  have hplaced : placed = sent.collPlaceOwn i s gives (collOwn s.words r) := by
    show (match own with | some x => _ | none => _) = sent.collPlaceOwn i s gives own
    cases own with
    | none => rfl
    | some x => rfl
  show _ = sent.collClose i s n r gives
  rw [M.collClose, hplaced]
  clear_value sent
  cases Tab.find? sent.dev.fab.colls i with
  | none => rfl
  | some c => rfl

end

/-- Nothing leaves where nobody is ready for a contribution that it does not have. -/
theorem M.collSend_none {m : M} {i n r : Nat} {s : Slot} {c : Coll} (gives : List (List (Byte × Bool)))
    (hnone : (collReceivers s.words n r).filter (fun q => c.readyFrom.contains q && !c.sentTo.contains q) = []) :
    m.collSend i s c n r gives = m := by
  rw [M.collSend, hnone]
  exact ite_self _

/-- A collective of which all is sent and received ends. -/
theorem M.collClose_complete {m : M} {i n r : Nat} {s : Slot} {c : Coll} {gives : List (List (Byte × Bool))}
    (hknown : Tab.find? m.dev.fab.colls i = some c) (hgives : gives.length = totalIters s.words)
    (hsent : (collReceivers s.words n r).all c.sentTo.contains = true)
    (hgot : ∀ q ∈ collSenders s.words n r, ∀ x, x < collMsgs s.words → c.got.contains (collKey q x) = true) :
    m.collClose i s n r gives = m.collEnd i s r gives := by
  have hall : ((collSenders s.words n r).all fun q =>
      (List.range (collMsgs s.words)).all fun x => c.got.contains (collKey q x)) = true :=
    List.all_eq_true.mpr fun q hq => List.all_eq_true.mpr fun x hx => hgot q hq x (List.mem_range.mp hx)
  have hdone : (gives.length == (List.range (totalIters s.words)).length && (collReceivers s.words n r).all c.sentTo.contains &&
      (collSenders s.words n r).all fun q => (List.range (collMsgs s.words)).all fun x => c.got.contains (collKey q x)) = true := by
    rw [hgives, hsent, hall, List.length_range]
    simp
  rw [M.collClose, hknown]
  exact if_pos hdone

/-- A collective that still owes a contribution goes on. -/
theorem M.collClose_owing {m : M} {i n r : Nat} {s : Slot} {c : Coll} (gives : List (List (Byte × Bool)))
    (hknown : Tab.find? m.dev.fab.colls i = some c) (howes : (collReceivers s.words n r).all c.sentTo.contains = false) :
    m.collClose i s n r gives = m := by
  rw [M.collClose, hknown]
  exact if_neg (by simp [howes])

/-- A member has its contribution for every iteration once its nodes are formed. -/
theorem M.length_collAllGives {m : M} {i r : Nat} {s : Slot} {c : Coll}
    (hformed : collCop s.words = 2 → ∀ k, k < totalIters s.words → (c.node s.words r ((planOf s.words).gives r) k).isSome = true) :
    (m.collAllGives i s c r).length = totalIters s.words := by
  have hall : ∀ k ∈ List.range (totalIters s.words), (m.collGives i s c r k).isSome = true := by
    intro k hk
    rw [M.collGives]
    split
    · exact hformed ‹_› k (List.mem_range.mp hk)
    · rfl
  rw [M.collAllGives, List.length_filterMap_eq_countP, List.countP_eq_length.mpr hall, List.length_range]

theorem M.core_modColl (m : M) (i : Nat) (f : Coll → Coll) (j : Nat) : (m.modColl i f).core j = m.core j := by
  rw [M.modColl]
  split
  · rfl
  · rfl

/-! ## What stands as a collective goes on and ends -/

section
variable {m b : M} {i : Nat} {sl : Slot} {fab : Fab} (hat : CollAt m i sl fab b)
include hat

theorem CollAt.modFab (f : Fab → Fab) : CollAt m i sl (f fab) (b.modFab f) :=
  ⟨hat.fuse, hat.objs, hat.links, hat.lqs, hat.others, hat.ready, hat.run, congrArg f hat.fab⟩

theorem CollAt.modRun {sl' : Slot} (f : Slot → Slot)
    (hf : ∀ tr ps ex, ∃ tr' ps' ex', f { sl with trCount := sl.trCount + tr, poisonCount := ps, excCount := ex } =
      { sl' with trCount := sl'.trCount + tr', poisonCount := ps', excCount := ex' }) :
    CollAt m i sl' fab (b.modRun i f) := by
  obtain ⟨tr, ps, ex, hrun⟩ := hat.run
  obtain ⟨tr', ps', ex', hslot⟩ := hf tr ps ex
  have hsame : (b.modRun i f).core i = { b.core i with run := (b.core i).run.map f } := M.core_modCore_same _ _ _
  refine ⟨hat.fuse, hat.objs, hat.links, hat.lqs, fun j hj => ?_, by rw [hsame]; exact hat.ready, ⟨tr', ps', ex', ?_⟩, hat.fab⟩
  · rw [M.modRun, M.core_modCore, if_neg hj, hat.others j hj]
  · rw [hsame, hrun, Option.map_some, hslot]

theorem CollAt.collForm {c : Coll} (hknown : Tab.find? b.dev.fab.colls i = some c) (f : Coll × Nat) :
    CollAt m i sl { fab with colls := Tab.put fab.colls i f.1 } (b.collForm i f) := by
  rw [M.collForm, M.modColl, hknown]
  exact (hat.modFab fun b => { b with colls := Tab.put b.colls i f.1 }).modRun _ fun tr ps ex => ⟨tr, ps, _, rfl⟩

theorem CollAt.collPlaceOwn (s : Slot) (gives : List (List (Byte × Bool))) (own : Option Nat) :
    CollAt m i sl fab (b.collPlaceOwn i s gives own) := by
  cases own with
  | none => exact hat
  | some x =>
    rw [M.collPlaceOwn]
    generalize (List.range (totalIters s.words)).zip gives = units
    induction units generalizing b with
    | nil => exact hat
    | cons u rest ih => exact ih (collPlace_at hat s _ _ _)

theorem CollAt.collEnd (s : Slot) (r : Nat) (gives : List (List (Byte × Bool))) :
    CollAt m i { sl with phase := .done, progress := totalIters s.words } { fab with colls := Tab.erase fab.colls i }
      (b.collEnd i s r gives) :=
  ((hat.collPlaceOwn s gives _).modFab fun b => { b with colls := Tab.erase b.colls i }).modRun _ fun tr ps ex => ⟨tr, ps, ex, rfl⟩

end

/-- A command that leaves the collective's core as `CollAt` says, its manifest with `tr` lines more that TARGET_RESET ended. -/
theorem ends_collAt {c : Instr} {s : State} {f : M → M} {b : M} {i pr tr : Nat} {ph : Phase} {sl sl' : Slot} {fab : Fab}
    {more : M → Prop} (e : exec c s = s.run f) (hb : f (M.of s) = b) (hat : CollAt (M.of s) i sl' fab b)
    (hrun : ∃ ps ex, (b.core i).run = some { sl with
      phase := ph, progress := pr, trCount := sl.trCount + tr, poisonCount := ps, excCount := ex })
    (hmore : ∀ m' : M, m'.dev.fab = fab → more m') :
    Ends c s fun m' =>
      (m'.core i).ready = none ∧
      (∃ ps ex, (m'.core i).run = some { sl with
        phase := ph, progress := pr, trCount := sl.trCount + tr, poisonCount := ps, excCount := ex }) ∧
      more m' ∧ (M.of s).SameCores m' [i] ∧ (M.of s).SameLinks m' [] ∧ (M.of s).SameLqs m' [] ∧ (M.of s).SameObjs m' [] := by
  refine ends_to e hb hat.fuse fun m' hlike => ⟨?_, ?_, hmore m' (by rw [hlike.dev, hat.fab]),
    LikeViews.sameCores hlike fun j hj => hat.others j (by simpa using hj), LikeViews.sameLinks hlike fun l _ => hat.links l,
    LikeViews.sameLqs hlike fun n _ => hat.lqs n, LikeViews.sameObjs hlike fun x y hy hx _ => hat.objs x y hy hx⟩
  · rw [LikeViews.core hlike, hat.ready]
  · rw [LikeViews.core hlike]
    exact hrun

/-- Size and rank rest on objects alone. -/
theorem M.CollEntered.collSize {m b : M} {i : Nat} {sl : Slot} (h : m.CollEntered i sl b) (g : Nat) :
    b.collSize g = m.collSize g := by
  simp only [M.collSize, M.objFld, h.obj]

theorem M.CollEntered.collRank {m b : M} {i : Nat} {sl : Slot} (h : m.CollEntered i sl b) (g : Nat) :
    b.collRank g = m.collRank g := by
  simp only [M.collRank, M.deviceId, h.collSize, M.objFld, h.obj]

theorem due_none_of_sent {c : Coll} {qs : List Nat} (hsent : qs.all c.sentTo.contains = true) :
    qs.filter (fun q => c.readyFrom.contains q && !c.sentTo.contains q) = [] :=
  List.filter_eq_nil_iff.mpr fun q hq => by rw [List.all_eq_true.mp hsent q hq]; simp

theorem due_none_of_none_ready {c : Coll} (qs : List Nat) (hready : c.readyFrom = []) :
    qs.filter (fun q => c.readyFrom.contains q && !c.sentTo.contains q) = [] := by simp [hready]

section
variable {m : M} {i : Nat} {sl : Slot} {c : Coll} (h : m.MayRun i sl kExchange) (hop : xop sl.words = 3)
  (hknown : Tab.find? m.dev.fab.colls i = some c) {n r : Nat} (hn : m.collSize (collGroup sl.words) = n)
  (hr : (m.collRank (collGroup sl.words)).getD 0 = r)
include h hop hknown hn hr

/-- A collective's manifest runs while nobody is due a contribution: it waits in the run slot with what nodes it can form, and ends
where all is sent and received. -/
theorem M.runColl_idle
    (hidle : (collReceivers sl.words n r).filter (fun q => c.readyFrom.contains q && !c.sentTo.contains q) = []) :
    ∃ b, m.CollEntered i sl.collWaiting b ∧ Tab.find? b.dev.fab.colls i = some c ∧
      let f := c.allFormed sl.words r
      m.runColl i (collCop sl.words) =
        (b.collForm i f).collClose i sl.collWaiting n r ((b.collForm i f).collAllGives i sl.collWaiting f.1 r) := by
  obtain ⟨b, hentered, hruns⟩ := M.runColl_known h hop rfl hknown
  obtain ⟨-, -, -, -, hstop, hkind, -⟩ := h
  obtain ⟨hready, -, hsent⟩ := c.allFormed_keeps sl.words r
  have hfind : Tab.find? b.dev.fab.colls i = some c := by rw [hentered.stands.fab, hknown]
  have hwaits : (sl.collWaiting.kind == kExchange && sl.collWaiting.phase == .waiting && sl.collWaiting.stop.isNone) = true := by
    simp [Slot.collWaiting, hkind, hstop]
  refine ⟨b, hentered, hfind, hruns.trans ?_⟩
  rw [M.collAdvance_eq hfind hentered.run hwaits ((hentered.collSize _).trans hn)
    ((congrArg (Option.getD · 0) (hentered.collRank _)).trans hr), M.collSend_none]
  · rfl
  · rw [← hidle, ← hready, ← hsent]
    rfl

/-- All is sent and received: the manifest is done, and the collective's place is free. -/
theorem M.runColl_complete (hsent : (collReceivers sl.words n r).all c.sentTo.contains = true)
    (hgot : ∀ q ∈ collSenders sl.words n r, ∀ x, x < collMsgs sl.words → c.got.contains (collKey q x) = true)
    (hformed : collCop sl.words = 2 → ∀ k, k < totalIters sl.words →
      ((c.allFormed sl.words r).1.node sl.words r ((planOf sl.words).gives r) k).isSome = true) :
    CollAt m i { sl with phase := .done, progress := totalIters sl.words }
      { m.dev.fab with colls := Tab.erase (Tab.put m.dev.fab.colls i (c.allFormed sl.words r).1) i }
      (m.runColl i (collCop sl.words)) := by
  obtain ⟨b, hentered, hfind, hruns⟩ := M.runColl_idle h hop hknown hn hr (due_none_of_sent hsent)
  obtain ⟨-, hgotKept, hsentKept⟩ := c.allFormed_keeps sl.words r
  rw [hruns, M.collClose_complete (s := sl.collWaiting) (M.find_collForm hfind _) (M.length_collAllGives hformed)
    (by rw [hsentKept]; exact hsent) (by rw [hgotKept]; exact hgot)]
  exact (hentered.stands.collForm hfind (c.allFormed sl.words r)).collEnd sl.collWaiting r _

/-- Something is still to be sent and nobody is ready for it: the manifest waits, and the collective keeps its place. -/
theorem M.runColl_owing (hready : c.readyFrom = []) (howes : (collReceivers sl.words n r).all c.sentTo.contains = false) :
    CollAt m i sl.collWaiting { m.dev.fab with colls := Tab.put m.dev.fab.colls i (c.allFormed sl.words r).1 }
      (m.runColl i (collCop sl.words)) ∧
    ((m.runColl i (collCop sl.words)).core i).run =
      some { sl.collWaiting with excCount := sl.excCount + (c.allFormed sl.words r).2 } := by
  obtain ⟨b, hentered, hfind, hruns⟩ := M.runColl_idle h hop hknown hn hr (due_none_of_none_ready _ hready)
  obtain ⟨-, -, hsentKept⟩ := c.allFormed_keeps sl.words r
  rw [hruns, M.collClose_owing (s := sl.collWaiting) _ (M.find_collForm hfind _) (by rw [hsentKept]; exact howes)]
  refine ⟨hentered.stands.collForm hfind _, ?_⟩
  rw [M.collForm, M.modRun, M.core_modCore_same, M.core_modColl, hentered.run]
  rfl

end

/-- Settles O31, by what advancing a collective does where nobody is due a contribution. -/
theorem collectivesRun : Obligations.CollectivesRun := by
  rintro core sl s h hop ⟨k, command⟩ hp rfl
  refine ⟨fun hlost => ?lost, fun c hknown => ⟨fun hsent hgot hformed => ?complete, fun hready howes => ?owing⟩⟩
  case lost =>
    have hentered := M.runColl_lost h hop rfl hlost
    exact ends_collAt (exec_collective core s hp) rfl hentered.stands ⟨_, _, hentered.run⟩ fun m' hfab => hfab
  case complete =>
    rw [← Coll.allFormed_fst] at hformed
    have hat := M.runColl_complete h hop hknown rfl rfl hsent hgot hformed
    obtain ⟨tr, ps, ex, hrun⟩ := hat.run
    exact ⟨tr, ends_collAt (exec_collective core s hp) rfl hat ⟨ps, ex, hrun⟩ fun m' hfab => by rw [hfab, Tab.find?_erase_same]⟩
  case owing =>
    obtain ⟨hat, hrun⟩ := M.runColl_owing h hop hknown rfl rfl hready howes
    rw [← Coll.allFormed_fst]
    exact ends_collAt (exec_collective core s hp) rfl hat ⟨_, _, hrun⟩ fun m' hfab => by rw [hfab, Tab.find?_put_same]

end Sys2Proof.Machine
end

section
/-! Mirror pairs (14_fabric_mirroring.md R328 to R335): what the partner's messages make of the pair, heartbeats and lags, the
commands of the pair's trigger object, and the obligation on them. -/

namespace Sys2Proof.Machine

/-! ## What each command runs -/

section
variable (l : Fin 32) (x : Msg) (p : Party) (s : State)

theorem exec_heartbeat :
    exec (.heartbeat l x) s = s.run fun m => m.message_ l x (x.op == opHeartbeat) fun m =>
      if m.fromPartner l x then m.setObjBit 0x6500 4 8 false else m := rfl

theorem exec_mirrorDelta :
    exec (.mirrorDelta l x) s = s.run fun m => m.message_ l x (x.op == opDelta) fun m =>
      if x.badDelta then m.msgProtocol l else if m.fromPartner l x && m.takesParts then m.takePart x.delta else m := rfl

theorem exec_mirrorAck :
    exec (.mirrorAck l x) s = s.run fun m => m.message_ l x (x.op == opMirrorAck) fun m =>
      if m.fromPartner l x && m.mirrorRole == 1 then m.mirrorAcked x.addr else m := rfl

theorem exec_takeoverNotice :
    exec (.takeoverNotice l x) s = s.run fun m => m.message_ l x (x.op == opTakeover) fun m =>
      if m.fromPartner l x && m.mirrorRole == 1 then m.noticed else m := rfl

theorem exec_heartbeatSend :
    exec .heartbeatSend s = s.run fun m => m.when (m.live && m.mirrorRole != 0) fun m =>
      (m.bundle.filter m.linkActive).foldl (fun (m : M) l => m.post l .none (m.message m.partner opHeartbeat 0 0)) m := rfl

theorem exec_partnerLost :
    exec .partnerLost s = s.run fun m => m.when (m.live && m.mirrorRole != 0 && !m.objBit 0x6500 4 8) fun m =>
      (m.setObjBit 0x6500 4 8 true).raise 385 := rfl

theorem exec_mirrorLag :
    exec .mirrorLag s = s.run fun m => m.when (m.live && m.mirrorRole == 1 && m.mirrorState == 2 && !m.dev.mirror.unacked.isEmpty)
      fun m => m.setMirrorState 3 := rfl

theorem exec_soloTimeout :
    exec .soloTimeout s = s.run fun m =>
      m.when (m.live && m.mirrorRole == 1 && (m.mirrorState == 3 || m.mirrorState == 1) && m.obj 0x6500 2 != 0) M.enterSolo := rfl

theorem exec_endPair : exec (.endPair p) s = s.run fun m => m.partyWrite p 0x6500 3 4 := rfl

theorem exec_resync : exec (.resync p) s = s.run fun m => m.partyWrite p 0x6500 3 2 := rfl

theorem exec_takeover : exec (.takeover p) s = s.run fun m => m.partyWrite p 0x6500 3 1 := rfl

end

/-! ## Parts that are known already -/

/-- A whole part of the partner's is taken by a secondary that takes parts. -/
theorem M.delta_taken {m : M} {l : Nat} {x : Msg} (hgood : x.badDelta = false) (hpartner : m.fromPartner l x = true)
    (htakes : m.takesParts = true) :
    (if x.badDelta then (m.consumeMsg l x).msgProtocol l
      else if (m.consumeMsg l x).fromPartner l x && (m.consumeMsg l x).takesParts then (m.consumeMsg l x).takePart x.delta
      else m.consumeMsg l x) = (m.consumeMsg l x).takePart x.delta := by
  have hdue : ((m.consumeMsg l x).fromPartner l x && (m.consumeMsg l x).takesParts) = true :=
    Bool.and_eq_true_iff.mpr ⟨hpartner, htakes⟩
  rw [hgood]
  exact if_pos hdue

/-- A part whose number is applied already changes nothing: what is applied is acknowledged. -/
theorem M.takePart_known {m : M} {d : Delta} (hnone : m.dev.mirror.heldParts = []) (hknown : d.mseq ≤ m.dev.mirror.applied) :
    m.takePart d = m.emitMirror .none (m.message m.partner opMirrorAck m.dev.mirror.applied 0) := by
  have hlate : ¬(decide (d.part = 3) && d.first && decide (m.dev.mirror.applied + 1 < d.mseq)) = true := by
    rw [decide_eq_false (by omega : ¬m.dev.mirror.applied + 1 < d.mseq)]
    simp
  have hdup : (decide (d.mseq ≤ m.dev.mirror.applied) || m.dev.mirror.heldParts.any fun e => e.mseq == d.mseq) = true := by
    rw [decide_eq_true hknown]
    rfl
  unfold M.takePart
  dsimp only
  rw [if_neg hlate, if_pos hdup, hnone]
  rfl

/-! ## Acknowledgements and the takeover notice -/

section
variable {m : M} (hfree : ∀ i, i < 24 → ∀ t ∈ (m.core i).waiters, t.phase ≠ .mirrorWait)
include hfree

theorem M.mirrorAcked_eq (q : Nat) (hstate : m.mirrorState = 2) :
    m.mirrorAcked q = (m.setObjFld 0x6500 4 63 16 (max m.acked q)).modMirror fun r => { r with
      unacked := r.unacked.filter fun d => max m.acked q < d.mseq } := by
  generalize hb : ((m.setObjFld 0x6500 4 63 16 (max m.acked q)).modMirror fun r => { r with
      unacked := r.unacked.filter fun d => max m.acked q < d.mseq }) = b
  have hkept : b.mirrorState = 2 := by
    rw [← hb, M.mirrorState, M.objFld, M.obj_modMirror, M.obj_setObjFld_same, fld_setFld_below _ _ _ _ _ _ (by decide) (by decide),
      ← M.objFld, ← M.mirrorState, hstate]
  have hcovered : b.finishCovered (max m.acked q) = b :=
    b.finishCovered_none _ fun i hi t ht => hfree i hi t (by rw [← hb] at ht; exact ht)
  unfold M.mirrorAcked
  dsimp only
  rw [hb, hcovered, hkept]
  rfl

/-- The notice of a takeover, where no chain of a mirrored context is active and none waits for the partner. -/
theorem M.noticed_eq (hidle : ∀ i, i < 24 → ∀ c ∈ m.mirrorContexts, bit16 (m.core i).active c = false) :
    m.noticed = (((m.setObjFld 0x6500 1 25 24 0).setMirrorState 0).modMirror fun r => { r with
      unacked := [], resyncAt := none, copyLast := none }).dropDeltas := by
  generalize hb : ((m.setObjFld 0x6500 1 25 24 0).setMirrorState 0).modMirror (fun r => { r with
      unacked := [], resyncAt := none, copyLast := none }) = b
  have hcore : ∀ i, b.dropDeltas.core i = m.core i := fun i => by rw [M.core_dropDeltas, ← hb]; rfl
  unfold M.noticed
  dsimp only
  rw [hb]
  refine foldl_eq_self _ _ _ fun i hi => ?_
  have hi : i < 24 := List.mem_range.mp hi
  rw [M.dropHeld_eq_self _ i fun t ht => hfree i hi t (by rw [hcore] at ht; exact ht)]
  refine foldl_eq_self _ _ _ fun c hc => ?_
  rw [hcore, hidle i hi c hc]
  rfl

end

/-! ## The commands of the pair -/

/-- The trigger object of the pair: END_PAIR over RESYNC and TAKEOVER. -/
def pairSpec : ObjSpec := oTrig [⟨2, 2, .trig⟩, ⟨1, 1, .trig⟩, ⟨0, 0, .trig⟩]

theorem objSpec_pair : objSpec 0x6500 3 = some pairSpec := by decide

theorem pairSpec_reservedSet : ∀ v : Fin 8, pairSpec.reservedSet v = false := by decide

/-- A write of the pair's trigger object by the owner, where the command is taken. -/
theorem applies_pair {c : Instr} {s : State} {p : Party} {v : Nat} {g : M → M}
    (e : exec c s = s.run fun m => m.partyWrite p 0x6500 3 v) (hserves : (M.of s).Serves p) (hv : v < 8)
    (hg : (M.of s).writePairCommand v = (0, g (M.of s))) : Applies c s 0x6500 3 v g := by
  obtain ⟨hhears, hup, howner⟩ := hserves
  obtain ⟨hcode, hclamp⟩ := takesAny pairSpec.fields (judge_rw _ rfl) v
  exact applies_of (v := fun _ => v) e hhears hup (fun _ => howner) objSpec_pair rfl rfl (pairSpec_reservedSet ⟨v, hv⟩) hcode
    hclamp hg

section
variable {m : M}

theorem M.resync_eq (hranges : m.mirrorRanges ≠ []) :
    m.resync = (m.setObjFld 0x6500 4 3 0 1).modMirror fun r => { r with resyncAt := some 0, copyFirst := true, copyLast := none } :=
  if_neg (by simpa using hranges)

theorem M.takeover_eq (himages : m.dev.mirror.images = []) (hlinks : m.bundle.filter m.linkActive = []) :
    m.takeover =
      (((m.modMirror fun r => { r with heldParts := [], nextMseq := r.applied, unacked := [], images := [] }).setObjFld
        0x6500 1 25 24 1).setObjFld 0x6500 4 3 0 6).raise 385 := by
  unfold M.takeover
  rw [hlinks]
  dsimp only [List.foldl_nil]
  rw [himages]
  rfl

theorem M.writePairCommand_endPair (hrole : m.mirrorRole = 1) :
    m.writePairCommand 4 = (0, m.enterSolo.setObjFld 0x6500 1 25 24 0) := if_pos hrole

theorem M.writePairCommand_resync (hrole : m.mirrorRole = 1) : m.writePairCommand 2 = (0, m.resync) := if_pos hrole

theorem M.writePairCommand_takeover (hrole : m.mirrorRole = 2) (hstate : m.mirrorState = 5) :
    m.writePairCommand 1 = (0, m.takeover) := if_pos (by rw [hrole, hstate]; rfl)

end

/-- Settles O51, by what each message and each command makes of the pair. -/
theorem mirrorPairsFollowTheirMessages : Obligations.MirrorPairsFollowTheirMessages := by
  refine ⟨fun l x s h hpartner => ⟨fun hop => ?heartbeat, fun hop hgood htakes hnone =>
      ⟨fun hknown => ?known, fun hgap hpart => ?gap, fun hnext hpart => ?next⟩, fun hop hrole hstate hfree => ?ack,
      fun hop hrole hquiet => ?notice⟩,
    fun s hlive => ⟨fun hrole => ?send, fun hrole hheard => ?lost, fun hrole hstate hunacked => ?lag⟩,
    fun p s hrole hfree => ⟨fun hlive hstate htimeout => ?solo, fun hserves => ?endPair, fun hserves hranges => ?resync⟩,
    fun p s hserves hrole hstate himages hlinks => ?takeover⟩
  case heartbeat =>
    exact does_arrival h (exec_heartbeat l x s) (beq_iff_eq.mpr hop) (if_pos hpartner)
  case known =>
    exact does_arrival h (exec_mirrorDelta l x s) (beq_iff_eq.mpr hop)
      ((M.delta_taken hgood hpartner htakes).trans (M.takePart_known (m := (M.of s).consumeMsg l x) hnone hknown))
  case gap =>
    exact does_arrival h (exec_mirrorDelta l x s) (beq_iff_eq.mpr hop)
      ((M.delta_taken hgood hpartner htakes).trans (M.takePart_early ((M.of s).consumeMsg l x) x.delta hnone hgap hpart))
  case next =>
    exact does_arrival h (exec_mirrorDelta l x s) (beq_iff_eq.mpr hop)
      ((M.delta_taken hgood hpartner htakes).trans (M.takePart_next ((M.of s).consumeMsg l x) x.delta hnone hnext hpart))
  case ack =>
    have hdue : ((M.of s).fromPartner l x && (M.of s).mirrorRole == 1) = true := by simp [hpartner, hrole]
    exact does_arrival h (exec_mirrorAck l x s) (beq_iff_eq.mpr hop)
      ((if_pos hdue).trans (M.mirrorAcked_eq (m := (M.of s).consumeMsg l x) hfree x.addr hstate))
  case notice =>
    have hdue : ((M.of s).fromPartner l x && (M.of s).mirrorRole == 1) = true := by simp [hpartner, hrole]
    exact does_arrival h (exec_takeoverNotice l x s) (beq_iff_eq.mpr hop)
      ((if_pos hdue).trans (M.noticed_eq (m := (M.of s).consumeMsg l x) (fun i hi => (hquiet i hi).1) fun i hi => (hquiet i hi).2))
  case send =>
    exact does_of (exec_heartbeatSend s) (M.when_of (by simp [hlive, hrole]))
  case lost =>
    exact does_of (exec_partnerLost s) (M.when_of (by simp [hlive, hrole, hheard]))
  case lag =>
    exact does_of (exec_mirrorLag s) (M.when_of (by simpa [hlive, hrole, hstate] using hunacked))
  case solo =>
    exact does_of (exec_soloTimeout s) ((M.when_of (by simp [hlive, hrole, hstate, htimeout])).trans (M.enterSolo_eq _ hfree))
  case endPair =>
    exact applies_pair (exec_endPair p s) hserves (by decide)
      ((M.writePairCommand_endPair hrole).trans (by rw [M.enterSolo_eq _ hfree]))
  case resync =>
    exact applies_pair (exec_resync p s) hserves (by decide) ((M.writePairCommand_resync hrole).trans (by rw [M.resync_eq hranges]))
  case takeover =>
    exact applies_pair (exec_takeover p s) hserves (by decide)
      ((M.writePairCommand_takeover hrole hstate).trans (by rw [M.takeover_eq himages hlinks]))

end Sys2Proof.Machine
end

section
/-! The host port's BAR2 (15_host_interface.md R342, R344, R351; 19 R432): what becomes of a request that is held and of one that
is served, what a read, a write and an AtomicOp of memory make of the state, the time-out of a held request, and the obligations
on them. -/

namespace Sys2Proof.Machine

/-! ## What each command runs -/

section
variable (offset : Nat) (s : State)

theorem exec_hostBar2Read (n : Nat) :
    exec (.hostBar2Read offset n) s = s.run fun m => m.hostAccess offset (.read n) := rfl

theorem exec_hostBar2Write (data : List Byte) (p : Bool) :
    exec (.hostBar2Write offset data p) s = s.run fun m => m.hostAccess offset (.write data p) := rfl

theorem exec_hostAtomic (op : Fin 3) (wide : Bool) (x c : W64) :
    exec (.hostAtomic offset op wide x c) s = s.run fun m => m.hostAccess offset (.atomic op wide x.toNat c.toNat) := rfl

theorem exec_heldDomainTimeout : exec .heldDomainTimeout s = s.run fun m => m.when m.live M.heldTimeout := rfl

end

/-! ## A request arrives -/

/-- A request within BAR2, as it is held or served: its window address is BAR2's base plus its offset (R342). -/
def M.requestAt (m : M) (offset : Nat) (req : HostRequest) : HeldRequest :=
  { offset, window := m.dev.host.b2Base.toNat + offset, req }

section
variable {m : M} {offset : Nat} {req : HostRequest} (hup : m.hostUp = true)
  (hsize : offset + req.size ≤ 2 ^ m.dev.host.b2Log2)
include hup hsize

theorem M.hostAccess_held (hheld : m.reqHeld (m.requestAt offset req) = true) :
    m.hostAccess offset req = m.modHost fun h => { h with held := h.held ++ [m.requestAt offset req] } := by
  rw [M.requestAt] at hheld
  simp [M.hostAccess, hup, Nat.not_lt.mpr hsize, hheld, M.requestAt]

theorem M.hostAccess_served (hfree : m.reqHeld (m.requestAt offset req) = false) :
    m.hostAccess offset req = m.hostServe (m.requestAt offset req) := by
  rw [M.requestAt] at hfree
  simp [M.hostAccess, hup, Nat.not_lt.mpr hsize, hfree, M.requestAt]

end

theorem M.hostRead_unanswered {m : M} {w n : Nat} (hnone : m.hostLines w n = none) : m.hostRead w n = m.completerAbort := by
  rw [M.hostRead, hnone]

/-! ## The oldest request that waits -/

section
variable {m : M} {h : HeldRequest} {rest : List HeldRequest} (hqueue : m.dev.host.held = h :: rest)
include hqueue

theorem M.heldTimeout_read {n : Nat} (hreq : h.req = .read n) :
    m.heldTimeout = (m.modHost fun p => { p with held := rest }).completerAbort := by
  simp only [M.heldTimeout, hqueue, hreq]

theorem M.heldTimeout_write {d : List Byte} {p : Bool} (hreq : h.req = .write d p) :
    m.heldTimeout = (m.modHost fun p => { p with held := rest, discarded := min (p.discarded + 1) 0xFFFF }).logFault
      0x1002 0 h.offset 0 clkMgmt := by
  simp only [M.heldTimeout, hqueue, hreq]
  rfl

end

/-! ## Requests of memory -/

theorem max_mem_linesOf {a n l : Nat} (hn : 0 < n) (hl : l ∈ linesOf a n) : max l a < a + n ∧ lineOf (max l a) = l := by
  obtain ⟨hlast, hfirst, hline⟩ := linesOf_mem a n l hn hl
  simp only [lineOf] at *
  omega

/-- The poisoned write that a request may be is counted, and reported as an error that can be corrected (R351). -/
def M.countPoison (m : M) (p : Bool) : M :=
  if p then (m.modHost fun h => { h with poisonRx := min (h.poisonRx + 1) 0xFFFF }).send (.aer false) else m

theorem M.wrote_countPoison (m : M) (p : Bool) : M.Wrote m (m.countPoison p) := by
  cases p with
  | false => exact M.Wrote.refl m
  | true => exact ⟨rfl, rfl, ⟨_, _, _, _, _, _, _, _, rfl⟩, fun _ _ _ _ => rfl⟩

theorem M.ops_countPoison (m : M) (p : Bool) : (m.countPoison p).ops = m.ops := by cases p <;> rfl

theorem M.hostLines_countPoison (m : M) (p : Bool) (a n : Nat) : (m.countPoison p).hostLines a n = m.hostLines a n := by
  cases p <;> rfl

theorem M.mirrorRole_countPoison (m : M) (p : Bool) : (m.countPoison p).mirrorRole = m.mirrorRole := by cases p <;> rfl

theorem M.deviceId_countPoison (m : M) (p : Bool) : (m.countPoison p).deviceId = m.deviceId := by cases p <;> rfl

section
variable {m : M} {a n : Nat} (hready : m.ready = true) (hn : 0 < n) (hend : a + n ≤ memEnd)
  (hreach : ∀ l ∈ linesOf a n, m.reach none (max l a) = true)
include hready hn hend hreach

theorem M.hostRead_memory : m.hostRead a n = m.send (.completion (m.bytes a n) ((linesOf a n).map m.marked)) := by
  have hdata : ∀ k ∈ List.range n, (if m.fusedWs (a + k) then 0 else m.byte (a + k)) = m.byte (a + k) := fun k hk => by
    have hlt := List.mem_range.mp hk
    rw [M.fusedWs_mem m (a + k) (by omega)]
    rfl
  have hmarks : ∀ l ∈ linesOf a n, (!m.fusedWs (max l a) && m.marked (max l a)) = m.marked l := fun l hl => by
    obtain ⟨hlt, hline⟩ := max_mem_linesOf hn hl
    rw [M.fusedWs_mem m (max l a) (by omega), ← M.marked_lineOf m (max l a), hline]
    rfl
  simp only [M.hostRead, M.hostLines_mem m a n hn hready hend hreach, windowMap_mem a (by omega), List.map_map, M.bytes]
  rw [List.map_congr_left hdata, ← List.map_congr_left hmarks]
  rfl

/-- A write of memory, on a device that is no secondary. -/
theorem M.hostWrite_memory {data : List Byte} (hlen : data.length = n) (hrole : m.mirrorRole ≠ 2) (offset : Nat) (p : Bool) :
    m.hostWrite offset a data p = (m.countPoison p).putLocal m.deviceId a (data.map fun b => (some b, p)) := by
  subst hlen
  have hfused : ((linesOf a data.length).map fun l => max l a).any (m.countPoison p).fusedWs = false := by
    rw [List.any_eq_false]
    intro b hb
    obtain ⟨l, hl, rfl⟩ := List.mem_map.mp hb
    obtain ⟨hlt, _⟩ := max_mem_linesOf hn hl
    simp [M.fusedWs_mem _ (max l a) (by omega)]
  simp [M.hostWrite, ← M.countPoison.eq_1, M.hostLines_countPoison, M.hostLines_mem m a _ hn hready hend hreach,
    windowMap_mem a (by omega), hfused, M.mirrorRole_countPoison, hrole, M.deviceId_countPoison]

section
variable {op : Nat} {wide : Bool} {x c : Nat} (hk : (if wide then 8 else 4) = n)
include hk

theorem M.hostAtom_misaligned (halign : a % n ≠ 0) : m.hostAtom a op wide x c = m.completerAbort := by
  subst hk
  simp [M.hostAtom, M.hostLines_mem m a _ hn hready hend hreach, windowMap_mem a (by omega), halign]

theorem M.hostAtom_poisoned (halign : a % n = 0) (hmark : m.marked a = true) :
    m.hostAtom a op wide x c = m.send (.completion (bytesOf (m.num a n) n) [true]) := by
  subst hk
  have hspace : remoteSpace a = true := by simp [remoteSpace, placeOf, show a < memEnd by omega]
  simp [M.hostAtom, M.hostLines_mem m a _ hn hready hend hreach, windowMap_mem a (by omega), halign, hspace, hmark]

theorem M.hostAtom_clean (halign : a % n = 0) (hmark : m.marked a = false) (hrole : m.mirrorRole ≠ 2) :
    m.hostAtom a op wide x c =
      ((m.closeWindows a n).storeMask a ((bytesOf (pcieAtomic op n (m.num a n) x c) n).map fun b => (some b, false))).send
        (.completion (bytesOf (m.num a n) n) [false]) := by
  subst hk
  have hspace : remoteSpace a = true := by simp [remoteSpace, placeOf, show a < memEnd by omega]
  simp [M.hostAtom, M.hostLines_mem m a _ hn hready hend hreach, windowMap_mem a (by omega), halign, hspace, hmark, hrole,
    M.putLocal_eq]

end

end

/-- A BAR2 request that no clock holds does what its service makes of the state. -/
theorem does_hostServed {c : Instr} {s : State} {offset : Nat} {req : HostRequest} {g : M → M}
    (e : exec c s = s.run fun m => m.hostAccess offset req) (hup : (M.of s).hostUp = true)
    (hsize : offset + req.size ≤ 2 ^ (M.of s).dev.host.b2Log2)
    (hfree : (M.of s).reqHeld ((M.of s).requestAt offset req) = false)
    (hserve : (M.of s).hostServe ((M.of s).requestAt offset req) = g (M.of s)) : Does c s g :=
  does_of e ((M.hostAccess_served hup hsize hfree).trans hserve)

/-- Settles O16: the write is a store at the window address, once its poison is counted. -/
theorem hostWritesLand : Obligations.HostWritesLand := by
  intro offset data p s hsound hup hready hpos hsize hrole a hend hfree hreach
  have hstore : (M.of s).hostAccess offset (.write data p) =
      ((M.of s).countPoison p).putLocal (M.of s).deviceId a (data.map fun b => (some b, p)) :=
    (M.hostAccess_served hup hsize hfree).trans (M.hostWrite_memory hready hpos hend hreach rfl hrole offset p)
  obtain ⟨hfuse, hbase, -, hbytes, hmarks⟩ :=
    M.storeL_facts ((M.of s).countPoison p) a data p hpos ((M.mirrorRole_countPoison _ p).symm ▸ hrole) (M.of s).deviceId
  have hcount := (M.of s).wrote_countPoison p
  have hwrote := hcount.trans (M.wrote_putLocal ((M.of s).countPoison p) (M.of s).deviceId a (data.map fun b => (some b, p)))
  rw [← hstore] at hfuse hbase hbytes hmarks hwrote
  have hbyte (x : Nat) : ((M.of s).countPoison p).byte x = (M.of s).byte x := by
    rw [M.byte, M.ops_countPoison, hcount.base, ← M.byte]
  have hmark (x : Nat) : ((M.of s).countPoison p).marked x = (M.of s).marked x := by
    rw [M.marked, M.ops_countPoison, hcount.base, ← M.marked]
  refine ends_mem (exec_hostBar2Write offset s data p) hsound hwrote.fuse hwrote.base fun m' hlike hreads hreadm =>
    ⟨fun k hk => ?written, fun x hx => ?outside, fun x => ?marks,
      LikeViews.sameObjs hlike fun i j hj hi _ => hwrote.obj i j hj hi, LikeViews.sameCores hlike fun i _ => hwrote.core i,
      LikeViews.sameLinks hlike fun l _ => hwrote.link l, LikeViews.sameLqs hlike fun n _ => hwrote.lq n⟩
  case written => rw [hreads, hbytes, if_pos (by omega), Nat.add_sub_cancel_left]
  case outside => rw [hreads, hbytes, if_neg (by omega), hbyte]
  case marks => rw [hreadm, hmarks, hmark]

/-- Settles O17, by what becomes of a read (held, aborted, answered) and of the oldest request that waits. -/
theorem hostReadsAnswer : Obligations.HostReadsAnswer := by
  refine ⟨fun offset n s hup hsize => ⟨fun hheld => ?held, fun hfree =>
      ⟨fun hnone => ?aborted, fun hready hend hpos hreach => ?answered⟩⟩,
    fun h rest s hlive hqueue => ⟨fun ⟨n, hreq⟩ => ?readLost, fun ⟨d, p, hreq⟩ => ?writeLost⟩⟩
  case held => exact does_of (exec_hostBar2Read offset s n) (M.hostAccess_held hup hsize hheld)
  case aborted =>
    exact does_hostServed (exec_hostBar2Read offset s n) hup hsize hfree (M.hostRead_unanswered hnone)
  case answered =>
    exact does_hostServed (exec_hostBar2Read offset s n) hup hsize hfree (M.hostRead_memory hready hpos hend hreach)
  case readLost => exact does_of (exec_heldDomainTimeout s) ((M.when_of hlive).trans (M.heldTimeout_read hqueue hreq))
  case writeLost => exact does_of (exec_heldDomainTimeout s) ((M.when_of hlive).trans (M.heldTimeout_write hqueue hreq))

/-- Settles O18, by the three ways an AtomicOp of memory is answered. -/
theorem hostAtomicsAnswer : Obligations.HostAtomicsAnswer := by
  intro offset op wide x c s hup hready hrole k a old hsize hend hfree hreach
  have hpos : 0 < k := by cases wide <;> decide
  have hserved {g : M → M} := does_hostServed (g := g) (exec_hostAtomic offset s op wide x c) hup hsize hfree
  refine ⟨fun halign => ?misaligned, fun halign hmark => ?poisoned, fun halign hmark => ?clean⟩
  case misaligned => exact hserved (M.hostAtom_misaligned hready hpos hend hreach rfl halign)
  case poisoned => exact hserved (M.hostAtom_poisoned hready hpos hend hreach rfl halign hmark)
  case clean =>
    refine hserved ((M.hostAtom_clean hready hpos hend hreach rfl halign hmark hrole).trans ?_)
    match op with
    | 0 | 1 | 2 => rfl

end Sys2Proof.Machine
end

section
/-! The host port's registers written badly, and its reset (15_host_interface.md R344, R351, R354): a write that is discarded, a
Function Level Reset with no chain active and with one alone, and the obligations on them. -/

namespace Sys2Proof.Machine

/-! ## Writes that are discarded -/

/-- A write that is discarded is counted, up to the counter's last value (R344). -/
theorem M.discard_below {m : M} (hroom : m.dev.host.discarded < 0xFFFF) :
    m.discard = m.modHost fun h => { h with discarded := h.discarded + 1 } := by
  have hmin : min (m.dev.host.discarded + 1) 0xFFFF = m.dev.host.discarded + 1 := by omega
  simp only [M.discard, M.modHost, hmin]

theorem M.writeBar0_narrow {m : M} {o : Nat} (hreg : m.isReg o = true) (v : W64) : m.writeBar0 o false v false = m.discard := by
  simp [M.writeBar0, hreg]

theorem M.writeBar0_poisoned {m : M} (hdiscarded : m.dev.host.discarded < 0xFFFF) (hpoison : m.dev.host.poisonRx < 0xFFFF)
    (o : Nat) (wide : Bool) (v : W64) :
    m.writeBar0 o wide v true = (m.modHost fun h => { h with
      discarded := h.discarded + 1, poisonRx := h.poisonRx + 1 }).send (.aer true) := by
  have hmin : min (m.dev.host.poisonRx + 1) 0xFFFF = m.dev.host.poisonRx + 1 := by omega
  have hcount : (m.modHost fun h => { h with poisonRx := h.poisonRx + 1 }).discard = _ := M.discard_below hdiscarded
  simp only [M.writeBar0, if_true, M.modHost, hmin] at hcount ⊢
  rw [hcount]

/-- Settles O11, by the two writes that `writeBar0` discards before it looks at the value. -/
theorem badRegisterWritesAreDiscarded : Obligations.BadRegisterWritesAreDiscarded := by
  intro o wide v s hup hdiscarded
  refine ⟨fun hreg => ?narrow, fun hpoison => ?poisoned⟩
  case narrow =>
    exact ends_to (exec_registerWrite o false v false s)
      ((M.when_of hup).trans ((M.writeBar0_narrow hreg v).trans (M.discard_below hdiscarded))) rfl fun m' hlike => hlike.dev
  case poisoned =>
    refine ends_to (exec_registerWrite o wide v true s) ((M.when_of hup).trans (M.writeBar0_poisoned hdiscarded hpoison o wide v))
      rfl fun m' hlike => ?_
    rw [hlike.dev]
    exact ⟨rfl, rfl, LikeViews.sameObjs hlike fun _ _ _ _ _ => rfl, LikeViews.sameCores hlike fun _ _ => rfl⟩

/-! ## Function Level Reset -/

theorem exec_functionLevelReset (s : State) :
    exec .functionLevelReset s = s.run fun m => m.when m.hostUp M.functionReset := rfl

/-- The host port after a Function Level Reset: all but the mailbox at its reset value (R354). -/
def HostPort.functionReset (h : HostPort) : HostPort :=
  { HostPort.zero with
    mboxBusy := h.mboxBusy, mboxDone := h.mboxDone, mboxOverrun := h.mboxOverrun, mboxIrqEn := h.mboxIrqEn
    mboxLastSeq := h.mboxLastSeq, mboxReq := h.mboxReq, mboxRep := h.mboxRep }

/-- Aborts the chain of context `x` of core `i` where it is active. -/
def M.abortActive (i : Nat) (m : M) (x : Nat) : M := if bit16 (m.core i).active x then m.forceAbort i x else m

/-- The contexts of core `i` in the order in which their chains are aborted: the current one comes last. -/
def M.abortOrder (m : M) (i : Nat) : List Nat :=
  ((List.range 16).filter (· != (m.core i).current)) ++ [(m.core i).current]

/-- Aborts every active chain of core `i`. -/
def M.abortCore (m : M) (i : Nat) : M := (m.abortOrder i).foldl (M.abortActive i) m

theorem M.functionReset_eq (m : M) :
    m.functionReset = ((List.range 24).foldl M.abortCore m).modHost HostPort.functionReset := rfl

theorem M.abortCore_idle {m : M} {i : Nat} (hidle : (m.core i).active = 0) : m.abortCore i = m :=
  foldl_eq_self (M.abortActive i) (m.abortOrder i) m fun x _ => by rw [M.abortActive, hidle, bit16_zero]; rfl

theorem M.functionReset_idle {m : M} (hidle : ∀ i : Fin 24, (m.core i).active = 0) :
    m.functionReset = m.modHost HostPort.functionReset := by
  rw [M.functionReset_eq, foldl_eq_self M.abortCore (List.range 24) m fun i hi =>
    M.abortCore_idle (hidle ⟨i, List.mem_range.mp hi⟩)]

/-- A chain of the current context with a manifest in the run slot is stopped, and its outcome waits (R141). -/
theorem M.forceAbort_running {m : M} {i x : Nat} (hactive : bit16 (m.core i).active x = true) (hcurrent : (m.core i).current = x)
    (hrun : (m.core i).run.isSome = true) :
    m.forceAbort i x = (m.stopSlots i .hostAbort).modCore i fun c => { c with abortCtx := x, abortRes := 1, abortLatched := true } := by
  simp [M.forceAbort, M.abortChain, hactive, hcurrent, hrun]

theorem bit16_two_pow (x : Fin 16) (y : Nat) : bit16 (BitVec.ofNat 16 (2 ^ x.val)) y = decide (x.val = y) := by
  have hlt : 2 ^ x.val < 2 ^ 16 := Nat.pow_lt_pow_right (by decide) x.isLt
  rw [bit16, BitVec.toNat_ofNat, Nat.mod_eq_of_lt hlt, Nat.testBit_two_pow]

section
variable {m : M} {i : Nat} {x : Fin 16} (hactive : (m.core i).active = BitVec.ofNat 16 (2 ^ x.val))
  (hcurrent : (m.core i).current = x) (hrun : (m.core i).run.isSome = true)
include hactive hcurrent hrun

/-- The contexts before the current one have no chain that is active. -/
theorem M.abortCore_single :
    m.abortCore i = (m.stopSlots i .hostAbort).modCore i fun c => { c with abortCtx := x, abortRes := 1, abortLatched := true } := by
  have hothers : ((List.range 16).filter (· != (m.core i).current)).foldl (M.abortActive i) m = m := by
    refine foldl_eq_self _ _ m fun y hy => ?_
    have hne : y ≠ x.val := by simpa [hcurrent] using (List.mem_filter.mp hy).2
    rw [M.abortActive, hactive, bit16_two_pow, decide_eq_false (Ne.symm hne)]
    rfl
  have hbit : bit16 (m.core i).active x = true := by rw [hactive, bit16_two_pow, decide_eq_true rfl]
  rw [M.abortCore, M.abortOrder, List.foldl_append, hothers, hcurrent, List.foldl_cons, List.foldl_nil, M.abortActive, if_pos hbit,
    M.forceAbort_running hbit hcurrent hrun]

theorem M.core_abortCore_ne (hkind : ∀ sl, (m.core i).run = some sl → sl.kind ≠ kSync) {j : Nat} (hj : j ≠ i) :
    (m.abortCore i).core j = m.core j := by
  rw [M.abortCore_single hactive hcurrent hrun, M.core_modCore, if_neg hj, M.core_stopSlots_ne m i j _ hj hkind]

end

/-- Where the chains of one core alone are aborted, and its abort touches no other core, the others are passed over. -/
theorem M.foldl_abortCore_single {m : M} {i : Nat} (hothers : ∀ j, j < 24 → j ≠ i → (m.core j).active = 0)
    (hkeeps : ∀ j, j ≠ i → (m.abortCore i).core j = m.core j) (hi : i < 24) :
    (List.range 24).foldl M.abortCore m = m.abortCore i := by
  refine foldl_at M.abortCore i (· = m) (· = m.abortCore i) (List.range 24) (fun r k hk hin hr => ?before) (fun r hr => by rw [hr])
    (fun r k hk hin hr => ?after) List.nodup_range (List.mem_range.mpr hi) m rfl
  case before => rw [hr, M.abortCore_idle (hothers k (List.mem_range.mp hin) hk)]
  case after => rw [hr, M.abortCore_idle ((congrArg Core.active (hkeeps k hk)).trans (hothers k (List.mem_range.mp hin) hk))]

/-- Settles O19: no chain to abort, or one alone, whose core is the only one that the reset touches. -/
theorem functionLevelResetClearsThePort : Obligations.FunctionLevelResetClearsThePort := by
  refine ⟨fun s hup hidle => ?idle, fun i x s hup hothers hactive hcurrent hrun hkind => ?single⟩
  case idle => exact does_of (exec_functionLevelReset s) ((M.when_of hup).trans (M.functionReset_idle hidle))
  case single =>
    have hfold := M.foldl_abortCore_single (fun j hj hne => hothers ⟨j, hj⟩ fun h => hne (congrArg Fin.val h))
      (fun j hj => M.core_abortCore_ne hactive hcurrent hrun hkind hj) i.isLt
    refine does_of (exec_functionLevelReset s) ((M.when_of hup).trans ?_)
    rw [M.functionReset_eq, hfold, M.abortCore_single hactive hcurrent hrun]
    rfl

end Sys2Proof.Machine
end

section
/-! The management port and PERST# (16_ledger.md R364, R373; 15_host_interface.md R352, R354; 19 R442, R443): what becomes of a
frame that is not whole, of a request and of one asked again, PERST# asserted with no chain active and released, and the obligation on
them. -/

namespace Sys2Proof.Machine

/-! ## What each command runs -/

theorem exec_lapFrameReceive (dest source : BitVec 48) (lap tagged fcsOk : Bool) (content : List Byte) (stale : Bool) (s : State) :
    exec (.lapFrameReceive dest source lap tagged fcsOk content stale) s = s.run fun m => m.when (lap && m.ledgerRuns) fun m =>
      m.lapFrame { dest := dest.toNat, source := source.toNat, tagged, fcsOk, content } stale := rfl

theorem exec_perst (s : State) : exec .perst s = s.run fun m => m.when (m.live && !m.dev.perst) M.perstOn := rfl

theorem exec_perstRelease (s : State) :
    exec .perstRelease s = s.run fun m => m.when m.dev.perst fun m =>
      ({ m with dev := { m.dev with perst := false } } : M).when m.live M.pcieStart := rfl

/-! ## Frames -/

/-- A frame of the minimum length is not padded. -/
theorem padded_of_long {content : List Byte} (hlong : 46 ≤ content.length) :
    content ++ List.replicate (46 - content.length) 0 = content := by
  rw [Nat.sub_eq_zero_of_le hlong, List.replicate_zero, List.append_nil]

section
variable {m : M} {f : LapFrame}

theorem M.lapFrame_badFcs (hfcs : f.fcsOk = false) (stale : Bool) :
    m.lapFrame f stale = (m.wrapObj 0x1060 3 63 32 1).satObj 0x1060 3 15 0 1 := by
  simp [M.lapFrame, M.badFrame, hfcs]

/-- A whole frame for the management port is counted, and its PDU is taken. -/
theorem M.lapFrame_whole (hlong : 46 ≤ f.content.length) (htag : f.tagged = false) (hfcs : f.fcsOk = true)
    (hlen : pduLength f.content ≤ f.content.length) (hdest : f.dest = m.mac) :
    m.lapFrame f false =
      (m.wrapObj 0x1060 3 63 32 1).takePdu f (f.content.take (max 16 (pduLength f.content))) := by
  have hmac : (m.wrapObj 0x1060 3 63 32 1).mac = m.mac := M.obj_setObj_ne m _ _ _ _ _ (by decide) (by decide) (by simp)
  have hgood : (m.wrapObj 0x1060 3 63 32 1).badFrame f = false := by
    simp [M.badFrame, htag, hfcs, hmac, hdest, hlen]
  simp only [M.lapFrame, padded_of_long hlong, hgood, Bool.false_eq_true, if_false]

end

section
variable {m : M} {f : LapFrame} {pdu : List Byte} (hreport : pduOp pdu ≠ pduTrayReport) (hack : pduOp pdu ≠ pduFailsafeAck)
  (hdest : f.dest ≠ broadcast)
include hreport hack hdest

theorem M.takePdu_again {reply : List Byte} (hkept : m.keptReply f.source (pduSeq pdu) = some reply) :
    m.takePdu f pdu = m.send (.frame f.source reply) := by
  simp [M.takePdu, hreport, hack, hdest, hkept]

theorem M.takePdu_new (hkept : m.keptReply f.source (pduSeq pdu) = none)
    (hroom : (m.dev.led.queue.filter fun q => q.party != .mailbox).length < 16) :
    m.takePdu f pdu =
      m.modLed fun d => { d with queue := d.queue ++ [{ party := .port (BitVec.ofNat 48 f.source), pdu }] } := by
  simp [M.takePdu, hreport, hack, hdest, hkept, M.enqueue, Nat.not_le.mpr hroom]

end

/-! ## PERST# -/

/-- PERST# with PERST_SCOPE 0 and no chain active: the host port as after a Function Level Reset, and the link down. -/
theorem M.perstOn_idle {m : M} (hscope : m.objBit 0x2100 3 0 = false) (hidle : ∀ i : Fin 24, (m.core i).active = 0) :
    m.perstOn = { m with dev := { m.dev with perst := true, pcieUp := false, host := m.dev.host.functionReset } } := by
  have hreset : ({ m with dev := { m.dev with perst := true } } : M).functionReset =
      ({ m with dev := { m.dev with perst := true } } : M).modHost HostPort.functionReset := M.functionReset_idle hidle
  have hclear : ({ m with dev := { m.dev with perst := true } } : M).objBit 0x2100 3 0 = false := hscope
  simp only [M.perstOn, hclear, Bool.not_false, if_true, hreset]
  rfl

/-- Settles O53, by what is made of each frame, and of PERST# as it falls and as it rises. -/
theorem portsTakeFramesAndPerst : Obligations.PortsTakeFramesAndPerst := by
  refine ⟨fun dest source content s hruns => ⟨fun tagged fcsOk stale => ?ignored, fun stale _ => ?broken,
      fun hlong hlen hmac hone hreport hack => ⟨fun hkept hroom => ?new, fun reply hkept => ?again⟩⟩,
    fun s hlive hhigh hscope hidle => ?asserted, fun s hlow hlive => ?released⟩
  case ignored => exact does_of (exec_lapFrameReceive dest source false tagged fcsOk content stale s) rfl
  case broken =>
    exact does_of (exec_lapFrameReceive dest source true false false content stale s)
      ((M.when_of hruns).trans (M.lapFrame_badFcs rfl stale))
  case new =>
    refine does_of (exec_lapFrameReceive dest source true false true content false s)
      ((M.when_of hruns).trans ((M.lapFrame_whole hlong rfl rfl hlen hmac).trans
        (Eq.trans (M.takePdu_new hreport hack hone hkept hroom) ?_)))
    rw [BitVec.ofNat_toNat, BitVec.setWidth_eq]
  case again =>
    exact does_of (exec_lapFrameReceive dest source true false true content false s)
      ((M.when_of hruns).trans ((M.lapFrame_whole hlong rfl rfl hlen hmac).trans (M.takePdu_again hreport hack hone hkept)))
  case asserted =>
    have hdue : ((M.of s).live && !(M.of s).dev.perst) = true := by rw [hlive, hhigh]; rfl
    refine ends_quiet (exec_perst s) ((M.when_of hdue).trans (M.perstOn_idle hscope hidle)) rfl rfl fun m' hlike hmem => ?_
    rw [hlike.dev]
    exact ⟨rfl, rfl, rfl, rfl, rfl, hmem, LikeViews.sameObjs hlike fun _ _ _ _ _ => rfl,
      LikeViews.sameCores hlike fun _ _ => rfl, LikeViews.sameLinks hlike fun _ _ => rfl, LikeViews.sameLqs hlike fun _ _ => rfl⟩
  case released => exact does_of (exec_perstRelease s) ((M.when_of hlow).trans (M.when_of hlive))

end Sys2Proof.Machine
end

section
/-! The Ledger's requests (16_ledger.md R356, R359, R363, R368 to R371, R373, R375): a submission to the mailbox, what answers a READ,
a DESCRIBE, a WRITE and a DISCOVER, the path a reply takes, and the obligations on them. -/

namespace Sys2Proof.Machine

/-! ## What each command runs -/

section
variable (s : State)

theorem exec_mboxSubmit : exec .mboxSubmit s = s.run fun m => m.when m.hostUp M.mboxSubmit := rfl

theorem exec_mboxClear (irqEn : Bool) :
    exec (.mboxClear irqEn) s = s.run fun m => m.when m.hostUp fun m => m.mboxCtrl true irqEn := rfl

theorem exec_ledgerRead :
    exec .ledgerRead s = s.run fun m => m.serveFront fun op => op != pduWrite && op != pduDescribe && op != pduDiscover := rfl

theorem exec_ledgerWrite : exec .ledgerWrite s = s.run fun m => m.serveFront fun op => op == pduWrite := rfl

theorem exec_describe : exec .describe s = s.run fun m => m.serveFront fun op => op == pduDescribe := rfl

theorem exec_discover : exec .discover s = s.run fun m => m.serveFront fun op => op == pduDiscover := rfl

end

/-! ## The mailbox -/

section
variable {m : M}

theorem M.mboxSubmit_busy (hbusy : m.dev.host.mboxBusy = true) :
    m.mboxSubmit = m.modHost fun h => { h with mboxOverrun := true } := if_pos hbusy

/-- The request buffer holds a PDU of a length that the mailbox takes: it joins the queue. -/
theorem M.mboxSubmit_idle {len : Nat} (hidle : m.dev.host.mboxBusy = false)
    (hlen : len = natOf [Tab.get m.dev.host.mboxReq 0 6, Tab.get m.dev.host.mboxReq 0 7]) (hmin : 16 ≤ len) (hmax : len ≤ 0x7000) :
    m.mboxSubmit = (m.modHost fun h => { h with mboxBusy := true }).modLed fun d => { d with
      queue := d.queue ++ [{ party := .mailbox, pdu := (List.range len).map fun k => Tab.get m.dev.host.mboxReq 0 k }] } := by
  have hwhole : max 16 (min len 0x7000) = len := by omega
  unfold M.mboxSubmit
  dsimp only
  rw [if_neg (by simp [hidle]), ← hlen, hwhole]

theorem M.mboxCtrl_clear (irqEn : Bool) :
    m.mboxCtrl true irqEn = m.modHost fun h => { h with mboxDone := false, mboxOverrun := false, mboxIrqEn := irqEn } := by
  simp [M.mboxCtrl]

end

/-- Settles O20, by the two branches of MBOX.SUBMIT and the write of MBOX.CTRL. -/
theorem mailboxTakesOneRequest : Obligations.MailboxTakesOneRequest := by
  refine ⟨fun len s hup hidle hlen hmin hmax => ?submitted, fun s hup hbusy => ?overrun, fun irqEn s hup => ?cleared⟩
  case submitted =>
    refine ends_to (exec_mboxSubmit s) ((M.when_of hup).trans (M.mboxSubmit_idle hidle hlen hmin hmax)) rfl fun m' hlike => ?_
    rw [hlike.dev]
    exact ⟨rfl, rfl, LikeViews.sameObjs hlike fun _ _ _ _ _ => rfl, LikeViews.sameCores hlike fun _ _ => rfl⟩
  case overrun =>
    exact ends_to (exec_mboxSubmit s) ((M.when_of hup).trans (M.mboxSubmit_busy hbusy)) rfl fun m' hlike => hlike.dev
  case cleared =>
    exact ends_to (exec_mboxClear s irqEn) ((M.when_of hup).trans (M.mboxCtrl_clear irqEn)) rfl fun m' hlike => hlike.dev

/-! ## The request at the front of the queue -/

/-- The request at the front of the queue is taken; `rest` waits. -/
def M.dequeued (m : M) (rest : List LedgerReq) : M := m.modLed fun d => { d with queue := rest }

section
variable {m : M} {q : LedgerReq} {rest : List LedgerReq} {serves : Nat → Bool} (hfront : m.dev.led.queue = q :: rest)
  (hruns : m.ledgerRuns = true) (hserves : serves (pduOp q.pdu) = true)
include hfront hruns hserves

/-- The mailbox's request leaves the queue, and its reply goes to the mailbox (R371). -/
theorem M.serveFront_mailbox (hparty : q.party = .mailbox) {reply : List Byte} {m' : M}
    (hanswer : (m.dequeued rest).ledgerAnswer .mailbox q.pdu = (reply, m')) : m.serveFront serves = m'.mailboxReply reply := by
  simp only [M.dequeued] at hanswer
  simp [M.serveFront, hfront, hruns, hserves, hparty, hanswer]

/-- A station's request, to which no reply is kept, is answered by a frame, and the reply is kept (R373). -/
theorem M.serveFront_port {a : BitVec 48} (hparty : q.party = .port a) (hnew : m.keptReply a.toNat (pduSeq q.pdu) = none)
    {reply : List Byte} {m' : M} (hanswer : (m.dequeued rest).ledgerAnswer (.port a) q.pdu = (reply, m')) :
    m.serveFront serves =
      (m'.modMgmt fun g => { g with kept := keepReply g.kept a.toNat (pduSeq q.pdu) reply }).send (.frame a.toNat reply) := by
  have hnew' : (m.dequeued rest).keptReply a.toNat (pduSeq q.pdu) = none := hnew
  simp only [M.dequeued] at hanswer hnew'
  simp [M.serveFront, hfront, hruns, hserves, hparty, hnew', hanswer]

end

/-! ## Answers -/

/-- A request that is whole, known on its path and not too large for it is answered by what its operation does. -/
theorem M.ledgerAnswer_served {m : M} {party : Party} {p : List Byte} {op : Nat} {es : List PduEntry} (hgood : headerOk p = true)
    (hserved : m.responder = false) (hop : pduOp p = op)
    (hes : entriesOf (op = pduWrite) (pduCount p) ((p.drop 16).take (pduLength p - 16)) = some es)
    (hknown : (op = pduRead ∨ op = pduWrite ∨ op = pduDescribe) ∨ op = pduDiscover ∧ party ≠ .mailbox)
    (hbare : op = pduDiscover → es = []) (hroom : m.replySize op es ≤ party.replyMax) :
    m.ledgerAnswer party p =
      if op = pduWrite then m.ledgerWrite party p es
      else
        let r := m.eachEntry (if op = pduDescribe then M.describeEntry else M.readEntry)
          (if op = pduDiscover then discoverEntries else es)
        (replyPdu p (if r.1 then stOk else stPartial) r.2.1, r.2.2) := by
  have hform : ¬(!headerOk p || !(op = pduRead || op = pduWrite || op = pduDescribe || (op = pduDiscover && party != .mailbox)) ||
      (op = pduDiscover && !es.isEmpty)) = true := by
    rcases hknown with hany | ⟨rfl, hport⟩
    · have hother : op ≠ pduDiscover := by rcases hany with h | h | h <;> rw [h] <;> decide
      simpa [hgood, hother, or_iff_not_imp_left] using hany
    · simp [hgood, hport, hbare]
  unfold M.ledgerAnswer
  dsimp only
  rw [hop, hes]
  dsimp only
  rw [if_neg hform, if_neg (by simp [hserved]), if_neg (Nat.not_lt.mpr hroom)]

theorem M.eachEntry_single (m : M) (f : M → PduEntry → Bool × List Byte × M) (e : PduEntry) :
    m.eachEntry f [e] = ((f m e).1, [(f m e).2.1], (f m e).2.2) := by
  simp [M.eachEntry]

/-! ## One field -/

section
variable {m : M} {party : Party} {p : List Byte} {e : PduEntry} (hgood : headerOk p = true) (hserved : m.responder = false)
include hgood hserved

/-- A READ of one field, which is served (R358, R369). -/
theorem M.ledgerAnswer_read {o : ObjSpec} (hop : pduOp p = pduRead)
    (hes : entriesOf false (pduCount p) ((p.drop 16).take (pduLength p - 16)) = some [e]) (hreason : m.readReason e true = 0)
    (ho : objSpec e.idx e.sub = some o) (hroom : 24 + pad8 o.size ≤ party.replyMax) :
    m.ledgerAnswer party p =
      (replyPdu p 0 [replyEntry e.idx e.sub o.size 0 0 [(m.readObj e.idx e.sub o).1]],
        (m.readObj e.idx e.sub o).2.markRead e.idx e.sub) := by
  have hsize : m.replySize pduRead [e] = 24 + pad8 o.size := by
    simp [M.replySize, hreason, ho, pduRead, pduWrite, pduDescribe]
  rw [M.ledgerAnswer_served hgood hserved hop hes (.inl (.inl rfl)) (absurd · (by decide)) (hsize ▸ hroom)]
  simp [M.eachEntry_single, M.readEntry_ok m e o hreason ho, pduRead, pduWrite, pduDescribe, pduDiscover, stOk]

/-- A DESCRIBE of one field (R356). -/
theorem M.ledgerAnswer_describe {o : ObjSpec} (hop : pduOp p = pduDescribe)
    (hes : entriesOf false (pduCount p) ((p.drop 16).take (pduLength p - 16)) = some [e]) (hreason : m.readReason e false = 0)
    (ho : objSpec e.idx e.sub = some o) (hroom : 56 ≤ party.replyMax) :
    m.ledgerAnswer party p =
      (replyPdu p 0 [replyEntry e.idx e.sub 32 0 0 [descriptor o (m.defaultOf e.idx e.sub)]], m) := by
  have hsize : m.replySize pduDescribe [e] = 56 := by
    simp [M.replySize, hreason, pduRead, pduWrite, pduDescribe]
  rw [M.ledgerAnswer_served hgood hserved hop hes (.inl (.inr (.inr rfl))) (absurd · (by decide)) (hsize ▸ hroom)]
  simp [M.eachEntry_single, M.describeEntry_ok m e o hreason ho, pduWrite, pduDescribe, pduDiscover, stOk]

/-- A WRITE of one field: its report is the reply, and is kept (R363). -/
theorem M.ledgerAnswer_write (hop : pduOp p = pduWrite)
    (hes : entriesOf true (pduCount p) ((p.drop 16).take (pduLength p - 16)) = some [e]) (hone : pduAon p = false)
    (hroom : 24 + 2 * pad8 e.len ≤ party.replyMax) :
    m.ledgerAnswer party p =
      let w := m.writeField party e.idx e.sub e.len e.value
      let b := w.2.2.inForce e (w.1, w.2.1)
      let reply := replyPdu p (if w.1 = 0 then 0 else 1) [replyEntry e.idx e.sub e.len w.1 w.2.1 [e.value, b.1]]
      (reply, b.2.modLed fun d => { d with lastReports := Tab.put d.lastReports party.path (reply.take 64) }) := by
  have hsize : m.replySize pduWrite [e] = 24 + 2 * pad8 e.len := by
    simp [M.replySize]
  rw [M.ledgerAnswer_served hgood hserved hop hes (.inl (.inr (.inl rfl))) (absurd · (by decide)) (hsize ▸ hroom), if_pos rfl]
  simp [M.ledgerWrite, M.writeRequest, M.writeAll, M.reportEntries, hone, stOk, stPartial]

end

/-! ## DISCOVER -/

theorem M.markRead_of_noLog (m : M) {idx : Nat} (sub : Nat) (hfault : idx ≠ 0x7100) (hmemory : idx < 0x5201 ∨ 0x5218 < idx) :
    m.markRead idx sub = m := by
  have hlog : ¬(decide (0x5201 ≤ idx) && decide (idx ≤ 0x5218) && decide (sub ≤ 64)) = true := by
    simp only [Bool.and_eq_true, decide_eq_true_eq]
    omega
  unfold M.markRead
  rw [if_neg hlog, if_neg (by simp [hfault] : ¬(decide (idx = 0x7100) && decide (sub ≤ 0xF0)) = true), ite_self]

/-- The objects of serial and grade, device ID and port settings are stored, and every party may read them (R375). -/
theorem M.readEntry_stored {m : M} {idx sub : Nat} {o : ObjSpec} (hserved : m.responder = false)
    (hidx : idx ∈ [0x1001, 0x6001, 0x1060]) (hsub : sub ≠ 0) (ho : objSpec idx sub = some o) (hr : o.r = true) :
    m.readEntry ⟨idx, sub, 0, 0⟩ = (true, replyEntry idx sub o.size 0 0 [m.obj idx sub], m) := by
  have hplain : m.unavailable idx true = false ∧ m.freeView idx sub = none ∧ m.view idx sub = none ∧ m.markRead idx sub = m := by
    simp only [List.mem_cons, List.not_mem_nil, or_false] at hidx
    rcases hidx with rfl | rfl | rfl
    all_goals exact ⟨rfl, rfl, rfl, m.markRead_of_noLog sub (by decide) (by decide)⟩
  obtain ⟨hup, hfree, hview, hmark⟩ := hplain
  have hreason : m.readReason ⟨idx, sub, 0, 0⟩ true = 0 := by simp [M.readReason, hserved, ho, hup]
  have hread : m.readObj idx sub o = (m.obj idx sub, m) := by simp [M.readObj, hsub, hr, hfree, hview]
  rw [M.readEntry_ok m _ o hreason ho, hread, hmark]

/-- The settings of the port: PLCA_EN, TO_TIMER, NODE_COUNT and NODE_ID (R372). -/
def portSpec : ObjSpec :=
  oRW tyB64 8 0 true [⟨32, 32, .rw⟩, ⟨23, 16, .num 1 255 1⟩, ⟨15, 8, .num 1 255 1⟩, ⟨7, 0, .num 0 254 1⟩]

theorem objSpec_serial : objSpec 0x1001 1 = some (oFix tyU64 8) := by decide

theorem objSpec_grade : objSpec 0x1001 2 = some (oFix tyB32 4) := by decide

theorem objSpec_deviceId : objSpec 0x6001 1 = some (oRW 0x02 2 0 true [⟨15, 0, .rw⟩]) := by decide

theorem objSpec_port : objSpec 0x1060 1 = some portSpec := by decide

/-- A DISCOVER without entries, from a station: serial, grade, device ID and port settings. -/
theorem M.ledgerAnswer_discover {m : M} {a : BitVec 48} {p : List Byte} (hgood : headerOk p = true) (hserved : m.responder = false)
    (hop : pduOp p = pduDiscover) (hes : entriesOf false (pduCount p) ((p.drop 16).take (pduLength p - 16)) = some []) :
    m.ledgerAnswer (.port a) p =
      (replyPdu p 0 [replyEntry 0x1001 1 8 0 0 [m.obj 0x1001 1], replyEntry 0x1001 2 4 0 0 [m.obj 0x1001 2],
        replyEntry 0x6001 1 2 0 0 [m.obj 0x6001 1], replyEntry 0x1060 1 8 0 0 [m.obj 0x1060 1]], m) := by
  have hserial := M.readEntry_stored (m := m) hserved (by decide) (by decide) objSpec_serial rfl
  have hgrade := M.readEntry_stored (m := m) hserved (by decide) (by decide) objSpec_grade rfl
  have hdevice := M.readEntry_stored (m := m) hserved (by decide) (by decide) objSpec_deviceId rfl
  have hport := M.readEntry_stored (m := m) hserved (by decide) (by decide) objSpec_port rfl
  have hroom : m.replySize pduDiscover [] ≤ (Party.port a).replyMax := (by decide : 16 ≤ 1488)
  rw [M.ledgerAnswer_served hgood hserved hop hes (.inr ⟨rfl, Party.noConfusion⟩) (fun _ => rfl) hroom]
  simp [M.eachEntry, discoverEntries, hserial, hgrade, hdevice, hport, pduWrite, pduDescribe, pduDiscover, stOk, oFix, oRW, portSpec]

/-- Settles O52, by what answers each operation and by the path that its reply takes. -/
theorem ledgerRequestsAreAnswered : Obligations.LedgerRequestsAreAnswered := by
  intro q rest s hfront hruns hserved hgood
  refine ⟨fun e o hparty ho => ⟨fun hop hes hreason hsize => ?read, fun hop hes hreason => ?described,
    fun hop hes hone hlen => ?written⟩, fun a hparty hop hes hnew => ?discovered⟩
  case read =>
    have hroom : 24 + pad8 o.size ≤ 0x8000 := by unfold pad8; omega
    exact does_of (exec_ledgerRead s) (M.serveFront_mailbox hfront hruns (by rw [hop]; rfl) hparty
      (M.ledgerAnswer_read (m := (M.of s).dequeued rest) hgood hserved hop hes hreason ho hroom))
  case described =>
    exact does_of (exec_describe s) (M.serveFront_mailbox hfront hruns (by rw [hop]; rfl) hparty
      (M.ledgerAnswer_describe (m := (M.of s).dequeued rest) hgood hserved hop hes hreason ho (by decide)))
  case written =>
    have hroom : 24 + 2 * pad8 e.len ≤ 0x8000 := by unfold pad8; omega
    exact does_of (exec_ledgerWrite s) (M.serveFront_mailbox hfront hruns (by rw [hop]; rfl) hparty
      (M.ledgerAnswer_write (m := (M.of s).dequeued rest) hgood hserved hop hes hone hroom))
  case discovered =>
    exact does_of (exec_discover s) (M.serveFront_port hfront hruns (by rw [hop]; rfl) hparty hnew
      (M.ledgerAnswer_discover (m := (M.of s).dequeued rest) hgood hserved hop hes))

end Sys2Proof.Machine
end

section
/-! The owner's commands (16_ledger.md R363, R365 to R367, R372, R378; 20_faults_fencing.md R462; 12_memory_integrity.md R280;
21_contexts_sync.md R475): the owner and its lease, SAVE and FORGET, the CLEAR of a log, the owner's flags, writes that are rejected,
and the obligation on them. -/

namespace Sys2Proof.Machine

/-! ## A field that is taken as written -/

/-- The object is written, and takes `v` as it is: no bit of it is reserved, no code missing, no number out of range. -/
abbrev ObjSpec.Takes (o : ObjSpec) (v : Nat) : Prop :=
  o.w = true ∧ o.reservedSet v = false ∧ o.badCode v = false ∧ o.clampAll v = v

section
variable {c : Instr} {s : State} {p : Party} {idx sub v : Nat} {o : ObjSpec}
  (e : exec c s = s.run fun m => m.partyWrite p idx sub v) (hhears : (M.of s).hears p = true) (hserved : (M.of s).responder = false)
  (howner : o.o = true → (M.of s).dev.led.owner = some p) (ho : objSpec idx sub = some o)
  (hup : (M.of s).unavailable idx false = false) (htakes : o.Takes v)
include e hhears hserved howner ho hup htakes

theorem applies_taken {g : M → M} (hg : (M.of s).applyField p idx sub o v = (0, g (M.of s))) : Applies c s idx sub v g := by
  obtain ⟨hw, hreserved, hcode, hclamp⟩ := htakes
  exact applies_of (v := fun _ => v) e hhears hserved howner ho hup hw hreserved hcode hclamp hg

theorem rejects_taken {n : Nat} (hn : n ≠ 0) (hg : (M.of s).applyField p idx sub o v = (n, M.of s)) : Rejects c s idx sub v n := by
  obtain ⟨hw, hreserved, hcode, hclamp⟩ := htakes
  exact rejects_of (v := fun _ => v) e hhears hserved howner ho hup hw hreserved hcode hn (by rw [hclamp]; exact hg)

end

/-! ## The owner and its lease -/

section
variable (p : Party) (s : State)

theorem exec_claim : exec (.claim p) s = s.run fun m => m.partyWrite p 0x1040 2 1 := rfl

theorem exec_release : exec (.release p) s = s.run fun m => m.partyWrite p 0x1040 3 1 := rfl

theorem exec_leaseExpiry :
    exec .leaseExpiry s = s.run fun m => m.when (m.ledgerRuns && !m.responder) fun m =>
      match m.dev.led.owner with
      | none => m
      | some p => (m.logFault 0x1001 p.kind p.mac 0 clkMgmt).setOwner none := rfl

end

/-- The trigger that every party may write: CLAIM. -/
def claimSpec : ObjSpec := ⟨tyB32, 4, 0, false, true, false, false, false, [⟨0, 0, .trig⟩]⟩

/-- The trigger RELEASE. -/
def releaseSpec : ObjSpec := oTrig [⟨0, 0, .trig⟩]

theorem objSpec_claim : objSpec 0x1040 2 = some claimSpec := by decide

theorem objSpec_release : objSpec 0x1040 3 = some releaseSpec := by decide

section
variable {m : M} {p q : Party}

theorem M.setOwner_same {r : Option Party} (hsame : m.dev.led.owner = r) : m.setOwner r = m := if_pos hsame

theorem M.setOwner_new {r : Option Party} (hnew : m.dev.led.owner ≠ r) :
    m.setOwner r = (m.modLed fun d => { d with owner := r }).cancelSession := if_neg hnew

theorem M.writeClaim_unowned (hnone : m.dev.led.owner = none) :
    m.writeClaim p 1 = (0, (m.modLed fun d => { d with owner := some p }).cancelSession) := by
  rw [← M.setOwner_new (by simp [hnone])]
  simp [M.writeClaim, hnone]

theorem M.writeClaim_own (hown : m.dev.led.owner = some p) : m.writeClaim p 1 = (0, m) := by
  simp [M.writeClaim, hown, M.setOwner_same]

theorem M.writeClaim_other (hother : m.dev.led.owner = some q) (hne : q ≠ p) : m.writeClaim p 1 = (7, m) := by
  simp [M.writeClaim, hother, hne, rnState]

end

theorem M.Kept.led {a b : M} (h : M.Kept a b) : b.dev.led = a.dev.led := by
  obtain ⟨_, _, _, _, _, _, _, _, _, _, hdev⟩ := h
  rw [hdev]

/-! ## SAVE and FORGET -/

section
variable (p : Party) (s : State)

theorem exec_save : exec (.save p) s = s.run fun m => m.partyWrite p 0x1020 1 1 := rfl

theorem exec_forget : exec (.forget p) s = s.run fun m => m.partyWrite p 0x1020 1 2 := rfl

theorem exec_saveDone (ok : Bool) : exec (.saveDone ok) s = s.run fun m => m.when m.live fun m => m.saveDone ok := rfl

theorem exec_mgmtSettingsApply :
    exec .mgmtSettingsApply s = s.run fun m => m.when (m.live && m.dev.mgmt.applyDue) fun m =>
      m.modMgmt fun g => { g with inEffect := some (m.obj 0x1060 1), applyDue := false } := rfl

end

/-- The trigger object of the flash: FORGET over SAVE. -/
def flashSpec : ObjSpec := oTrig [⟨1, 1, .trig⟩, ⟨0, 0, .trig⟩]

theorem objSpec_flash : objSpec 0x1020 1 = some flashSpec := by decide

theorem flashSpec_takes : ∀ v : Fin 4, flashSpec.Takes v := by decide

section
variable {m : M}

theorem M.writeSaving_busy {c : Nat} (hc : c % 4 ≠ 0) (hbusy : m.objBit 0x1020 2 0 = true) : m.writeSaving c = (7, m) := by
  simp [M.writeSaving, hc, hbusy, rnState]

theorem M.writeSaving_free {c : Nat} (hc : c % 4 ≠ 0) (hfree : m.objBit 0x1020 2 0 = false) :
    m.writeSaving c = (0, (m.setObjBit 0x1020 2 0 true).modLed fun d => { d with
      saving := if c.testBit 0 then some m.saveCopy else none, erasing := c.testBit 1 }) := by
  simp [M.writeSaving, hc, hfree]

/-- The work is done or has failed: BUSY falls, FAILED says which (R367). -/
def M.flashIdle (m : M) (fails : Bool) : M := (m.setObjBit 0x1020 2 0 false).setObjBit 0x1020 2 1 fails

section
variable (hbusy : m.objBit 0x1020 2 0 = true)
include hbusy

theorem M.saveDone_saved {v : List (Nat × Nat)} (hsaving : m.dev.led.saving = some v) :
    m.saveDone true = ((m.flashIdle false).satObj 0x1020 2 31 16 1).modLed fun d => { d with
      saving := none, erasing := false, saved := v } := by
  simp [M.saveDone, hbusy, hsaving, M.flashIdle]

theorem M.saveDone_erased (hnone : m.dev.led.saving = none) (herasing : m.dev.led.erasing = true) :
    m.saveDone true = (m.flashIdle false).modLed fun d => { d with saving := none, erasing := false, saved := [] } := by
  simp [M.saveDone, hbusy, hnone, herasing, M.flashIdle]

theorem M.saveDone_failed : m.saveDone false = (m.flashIdle true).modLed fun d => { d with saving := none, erasing := false } := by
  simp [M.saveDone, hbusy, M.flashIdle]

end

end

/-! ## The logs -/

section
variable (p : Party) (s : State)

theorem exec_faultLogClear : exec (.faultLogClear p) s = s.run fun m => m.partyWrite p 0x7100 0xF1 (2 ^ 63) := rfl

theorem exec_memoryLogClear (l : Fin 24) :
    exec (.memoryLogClear p l) s = s.run fun m => m.partyWrite p (0x5201 + l.val) 65 (2 ^ 31) := rfl

theorem exec_faultLogPersist (k : Fin 240) :
    exec (.faultLogPersist k) s = s.run fun m => m.when m.dev.powered fun m =>
      m.modFaults fun f => { f with unsaved := f.unsaved.filter (· != k.val + 1) } := rfl

end

/-- The control word of the fault log: CLEAR over LOST, NEWEST and COUNT. -/
def faultLogSpec : ObjSpec := oRWD tyB64 8 0 false [⟨63, 63, .trig⟩, ⟨31, 16, .ro⟩, ⟨15, 8, .ro⟩, ⟨7, 0, .ro⟩]

/-- The control word of a memory log: CLEAR over LOST and COUNT. -/
def memoryLogSpec : ObjSpec := oRWD tyB32 4 0 false [⟨31, 31, .trig⟩, ⟨22, 7, .ro⟩, ⟨6, 0, .ro⟩]

theorem objSpec_faultLog : objSpec 0x7100 0xF1 = some faultLogSpec := by decide

theorem objSpec_memoryLog : ∀ l : Fin 24, objSpec (0x5201 + l.val) 65 = some memoryLogSpec := by decide

theorem faultLogSpec_takes : faultLogSpec.Takes (2 ^ 63) := by decide

theorem memoryLogSpec_takes : memoryLogSpec.Takes (2 ^ 31) := by decide

/-- A log of `n` entries without any, and with the field of its control word from bit `hi` down at 0. -/
def M.wipeLog (m : M) (idx n hi : Nat) : M :=
  ((List.range n).foldl (fun (m : M) k => if m.obj idx (k + 1) = 0 then m else m.setObj idx (k + 1) 0) m).setObjFld idx (n + 1) hi 0 0

theorem M.clearFaultLog_eq (m : M) :
    m.clearFaultLog = (m.wipeLog 0x7100 240 15).modFaults fun f => { f with unsaved := [], read := [] } := rfl

/-- The device without the read marks of a memory log. -/
def M.unmarkLog (m : M) (idx : Nat) : M :=
  { m with dev := { m.dev with memLogRead := m.dev.memLogRead.filter fun k => k / 256 != idx } }

theorem M.aside_unmarkLog (m : M) (idx : Nat) : M.Aside m (m.unmarkLog idx) := ⟨rfl, rfl, rfl, rfl, rfl, rfl⟩

theorem M.obj_unmarkLog (m : M) (idx i j : Nat) : (m.unmarkLog idx).obj i j = m.obj i j := rfl

theorem M.clearMemLog_eq (m : M) (idx : Nat) : m.clearMemLog idx = (m.wipeLog idx 64 22).unmarkLog idx := rfl

section
variable (m : M) (idx hi : Nat) {n : Nat} (hn : n < 255)

theorem M.objsOnly_wipeLog : M.ObjsOnly m (m.wipeLog idx n hi) :=
  (M.objsOnly_foldl _ (fun a k => by split <;> [exact M.ObjsOnly.refl a; exact a.objsOnly_setObj _ _ _]) _ m).trans
    (M.objsOnly_setObj _ _ _ _)

include hn

theorem M.obj_wipeLog_entry {k : Nat} (hlow : 1 ≤ k) (hhigh : k ≤ n) : (m.wipeLog idx n hi).obj idx k = 0 := by
  obtain ⟨_, hwiped, _⟩ := M.wipe_log idx n hn m
  obtain ⟨k, rfl⟩ : ∃ j, k = j + 1 := ⟨k - 1, by omega⟩
  exact (M.obj_setObjFld_ne _ _ _ _ _ _ _ _ (by omega) (by omega) (by simp; omega)).trans (hwiped k (by omega))

theorem M.obj_wipeLog_control : (m.wipeLog idx n hi).obj idx (n + 1) = setFld (m.obj idx (n + 1)) hi 0 0 := by
  obtain ⟨_, _, hothers⟩ := M.wipe_log idx n hn m
  exact (M.obj_setObjFld_same _ _ _ _ _ _).trans
    (congrArg (setFld · hi 0 0) (hothers idx (n + 1) (by omega) (.inr (.inl (by omega)))))

theorem M.obj_wipeLog_ne {i j : Nat} (hj : j < 256) (hi' : i ≠ idx) : (m.wipeLog idx n hi).obj i j = m.obj i j := by
  obtain ⟨_, _, hothers⟩ := M.wipe_log idx n hn m
  exact (M.obj_setObj_off _ _ _ _ _ _ hj (by omega) hi').trans (hothers i j hj (.inl hi'))

end

/-- A CLEAR that is applied ends with the log empty; no other object differs, and none of the work. -/
theorem ends_logClear {c : Instr} {s : State} {idx n hi v : Nat} {g : M → M} {P : M → Prop} (hn : n < 255)
    (h : Applies c s idx (n + 1) v g) (hfree : ∀ m : M, m.freeView idx (n + 1) = none)
    (haside : M.Aside ((M.of s).wipeLog idx n hi) (g (M.of s)))
    (hobjs : ∀ i j, (g (M.of s)).obj i j = ((M.of s).wipeLog idx n hi).obj i j)
    (hP : ∀ m', (∀ k, 1 ≤ k → k ≤ n → m'.obj idx k = 0) →
      m'.obj idx (n + 1) = setFld ((M.of s).obj idx (n + 1)) hi 0 0 →
      (M.of s).SameWork m' ∧ (M.of s).SameIndices m' [idx] → P m') : Ends c s P := by
  refine ends_of_applies h hfree (((M.of s).objsOnly_wipeLog idx hi).aside.trans haside) fun m' d hlike hwork => ?_
  have hobj : ∀ i j, m'.obj i j = ((M.of s).wipeLog idx n hi).obj i j := fun i j => (LikeViews.obj hlike i j).trans (hobjs i j)
  refine hP m' (fun k hlow hhigh => ?entries) ?control ⟨hwork, fun i j hj hi' => ?others⟩
  case entries => exact (hobj idx k).trans (M.obj_wipeLog_entry _ idx hi hn hlow hhigh)
  case control => exact (hobj idx (n + 1)).trans (M.obj_wipeLog_control _ idx hi hn)
  case others => exact (hobj i j).trans (M.obj_wipeLog_ne _ idx hi hn hj (by simpa using hi'))

theorem M.applyField_faultLog (m : M) (p : Party) :
    m.applyField p 0x7100 0xF1 faultLogSpec (2 ^ 63) =
      (0, (m.wipeLog 0x7100 240 15).modFaults fun f => { f with unsaved := [], read := [] }) := by
  have hclear : (2 ^ 63 : Nat).testBit 63 = true := by decide
  rw [← M.clearFaultLog_eq]
  simp only [M.applyField, M.apply7, hclear, if_true]

theorem M.applyField_memoryLog (m : M) (p : Party) (l : Fin 24) :
    m.applyField p (0x5201 + l.val) 65 memoryLogSpec (2 ^ 31) =
      (0, (m.wipeLog (0x5201 + l.val) 64 22).unmarkLog (0x5201 + l.val)) := by
  have hindex : (0x5201 + l.val) / 4096 = 5 := by omega
  have htracts : ¬(decide (0x5110 ≤ 0x5201 + l.val) && decide (0x5201 + l.val ≤ 0x5127)) = true := by simp; omega
  have hlog : (decide (0x5201 ≤ 0x5201 + l.val) && decide (0x5201 + l.val ≤ 0x5218)) = true := by simp; omega
  have hclear : (2 ^ 31 : Nat).testBit 31 = true := by decide
  rw [← M.clearMemLog_eq]
  simp only [M.applyField, hindex, M.apply5, if_neg htracts, hlog, if_true, hclear]

theorem M.freeView_memoryLog (l : Fin 24) (m : M) : m.freeView (0x5201 + l.val) 65 = none := by
  have hcounters : ¬(decide (0x5201 + l.val = 0x2050) ||
      decide (0xB020 ≤ 0x5201 + l.val) && decide (0x5201 + l.val ≤ 0xB025)) = true := by
    simp
    omega
  have hlease : ¬(decide (0x5201 + l.val = 0x1040) && decide (65 = 5)) = true := by simp
  unfold M.freeView
  rw [if_neg hlease, if_neg hcounters]

/-! ## The owner's flags -/

section
variable (p : Party) (i : Fin 24) (f : Fin 1024) (s : State)

theorem exec_ledgerFlagSet : exec (.ledgerFlagSet p i f) s = s.run fun m => m.partyWrite p 0x8061 (i.val + 1) (2 ^ 16 + f.val) := rfl

theorem exec_ledgerFlagClear :
    exec (.ledgerFlagClear p i f) s = s.run fun m => m.partyWrite p 0x8061 (i.val + 1) (2 ^ 17 + f.val) := rfl

end

/-- The trigger object of a core's flags: clear, set, and the flag's number. -/
def flagSpec : ObjSpec := oTrig [⟨17, 17, .trig⟩, ⟨16, 16, .trig⟩, ⟨9, 0, .trig⟩]

theorem objSpec_flag : ∀ i : Fin 24, objSpec 0x8061 (i.val + 1) = some flagSpec := by decide

theorem flagSpec_takes {n : Nat} (hn : n = 2 ^ 16 ∨ n = 2 ^ 17) (f : Fin 1024) : flagSpec.Takes (n + f.val) := by
  obtain ⟨hcode, hclamp⟩ := trig_any [⟨17, 17, .trig⟩, ⟨16, 16, .trig⟩, ⟨9, 0, .trig⟩] (by decide) (n + f.val)
  exact ⟨rfl, resv_flag n f hn, hcode, hclamp⟩

/-- A flag of a core that is there, for which none waits and which is clear, is set. -/
theorem M.setFlag_clear {m : M} {i f : Nat} (hthere : m.coreAbsent i = false)
    (hnone : ∀ t ∈ (m.core i).waiters, t.syncWaits (isWaitOn f) = false) (hclear : (m.core i).flags.toNat.testBit f = false) :
    m.setFlag i f = (true, m.modCore i fun c => { c with flags := BitVec.ofNat 1024 (setBit c.flags.toNat f true) }) := by
  have hwaiters : (m.core i).waiters.filter (fun t => t.syncWaits (isWaitOn f)) = [] :=
    List.filter_eq_nil_iff.mpr fun t ht => by simp [hnone t ht]
  simp [M.setFlag, hthere, hwaiters, hclear]

theorem M.writeFlag_set (m : M) (i : Nat) (f : Fin 1024) : m.writeFlag i (2 ^ 16 + f.val) = (0, (m.setFlag i f).2) := by
  obtain ⟨hflag, hset, hclr, _⟩ := flag_parts f
  simp only [M.writeFlag, hflag, hset, hclr, Bool.and_false, Bool.false_eq_true, if_false, if_true]

theorem M.writeFlag_clear (m : M) (i : Nat) (f : Fin 1024) :
    m.writeFlag i (2 ^ 17 + f.val) =
      (0, m.modCore i fun c => { c with flags := BitVec.ofNat 1024 (setBit c.flags.toNat f false) }) := by
  obtain ⟨_, _, _, hflag, hset, hclr⟩ := flag_parts f
  simp only [M.writeFlag, hflag, hset, hclr, Bool.false_and, Bool.false_eq_true, if_false, if_true]

/-! ## Writes that are rejected -/

/-- The trigger object of the resets: target, full layer, level. -/
def resetSpec : ObjSpec := oTrig [⟨15, 8, .trig⟩, ⟨4, 4, .trig⟩, ⟨2, 0, .trig⟩]

/-- A core's fence: its cause, UNFENCE, FENCE, and whether it is fenced. -/
def fenceSpec : ObjSpec := oRWD tyB32 4 0 false [⟨15, 8, .ro⟩, ⟨2, 2, .trig⟩, ⟨1, 1, .trig⟩, ⟨0, 0, .ro⟩]

/-- A domain's state and the request for it. -/
def domainSpec : ObjSpec := oRWD tyB32 4 0 false [⟨7, 4, .ro⟩, ⟨1, 0, .codes [0, 1]⟩]

/-- The trigger of the self-test. -/
def testSpec : ObjSpec := oTrig [⟨0, 0, .trig⟩]

theorem objSpec_reset : objSpec 0x2100 1 = some resetSpec := by decide

theorem objSpec_fence : ∀ i : Fin 24, objSpec 0x7001 (i.val + 1) = some fenceSpec := by decide

theorem objSpec_domain : ∀ d : Fin 38, objSpec 0x3100 (d.val + 1) = some domainSpec := by decide

theorem objSpec_test : objSpec 0x7060 2 = some testSpec := by decide

section
variable {s : State} {p : Party} (hhears : (M.of s).hears p = true)
include hhears

/-- While the fallback responder serves, no object takes a write (R378). -/
theorem responder_rejects (hresponder : (M.of s).responder = true) (i : Fin 24) :
    Rejects (.claim p) s 0x1040 2 1 0xA ∧ Rejects (.release p) s 0x1040 3 1 0xA ∧ Rejects (.save p) s 0x1020 1 1 0xA ∧
      Rejects (.fence p i) s 0x7001 (i.val + 1) 2 0xA ∧ Rejects (.resetDevice p) s 0x2100 1 4 0xA := by
  have hrejects {c : Instr} {idx sub v : Nat} {o : ObjSpec} (e : exec c s = s.run fun m => m.partyWrite p idx sub v)
      (ho : objSpec idx sub = some o) : Rejects c s idx sub v 0xA := rejects_unavail (v := fun _ => v) e hhears hresponder ho
  exact ⟨hrejects rfl objSpec_claim, hrejects rfl objSpec_release, hrejects rfl objSpec_flash, hrejects rfl (objSpec_fence i),
    hrejects rfl objSpec_reset⟩

/-- A party that is not the owner changes no owner-written object (R359). -/
theorem notOwner_rejects (hserved : (M.of s).responder = false) (hother : (M.of s).dev.led.owner ≠ some p) (i l : Fin 24)
    (f : Fin 1024) (d : Fin 38) (x : BitVec 8) :
    Rejects (.release p) s 0x1040 3 1 3 ∧ Rejects (.save p) s 0x1020 1 1 3 ∧ Rejects (.forget p) s 0x1020 1 2 3 ∧
      Rejects (.faultLogClear p) s 0x7100 0xF1 (2 ^ 63) 3 ∧ Rejects (.memoryLogClear p l) s (0x5201 + l.val) 65 (2 ^ 31) 3 ∧
      Rejects (.ledgerFlagSet p i f) s 0x8061 (i.val + 1) (2 ^ 16 + f.val) 3 ∧
      Rejects (.ledgerFlagClear p i f) s 0x8061 (i.val + 1) (2 ^ 17 + f.val) 3 ∧ Rejects (.fence p i) s 0x7001 (i.val + 1) 2 3 ∧
      Rejects (.unfence p i) s 0x7001 (i.val + 1) 4 3 ∧ Rejects (.domainOn p d) s 0x3100 (d.val + 1) 0 3 ∧
      Rejects (.domainOff p d) s 0x3100 (d.val + 1) 1 3 ∧ Rejects (.resetCore p x) s 0x2100 1 (x.toNat * 256 + 1) 3 ∧
      Rejects (.resetPartition p x) s 0x2100 1 (x.toNat * 256 + 3) 3 ∧ Rejects (.resetDevice p) s 0x2100 1 4 3 ∧
      Rejects (.runTest p) s 0x7060 2 1 3 ∧ Rejects (.endPair p) s 0x6500 3 4 3 ∧ Rejects (.resync p) s 0x6500 3 2 3 ∧
      Rejects (.takeover p) s 0x6500 3 1 3 := by
  have hrejects {c : Instr} {idx sub v : Nat} {o : ObjSpec} (e : exec c s = s.run fun m => m.partyWrite p idx sub v)
      (ho : objSpec idx sub = some o) (hup : (M.of s).unavailable idx false = false) (hw : o.w = true) (hoo : o.o = true) :
      Rejects c s idx sub v 3 := rejects_notOwner (v := fun _ => v) e hhears hserved hother ho hup hw hoo
  have hflag {c : Instr} {v : Nat} (e : exec c s = s.run fun m => m.partyWrite p 0x8061 (i.val + 1) v) :=
    hrejects e (objSpec_flag i) rfl rfl rfl
  have hfence {c : Instr} {v : Nat} (e : exec c s = s.run fun m => m.partyWrite p 0x7001 (i.val + 1) v) :=
    hrejects e (objSpec_fence i) rfl rfl rfl
  have hdomain {c : Instr} {v : Nat} (e : exec c s = s.run fun m => m.partyWrite p 0x3100 (d.val + 1) v) :=
    hrejects e (objSpec_domain d) rfl rfl rfl
  have hreset {c : Instr} {v : Nat} (e : exec c s = s.run fun m => m.partyWrite p 0x2100 1 v) :=
    hrejects e objSpec_reset rfl rfl rfl
  have hpair {c : Instr} {v : Nat} (e : exec c s = s.run fun m => m.partyWrite p 0x6500 3 v) :=
    hrejects e objSpec_pair rfl rfl rfl
  exact ⟨hrejects (exec_release p s) objSpec_release rfl rfl rfl, hrejects (exec_save p s) objSpec_flash rfl rfl rfl,
    hrejects (exec_forget p s) objSpec_flash rfl rfl rfl, hrejects (exec_faultLogClear p s) objSpec_faultLog rfl rfl rfl,
    hrejects (exec_memoryLogClear p s l) (objSpec_memoryLog l) ((M.of s).available_5201 l) rfl rfl,
    hflag (exec_ledgerFlagSet p i f s), hflag (exec_ledgerFlagClear p i f s), hfence rfl, hfence rfl, hdomain rfl, hdomain rfl,
    hreset rfl, hreset rfl, hreset rfl, hrejects rfl objSpec_test rfl rfl rfl, hpair (exec_endPair p s), hpair (exec_resync p s),
    hpair (exec_takeover p s)⟩

end

/-- Settles O56, by what each write makes of its object, and by the end of what it began. -/
theorem ownerCommandsAreApplied : Obligations.OwnerCommandsAreApplied := by
  refine ⟨fun p q s hhears hserved => ?claim, fun p s hserves => ⟨?release, fun hfree => ?begun, fun hbusy => ?busy, ?faultLog,
      fun l => ?memoryLog, fun i f hthere => ⟨fun hnone hclear => ?flagSet, ?flagClear⟩⟩,
    fun p s hruns hserved howner => ?lease, fun s hlive => ⟨fun hbusy => ?done, fun hdue => ?settings⟩,
    fun k s hpowered => ?persisted,
    fun p i l f d x s hhears => ⟨fun hresponder => responder_rejects hhears hresponder i,
      fun hserved hother => notOwner_rejects hhears hserved hother i l f d x⟩⟩
  case claim =>
    have hclaim := exec_claim p s
    have hopen : claimSpec.o = true → (M.of s).dev.led.owner = some p := fun h => absurd h (by decide)
    refine ⟨fun hnone => ?_, fun hown => ?_, fun hother hne => ?_⟩
    · exact applies_taken hclaim hhears hserved hopen objSpec_claim rfl (by decide) (M.writeClaim_unowned hnone)
    · exact applies_taken hclaim hhears hserved hopen objSpec_claim rfl (by decide) (M.writeClaim_own hown)
    · exact rejects_taken hclaim hhears hserved hopen objSpec_claim rfl (by decide) (by decide) (M.writeClaim_other hother hne)
  case release =>
    obtain ⟨hhears, hserved, howner⟩ := hserves
    exact applies_taken (exec_release p s) hhears hserved (fun _ => howner) objSpec_release rfl (by decide)
      (congrArg (Prod.mk 0) (M.setOwner_new (by rw [howner]; exact Option.some_ne_none p)))
  case begun =>
    obtain ⟨hhears, hserved, howner⟩ := hserves
    exact ⟨applies_taken (exec_save p s) hhears hserved (fun _ => howner) objSpec_flash rfl (flashSpec_takes 1)
        (M.writeSaving_free (c := 1) (by decide) hfree),
      applies_taken (exec_forget p s) hhears hserved (fun _ => howner) objSpec_flash rfl (flashSpec_takes 2)
        (M.writeSaving_free (c := 2) (by decide) hfree)⟩
  case busy =>
    obtain ⟨hhears, hserved, howner⟩ := hserves
    exact ⟨rejects_taken (exec_save p s) hhears hserved (fun _ => howner) objSpec_flash rfl (flashSpec_takes 1) (by decide)
        (M.writeSaving_busy (c := 1) (by decide) hbusy),
      rejects_taken (exec_forget p s) hhears hserved (fun _ => howner) objSpec_flash rfl (flashSpec_takes 2) (by decide)
        (M.writeSaving_busy (c := 2) (by decide) hbusy)⟩
  case faultLog =>
    obtain ⟨hhears, hserved, howner⟩ := hserves
    have happlies := applies_taken (exec_faultLogClear p s) hhears hserved (fun _ => howner) objSpec_faultLog rfl faultLogSpec_takes
      (g := fun m => (m.wipeLog 0x7100 240 15).modFaults fun f => { f with unsaved := [], read := [] })
      ((M.of s).applyField_faultLog p)
    refine ends_logClear (by decide) happlies (fun _ => rfl) (M.kept_modFaults _ _).aside (M.obj_modFaults _ _)
      fun m' hentries hcontrol hsame => ⟨hentries, ?_, ?_, hsame⟩
    · rw [M.objFld, hcontrol, fld_setFld_same]
      rfl
    · rw [M.objFld, hcontrol, fld_setFld_above _ _ _ _ _ _ (by decide) (by decide)]
      rfl
  case memoryLog =>
    obtain ⟨hhears, hserved, howner⟩ := hserves
    have happlies := applies_taken (exec_memoryLogClear p s l) hhears hserved (fun _ => howner) (objSpec_memoryLog l)
      ((M.of s).available_5201 l) memoryLogSpec_takes
      (g := fun m => (m.wipeLog (0x5201 + l.val) 64 22).unmarkLog (0x5201 + l.val)) ((M.of s).applyField_memoryLog p l)
    refine ends_logClear (by decide) happlies (M.freeView_memoryLog l) (M.aside_unmarkLog _ _) (M.obj_unmarkLog _ _)
      fun m' hentries hcontrol hsame => ⟨hentries, ?_, hsame⟩
    rw [M.objFld, hcontrol, fld_setFld_same]
    rfl
  case flagSet =>
    obtain ⟨hhears, hserved, howner⟩ := hserves
    refine applies_taken (exec_ledgerFlagSet p i f s) hhears hserved (fun _ => howner) (objSpec_flag i) rfl
      (flagSpec_takes (.inl rfl) f) (((M.of s).writeFlag_set i f).trans ?_)
    rw [M.setFlag_clear hthere hnone hclear]
  case flagClear =>
    obtain ⟨hhears, hserved, howner⟩ := hserves
    exact applies_taken (exec_ledgerFlagClear p i f s) hhears hserved (fun _ => howner) (objSpec_flag i) rfl
      (flagSpec_takes (.inr rfl) f) ((M.of s).writeFlag_clear i f)
  case lease =>
    have hdue : ((M.of s).ledgerRuns && !(M.of s).responder) = true := by rw [hruns, hserved]; rfl
    have hlogged : ((M.of s).logFault 0x1001 p.kind p.mac 0 clkMgmt).dev.led.owner ≠ none := by
      rw [((M.of s).kept_logFault _ _ _ _ _).led, howner]
      exact Option.some_ne_none p
    refine does_of (exec_leaseExpiry s) ((M.when_of hdue).trans ?_)
    rw [howner]
    exact M.setOwner_new hlogged
  case done =>
    refine ⟨fun v hsaving => ?_, fun hnone herasing => ?_, ?_⟩
    · exact does_of (exec_saveDone s true) ((M.when_of hlive).trans (M.saveDone_saved hbusy hsaving))
    · exact does_of (exec_saveDone s true) ((M.when_of hlive).trans (M.saveDone_erased hbusy hnone herasing))
    · exact does_of (exec_saveDone s false) ((M.when_of hlive).trans (M.saveDone_failed hbusy))
  case settings => exact does_of (exec_mgmtSettingsApply s) (M.when_of (by rw [hlive, hdue]; rfl))
  case persisted => exact does_of (exec_faultLogPersist s k) (M.when_of hpowered)

end Sys2Proof.Machine
end

section
/-! Heat and coolant (16_ledger.md R376, R377; 18_thermal_coolant.md R408, R411, R413 to R415): an accepted report and the silence of
the tray, the end of the device floor, FAILSAFE, a sample of one pair, a thermal tick, and the obligation on them. -/

namespace Sys2Proof.Machine

/-! ## What each command runs -/

section
variable (s : State)

theorem exec_trayReport (source : BitVec 48) (word : W64) (entries : List W64) :
    exec (.trayReport source word entries) s = s.run fun m => m.when m.watchRuns fun m =>
      m.trayReport source.toNat word.toNat (entries.map (·.toNat)) := rfl

theorem exec_traySilenceTimeout : exec .traySilenceTimeout s = s.run fun m => m.when m.watchRuns M.traySilent := rfl

theorem exec_coolantRelease : exec .coolantRelease s = s.run fun m => m.when m.watchRuns M.coolantRelease := rfl

theorem exec_failsafeRepeat : exec .failsafeRepeat s = s.run fun m => m.when m.watchRuns M.repeatFailsafe := rfl

theorem exec_failsafeAck (w : W64) :
    exec (.failsafeAck w) s = s.run fun m => m.when m.watchRuns fun m => m.failsafeAck w.toNat := rfl

theorem exec_sensorSample (first : Bool) (rs : List (Nat × Nat × Option (BitVec 16) × Option (BitVec 16))) :
    exec (.sensorSample first rs) s = s.run fun m => m.when m.watchRuns fun m => m.sensorSample first rs := rfl

theorem exec_thermalTick : exec .thermalTick s = s.run fun m => m.when m.watchRuns M.thermalTick := rfl

end

/-! ## What leaves heat and the management port alone -/

theorem M.ObjsOnly.heat {a b : M} (h : M.ObjsOnly a b) : b.dev.heat = a.dev.heat := by
  obtain ⟨_, _, _, _, hdev⟩ := h
  rw [hdev]

theorem M.ObjsOnly.mgmt {a b : M} (h : M.ObjsOnly a b) : b.dev.mgmt = a.dev.mgmt := by
  obtain ⟨_, _, _, _, hdev⟩ := h
  rw [hdev]

theorem M.heat_toFloor (m : M) : m.toFloor.dev.heat = m.dev.heat := (M.objsOnly_settle _).heat

theorem M.heat_askFailsafe (m : M) : m.askFailsafe.dev.heat = m.dev.heat := by
  unfold M.askFailsafe
  split
  · rfl
  · rfl

theorem M.objsOnly_showCoolState (m : M) : M.ObjsOnly m m.showCoolState := by
  unfold M.showCoolState
  split
  · exact M.ObjsOnly.refl m
  · exact m.objsOnly_setObj _ _ _

/-- Only STATE is shown. -/
theorem M.obj_showCoolState (m : M) {i j : Nat} (hj : j < 256) (h : (i, j) ≠ (0x4020, 1)) : m.showCoolState.obj i j = m.obj i j := by
  unfold M.showCoolState
  split
  · rfl
  · exact m.obj_setObjFld_ne _ _ _ _ _ _ _ hj (by decide) h

theorem M.objFld_showCoolState (m : M) {hi lo : Nat} (hlo : 3 < lo) :
    m.showCoolState.objFld 0x4020 1 hi lo = m.objFld 0x4020 1 hi lo := by
  unfold M.showCoolState
  split
  · rfl
  · rw [M.objFld, M.obj_setObjFld_same, fld_setFld_above _ _ _ _ _ _ hlo (by decide)]
    rfl

/-- STATE while the coolant holds the floor of a device that has not tripped (R420). -/
theorem M.state_showCoolState (m : M) (hup : m.dev.tripped = false) (hfloor : m.dev.heat.coolantFloor = true) :
    m.showCoolState.objFld 0x4020 1 3 0 = 2 := by
  have hstate : m.coolState = 2 := by simp [M.coolState, hfloor]
  rw [M.showCoolState, if_neg (by simp [hup]), hstate, M.objFld_setObjFld_same]
  rfl

theorem testBit_eq_fld (v k : Nat) : v.testBit k = decide (fld v k k = 1) := by
  rw [Nat.testBit_eq_decide_div_mod_eq, fld, bitsAt, Nat.add_sub_cancel_left, pow_one]

/-! ## A report that is accepted -/

theorem fld_eq_zero {v hi lo : Nat} (h : ∀ k, lo ≤ k → k ≤ hi → v.testBit k = false) : fld v hi lo = 0 := by
  refine Nat.eq_of_testBit_eq fun i => ?_
  rw [fld, testBit_bitsAt, Nat.zero_testBit]
  by_cases hi' : i < hi + 1 - lo
  · rw [h (lo + i) (by omega) (by omega), Bool.and_false]
  · rw [decide_eq_false hi', Bool.false_and]

/-- The flags of the coolant status that a good report clears: INLET_LOW, INLET_INVALID, FLOW_INVALID and TRAY_SILENT (R420). -/
def M.clearCoolFlags (m : M) : M :=
  (((m.setObjBit 0x4020 1 11 false).setObjBit 0x4020 1 10 false).setObjBit 0x4020 1 9 false).setObjBit 0x4020 1 8 false

section
variable (m : M)

theorem M.objsOnly_clearCoolFlags : M.ObjsOnly m m.clearCoolFlags :=
  ((m.objsOnly_setObj _ _ _).trans (M.objsOnly_setObj _ _ _ _)).trans ((M.objsOnly_setObj _ _ _ _).trans (M.objsOnly_setObj _ _ _ _))

theorem M.obj_clearCoolFlags {i j : Nat} (hj : j < 256) (h : (i, j) ≠ (0x4020, 1)) : m.clearCoolFlags.obj i j = m.obj i j := by
  have hbit : ∀ (a : M) k b, (a.setObjBit 0x4020 1 k b).obj i j = a.obj i j := fun a k b =>
    a.obj_setObjBit_ne _ _ _ _ _ _ hj (by decide) h
  rw [M.clearCoolFlags, hbit, hbit, hbit, hbit]

theorem M.objFld_clearCoolFlags : m.clearCoolFlags.objFld 0x4020 1 11 8 = 0 := by
  refine fld_eq_zero fun k hlow hhigh => ?_
  rw [← M.objBit, M.clearCoolFlags]
  simp only [M.objBit_setObjBit]
  obtain rfl | rfl | rfl | rfl : k = 8 ∨ k = 9 ∨ k = 10 ∨ k = 11 := by omega
  all_goals rfl

end

section
variable {m : M} {f : Nat} {t : Int}

/-- Flow enough, no drop of it, no leak, and an inlet below 45 °C: no cause of R414. -/
theorem M.reportCauses_none (hflow : 2000 ≤ f) (hflows : m.dev.mgmt.flows = []) (hinlet : t < degC 45) :
    m.reportCauses (some f) (some t) false = [] := by
  simp [M.reportCauses, hflows, Nat.not_lt.mpr hflow, Int.not_le.mpr hinlet]

/-- The readings of a report and the limits they set (R376, R413). -/
def M.withReadings (m : M) (e f : Nat) (t : Int) : M :=
  (((m.setObj 0x4010 2 e).setObj 0x4020 2 (flowLimit f)).setObj 0x4020 3 (inletLimit t)).modMgmt fun g =>
    { g with age := 0, inletAge := 0, flows := [(0, f)] }

theorem M.obj_withReadings (m : M) (e f : Nat) (t : Int) {i j : Nat} (hj : j < 256) :
    (m.withReadings e f t).obj i j =
      if (i, j) = (0x4020, 3) then inletLimit t else if (i, j) = (0x4020, 2) then flowLimit f else if (i, j) = (0x4010, 2) then e
        else m.obj i j := by
  have hput : ∀ (a : M) x y v, y < 256 → (a.setObj x y v).obj i j = if (i, j) = (x, y) then v else a.obj i j := by
    intro a x y v hy
    split
    case isTrue h =>
      obtain ⟨rfl, rfl⟩ := Prod.mk.inj h
      exact a.obj_setObj_same i j v
    case isFalse h => exact a.obj_setObj_ne _ _ _ _ _ hj hy h
  rw [M.withReadings, M.obj_modMgmt, hput _ _ _ _ (by decide), hput _ _ _ _ (by decide), hput _ _ _ _ (by decide)]

/-- What a report without a cause, with both readings, leaves: readings, limits, no flag, no cause. -/
def M.goodReport (m : M) (e f : Nat) (t : Int) : M :=
  ((m.withReadings e f t).clearCoolFlags.modHeat fun h => { h with causes := [] }).showCoolState

theorem M.takeReport_good {st entry : Nat} (hentryFlow : entryFlow entry = some f) (hentryInlet : entryInlet entry = some t)
    (hflow : 2000 ≤ f) (hflows : m.dev.mgmt.flows = []) (hwarm : degC 15 ≤ t) (hcool : t < degC 45)
    (hleak : st.testBit 1 = false) :
    m.takeReport st entry = m.goodReport (setFld entry 15 8 st) f t := by
  have hcauses : ((m.setObj 0x4010 2 (setFld entry 15 8 st)).modMgmt fun g => { g with age := 0 }).reportCauses
      (some f) (some t) (st.testBit 1) = [] := by
    rw [hleak]
    exact M.reportCauses_none hflow hflows hcool
  unfold M.takeReport
  simp only [hentryFlow, hentryInlet, hcauses, decide_eq_false (Int.not_lt.mpr hwarm), Option.isNone_some, Bool.false_and,
    Bool.or_false, Bool.false_eq_true, if_false, List.contains_nil, List.foldl_nil]
  simp only [M.modMgmt, M.setObj, hflows]
  rfl

end

section
variable (m : M) (e f : Nat) (t : Int)

theorem M.aside_goodReport : M.Aside m (m.goodReport e f t) :=
  ((((m.aside_setObj _ _ _).trans (M.aside_setObj _ _ _ _)).trans ((M.aside_setObj _ _ _ _).trans (M.aside_modMgmt _ _))).trans
    (M.objsOnly_clearCoolFlags _).aside).trans ((M.aside_modHeat _ _).trans (M.objsOnly_showCoolState _).aside)

theorem M.obj_goodReport {i j : Nat} (hj : j < 256) (h : (i, j) ≠ (0x4020, 1)) :
    (m.goodReport e f t).obj i j = (m.withReadings e f t).obj i j := by
  rw [M.goodReport, M.obj_showCoolState _ hj h, M.obj_modHeat, M.obj_clearCoolFlags _ hj h]

theorem M.flags_goodReport : (m.goodReport e f t).objFld 0x4020 1 11 8 = 0 := by
  rw [M.goodReport, M.objFld_showCoolState _ (by decide), M.objFld_modHeat, M.objFld_clearCoolFlags]

theorem M.mgmt_goodReport :
    (m.goodReport e f t).dev.mgmt = { m.dev.mgmt with age := 0, inletAge := 0, flows := [(0, f)] } := by
  rw [M.goodReport, (M.objsOnly_showCoolState _).mgmt, M.modHeat_dev_mgmt, (M.objsOnly_clearCoolFlags _).mgmt, M.withReadings,
    M.modMgmt_self, M.setObj_dev_mgmt, M.setObj_dev_mgmt, M.setObj_dev_mgmt]

theorem M.causes_goodReport : (m.goodReport e f t).dev.heat.causes = [] := by
  rw [M.goodReport, (M.objsOnly_showCoolState _).heat, M.modHeat_self]

end

/-- The first report since reset, from any source where none is set, whose first entry is this module's. -/
theorem M.trayReport_first {m : M} {source word e : Nat} {rest : List Nat} (hany : m.trayMac = 0) (hnone : m.dev.mgmt.traySeq = none)
    (hcount : 1 ≤ fld word 23 16) (hnode : e % 256 = m.nodeId) :
    m.trayReport source word (e :: rest) =
      (m.modMgmt fun g => { g with traySeq := some (fld word 15 0) }).takeReport (fld word 31 24) e := by
  obtain ⟨n, hn⟩ : ∃ n, fld word 23 16 = n + 1 := ⟨fld word 23 16 - 1, by omega⟩
  have hfind : ((e :: rest).take (fld word 23 16)).find? (fun e => e % 256 == m.nodeId) = some e := by
    rw [hn, List.take_succ_cons]
    exact List.find?_cons_of_pos (beq_iff_eq.mpr hnode)
  unfold M.trayReport
  dsimp only
  rw [hfind]
  simp [hany, hnone]

/-! ## The device floor -/

/-- An entry of the device floor is counted where the base die does not hold the floor already. -/
def M.countFloor (m : M) : M := if m.dev.heat.baseFloor then m else m.satObj 0x4020 1 31 24 1

/-- Cause 3 as it begins the device floor. -/
def M.silent (m : M) : M :=
  (((((m.setObjBit 0x4020 1 8 true).modHeat fun h => { h with causes := addOnce h.causes 3 }).countFloor.modHeat fun h => { h with
    coolantFloor := true }).setObjFld 0x4020 1 7 4 3)).showCoolState

theorem mem_addOnce (l : List Nat) (x : Nat) : x ∈ addOnce l x := by
  unfold addOnce
  split
  case isTrue h => exact List.contains_iff_mem.mp h
  case isFalse => exact List.mem_append_right l List.mem_cons_self

/-- The floor is in force, logged, signalled, and FAILSAFE is asked for. -/
def M.enterFloor (m : M) (cause : Nat) : M := ((m.toFloor.logFault 0x4002 cause 0 0 clkWatch).raise 387).askFailsafe

theorem M.traySilent_eq {m : M} (hfree : m.dev.heat.coolantFloor = false) : m.traySilent = m.silent.enterFloor 3 := by
  have hoff : ((m.setObjBit 0x4020 1 8 true).modHeat fun h => { h with causes := addOnce h.causes 3 }).dev.heat.coolantFloor = false :=
    hfree
  unfold M.traySilent M.coolantFloorOn
  simp only [hoff, Bool.false_eq_true, if_false]
  exact if_pos (by decide)

section
variable (m : M)

theorem M.objsOnly_countFloor : M.ObjsOnly m m.countFloor := by
  unfold M.countFloor
  split
  · exact M.ObjsOnly.refl m
  · exact m.objsOnly_setObj _ _ _

/-- The count stands above the other fields of the coolant status. -/
theorem M.objFld_countFloor {hi lo : Nat} (hle : lo ≤ hi) (hhi : hi < 24) :
    m.countFloor.objFld 0x4020 1 hi lo = m.objFld 0x4020 1 hi lo := by
  unfold M.countFloor
  split
  · rfl
  · rw [M.objFld, M.obj_satObj_same, satFld, fld_setFld_below _ _ _ _ _ _ hhi hle]
    rfl

theorem M.obj_countFloor {i j : Nat} (hj : j < 256) (h : (i, j) ≠ (0x4020, 1)) : m.countFloor.obj i j = m.obj i j := by
  unfold M.countFloor
  split
  · rfl
  · exact m.obj_satObj_ne _ _ _ _ _ _ _ hj (by decide) h

theorem M.aside_silent : M.Aside m m.silent :=
  (((((m.aside_setObj _ _ _).trans (M.aside_modHeat _ _)).trans (M.objsOnly_countFloor _).aside).trans (M.aside_modHeat _ _)).trans
    (M.aside_setObj _ _ _ _)).trans (M.objsOnly_showCoolState _).aside

theorem M.heat_silent :
    m.silent.dev.heat = { m.dev.heat with causes := addOnce m.dev.heat.causes 3, coolantFloor := true } := by
  rw [M.silent, (M.objsOnly_showCoolState _).heat]
  show ({ (M.countFloor _).dev.heat with coolantFloor := true } : Heat) = _
  rw [(M.objsOnly_countFloor _).heat]
  rfl

theorem M.floorHeld_silent : m.silent.floorHeld = true := by
  simp [M.floorHeld, M.heat_silent]

theorem M.obj_silent {i j : Nat} (hj : j < 256) (h : (i, j) ≠ (0x4020, 1)) : m.silent.obj i j = m.obj i j := by
  rw [M.silent, M.obj_showCoolState _ hj h, M.obj_setObjFld_ne _ _ _ _ _ _ _ _ hj (by decide) h, M.obj_modHeat,
    M.obj_countFloor _ hj h, M.obj_modHeat, M.obj_setObjBit_ne _ _ _ _ _ _ _ hj (by decide) h]

theorem M.cause_silent : m.silent.objFld 0x4020 1 7 4 = 3 := by
  rw [M.silent, M.objFld_showCoolState _ (by decide), M.objFld_setObjFld_same]
  rfl

theorem M.silence_silent : m.silent.objBit 0x4020 1 8 = true := by
  have hbit : m.silent.objFld 0x4020 1 8 8 = 1 := by
    rw [M.silent, M.objFld_showCoolState _ (by decide), M.objFld, M.obj_setObjFld_same,
      fld_setFld_above _ _ _ _ _ _ (by decide) (by decide), M.obj_modHeat, ← M.objFld, M.objFld_countFloor _ (by decide) (by decide)]
    exact M.objFld_setObjFld_same m 0x4020 1 8 8 1
  rw [M.objBit, testBit_eq_fld, ← M.objFld, hbit]
  rfl

theorem M.state_silent (hup : m.dev.tripped = false) : m.silent.objFld 0x4020 1 3 0 = 2 := by
  refine M.state_showCoolState _ ?_ rfl
  show (M.countFloor _).dev.tripped = false
  obtain ⟨_, _, _, _, hdev⟩ := M.objsOnly_countFloor _
  rw [hdev]
  exact hup

end

/-! ## What entering the floor changes -/

section
variable (m : M) (cause : Nat)

theorem M.aside_enterFloor : M.Aside m (m.enterFloor cause) :=
  (m.aside_toFloor.trans (M.kept_logFault _ _ _ _ _ _).aside).trans ((M.kept_raise _ _).aside.trans (M.aside_askFailsafe _).1)

theorem M.heat_enterFloor : (m.enterFloor cause).dev.heat = m.dev.heat := by
  rw [M.enterFloor, M.heat_askFailsafe, (M.kept_raise _ _).heat, (M.kept_logFault _ _ _ _ _ _).heat, M.heat_toFloor]

/-- The objects after the entry: those of the floor, but for the log. -/
theorem M.obj_enterFloor {i j : Nat} (hj : j < 256) (hi : i ≠ 0x7100) : (m.enterFloor cause).obj i j = m.toFloor.obj i j := by
  rw [M.enterFloor, (M.aside_askFailsafe _).2, M.obj_raise, M.obj_logFault _ _ _ _ _ _ _ _ hi hj]

theorem M.newestFault_same {a b : M} (h : ∀ i j, b.obj i j = a.obj i j) : b.newestFault = a.newestFault := by
  simp only [M.newestFault, M.objFld, h]

theorem M.newestFault_enterFloor (hcause : cause < 2 ^ 32) : (m.enterFloor cause).newestFault = (0x4002, cause, 0) := by
  have hsame : (m.enterFloor cause).newestFault = (m.toFloor.logFault 0x4002 cause 0 0 clkWatch).newestFault :=
    M.newestFault_same fun i j => by rw [M.enterFloor, (M.aside_askFailsafe _).2, M.obj_raise]
  rw [hsame, M.newestFault_logFault _ _ _ _ _ _ (by decide) (by decide), Nat.mod_eq_of_lt hcause]
  rfl

theorem M.atFloor_enterFloor (hheld : m.floorHeld = true) : (m.enterFloor cause).AtFloor :=
  (m.atFloor_toFloor hheld).same fun i j hj hi => m.obj_enterFloor cause hj (by rintro rfl; exact absurd hi (by decide))

end

/-! ## The end of the device floor -/

theorem M.coolantRelease_well {m : M} {f : Nat} {t : Int} (hheld : m.dev.heat.coolantFloor = true) (hup : m.dev.tripped = false)
    (hseq : m.dev.mgmt.traySeq ≠ none) (hnone : m.dev.heat.causes = []) (hentryFlow : entryFlow (m.obj 0x4010 2) = some f)
    (hflow : 2500 ≤ f) (hentryInlet : entryInlet (m.obj 0x4010 2) = some t) (hinlet : t ≤ degC 43)
    (hleak : (m.obj 0x4010 2).testBit 9 = false) :
    m.coolantRelease = ((m.toFloor.modHeat fun h => { h with coolantFloor := false }).showCoolState).settle := by
  have hwell : m.coolantWell = true := by
    simp [M.coolantWell, Option.isSome_iff_ne_none, hseq, hnone, hentryFlow, hflow, hentryInlet, hinlet, hleak]
  simp [M.coolantRelease, hheld, hwell, hup]

/-! ## FAILSAFE -/

section
variable {m : M} {c old : Nat} (hold : m.dev.mgmt.failsafe = some old) (hcause : m.failsafeCause = some c)
include hold hcause

/-- One repeat of FAILSAFE, by the word of the most serious cause present. -/
theorem M.repeatFailsafe_eq :
    m.repeatFailsafe =
      let w := c * 256 + m.nodeId
      let n := if w = old then m.dev.mgmt.failsafeCount + 1 else 0
      if 1000 < n then m.modMgmt fun g => { g with failsafe := none, failsafeCount := 0 }
      else (m.modMgmt fun g => { g with failsafe := some w, failsafeCount := n }).sendFailsafe w := by
  simp only [M.repeatFailsafe, hold, hcause]

theorem M.repeatFailsafe_again (hsame : c * 256 + m.nodeId = old) (hcount : m.dev.mgmt.failsafeCount < 1000) :
    m.repeatFailsafe =
      (m.modMgmt fun g => { g with failsafeCount := g.failsafeCount + 1 }).sendFailsafe (c * 256 + m.nodeId) := by
  rw [M.repeatFailsafe_eq hold hcause]
  dsimp only
  rw [if_pos hsame, if_neg (by omega)]
  simp only [M.modMgmt, hsame, ← hold]

theorem M.repeatFailsafe_end (hsame : c * 256 + m.nodeId = old) (hcount : 1000 ≤ m.dev.mgmt.failsafeCount) :
    m.repeatFailsafe = m.modMgmt fun g => { g with failsafe := none, failsafeCount := 0 } := by
  rw [M.repeatFailsafe_eq hold hcause]
  dsimp only
  rw [if_pos hsame, if_pos (by omega)]

theorem M.repeatFailsafe_changed (hnew : c * 256 + m.nodeId ≠ old) :
    m.repeatFailsafe =
      (m.modMgmt fun g => { g with failsafe := some (c * 256 + m.nodeId), failsafeCount := 0 }).sendFailsafe (c * 256 + m.nodeId) := by
  rw [M.repeatFailsafe_eq hold hcause]
  dsimp only
  rw [if_neg hnew, if_neg (by decide)]

end

/-! ## A sample of one pair -/

/-- A reading within -40 °C and 150 °C is not a failed sensor's, where none was taken before. -/
theorem sensorBad_first {a : BitVec 16} (hlow : -10240 ≤ a.toInt) (hhigh : a.toInt ≤ 38400) :
    sensorBad none (some a.toNat) = false := by
  have hcold : ¬temp a.toNat < degC (-40) := by rw [temp_toInt, degC]; omega
  have hhot : ¬degC 150 < temp a.toNat := by rw [temp_toInt, degC]; omega
  simp [sensorBad, hcold, hhot]

/-- The flags of a pair none of whose sensors is suspect or has failed. -/
theorem pairFlags_clear {v : Nat} (h : fld v 3 1 = 0) : v.testBit 1 = false ∧ v.testBit 2 = false ∧ v.testBit 3 = false :=
  ⟨testBit_of_fld v 1 h (by decide) (by decide), testBit_of_fld v 2 h (by decide) (by decide),
    testBit_of_fld v 3 h (by decide) (by decide)⟩

/-- A pair that is not suspect and whose readings agree changes nothing. -/
theorem M.suspect_agree {m : M} {idx sub : Nat} (hrun : m.dev.heat.suspectRun = []) (hcalm : m.objBit idx sub 1 = false) :
    m.suspect idx sub false = m := by
  have hsame : (m.modHeat fun h => { h with suspectRun := Tab.erase h.suspectRun (objKey idx sub) }) = m := by
    rw [M.modHeat, hrun]
    show ({ m with dev := { m.dev with heat := { m.dev.heat with suspectRun := [] } } } : M) = m
    rw [← hrun]
  unfold M.suspect
  simp only [Bool.false_eq_true, if_false, hsame, hcalm, Bool.not_false, if_true]

section
variable {m : M} {idx sub : Nat} {a b : BitVec 16} (hclear : m.objFld idx sub 3 1 = 0) (hlowB : -10240 ≤ b.toInt)
  (hhighB : b.toInt ≤ 38400)
include hclear hlowB hhighB

/-- The first sample of a pair whose sensors are good and within 5 K: the higher reading protects. -/
theorem M.samplePair_good (hrun : m.dev.heat.suspectRun = []) (hlowA : -10240 ≤ a.toInt) (hhighA : a.toInt ≤ 38400)
    (hab : a.toInt - b.toInt ≤ 1280) (hba : b.toInt - a.toInt ≤ 1280) :
    m.samplePair idx sub true (some a.toNat) (some b.toNat) =
      m.setObj idx sub (setFld (setFld (setFld (m.obj idx sub) 63 48 a.toNat) 47 32 b.toNat) 31 16
        (if a.toInt < b.toInt then b.toNat else a.toNat)) := by
  obtain ⟨hcalm, hgoodA, hgoodB⟩ := pairFlags_clear hclear
  have hpair : hotter a.toNat b.toNat = if a.toInt < b.toInt then b.toNat else a.toNat := by
    rw [hotter, temp_toInt, temp_toInt]
  have hflag : ∀ k, k < 16 → ∀ x y z, (setFld (setFld (setFld (m.obj idx sub) 63 48 x) 47 32 y) 31 16 z).testBit k =
      (m.obj idx sub).testBit k := fun k hk x y z => by
    rw [testBit_setFld_outside _ _ _ _ _ (.inl (by omega)) (by decide), testBit_setFld_outside _ _ _ _ _ (.inl (by omega)) (by decide),
      testBit_setFld_outside _ _ _ _ _ (.inl (by omega)) (by decide)]
  have hagree : (decide (degC 5 < a.toInt - b.toInt) || decide (degC 5 < b.toInt - a.toInt)) = false := by
    rw [decide_eq_false (by rw [degC]; omega), decide_eq_false (by rw [degC]; omega)]
    rfl
  unfold M.samplePair
  simp only [hgoodA, hgoodB, if_true, Bool.not_false, Bool.true_and, Bool.or_false, Bool.false_eq_true, if_false, Option.getD_some,
    sensorBad_first hlowA hhighA, sensorBad_first hlowB hhighB, temp_toInt, hpair, hagree]
  rw [setBit_same _ 2 false (by rw [hflag 2 (by decide), hgoodA]), setBit_same _ 3 false (by rw [hflag 3 (by decide), hgoodB])]
  refine M.suspect_agree hrun ?_
  rw [M.objBit, M.obj_setObj_same, hflag 1 (by decide), hcalm]

/-- The first sample of a pair whose first sensor gives no reading. -/
theorem M.samplePair_failed :
    m.samplePair idx sub true none (some b.toNat) =
      let r := pairRegion (idx % 64) sub
      let m := m.setObj idx sub (setBit (setFld (setFld (m.obj idx sub) 47 32 b.toNat) 31 16 b.toNat) 2 true)
      let m := m.setObjBit r.1 r.2 2 true
      ((m.logFault 0x4001 (256 * idx + sub) (m.objFld idx sub 3 0) 0 clkWatch).raise 387).derateCore idx sub := by
  obtain ⟨_, hgoodA, hgoodB⟩ := pairFlags_clear hclear
  have hflag : (setBit (setFld (setFld (m.obj idx sub) 47 32 b.toNat) 31 16 b.toNat) 2 true).testBit 3 = false := by
    rw [testBit_setBit, if_neg (by decide), testBit_setFld_outside _ _ _ _ _ (.inl (by decide)) (by decide),
      testBit_setFld_outside _ _ _ _ _ (.inl (by decide)) (by decide), hgoodB]
  have hnone : sensorBad none none = true := rfl
  unfold M.samplePair M.sensorFailed
  simp only [hgoodA, hgoodB, hnone, if_true, Bool.not_false, Bool.true_and, Bool.or_false, Bool.and_false, Bool.false_or, Bool.true_or,
    Bool.false_eq_true, if_false, Option.getD_some, Option.getD_none, sensorBad_first hlowB hhighB, setFld_self]
  rw [setBit_same _ 3 false hflag]

end

/-- One sample of one pair: the pair, its region, and the time that passes. -/
theorem M.sensorSample_single {m : M} {idx sub : Nat} {a b : Option (BitVec 16)} {first : Bool} {m' : M} (hok : pairOk idx sub = true)
    (hrun : m'.dev.heat.suspectRun = []) (hcalm : m'.dev.heat.calmRun = [])
    (hsampled : m.samplePair idx sub first (a.map (·.toNat)) (b.map (·.toNat)) = m') :
    m.sensorSample first [(idx, sub, a, b)] =
      ((m'.judgeRegion (pairRegion (idx % 64) sub).1 (pairRegion (idx % 64) sub).2).modMgmt fun g => { g with
        age := g.age + 1, inletAge := g.inletAge + 1
        flows := (g.flows.map fun f => (f.1 + 1, f.2)).filter fun f => f.1 ≤ 1000 }).settle := by
  have hregions : regionsOf [(idx, sub)] = [pairRegion (idx % 64) sub] := by
    simp [regionsOf, List.eraseDups_cons]
  unfold M.sensorSample
  simp only [List.filter_cons, hok, if_true, List.filter_nil, List.map_cons, List.map_nil, List.foldl_cons, List.foldl_nil, hsampled,
    hrun, hcalm, List.append_nil, List.eraseDups_nil, hregions]

/-! ## A thermal tick -/

/-- CEILING of a core after a tick: one step slower where it is hot, one faster where it is cool and CEILING holds it (R411). -/
def ceilingAfter (t : Int) (common c : Nat) : Nat :=
  if degC 102 ≤ t then min 7 (c + 1) else if t ≤ degC 98 ∧ common < c then c - 1 else c

/-- Budget that the throttle leaves a quadrant after a tick, before its tier's ceiling: from `b`, while `now` applies (R411). -/
def budgetAfter (t : Int) (b now : Nat) : Nat :=
  if degC 92 ≤ t then max 2048 (min b now - 2048) else if t ≤ degC 88 then b + 2048 else b

section
variable (m : M)

/-- The core regions after a tick, and the quadrants after them. -/
def M.tickCores : M := (List.range 24).foldl (fun (m : M) i => m.tickCore i) m
def M.tickQuads : M := (List.range 96).foldl m.tickQuad m

theorem M.thermalTick_eq : m.thermalTick = m.tickCores.tickQuads.settle := rfl

theorem M.objsOnly_tickCores : M.ObjsOnly m m.tickCores := M.objsOnly_foldl _ M.objsOnly_tickCore _ m

theorem M.obj_tickCores {i j : Nat} (hj : j < 256) (hi : i ≠ 0x4030) : m.tickCores.obj i j = m.obj i j :=
  foldl_keeps _ (fun a : M => a.obj i j) (List.range 24) (fun a k hk =>
    a.obj_tickCore k i j (by have := List.mem_range.mp hk; omega) hj (by simp [hi])) m

theorem M.objFld_tickCores {i j : Nat} (hj : j < 256) (hi : i ≠ 0x4030) (hi' lo : Nat) :
    m.tickCores.objFld i j hi' lo = m.objFld i j hi' lo := by
  rw [M.objFld, m.obj_tickCores hj hi, ← M.objFld]

theorem M.ceiling_tickCore (i : Nat) :
    (m.tickCore i).objFld 0x4030 (i + 1) 11 8 =
      ceilingAfter (temp (m.objFld 0x4030 (i + 1) 31 16)) m.common (m.objFld 0x4030 (i + 1) 11 8) := by
  have hlt : m.objFld 0x4030 (i + 1) 11 8 < 16 := fld_lt _ 11 8
  unfold M.tickCore
  dsimp only
  rw [M.objFld_setObjBit_ne _ _ _ _ _ (.inl (by decide)), M.objFld_setObjFld_same, ceilingAfter]
  generalize m.objFld 0x4030 (i + 1) 11 8 = c at hlt ⊢
  generalize temp (m.objFld 0x4030 (i + 1) 31 16) = t
  simp only [Bool.and_eq_true, decide_eq_true_eq]
  split_ifs <;> omega

theorem M.ceiling_tickCores {i : Nat} (hi : i < 24) :
    m.tickCores.objFld 0x4030 (i + 1) 11 8 =
      ceilingAfter (temp (m.objFld 0x4030 (i + 1) 31 16)) m.common (m.objFld 0x4030 (i + 1) 11 8) := by
  have hother : ∀ (a : M) k, k ≠ i → k ∈ List.range 24 → (a.tickCore k).obj 0x4030 (i + 1) = a.obj 0x4030 (i + 1) :=
    fun a k hne hk => a.obj_tickCore k _ _ (by have := List.mem_range.mp hk; omega) (by omega) (by simp; omega)
  have hcommon : ∀ (a : M) k, k ∈ List.range 24 → (a.tickCore k).obj 0x3020 4 = a.obj 0x3020 4 :=
    fun a k hk => a.obj_tickCore k _ _ (by have := List.mem_range.mp hk; omega) (by decide) (by simp)
  refine foldl_at _ i (fun a => a.obj 0x4030 (i + 1) = m.obj 0x4030 (i + 1) ∧ a.obj 0x3020 4 = m.obj 0x3020 4) (fun a =>
    a.objFld 0x4030 (i + 1) 11 8 =
      ceilingAfter (temp (m.objFld 0x4030 (i + 1) 31 16)) m.common (m.objFld 0x4030 (i + 1) 11 8)) (List.range 24)
    (fun a k hne hk ⟨hown, hfloor⟩ => ⟨(hother a k hne hk).trans hown, (hcommon a k hk).trans hfloor⟩)
    (fun a ⟨hown, hfloor⟩ => ?own) (fun a k hne hk ha => ?other) List.nodup_range (List.mem_range.mpr hi) m ⟨rfl, rfl⟩
  case own =>
    rw [a.ceiling_tickCore i]
    simp only [M.common, M.objFld, hown, hfloor]
  case other =>
    rw [M.objFld, hother a k hne hk]
    exact ha

theorem M.aside_tickQuads : M.Aside m m.tickQuads :=
  M.aside_foldl _ (fun a _ => (a.aside_modHeat _).trans (M.aside_setObj _ _ _ _)) _ m

theorem M.obj_tickQuad (a : M) {n i j : Nat} (hn : n < 96) (hj : j < 256) (hi : i ≠ 0x4031) :
    (m.tickQuad a n).obj i j = a.obj i j := by
  unfold M.tickQuad
  exact (M.obj_setObj_off _ _ _ _ _ _ hj (by omega) hi).trans (M.obj_modHeat _ _ _ _)

theorem M.obj_tickQuads {i j : Nat} (hj : j < 256) (hi : i ≠ 0x4031) : m.tickQuads.obj i j = m.obj i j :=
  foldl_keeps _ (fun a : M => a.obj i j) (List.range 96) (fun a _ hk => m.obj_tickQuad a (List.mem_range.mp hk) hj hi) m

/-- The budget of a quadrant after its own tick, its tier's ceiling where none is listed. -/
theorem M.budget_tickLq (n : Nat) :
    Tab.get (m.tickLq n).dev.heat.budgets (m.budgetCeiling (n / 16)) n =
      min (m.budgetCeiling (n / 16)) (budgetAfter (temp (m.objFld 0x4031 (n + 1) 31 16))
        (Tab.get m.dev.heat.budgets (m.budgetCeiling (n / 16)) n) (m.objFld 0x3141 (n / 16 + 1) 15 0)) := by
  show Tab.get (if m.budgetCeiling (n / 16) ≤ budgetAfter (temp (m.objFld 0x4031 (n + 1) 31 16))
      (Tab.get m.dev.heat.budgets (m.budgetCeiling (n / 16)) n) (m.objFld 0x3141 (n / 16 + 1) 15 0) then _ else _) _ n = _
  split
  case isTrue h => rw [Tab.get_erase_same, Nat.min_eq_left h]
  case isFalse h => exact (Tab.get_put_same _ _ _ _).trans (Nat.min_eq_right (Nat.le_of_not_le h)).symm

theorem M.budget_tickQuads {n : Nat} (hn : n < 96) (d : Nat) :
    Tab.get m.tickQuads.dev.heat.budgets d n = Tab.get (m.tickLq n).dev.heat.budgets d n := by
  refine foldl_at m.tickQuad n (fun _ => True) (fun a => Tab.get a.dev.heat.budgets d n = Tab.get (m.tickLq n).dev.heat.budgets d n)
    (List.range 96) (fun _ _ _ _ _ => trivial) (fun a _ => ?own) (fun a k hne _ ha => ?other) List.nodup_range
    (List.mem_range.mpr hn) m trivial
  case own =>
    rw [M.tickQuad_get, if_pos rfl]
    rfl
  case other => rw [M.tickQuad_get, if_neg (Ne.symm hne), ha]

end

/-! ## The obligation -/

/-- Settles O54, by what a report, a silence, a release, FAILSAFE, a sample and a tick each make of limits, floors and readings. -/
theorem heatIsJudgedAndCooled : Obligations.HeatIsJudgedAndCooled := by
  refine ⟨fun source word e rest s hruns hany hnone hflows hcount hnode hvalid hflow hreads hwarm hcool hleak => ?report,
    fun s hruns hfree => ?silence,
    fun s hruns hheld hup hseq hnone ⟨f, hentryFlow, hflow⟩ ⟨t, hentryInlet, hinlet⟩ hleak => ?release,
    fun c old s hruns hold hcause => ⟨fun hsame hcount => ?again, fun hsame hcount => ?stopped, fun hnew => ?changed⟩,
    fun w s hruns hsent => ?acknowledged,
    fun idx sub a b s hruns hok hrun hcalm hclear hlowB hhighB => ⟨fun hlowA hhighA hab hba => ?good, ?failed⟩,
    fun s hruns => ?tick⟩
  case report =>
    have hreport := (M.trayReport_first (source := source.toNat) (rest := rest.map (·.toNat)) hany hnone hcount hnode).trans
      (M.takeReport_good (if_neg hvalid) (if_neg hreads) hflow hflows hwarm hcool hleak)
    have haside := ((M.of s).aside_modMgmt fun g => { g with traySeq := some (fld word.toNat 15 0) }).trans
      (M.aside_goodReport _ (setFld e.toNat 15 8 (fld word.toNat 31 24)) (fld e.toNat 63 48) (toSigned 16 (fld e.toNat 31 16)))
    refine ends_quiet (exec_trayReport s source word (e :: rest)) ((M.when_of hruns).trans hreport) haside.fuse haside.ops
      fun m' hlike hmem => ?_
    have hobj : ∀ i j, j < 256 → (i, j) ≠ (0x4020, 1) → m'.obj i j = _ := fun i j hj h =>
      ((LikeViews.obj hlike i j).trans (M.obj_goodReport _ _ _ _ hj h)).trans (M.obj_withReadings _ _ _ _ hj)
    have hmgmt := (congrArg (·.mgmt) hlike.dev).trans (M.mgmt_goodReport _ _ _ _)
    refine ⟨hobj 0x4010 2 (by decide) (by decide), hobj 0x4020 2 (by decide) (by decide), hobj 0x4020 3 (by decide) (by decide),
      congrArg Mgmt.traySeq hmgmt, congrArg Mgmt.age hmgmt, (congrArg (·.heat.causes) hlike.dev).trans (M.causes_goodReport _ _ _ _),
      (LikeViews.objFld hlike _ _ _ _).trans (M.flags_goodReport _ _ _ _), haside.sameWork hlike hmem, fun i j hj _ hi => ?_⟩
    simp only [List.mem_cons, List.not_mem_nil, or_false, not_or] at hi
    obtain ⟨hentry, hstatus, hflowLimit, hinletLimit⟩ := hi
    rw [hobj i j hj hstatus, if_neg hinletLimit, if_neg hflowLimit, if_neg hentry, M.obj_modMgmt]
  case silence =>
    have haside := (M.of s).aside_silent.trans ((M.of s).silent.aside_enterFloor 3)
    refine ends_quiet (exec_traySilenceTimeout s) ((M.when_of hruns).trans (M.traySilent_eq hfree)) haside.fuse haside.ops
      fun m' hlike hmem => ?_
    have hheat : m'.dev.heat = (M.of s).silent.dev.heat := (congrArg (·.heat) hlike.dev).trans ((M.of s).silent.heat_enterFloor 3)
    have hobj : ∀ i j, j < 256 → i ≠ 0x7100 → i ∉ settled → m'.obj i j = (M.of s).silent.obj i j := by
      intro i j hj hlog hi
      rw [LikeViews.obj hlike, M.obj_enterFloor _ _ hj hlog, M.obj_toFloor _ _ _ hj hi]
    have hstatus : m'.obj 0x4020 1 = (M.of s).silent.obj 0x4020 1 := hobj 0x4020 1 (by decide) (by decide) (by decide)
    refine ⟨?floor, ?held, ?cause, ?bit, ?shown, fun hup => ?state, ?logged, haside.sameWork hlike hmem, fun i j hj hi => ?others⟩
    case floor =>
      exact ((M.of s).silent.atFloor_enterFloor 3 (M.of s).floorHeld_silent).same fun i j _ _ => LikeViews.obj hlike i j
    case held => rw [hheat, M.heat_silent]
    case cause =>
      rw [hheat, M.heat_silent]
      exact mem_addOnce _ _
    case bit => rw [M.objBit, hstatus, ← M.objBit, M.silence_silent]
    case shown => rw [M.objFld, hstatus, ← M.objFld, M.cause_silent]
    case state => rw [M.objFld, hstatus, ← M.objFld, M.state_silent _ hup]
    case logged =>
      exact (M.newestFault_same (LikeViews.obj hlike)).trans ((M.of s).silent.newestFault_enterFloor 3 (by decide))
    case others =>
      simp only [List.mem_cons, List.not_mem_nil, or_false, not_or] at hi
      obtain ⟨h1, h2, h3, h4, h5, hcool, hlog⟩ := hi
      exact (hobj i j hj hlog (by simp [settled, h1, h2, h3, h4, h5])).trans (M.obj_silent _ hj (by simp [hcool]))
  case release =>
    exact does_of (exec_coolantRelease s)
      ((M.when_of hruns).trans (M.coolantRelease_well hheld hup hseq hnone hentryFlow hflow hentryInlet hinlet hleak))
  case again => exact does_of (exec_failsafeRepeat s) ((M.when_of hruns).trans (M.repeatFailsafe_again hold hcause hsame hcount))
  case stopped => exact does_of (exec_failsafeRepeat s) ((M.when_of hruns).trans (M.repeatFailsafe_end hold hcause hsame hcount))
  case changed => exact does_of (exec_failsafeRepeat s) ((M.when_of hruns).trans (M.repeatFailsafe_changed hold hcause hnew))
  case acknowledged => exact does_of (exec_failsafeAck s w) ((M.when_of hruns).trans (if_pos hsent))
  case good =>
    have hsampled := M.samplePair_good hclear hlowB hhighB hrun hlowA hhighA hab hba
    exact does_of (exec_sensorSample s _ _) ((M.when_of hruns).trans (M.sensorSample_single hok hrun hcalm hsampled))
  case failed =>
    have hsampled := M.samplePair_failed (idx := idx) (sub := sub) hclear hlowB hhighB
    have hheat : ((M.of s).samplePair idx sub true none (some b.toNat)).dev.heat = (M.of s).dev.heat := by
      rw [hsampled]
      dsimp only
      rw [M.derateCore_heat, (M.kept_raise _ _).heat, (M.kept_logFault _ _ _ _ _ _).heat]
      rfl
    rw [hsampled] at hheat
    exact does_of (exec_sensorSample s _ _) ((M.when_of hruns).trans
      (M.sensorSample_single (a := none) (b := some b) hok (by rw [hheat]; exact hrun) (by rw [hheat]; exact hcalm) hsampled))
  case tick =>
    have hcores := (M.of s).objsOnly_tickCores
    have hquads := (M.of s).tickCores.aside_tickQuads
    have hsettled := (M.of s).tickCores.tickQuads.objsOnly_settle
    have haside := (hcores.aside.trans hquads).trans hsettled.aside
    refine ends_quiet (exec_thermalTick s) ((M.when_of hruns).trans (M.of s).thermalTick_eq) haside.fuse haside.ops
      fun m' hlike hmem => ⟨fun i hi => ?ceiling, fun n hn => ?budget, haside.sameWork hlike hmem, fun i j hj hi => ?others⟩
    case ceiling =>
      have hobj : m'.obj 0x4030 (i + 1) = (M.of s).tickCores.obj 0x4030 (i + 1) := by
        rw [LikeViews.obj hlike, M.obj_settle _ _ _ (by omega) (by decide), M.obj_tickQuads _ (by omega) (by decide)]
      exact (congrArg (fld · 11 8) hobj).trans ((M.of s).ceiling_tickCores hi)
    case budget =>
      have hceiling : (M.of s).tickCores.budgetCeiling (n / 16) = (M.of s).objFld 0x3140 (n / 16 + 1) 15 0 :=
        (M.of s).objFld_tickCores (by omega) (by decide) 15 0
      have hbudget := (M.of s).tickCores.budget_tickLq n
      rw [hceiling, M.objFld_tickCores _ (by omega) (by decide), M.objFld_tickCores _ (by omega) (by decide), hcores.heat] at hbudget
      rw [hlike.dev, hsettled.heat]
      exact (M.budget_tickQuads _ hn _).trans hbudget
    case others =>
      simp only [List.mem_cons, List.not_mem_nil, or_false, not_or] at hi
      obtain ⟨h1, h2, h3, h4, h5, hcore, hquad⟩ := hi
      rw [LikeViews.obj hlike, M.obj_settle _ _ _ hj (by simp [settled, h1, h2, h3, h4, h5]), M.obj_tickQuads _ hj hquad,
        M.obj_tickCores _ hj hcore]

end Sys2Proof.Machine
end

section
/-! What every step keeps and the state after reset (19_clocks_reset_bringup.md R445; 18_thermal_coolant.md R420). -/

namespace Sys2Proof.Machine

/-- Settles O1: the front of the queue is what `step` matches on, and putting it in front leaves the rest as it was. -/
theorem stepRunsTheFrontCommand : Obligations.StepRunsTheFrontCommand := fun _ _ => rfl

/-- Settles O2. -/
theorem emptyQueueIdles : Obligations.EmptyQueueIdles := by
  intro s hs
  unfold step
  rw [hs]

/-- A command leaves memory with a list of effects on top, each of which keeps its form. -/
theorem exec_keeps_sound {c : Instr} {s t : State} (hs : s.sound) (e : exec c s = .next t) : t.sound := by
  obtain ⟨ops, dev, h⟩ := exec_shape c s
  rw [h] at e
  injection e with e
  subst e
  exact Mem.applyAll_wf ops hs

/-- Settles O3: a step is a command, and a command's effects on memory keep its form one by one. -/
theorem stepKeepsMemoryForm : Obligations.StepKeepsMemoryForm := by
  intro s t hs h
  unfold step at h
  split at h
  · injection h with h
    exact h ▸ hs
  · rename_i c rest _
    exact exec_keeps_sound (s := { s with pending := rest }) hs h

/-- Settles O4. -/
theorem resetHasMemoryForm : Obligations.ResetHasMemoryForm := rfl

/-- Settles O5. -/
theorem everyCommandCompletes : Obligations.EveryCommandCompletes := by
  intro c s
  obtain ⟨ops, dev, h⟩ := exec_shape c s
  exact ⟨_, h, rfl, rfl⟩

/-- Settles O6: nothing is listed at reset, so every view reads its default. -/
theorem resetValuesOfTheManual : Obligations.ResetValuesOfTheManual := by
  have coolant : (M.of State.reset).obj 0x4020 1 = 0x132 := by decide
  have objects : (M.of State.reset).obj 0x3020 1 = 6000 ∧ (M.of State.reset).obj 0x1010 1 = 0 ∧
      (M.of State.reset).obj 0x1040 4 = 10000 ∧ (M.of State.reset).obj 0x5020 1 = 8 ∧ (M.of State.reset).obj 0x7050 1 = 50 := by
    decide
  obtain ⟨h1, h2, h3, h4, h5⟩ := objects
  refine ⟨fun _ => ⟨rfl, rfl⟩, ?_, ?_, ?_, h1, h2, h3, h4, h5, fun _ => rfl, ⟨rfl, rfl, rfl⟩, fun _ => rfl⟩
  · rw [M.objFld, coolant]; rfl
  · rw [M.objFld, coolant]; rfl
  · rw [M.objBit, coolant]; rfl

end Sys2Proof.Machine
end

section
/-! SYNC manifests (21_contexts_sync.md R473, R477, R478; 07_manifest_reference.md R178): what each command runs, how a SYNC
stands once it has left the ready slot, and the obligation on them. -/

namespace Sys2Proof.Machine

/-! ## What each command runs -/

section
variable (i : Fin 24) (s : State)

theorem exec_barrier : exec (.barrier i) s = s.run fun m =>
    m.runThen i kSync (fun ws => syncOp ws == 0) (fun j => j.still.waits) fun m s => m.arrive i s := rfl

theorem exec_xbarrier : exec (.xbarrier i) s = s.run fun m =>
    m.runThen i kSync (fun ws => syncOp ws == 3) (fun j => j.still.waits) fun m s => m.arrive i s := rfl

theorem exec_waitFlag : exec (.waitFlag i) s = s.run fun m =>
    m.runKind i kSync (fun ws => syncOp ws == 1) Job.waitFlag := rfl

theorem exec_signal : exec (.signal i) s = s.run fun m => m.runSignal i := rfl

end

/-! ## A SYNC in the run slot -/

/-- `sl` has moved from the ready slot of core `i` into its run slot, and the core's flags are `flags`; no object, no other core,
no link, no layer quadrant and nothing of the fabric differs. -/
structure M.SyncAt (m : M) (i : Nat) (sl : Slot) (flags : BitVec 1024) (b : M) : Prop where
  fuse : b.fuse = m.fuse
  ready : (b.core i).ready = none
  run : (b.core i).run = some sl
  flags : (b.core i).flags = flags
  parked : ∀ e ∈ (b.core i).ctxs, ∀ q, e.2.parkedRun = some q → ∃ e' ∈ (m.core i).ctxs, e'.2.parkedRun = some q
  others : ∀ k, k ≠ i → b.core k = m.core k
  obj : ∀ x y, b.obj x y = m.obj x y
  link : ∀ l, b.link l = m.link l
  lq : ∀ n, b.lq n = m.lq n
  fab : b.dev.fab = m.dev.fab

/-- A command that leaves a SYNC in its run slot ends as `SyncAt` says. -/
theorem M.SyncAt.ends {c : Instr} {s : State} {f : M → M} {i : Nat} {sl : Slot} {flags : BitVec 1024}
    (h : (M.of s).SyncAt i sl flags (f (M.of s))) (e : exec c s = s.run f) :
    Ends c s fun m' => ((m'.core i).ready = none ∧ (m'.core i).run = some sl) ∧ (m'.core i).flags = flags ∧
      (M.of s).SameObjs m' [] ∧ (M.of s).SameCores m' [i] := by
  refine ends_dev e h.fuse fun m' hl => ?_
  rw [LikeViews.core hl]
  exact ⟨⟨h.ready, h.run⟩, h.flags, LikeViews.sameObjs hl fun x y _ _ _ => h.obj x y,
    LikeViews.sameCores hl fun k hk => h.others k (by simpa using hk)⟩

/-- The SYNC as it waits, having begun to at count `t`. -/
def Slot.syncWaiting (sl : Slot) (t : Nat) : Slot := { sl with phase := .waiting, progress := 0, since := t }

/-- The SYNC as it is done at once. -/
def Slot.syncDone (sl : Slot) : Slot := { sl with phase := .done, progress := 0 }

section
variable {m : M} {i : Nat} {sl : Slot} {j : Job} (e : m.Entered i sl j)
include e

theorem M.Entered.flags_eq : (j.m.core i).flags = (m.core i).flags := by
  obtain ⟨cs, hown⟩ := e.own
  rw [hown]

theorem M.Entered.core_flags : j.m.core i = { j.m.core i with flags := (m.core i).flags } := by rw [← e.flags_eq]

/-- The work of a SYNC sets its slot and the flags of its core, and may count those that wait. -/
theorem M.Entered.syncAt (sl' : Slot) {fl : BitVec 1024} (n : Nat) {k : M} (only : OnlyCore m k i)
    (hk : k.core i = { j.m.core i with flags := fl }) :
    m.SyncAt i sl' fl (({ j with m := { k with dev := { k.dev with readyCtr := n } }, s := sl' } : Job).settle i) := by
  obtain ⟨cs, hown⟩ := e.own
  obtain ⟨cs', hdev⟩ := only.dev
  have hrun := Job.settle_core (j := { j with m := k, s := sl' }) i
  refine ⟨only.fuse, ?_, congrArg Core.run hrun, ?_, ?_, fun a ha => ?_, only.objs, only.links, only.lqs, ?_⟩
  · exact (congrArg Core.ready hrun).trans (by dsimp only; rw [hk, hown])
  · exact (congrArg Core.flags hrun).trans (by dsimp only; rw [hk])
  · intro x hx
    have hctxs : x ∈ (k.core i).ctxs := (congrArg Core.ctxs hrun).subst (motive := fun l => x ∈ l) hx
    rw [hk] at hctxs
    exact e.parked x hctxs
  · exact (Job.settle_core_ne _ i a ha).trans (only.core a ha)
  · show k.dev.fab = m.dev.fab
    rw [hdev]

theorem M.Entered.still_slot : j.still = { j with s := sl.syncDone } := by
  unfold Job.still
  rw [e.slot]
  rfl

/-- A SYNC that waits is counted, and stands waiting with the count. -/
theorem M.Entered.waits_at : j.still.waits.s = sl.syncWaiting m.dev.readyCtr ∧
    m.SyncAt i (sl.syncWaiting m.dev.readyCtr) (m.core i).flags (j.still.waits.settle i) := by
  have hslot : j.still.waits.s = sl.syncWaiting m.dev.readyCtr := by
    unfold Job.waits
    rw [e.still_slot, ← e.fab.2]
    rfl
  refine ⟨hslot, ?_⟩
  have hat := e.syncAt (sl.syncWaiting m.dev.readyCtr) (j.m.dev.readyCtr + 1) e.only e.core_flags
  rw [← hslot] at hat ⊢
  exact hat

/-- A SYNC that is done at once leaves the flags of its core as `fl`. -/
theorem M.Entered.done_at {fl : BitVec 1024} {k : M} (only : OnlyCore m k i) (hk : k.core i = { j.m.core i with flags := fl }) :
    m.SyncAt i sl.syncDone fl (({ j with m := k, s := sl.syncDone } : Job).settle i) :=
  e.syncAt sl.syncDone k.dev.readyCtr only hk

end

/-- A SYNC that may run does: `f` works on it, `g` sends. -/
theorem M.MayRun.syncAt {m : M} {i : Nat} {sl sl' : Slot} {p : List W64 → Bool} {f : Job → Job} {fl : BitVec 1024}
    (h : m.MayRun i sl kSync) (hp : p sl.words = true) (g : M → Slot → M)
    (hf : ∀ j, m.Entered i sl j → (f j).s = sl' ∧ m.SyncAt i sl' fl ((f j).settle i)) :
    ∃ b, m.SyncAt i sl' fl b ∧ m.runThen i kSync p f g = g b sl' := by
  obtain ⟨j, henter, hrun⟩ := m.runThen_run i kSync sl p f g h hp
  obtain ⟨hslot, hat⟩ := hf j henter
  exact ⟨_, hat, by rw [hrun, hslot]⟩

/-! ## WAIT and SIGNAL -/

section
variable {m : M} {i : Nat} {sl : Slot}

theorem M.waitFlag_set (h : m.MayRun i sl kSync) (hop : syncOp sl.words = 1)
    (hset : (m.core i).flags.toNat.testBit (wf sl.words 8 17 8) = true) :
    m.SyncAt i sl.syncDone (BitVec.ofNat 1024 (setBit (m.core i).flags.toNat (wf sl.words 8 17 8) false))
      (m.runKind i kSync (fun ws => syncOp ws == 1) Job.waitFlag) := by
  obtain ⟨b, hat, hrun⟩ := h.syncAt (p := fun ws => syncOp ws == 1) (f := Job.waitFlag) (beq_iff_eq.mpr hop) (fun m _ => m)
    fun j e => by
      have hwords : j.s.words = sl.words := by rw [e.slot]
      unfold Job.waitFlag
      dsimp only
      rw [e.core, e.flags_eq, hwords, hset, e.still_slot]
      exact ⟨rfl, e.done_at (e.only.trans (OnlyCore.modCore j.m i fun _ => _)) ((M.core_setCore _ _ _ _).trans (if_pos rfl))⟩
  unfold M.runKind
  rw [hrun]
  exact hat

theorem M.waitFlag_clear (h : m.MayRun i sl kSync) (hop : syncOp sl.words = 1)
    (hclear : (m.core i).flags.toNat.testBit (wf sl.words 8 17 8) = false) :
    m.SyncAt i (sl.syncWaiting m.dev.readyCtr) (m.core i).flags (m.runKind i kSync (fun ws => syncOp ws == 1) Job.waitFlag) := by
  obtain ⟨b, hat, hrun⟩ := h.syncAt (p := fun ws => syncOp ws == 1) (f := Job.waitFlag) (beq_iff_eq.mpr hop) (fun m _ => m)
    fun j e => by
      have hwords : j.s.words = sl.words := by rw [e.slot]
      unfold Job.waitFlag
      dsimp only
      rw [e.core, e.flags_eq, hwords, hclear]
      exact e.waits_at
  unfold M.runKind
  rw [hrun]
  exact hat

theorem M.SyncAt.deviceId {sl' : Slot} {fl : BitVec 1024} {b : M} (h : m.SyncAt i sl' fl b) : b.deviceId = m.deviceId := h.obj _ _

/-- What a SIGNAL does in its slot. -/
def Job.signal (j : Job) : Job :=
  if signalDevice j.still.s.words = j.m.deviceId then j.still
  else { j.still with s := { j.still.s with phase := .waiting, pendingReqs := 1 } }

/-- What a SIGNAL of core `i` sends. -/
def M.sendSignal (i : Nat) (m : M) (s : Slot) : M :=
  if signalDevice s.words = m.deviceId then m
  else m.request (.signal i) (m.message (signalDevice s.words) opFlagSet (wf s.words 8 22 18 * 1024 + wf s.words 8 17 8) s.ctx) 0

theorem M.runSignal_eq (m : M) (i : Nat) :
    m.runSignal i = m.runThen i kSync (fun ws => syncOp ws == 2) Job.signal (M.sendSignal i) := rfl

theorem M.runSignal_local (h : m.MayRun i sl kSync) (hop : syncOp sl.words = 2) (hdev : signalDevice sl.words = m.deviceId) :
    m.SyncAt i sl.syncDone (m.core i).flags (m.runSignal i) := by
  obtain ⟨b, hat, hrun⟩ := h.syncAt (sl' := sl.syncDone) (p := fun ws => syncOp ws == 2) (f := Job.signal) (beq_iff_eq.mpr hop) (M.sendSignal i)
    fun j e => by
      have hhere : signalDevice sl.syncDone.words = j.m.deviceId := hdev.trans e.deviceId.symm
      unfold Job.signal
      rw [e.still_slot]
      dsimp only
      rw [if_pos hhere]
      exact ⟨rfl, e.done_at e.only e.core_flags⟩
  have hsent : M.sendSignal i b sl.syncDone = b := if_pos (hdev.trans hat.deviceId.symm)
  rw [M.runSignal_eq, hrun, hsent]
  exact hat

end


/-! ## Barriers -/

section
variable {m : M} {i : Nat} {sl : Slot} {fl : BitVec 1024}

theorem M.SyncAt.members {sl' : Slot} {b : M} (h : m.SyncAt i sl' fl b) (g : Nat) : b.members g = m.members g := by
  have hgated : ∀ a, b.gated a = m.gated a := fun a => congrArg (Nat.testBit · 9) (h.obj _ _)
  have hfenced : ∀ a, b.fenced a = m.fenced a := fun a => congrArg (Nat.testBit · 0) (h.obj _ _)
  have hfused : ∀ a, b.fusedOff a = m.fusedOff a := fun a => M.fusedOff_congr _ _ _ h.fuse
  unfold M.members
  simp only [hgated, hfenced, hfused, M.objFld, h.obj]

/-- A group some member of which is missing is left as it is (R478). -/
theorem M.judgeBarrier_missing (m : M) (g : Nat) (h : ∃ i ∈ m.members g, (Tab.get m.dev.fab.arrivals 0 g).testBit i = false) :
    m.judgeBarrier g = m := by
  obtain ⟨i, hi, hmissing⟩ := h
  have hall : ((m.members g).all fun i => (Tab.get m.dev.fab.arrivals 0 g).testBit i) = false :=
    List.all_eq_false.mpr ⟨i, hi, by simp [hmissing]⟩
  unfold M.judgeBarrier
  simp [hall]

/-- A group that is complete, whose round has not begun and in which nobody waits with XBARRIER is released (R478). -/
theorem M.judgeBarrier_complete (m : M) (g : Nat) (h0 : Tab.get m.dev.fab.arrivals 0 g ≠ 0) (hx : m.dev.fab.xlocal.contains g = false)
    (hall : ∀ i ∈ m.members g, (Tab.get m.dev.fab.arrivals 0 g).testBit i = true)
    (hnone : ∀ i, i < 24 → ∀ q ∈ (m.core i).waiters, q.syncWaits (isXBarrierOf g) = false) :
    m.judgeBarrier g = m.releaseBarrier g false := by
  have hall' : ((m.members g).all fun i => (Tab.get m.dev.fab.arrivals 0 g).testBit i) = true := List.all_eq_true.mpr hall
  have hany : ((List.range 24).any fun i => (m.core i).waiters.any fun s => s.syncWaits (isXBarrierOf g)) = false :=
    any_range_false _ _ fun i hi => List.any_eq_false.mpr fun q hq => by simp [hnone i hi q hq]
  unfold M.judgeBarrier
  rw [if_neg (by rw [hx, hall']; simp [h0]), hany]
  rfl

theorem Slot.syncWaits_syncWaiting (sl : Slot) (t : Nat) (p : List W64 → Bool) (hk : sl.kind = kSync) (hs : sl.stop = none) :
    (sl.syncWaiting t).syncWaits p = p sl.words := by
  unfold Slot.syncWaits Slot.syncWaiting
  simp [hk, hs]

theorem setBit_ne_zero (v i : Nat) : setBit v i true ≠ 0 := by
  intro h
  have := testBit_setBit v i true i
  rw [h, if_pos rfl, Nat.zero_testBit] at this
  exact absurd this (by decide)

/-- The device once `sl` of core `i` has arrived at its barrier, before the group is judged. -/
def M.arrived (m : M) (i g : Nat) : M :=
  m.modFab fun f => { f with arrivals := Tab.put f.arrivals g (setBit (Tab.get f.arrivals 0 g) i true) }

theorem M.arrive_eq (m : M) (i : Nat) (sl : Slot) : m.arrive i sl = (m.arrived i (wf sl.words 8 7 4)).judgeBarrier (wf sl.words 8 7 4) := rfl

theorem M.arrivals_arrived (m : M) (i g : Nat) :
    Tab.get (m.arrived i g).dev.fab.arrivals 0 g = setBit (Tab.get m.dev.fab.arrivals 0 g) i true := Tab.get_put_same _ _ _ _

/-- BARRIER and XBARRIER: the SYNC stands waiting, its core has arrived, and the group is judged. -/
theorem M.MayRun.arrives {m : M} {i : Nat} {sl : Slot} {op : Nat} (h : m.MayRun i sl kSync) (hop : syncOp sl.words = op) :
    let g := wf sl.words 8 7 4
    ∃ b, m.SyncAt i (sl.syncWaiting m.dev.readyCtr) (m.core i).flags b ∧
      (m.runThen i kSync (fun ws => syncOp ws == op) (fun j => j.still.waits) fun m s => m.arrive i s) =
        (b.arrived i g).judgeBarrier g :=
  h.syncAt (p := fun ws => syncOp ws == op) (beq_iff_eq.mpr hop) (fun m s => m.arrive i s) fun _ e => e.waits_at

/-- Nobody of core `k` waits with XBARRIER of group `g`, where nobody did before a BARRIER began to wait. -/
theorem M.SyncAt.noXBarrier {b : M} {t g : Nat} (h : m.SyncAt i (sl.syncWaiting t) fl b) (hop : syncOp sl.words = 0) (k : Nat)
    (hnone : ∀ q ∈ (m.core k).waiters, q.syncWaits (isXBarrierOf g) = false) :
    ∀ q ∈ (b.core k).waiters, q.syncWaits (isXBarrierOf g) = false := by
  intro q hq
  by_cases hk : k = i
  · subst hk
    unfold Core.waiters at hq hnone
    rw [h.run] at hq
    rcases List.mem_append.mp hq with hq | hq
    · have hq : q = sl.syncWaiting t := by simpa using hq
      unfold Slot.syncWaits isXBarrierOf
      rw [hq, show (sl.syncWaiting t).words = sl.words from rfl, hop]
      simp
    · obtain ⟨e, he, hpark⟩ := List.mem_filterMap.mp hq
      obtain ⟨e', he', hpark'⟩ := h.parked e he q hpark
      exact hnone q (List.mem_append_right _ (List.mem_filterMap.mpr ⟨e', he', hpark'⟩))
  · rw [h.others k hk] at hq
    exact hnone q hq

theorem M.releaseBarrier_links (m : M) (g : Nat) (t : Bool) : (m.releaseBarrier g t).dev.links = m.dev.links := rfl

/-- What the release of a group leaves as the SYNC that arrived last found it. -/
theorem M.SyncAt.releasedOthers {sl' : Slot} {b : M} {g : Nat} (h : m.SyncAt i sl' fl b) :
    let r := (b.arrived i g).releaseBarrier g false
    r.fuse = m.fuse ∧ (∀ l, r.link l = m.link l) ∧ (∀ n, r.lq n = m.lq n) ∧
      ∀ k, k ≠ i → r.core k = (m.core k).mapWaiters (fun q => q.syncWaits (isBarrierOf g)) fun q => { q with phase := .done } := by
  refine ⟨(M.traffic_releaseBarrier _ _ _).fuse.trans h.fuse, fun l => ?_, fun n => ?_, fun k hk => ?_⟩
  · unfold M.link
    rw [M.releaseBarrier_links]
    exact h.link l
  · unfold M.lq
    rw [M.releaseBarrier_lqs]
    exact h.lq n
  · rw [← h.others k hk]
    exact M.core_mapWaiters _ _ _ _

/-- What the release of a group leaves of the core that arrived last. -/
theorem M.SyncAt.released {b : M} {t g : Nat} (h : m.SyncAt i (sl.syncWaiting t) fl b) (hp : isBarrierOf g sl.words = true)
    (hk : sl.kind = kSync) (hs : sl.stop = none) :
    (((b.arrived i g).releaseBarrier g false).core i).ready = none ∧
      (((b.arrived i g).releaseBarrier g false).core i).run = some { sl with phase := .done, progress := 0, since := t } := by
  have hcore : ((b.arrived i g).releaseBarrier g false).core i = (b.core i).mapWaiters (fun q => q.syncWaits (isBarrierOf g))
      fun q => { q with phase := .done, trCount := q.trCount + 0 } := M.core_mapWaiters _ _ _ _
  rw [hcore]
  refine ⟨h.ready, ?_⟩
  unfold Core.mapWaiters
  dsimp only
  rw [h.run, Option.map_some, if_pos ((Slot.syncWaits_syncWaiting sl t _ hk hs).trans hp)]
  rfl

end

/-- Settles O32: every SYNC moves into the run slot as `M.SyncAt` says; a barrier is judged there, a WAIT looks at its flag. -/
theorem syncsRun : Obligations.SyncsRun := by
  intro core sl s hrun g f arr stands
  have harr {fl : BitVec 1024} {sl' : Slot} {b : M} (h : (M.of s).SyncAt core sl' fl b) :
      Tab.get (b.arrived core g).dev.fab.arrivals 0 g = arr := by
    rw [M.arrivals_arrived, h.fab]
  refine ⟨fun p hp hop hmissing => ?missing, fun hop hall hx hnone => ?complete, fun hop hset => ?set, fun hop hclear => ?clear,
    fun hop hdev => ?signal⟩
  case missing =>
    have hexec : exec p.2 s = s.run fun m =>
        m.runThen core kSync (fun ws => syncOp ws == p.1) (fun j => j.still.waits) fun m s => m.arrive core s := by
      simp only [List.mem_cons, List.not_mem_nil, or_false] at hp
      rcases hp with rfl | rfl
      · exact exec_barrier core s
      · exact exec_xbarrier core s
    obtain ⟨b, hat, hjudge⟩ := hrun.arrives hop
    rw [M.judgeBarrier_missing] at hjudge
    · refine ends_to hexec hjudge hat.fuse fun m' hl => ⟨⟨?_, ?_⟩, ?_, LikeViews.sameObjs hl fun x y _ _ _ => hat.obj x y,
        LikeViews.sameCores hl fun k hk => hat.others k (by simpa using hk), LikeViews.sameLinks hl fun l _ => hat.link l,
        LikeViews.sameLqs hl fun n _ => hat.lq n⟩
      · rw [LikeViews.core hl]
        exact hat.ready
      · rw [LikeViews.core hl]
        exact hat.run
      · rw [hl.dev]
        unfold M.arrived M.modFab
        dsimp only
        rw [hat.fab]
    · obtain ⟨k, hk, hbit⟩ := hmissing
      exact ⟨k, by rwa [show (b.arrived core g).members g = b.members g from rfl, hat.members], by rwa [harr hat]⟩
  case complete =>
    obtain ⟨b, hat, hjudge⟩ := hrun.arrives hop
    obtain ⟨-, -, -, -, hstop, hkind, -⟩ := hrun
    have hbarrier : isBarrierOf g sl.words = true := by
      unfold isBarrierOf
      rw [hop]
      simp [g]
    rw [M.judgeBarrier_complete] at hjudge
    · obtain ⟨hready, hslot⟩ := hat.released hbarrier hkind hstop
      obtain ⟨hfuse, hlink, hlq, hothers⟩ := hat.releasedOthers (g := g)
      refine ends_to (exec_barrier core s) hjudge hfuse fun m' hl => ⟨⟨?_, ?_⟩, ?_, ?_, fun k hk => ?_,
        LikeViews.sameObjs hl fun x y hy _ hxy => ?_, LikeViews.sameLinks hl fun l _ => hlink l,
        LikeViews.sameLqs hl fun n _ => hlq n⟩
      · rw [LikeViews.core hl]
        exact hready
      · rw [LikeViews.core hl]
        exact hslot
      · rw [LikeViews.objFld hl]
        unfold M.objFld M.releaseBarrier
        rw [M.obj_wrapObj_same]
        exact (fld_setFld_same _ _ _ _).trans (by rw [← hat.obj]; rfl)
      · rw [hl.dev]
        exact Tab.get_erase_same _ _ _
      · rw [LikeViews.core hl]
        exact hothers k hk
      · rw [← hat.obj]
        have hg : g < 16 := Nat.mod_lt _ (by decide)
        exact M.obj_setObj_ne _ _ _ _ _ _ hy (by omega) (by simpa using hxy)
    · rw [harr hat]
      exact setBit_ne_zero _ _
    · rw [show (b.arrived core g).dev.fab.xlocal = b.dev.fab.xlocal from rfl, hat.fab]
      exact hx
    · intro k hk
      rw [harr hat]
      exact hall k (by rwa [show (b.arrived core g).members g = b.members g from rfl, hat.members] at hk)
    · exact fun k hk => hat.noXBarrier hop k (hnone k hk)
  case set => exact (M.waitFlag_set hrun hop hset).ends (exec_waitFlag core s)
  case clear => exact (M.waitFlag_clear hrun hop hclear).ends (exec_waitFlag core s)
  case signal => exact (M.runSignal_local hrun hop hdev).ends (exec_signal core s)

end Sys2Proof.Machine
end

section
/-! Contexts that take turns, open and close (21_contexts_sync.md R464, R469 to R471). -/

namespace Sys2Proof.Machine

/-! ## What each command runs -/

section
variable (i : Fin 24) (s : State)

theorem exec_quantumExpiry :
    exec (.quantumExpiry i) s = s.run fun m => m.when (m.coreRuns i) fun m => m.quantumExpiry i := rfl

theorem exec_contextSwitch :
    exec (.contextSwitch i) s = s.run fun m => m.when (m.coreRuns i) fun m => m.contextSwitch i := rfl

theorem exec_parkedResume :
    exec (.parkedResume i) s = s.run fun m => m.when (m.coreRuns i) fun m => m.parkedResume i := rfl

end

/-- A command that changes one core ends with that core as its effect leaves it, and with all else as it was. -/
theorem OnlyCore.ends {c : Instr} {s : State} {f : M → M} {r : M} {i : Nat} {P : Core → Prop} (e : exec c s = s.run f)
    (hr : f (M.of s) = r) (h : OnlyCore (M.of s) r i) (hP : P (r.core i)) :
    Ends c s fun m' => P (m'.core i) ∧
      (M.of s).SameObjs m' [] ∧ (M.of s).SameCores m' [i] ∧ (M.of s).SameLinks m' [] ∧ (M.of s).SameLqs m' [] := by
  refine ends_to e hr h.fuse fun m' hl => ⟨?_, LikeViews.sameObjs hl fun x y _ _ _ => h.objs x y, LikeViews.sameCores hl h.sameCores,
    LikeViews.sameLinks hl fun l _ => h.links l, LikeViews.sameLqs hl fun n _ => h.lqs n⟩
  rw [LikeViews.core hl]
  exact hP

/-! ## The end of a quantum -/

section
variable {m : M} {i : Nat}

theorem M.quantumExpiry_alone (ha : bit16 (m.core i).active (m.core i).current = true) (hr : (m.core i).rivals = []) :
    m.quantumExpiry i = m.modCore i fun c => { c with quantumUp := true } := by
  unfold M.quantumExpiry
  simp [ha, hr]

theorem M.quantumExpiry_rivals (ha : bit16 (m.core i).active (m.core i).current = true) (hr : (m.core i).rivals ≠ [])
    (hd : (m.core i).disabling = none) (hc : bit16 (m.core i).closing (m.core i).current = false) :
    m.quantumExpiry i = (m.modCore i fun c => { c with quantumUp := true }).modCore i Core.park := by
  unfold M.quantumExpiry
  simp [ha, hr, hd, hc]

/-- The waiting SYNC of the current context is parked with the manifest in the ready slot. -/
theorem Core.park_waiting {c : Core} {sl : Slot} (hrun : c.run = some sl) (hk : sl.kind = kSync) (hp : sl.phase = .waiting)
    (hs : sl.stop = none) (hop : syncOp sl.words ≠ 2) :
    c.park = { c.setCtx c.current { c.ctx c.current with parkedRun := some sl, parkedReady := c.ready, parkReady := false } with
      run := none, ready := none } := by
  unfold Core.park
  simp [hrun, hk, hp, hs, hop]

theorem Core.park_idle {c : Core} (hrun : c.run = none) : c.park = c := by
  unfold Core.park
  rw [hrun]

/-! ## A switch -/

theorem M.contextSwitch_next {x : Nat} (hrun : (m.core i).run = none) (hready : (m.core i).ready = none) (hwait : (m.core i).wait = none)
    (hd : (m.core i).disabling = none) (hup : (m.core i).quantumUp = true) (hnext : (m.core i).nextContext = some x)
    (hx : x ≠ (m.core i).current) :
    ∃ b, OnlyCore m b i ∧ b.core i = m.core i ∧ m.contextSwitch i = b.enter i x := by
  have switch {b : M} (hb : b.core i = m.core i) :
      (if !(b.core i).switchDue then b
        else match (b.core i).nextContext with
          | none => b
          | some x => if x = (b.core i).current then (if (b.core i).quantumUp then b.modCore i fun c => { c with quantumUp := false } else b)
            else b.enter i x) = b.enter i x := by
    rw [hb]
    have hdue : (m.core i).switchDue = true := by
      unfold Core.switchDue Core.empty
      simp [hrun, hready, hwait, hd, hup]
    rw [hdue, hnext]
    exact if_neg hx
  have hpark : (m.modCore i Core.park).core i = m.core i := (M.core_modCore_same _ _ _).trans (Core.park_idle hrun)
  unfold M.contextSwitch
  split
  · exact ⟨_, OnlyCore.modCore _ _ _, hpark, switch hpark⟩
  · exact ⟨m, OnlyCore.refl _ _, rfl, switch rfl⟩

/-- Core `i` as context `x` finds it when it comes on the drover. -/
def Core.Entered (c : Core) (x : Nat) (c' : Core) : Prop :=
  c'.current = x ∧ c'.quantumUp = false ∧
    ((c.ctx x).parkedRun = none → c'.run = c.run ∧ c'.ctxs = c.ctxs ∧
      c'.fetch = if (c.ctx x).nextPtr = 0 then none else some (c.ctx x).nextPtr.toNat) ∧
    ∀ sl, (c.ctx x).parkedRun = some sl → c'.run = some sl ∧ c'.ready = (c.ctx x).parkedReady ∧
      c'.ctx x = { c.ctx x with parkedRun := none, parkedReady := none, parkReady := false } ∧ ∀ y, y ≠ x → c'.ctx y = c.ctx y

theorem M.enter_entered (m : M) (i x : Nat) : (m.core i).Entered x ((m.enter i x).core i) := by
  unfold M.enter
  rw [M.core_modCore_same]
  cases hp : ((m.core i).ctx x).parkedRun with
  | none =>
    refine ⟨?_, ?_, fun _ => ?_, fun sl h => ?_⟩
    · simp only [hp]
    · simp only [hp]
    · simp only [hp, and_self]
    · rw [hp] at h
      exact absurd h (by simp)
  | some q =>
    refine ⟨?_, ?_, fun h => ?_, fun sl h => ?_⟩
    · simp only [hp]
      rfl
    · simp only [hp]
      rfl
    · rw [hp] at h
      exact absurd h (by simp)
    · rw [hp] at h
      injection h with h
      subst h
      simp only [hp, true_and]
      exact ⟨Core.ctx_setCtx_same _ _ _, fun y hy => Core.ctx_setCtx_ne _ _ _ _ hy⟩

/-! ## Parked contexts -/

/-- A context's registers once it is known whether its parked SYNC is done. -/
def CtxRegs.resumed (r : CtxRegs) : CtxRegs :=
  { r with parkReady := match r.parkedRun with | some sl => sl.phase == .done | none => r.parkReady }

theorem M.core_parkedResume (m : M) (i : Nat) :
    (m.parkedResume i).core i = { m.core i with ctxs := (m.core i).ctxs.map fun e => (e.1, e.2.resumed) } := by
  unfold M.parkedResume
  rw [M.core_modCore_same]
  congr 2
  funext e
  cases h : e.2.parkedRun with
  | none =>
    simp only [CtxRegs.resumed, h]
    rw [← h]
  | some sl => simp only [CtxRegs.resumed, h]

theorem M.ctx_parkedResume (m : M) (i x : Nat) : ((m.parkedResume i).core i).ctx x = ((m.core i).ctx x).resumed := by
  rw [M.core_parkedResume]
  exact Tab.get_map (m.core i).ctxs CtxRegs.zero x CtxRegs.resumed rfl

end

/-- Settles O35: only the core at hand changes; what becomes of it is said by the quantum's end, the switch and the parked contexts. -/
theorem contextsTakeTurns : Obligations.ContextsTakeTurns := by
  intro core s hruns c r
  have due {f : M → M} : ((M.of s).when ((M.of s).coreRuns core) f) = f (M.of s) := by rw [hruns]; rfl
  refine ⟨fun ha hr => ?alone, fun sl ha hr hd hc hrun hk hp hs hop => ?rivals,
    fun x hrun hready hwait hd hup hnext hx => ?switch, ?resume⟩
  case alone => exact does_of (exec_quantumExpiry core s) (due.trans (M.quantumExpiry_alone ha hr))
  case rivals =>
    refine OnlyCore.ends (P := fun c' => c' = _) (exec_quantumExpiry core s) (due.trans (M.quantumExpiry_rivals ha hr hd hc))
      ((OnlyCore.modCore _ _ _).trans (OnlyCore.modCore _ _ _)) ?_
    rw [M.core_modCore_same, M.core_modCore_same]
    exact Core.park_waiting (c := { c with quantumUp := true }) hrun hk hp hs hop
  case switch =>
    obtain ⟨b, honly, hcore, hswitch⟩ := M.contextSwitch_next hrun hready hwait hd hup hnext hx
    obtain ⟨t, ht, ⟨hcurrent, hquantum, hfetch, hresume⟩, hsame⟩ := OnlyCore.ends (P := c.Entered x) (exec_contextSwitch core s)
      (due.trans hswitch) (honly.trans (onlyCore_enter _ _ _)) (by
        have := b.enter_entered core x
        rwa [hcore] at this)
    exact ⟨t, ht, hcurrent, hquantum, fun h => ⟨(hfetch h).1.trans hrun, (hfetch h).2⟩, hresume, hsame⟩
  case resume =>
    obtain ⟨t, ht, ⟨hctx, hslots⟩, hsame⟩ := OnlyCore.ends
      (P := fun c' => (∀ x, c'.ctx x = (c.ctx x).resumed) ∧ c'.run = c.run ∧ c'.ready = c.ready)
      (exec_parkedResume core s) due (OnlyCore.modCore _ _ _)
      ⟨fun x => (M.of s).ctx_parkedResume core x, by rw [M.core_parkedResume]; exact ⟨rfl, rfl⟩⟩
    exact ⟨t, ht, hctx, hslots.1, hslots.2, hsame⟩

/-! ## OPEN bits -/

/-- The OPEN bits of a core. -/
def openSpec : ObjSpec := oRWD tyB32 4 0 false [⟨15, 0, .rw⟩]

theorem objSpec_open : ∀ i : Fin 24, objSpec 0x8001 (i.val + 1) = some openSpec := by decide

/-- Every number of 16 bits is a word of OPEN bits. -/
theorem openSpec_takes {v : Nat} (hv : v < 2 ^ 16) : openSpec.Takes v := by
  obtain ⟨hcode, hclamp⟩ := takesAny openSpec.fields (judge_rw _ rfl) v
  refine ⟨rfl, reserved_none _ _ fun i hi hcov => ?_, hcode, hclamp⟩
  have h16 : 16 ≤ i := by
    by_contra hlt
    exact absurd hcov (by interval_cases i <;> decide)
  exact Nat.testBit_lt_two_pow (hv.trans_le (Nat.pow_le_pow_right (by decide) h16))

theorem setBit_lt {v w i : Nat} {b : Bool} (hv : v < 2 ^ w) (hi : i < w) : setBit v i b < 2 ^ w := by
  refine Nat.lt_pow_two_of_testBit _ fun j hj => ?_
  rw [testBit_setBit, if_neg (by omega)]
  exact Nat.testBit_lt_two_pow (hv.trans_le (Nat.pow_le_pow_right (by decide) hj))

section
variable {m : M} {i : Nat} {x : Fin 16}

theorem M.writeOpen_open (hclosed : m.objBit 0x8001 (i + 1) x = false) (hfused : m.fusedOff i = false) (hfenced : m.fenced i = false)
    (hslice : m.objFld (0x8030 + x) (i + 1) 9 0 ≤ m.objFld (0x8030 + x) (i + 1) 25 16) (hne : m.obj (0x8030 + x) (i + 1) ≠ 0) :
    m.writeOpen i (setBit (m.obj 0x8001 (i + 1)) x true) = (0, m.openContext i x) := by
  obtain ⟨hopened, hrest⟩ := bits_open (m.obj 0x8001 (i + 1)) x hclosed
  unfold M.writeOpen
  dsimp only
  rw [hopened, hrest, if_neg (by simp [hfused, hfenced, hslice, hne])]
  rfl

theorem M.writeOpen_close (hopen : m.objBit 0x8001 (i + 1) x = true) :
    m.writeOpen i (setBit (m.obj 0x8001 (i + 1)) x false) = (0, m.closeContext i x) := by
  obtain ⟨hopened, hclosed⟩ := bits_close (m.obj 0x8001 (i + 1)) x hopen
  unfold M.writeOpen
  dsimp only
  rw [hopened, hclosed, if_neg (by simp)]
  rfl

/-- A context whose chain is idle, with nothing of it parked and the slots empty, is closed at once. -/
theorem M.closeContext_idle (hidle : bit16 (m.core i).active x = false) (hpark : (m.ctx i x).parkedRun = none)
    (hrun : (m.core i).run = none) (hready : (m.core i).ready = none) (hcis : m.ownsCistern i x = false) :
    m.closeContext i x =
      ((m.modCore i fun c => { c with closing := setBit16 c.closing x true }).setObjBit 0x8001 (i + 1) x false).modCore
        i fun c => { c with closing := setBit16 c.closing x false } := by
  have hclosing : (m.modCore i fun c => { c with closing := setBit16 c.closing x true }).core i =
      { m.core i with closing := setBit16 (m.core i).closing x true } := M.core_modCore_same _ _ _
  have hstop : (m.modCore i fun c => { c with closing := setBit16 c.closing x true }).stopParked i x .drain =
      m.modCore i fun c => { c with closing := setBit16 c.closing x true } := by
    unfold M.stopParked
    rw [show (m.modCore i fun c => { c with closing := setBit16 c.closing x true }).ctx i x = m.ctx i x by unfold M.ctx; rw [hclosing]; rfl,
      hpark]
  have hset : bit16 (setBit16 (m.core i).closing x true) x = true := by rw [bit16_setBit16 _ _ _ _ x.isLt, if_pos rfl]
  unfold M.closeContext
  dsimp only
  rw [hstop]
  unfold M.closeIfDrained
  rw [hclosing]
  dsimp only
  rw [if_neg (by simp [hrun, hready]), if_neg (by simp [hidle]), if_pos (by simp [hset, hrun, hready]),
    if_neg (by rw [show (M.modCore m i _).ownsCistern i x = m.ownsCistern i x from rfl, hcis]; simp)]

end

/-- Settles O36: one OPEN bit changes, so one context opens or closes. -/
theorem contextsOpenAndClose : Obligations.ContextsOpenAndClose := by
  intro p core x s ⟨hhears, hserved, howner⟩ hold
  have happlies {c : Instr} {b : Bool} {g : M → M}
      (e : exec c s = s.run fun m => m.partyWrite p 0x8001 (core.val + 1) (m.withBit 0x8001 (core.val + 1) x b))
      (hg : (M.of s).writeOpen core (setBit ((M.of s).obj 0x8001 (core + 1)) x b) = (0, g (M.of s))) :
      Applies c s 0x8001 (core + 1) (setBit ((M.of s).obj 0x8001 (core + 1)) x b) g := by
    obtain ⟨hw, hreserved, hcode, hclamp⟩ := openSpec_takes (setBit_lt (b := b) hold x.isLt)
    exact applies_of e hhears hserved (fun _ => howner) (objSpec_open core) rfl hw hreserved hcode hclamp hg
  refine ⟨fun hclosed hfused hfenced hslice hne => ?opens, fun hopen hidle hpark hrun hready hcis => ?closes⟩
  case opens => exact happlies (c := .contextOpen p core x) rfl (M.writeOpen_open hclosed hfused hfenced hslice hne)
  case closes =>
    exact happlies (c := .contextClose p core x) rfl
      ((M.writeOpen_close hopen).trans (by rw [M.closeContext_idle hidle hpark hrun hready hcis]))

end Sys2Proof.Machine
end

section
/-! Flags and barriers of other devices (21_contexts_sync.md R474, R477, R479, R480). -/

namespace Sys2Proof.Machine

/-! ## What each command runs -/

section
variable (l : Fin 32) (x : Msg) (s : State)

theorem exec_flagSet :
    exec (.flagSet l x) s = s.run fun m => m.message_ l x (x.op == opFlagSet && x.resp == 0) fun m => m.serveFlag x := rfl

theorem exec_barrierArrive : exec (.barrierArrive l x) s = s.run fun m => m.message_ l x (x.op == opArrive) fun m => m.serveArrive x := rfl

theorem exec_barrierRelease :
    exec (.barrierRelease l x) s = s.run fun m => m.message_ l x (x.op == opRelease) fun m =>
      if x.resp ≠ 0 then m else m.barrierMsg x fun g => m.releaseBarrier g false := rfl

theorem exec_xtimeout (g : Fin 16) :
    exec (.xtimeout g) s = s.run fun m => m.when (m.live && m.dev.fab.xlocal.contains g.val) fun m => m.releaseBarrier g true := rfl

end

/-! ## Flags -/

section
variable {m : M} {x : Msg}

theorem M.serveFlag_denied (h : m.objBit 0x8080 1 (bitsAt x.addr 0 10 / 64) = false) : m.serveFlag x = m.answer x respDenied [] := by
  unfold M.serveFlag
  simp [h]

theorem M.serveFlag_set (hblock : m.objBit 0x8080 1 (bitsAt x.addr 0 10 / 64) = true) (hi : bitsAt x.addr 10 5 < 24) {m' : M}
    (hset : m.setFlag (bitsAt x.addr 10 5) (bitsAt x.addr 0 10) = (true, m')) : m.serveFlag x = m'.answer x respOk [] := by
  unfold M.serveFlag
  simp [hblock, hi, hset]

/-! ## Barriers -/

theorem M.barrierMsg_current (act : Nat → M) (h : barrierGen x.addr = m.objFld 0x8050 (barrierGroup x.addr + 1) 35 24) :
    m.barrierMsg x act = act (barrierGroup x.addr) := if_neg (not_not.mpr h)

/-- Rank 0 that has not got every arrival goes on waiting. -/
theorem M.judgeRanks_missing {g : Nat} (h : (List.range (m.collSize (m.objFld 0x8050 (g + 1) 43 40))).all
    (Tab.get m.dev.fab.xranks [] g).contains = false) : m.judgeRanks g = m := by
  unfold M.judgeRanks
  simp only [h, Bool.false_eq_true, if_false]

theorem M.serveArrive_held (hgen : barrierGen x.addr = m.objFld 0x8050 (barrierGroup x.addr + 1) 35 24) (hresp : x.resp = 0)
    (hrank : m.collRank (m.objFld 0x8050 (barrierGroup x.addr + 1) 43 40) = some 0)
    (hmissing : (List.range (m.collSize (m.objFld 0x8050 (barrierGroup x.addr + 1) 43 40))).all
      (addOnce (Tab.get m.dev.fab.xranks [] (barrierGroup x.addr)) (barrierRank x.addr)).contains = false) :
    m.serveArrive x = m.modFab fun f => { f with
      xranks := Tab.put f.xranks (barrierGroup x.addr)
        (addOnce (Tab.get m.dev.fab.xranks [] (barrierGroup x.addr)) (barrierRank x.addr)) } := by
  unfold M.serveArrive
  rw [M.barrierMsg_current _ hgen, if_neg (not_not.mpr hresp), if_neg (not_not.mpr hrank)]
  refine M.judgeRanks_missing ?_
  rw [M.modFab_self]
  dsimp only
  rw [Tab.get_put_same]
  exact hmissing

end

/-- Settles O50: a message of this device is acted on once it has left its link's receive buffer, which no flag, group or rank
depends on. -/
theorem flagsAndBarriersArrive : Obligations.FlagsAndBarriersArrive := by
  refine ⟨fun l x s harrives => ?messages, fun g s hlive hlocal => ?timeout⟩
  case messages =>
    refine ⟨fun hop hresp hdenied => ?denied, fun hop hresp hblock hi hthere hnone hclear => ?set,
      fun hgen hresp => ⟨fun hop hrank hmissing => ?arrive, fun hop => ?release⟩⟩
    case denied =>
      exact does_arrival harrives (exec_flagSet l x s) (by simp [hop, hresp]) (M.serveFlag_denied (m := (M.of s).consumeMsg l x) hdenied)
    case set =>
      exact does_arrival harrives (exec_flagSet l x s) (by simp [hop, hresp])
        (M.serveFlag_set (m := (M.of s).consumeMsg l x) hblock hi (M.setFlag_clear hthere
          (fun t ht => Bool.eq_false_iff.mpr (List.filter_eq_nil_iff.mp hnone t ht)) hclear))
    case arrive =>
      exact does_arrival harrives (exec_barrierArrive l x s) (by simp [hop]) (M.serveArrive_held (m := (M.of s).consumeMsg l x) hgen hresp hrank hmissing)
    case release =>
      have hact := harrives.run (fun m => if x.resp ≠ 0 then m else m.barrierMsg x fun g => m.releaseBarrier g false)
        (x.op == opRelease) (by simp [hop])
      refine M.releaseBarrier_views ((M.of s).consumeMsg l x) (barrierGroup x.addr) (Nat.mod_lt _ (by decide)) false (exec_barrierRelease l x s)
        (hact.trans ?_) rfl rfl [l.val] (fun _ => rfl) (fun k hk => ?_) rfl (fun _ _ => rfl)
      · rw [if_neg (not_not.mpr hresp)]
        exact M.barrierMsg_current _ hgen
      · unfold M.consumeMsg
        rw [M.link_modLink, if_neg (by simpa using hk)]
  case timeout =>
    refine M.releaseBarrier_views (M.of s) g g.isLt true (exec_xtimeout s g) ?_ rfl rfl [] (fun _ => rfl) (fun _ _ => rfl) rfl
      (fun _ _ => rfl)
    rw [hlive, hlocal]
    rfl

end Sys2Proof.Machine
end

section
/-! Clock sources and PLLs (19_clocks_reset_bringup.md R424, R427 to R434, R443): what a lost source takes with it, what a judgement
window does, and a requested switch. -/

namespace Sys2Proof.Machine

/-! ## What each command runs -/

section
variable (s : State)

theorem exec_twpOscLoss : exec .twpOscLoss s = s.run fun m => m.when m.dev.powered M.oscLoss := rfl

theorem exec_missingEdge (src : Fin 3) :
    exec (.missingEdge src) s = s.run fun m =>
      if src.val = 2 then m.when m.dev.powered M.oscLoss
      else m.when (m.watchRuns && m.srcPresent src) fun m => m.sourceLost src true := rfl

theorem exec_clockJudgeWindow (clock : Fin 38) (within : Bool) :
    exec (.clockJudgeWindow clock within) s = s.run fun m =>
      m.when (m.watchRuns && !m.dev.tripped) fun m => (m.judgeClock clock within).serveHostHeld := rfl

theorem exec_srcReq (p : Party) (n : Fin 36) (b : Bool) :
    exec (.srcReq p n b) s = s.run fun m => m.partyWrite p 0x2010 (n.val + 1) (m.withBit 0x2010 (n.val + 1) 8 b) := rfl

end

theorem does_missingEdge {s : State} {src : Fin 3} {g : M → M} (hsrc : src.val ≠ 2) (hruns : (M.of s).watchRuns = true)
    (hthere : (M.of s).srcPresent src = true) (h : (M.of s).sourceLost src true = g (M.of s)) : Does (.missingEdge src) s g :=
  does_of (exec_missingEdge s src) (by rw [if_neg hsrc, hruns, hthere]; exact h)

/-- A judgement window where no request of the host waits. -/
theorem does_judge {s : State} {clock : Fin 38} {within : Bool} {g : M → M} (hruns : (M.of s).watchRuns = true)
    (hup : (M.of s).dev.tripped = false) (h : (M.of s).judgeClock clock within = g (M.of s)) (hheld : (g (M.of s)).dev.host.held = []) :
    Does (.clockJudgeWindow clock within) s g := by
  refine does_of (exec_clockJudgeWindow s clock within) ?_
  rw [hruns, hup]
  exact (congrArg M.serveHostHeld h).trans (M.serveHostHeld_nil _ hheld)

/-! ## A source is lost -/

/-- What the loss of source `src` at a missing edge changes of the sources' object and counts. -/
def M.edgeMissed (m : M) (src hi lo : Nat) : M :=
  (((m.setObjBit 0x2001 1 (2 + src) false).setObjBit 0x2001 1 src false).satObj 0x2001 1 hi lo 1).modClocks
    fun c => { c with runs := Tab.erase c.runs src }

section
variable (m : M)

theorem M.obj_edgeMissed (src hi lo : Nat) {i j : Nat} (hj : j < 256) (h : (i, j) ≠ (0x2001, 1)) :
    (m.edgeMissed src hi lo).obj i j = m.obj i j := by
  unfold M.edgeMissed
  rw [M.obj_modClocks, M.obj_satObj_ne _ _ _ _ _ _ _ _ hj (by decide) h, M.obj_setObjBit_ne _ _ _ _ _ _ _ hj (by decide) h,
    M.obj_setObjBit_ne _ _ _ _ _ _ _ hj (by decide) h]

theorem M.pllSrc_edgeMissed (src hi lo : Nat) {n : Nat} (hn : n ≤ 36) : (m.edgeMissed src hi lo).pllSrc n = m.pllSrc n :=
  M.pllSrc_congr _ _ (fun j hj => m.obj_edgeMissed src hi lo hj (by simp)) n hn

theorem M.objBit_edgeMissed {src hi lo : Nat} (k : Nat) (hle : lo ≤ hi) (hk : k < lo) :
    (m.edgeMissed src hi lo).objBit 0x2001 1 k = if k = src then false else if k = 2 + src then false else m.objBit 0x2001 1 k := by
  unfold M.edgeMissed
  rw [M.objBit_modClocks, M.objBit, M.obj_satObj_same, satFld, testBit_setFld_outside _ _ _ _ _ (.inl hk) hle]
  rw [← M.objBit, M.objBit_setObjBit, M.objBit_setObjBit]

theorem M.objFld_edgeMissed {src hi lo : Nat} (hsrc : 2 + src < lo) :
    (m.edgeMissed src hi lo).objFld 0x2001 1 hi lo = satAdd (hi + 1 - lo) (m.objFld 0x2001 1 hi lo) 1 := by
  unfold M.edgeMissed
  rw [M.objFld_modClocks, M.objFld, M.obj_satObj_same, fld_satFld, ← M.objFld, M.objFld_setObjBit_ne _ _ _ _ _ (.inl (by omega)),
    M.objFld_setObjBit_ne _ _ _ _ _ (.inl (by omega))]

end

/-! ## The PLLs on a source that is lost -/

/-- What the loss of source `k` leaves, where the management PLL does not run on it: memory, every object but those of the PLLs
on it. -/
structure M.Spared (m m' : M) (k : Nat) : Prop where
  fuse : m'.fuse = m.fuse
  ops : m'.ops = m.ops
  up : m'.dev.pcieUp = m.dev.pcieUp
  obj : ∀ i j, j < 256 → (i = 0x2010 → 1 ≤ j → j ≤ 36 → m.pllSrc j ≠ k) → m'.obj i j = m.obj i j

theorem M.Spared.refl (m : M) (k : Nat) : M.Spared m m k := ⟨rfl, rfl, rfl, fun _ _ _ _ => rfl⟩

/-- One PLL of those on source `k` is lost. -/
def M.loseOn (k : Nat) (m : M) (n : Nat) : M := if m.pllSrc n = k then m.pllLose n true else m

theorem M.dropSource_eq (m : M) (k : Nat) : m.dropSource k = ((List.range 0x24).map (· + 1)).foldl (M.loseOn k) m := rfl

theorem M.Spared.loseOn {m m' : M} {k n : Nat} (h : M.Spared m m' k) (hn : 1 ≤ n ∧ n ≤ 36) (hmgmt : m.pllSrc 36 ≠ k) :
    M.Spared m (m'.loseOn k n) k := by
  unfold M.loseOn
  split
  case isFalse => exact h
  case isTrue hon =>
    have hsrc : m.pllSrc n = k := by
      by_contra hoff
      refine hoff ?_
      rw [← hon]
      unfold M.pllSrc M.objFld
      rw [h.obj 0x2010 n (by omega) fun _ _ _ => hoff]
    have hne : n ≠ 36 := fun e => hmgmt (e ▸ hsrc)
    have hdrop := m'.pllLose_drop n true (by omega)
    refine ⟨hdrop.fuse.trans h.fuse, hdrop.ops.trans h.ops, hdrop.up.trans h.up, fun i j hj hoff => ?_⟩
    refine Eq.trans ?_ (h.obj i j hj hoff)
    by_cases hsyn : (i, j) = (0x2001, 1)
    · obtain ⟨rfl, rfl⟩ := Prod.mk.inj hsyn
      exact hdrop.syn hne
    · refine hdrop.obj i j hj (fun e => ?_) hsyn
      obtain ⟨rfl, rfl⟩ := Prod.mk.inj e
      exact hoff rfl hn.1 hn.2 hsrc

theorem M.spared_dropSource (m : M) {k : Nat} (hmgmt : m.pllSrc 36 ≠ k) : M.Spared m (m.dropSource k) k := by
  rw [M.dropSource_eq]
  exact List.foldlRecOn (motive := fun m' => M.Spared m m' k) _ _ (M.Spared.refl m k) fun m' h n hn => h.loseOn (mem_pll n hn) hmgmt

theorem M.obj_pllSafe {m : M} {n : Nat} (hn : n ≠ 36) (i j : Nat) : (m.pllSafe n).obj i j = m.obj i j := by
  unfold M.pllSafe
  split
  · exact M.obj_cutSteps _ _ _ _
  · rw [if_neg (by simpa [mgmtPll] using hn)]

/-- A PLL that runs on REF100 with AUTO goes over to SYN100 where that is ready. -/
theorem M.pllLose_auto {m : M} {n : Nat} (hn : n ≤ 31) (hsrc : m.pllSrc n = 1) (hstarted : m.pllState n ≠ 0) (hlost : m.pllState n ≠ 3)
    (hauto : m.objBit 0x2010 n 10 = true) (hsyn : m.objBit 0x2001 1 4 = true) :
    (m.pllLose n true).pllState n = 4 ∧ (m.pllLose n true).pllSrc n = 0 := by
  obtain ⟨m', hm', hobj⟩ : ∃ m', (if m.pllState n = 2 then m.pllSafe n else m) = m' ∧ ∀ i j, m'.obj i j = m.obj i j := by
    refine ⟨_, rfl, fun i j => ?_⟩
    split
    · exact M.obj_pllSafe (by omega) i j
    · rfl
  have hsw : m.pllLose n true = m'.pllSwitch n 0 := by
    unfold M.pllLose
    dsimp only
    have hon : m'.pllSrc n = 1 := by rw [← hsrc]; unfold M.pllSrc M.objFld; rw [hobj]
    have hbit : ∀ i j k, m'.objBit i j k = m.objBit i j k := fun i j k => by unfold M.objBit; rw [hobj]
    rw [if_neg (by simp [hstarted, hlost]), hm', hon, if_pos]
    simp [pllSwitches, hn, M.srcReady, hbit, hauto, hsyn]
  have hrun : ∀ (m : M), (m.setPll n 4).obj 0x2010 n = setFld (m.obj 0x2010 n) 2 0 4 := fun m => by
    rw [M.setPll, M.obj_modClocks, M.obj_setObjFld_same]
  rw [hsw, M.pllSwitch, M.pllState, M.pllSrc, M.objFld, M.objFld, hrun, fld_setFld_same, M.obj_setObjFld_same,
    fld_setFld_above _ _ _ _ _ _ (by decide) (by decide), fld_setFld_same]
  exact ⟨rfl, rfl⟩

theorem M.dropSource_auto {m : M} {n : Nat} (hn : 1 ≤ n ∧ n ≤ 31) (hmgmt : m.pllSrc 36 ≠ 1) (hsrc : m.pllSrc n = 1)
    (hstarted : m.pllState n ≠ 0) (hlost : m.pllState n ≠ 3) (hauto : m.objBit 0x2010 n 10 = true) (hsyn : m.objBit 0x2001 1 4 = true) :
    (m.dropSource 1).pllState n = 4 ∧ (m.dropSource 1).pllSrc n = 0 := by
  have hother : ∀ (m' : M) (k : Nat), k ≠ n → k ∈ (List.range 0x24).map (· + 1) → (m'.loseOn 1 k).obj 0x2010 n = m'.obj 0x2010 n := by
    intro m' k hk hmem
    have := mem_pll k hmem
    unfold M.loseOn
    split
    · exact (m'.pllLose_drop k true (by omega)).obj _ _ (by omega) (by simpa using hk.symm) (by simp)
    · rfl
  rw [M.dropSource_eq]
  refine foldl_at (M.loseOn 1) n (fun m' => M.Spared m m' 1 ∧ m'.obj 0x2010 n = m.obj 0x2010 n)
    (fun m' => m'.pllState n = 4 ∧ m'.pllSrc n = 0) _ (fun m' k hk hmem h => ⟨h.1.loseOn (mem_pll k hmem) hmgmt, ?_⟩)
    (fun m' h => ?_) (fun m' k hk hmem h => ?_) nodup_pll (List.mem_map.mpr ⟨n - 1, List.mem_range.mpr (by omega), by omega⟩) m
    ⟨M.Spared.refl m 1, rfl⟩
  · exact (hother m' k hk hmem).trans h.2
  · obtain ⟨hspared, hobj⟩ := h
    have hsame : ∀ hi lo, m'.objFld 0x2010 n hi lo = m.objFld 0x2010 n hi lo := fun hi lo => congrArg (fld · hi lo) hobj
    have hon : m'.pllSrc n = 1 := (hsame 5 4).trans hsrc
    have hst : m'.pllState n = m.pllState n := hsame 2 0
    have hsrcs : m'.obj 0x2001 1 = m.obj 0x2001 1 := hspared.obj _ _ (by decide) (by simp)
    unfold M.loseOn
    rw [if_pos hon]
    exact M.pllLose_auto hn.2 hon (by rwa [hst]) (by rwa [hst]) (by rw [M.objBit, hobj]; exact hauto) (by rw [M.objBit, hsrcs]; exact hsyn)
  · unfold M.pllState M.pllSrc M.objFld at h ⊢
    rwa [hother m' k hk hmem]

/-! ## Judgement -/

/-- `v` stands as the windows in a row of clock `k`. -/
def M.counted (m : M) (k v : Nat) : M := m.modClocks fun c => { c with runs := Tab.put c.runs k v }

section
variable {m : M}

/-- MGMT_REF is judged against nothing; what is judged against it is judged while it is there. -/
theorem M.judgeClock_pll {n : Nat} (hn : 0 < n) (hthere : m.objBit 0x2001 1 1 = true) (within : Bool) :
    m.judgeClock (n + 1) within = m.judgePll n within := by
  unfold M.judgeClock
  rw [if_neg (by omega), if_neg (by simp [M.srcPresent, hthere]), if_neg (by omega), Nat.add_sub_cancel]

theorem M.judgeClock_ref (hthere : m.objBit 0x2001 1 1 = true) (within : Bool) : m.judgeClock 0 within = m.judgeSource 0 within := by
  unfold M.judgeClock
  rw [if_neg (by decide), if_neg (by simp [M.srcPresent, hthere]), if_pos rfl]

theorem M.judgeClock_absent {k : Nat} (hk : k ≠ 1) (habsent : m.objBit 0x2001 1 1 = false) (within : Bool) : m.judgeClock k within = m := by
  unfold M.judgeClock
  rw [if_neg hk, if_pos (by simp [M.srcPresent, habsent])]

theorem M.judgeSource_few {src : Nat} (hsrc : src ≤ 1) (hfew : Tab.get m.dev.clocks.runs 0 src < 3) :
    m.judgeSource src true = (m.counted src (Tab.get m.dev.clocks.runs 0 src + 1)).setObjBit 0x2001 1 src true := by
  unfold M.judgeSource
  rw [M.judgeRun_good _ _ (by omega)]
  have : ¬ goodRuns src ≤ Tab.get m.dev.clocks.runs 0 src + 1 := by unfold goodRuns; rw [if_pos hsrc]; omega
  dsimp only
  rw [if_pos rfl, if_neg (by simp [this])]
  rfl

theorem M.judgeSource_fourth {src : Nat} (hsrc : src ≤ 1) (hthree : Tab.get m.dev.clocks.runs 0 src = 3)
    (hunstable : m.objBit 0x2001 1 (2 + src) = false) :
    m.judgeSource src true = ((m.counted src 4).setObjBit 0x2001 1 src true).sourceStable src := by
  unfold M.judgeSource
  rw [M.judgeRun_good _ _ (by omega), hthree]
  have : ((m.counted src 4).setObjBit 0x2001 1 src true).srcStable src = false := by
    unfold M.srcStable srcStableBit
    rw [M.objBit_setObjBit, if_neg (by omega)]
    exact hunstable
  dsimp only
  rw [if_pos rfl, if_pos]
  · rfl
  · rw [← M.counted, this]
    simp [goodRuns, hsrc]

theorem M.judgeSource_bad {src : Nat} (hsrc : src ≤ 1) (hone : Tab.get m.dev.clocks.runs 0 src = 2 ^ 16 + 1)
    (hstable : m.objBit 0x2001 1 (2 + src) = true) :
    m.judgeSource src false = (m.counted src (2 ^ 16 + 2)).sourceLost src false := by
  unfold M.judgeSource
  rw [M.judgeRun_bad _ _ 1 hone (by decide)]
  dsimp only
  rw [if_neg (by decide), if_pos]
  · rfl
  · have : (m.modClocks fun c => { c with runs := Tab.put c.runs src (2 ^ 16 + (1 + 1)) }).srcStable src = true := hstable
    rw [this]
    simp [badRuns, hsrc]

/-- MGMT_REF stable for the first time: the management PLL starts on it. -/
theorem M.sourceStable_first (hidle : m.pllState 36 = 0) :
    m.sourceStable 1 = (m.setObjBit 0x2001 1 3 true).setPll 36 1 := by
  have : (m.setObjBit 0x2001 1 3 true).pllState mgmtPll = 0 := by
    unfold M.pllState M.objFld mgmtPll
    rw [M.obj_setObjBit_ne _ _ _ _ _ _ _ (by decide) (by decide) (by decide)]
    exact hidle
  unfold M.sourceStable
  rw [if_neg (by decide)]
  exact if_pos this

section
variable {n : Nat} (hn : 1 ≤ n ∧ n ≤ 24)
include hn

theorem M.pllStable_core : m.pllStable n = m.setObjFld 0x2010 n 2 0 2 := by
  unfold M.pllStable mgmtPll
  dsimp only
  rw [if_neg (by omega), if_neg (by simp; omega)]

theorem M.pllSafe_core : m.pllSafe n = m := by
  unfold M.pllSafe mgmtPll
  rw [if_neg (by simp; omega), if_neg (by omega)]

theorem M.judgePll_eighth (hseven : Tab.get m.dev.clocks.runs 0 (n + 1) = 7) (hst : m.pllState n = 1 ∨ m.pllState n = 4) :
    m.judgePll n true = (m.counted (n + 1) 8).setObjFld 0x2010 n 2 0 2 := by
  unfold M.judgePll
  rw [M.judgeRun_good _ _ (by omega), hseven]
  dsimp only
  rw [if_neg (by rcases hst with h | h <;> simp [h]), if_pos rfl, if_pos, M.pllStable_core hn]
  · rfl
  · have : ¬ n + 1 ≤ 1 := by omega
    rcases hst with h | h <;> simp [goodRuns, this, h]

theorem M.judgePll_first (hgood : Tab.get m.dev.clocks.runs 0 (n + 1) < 2 ^ 16) (hst : m.pllState n = 2) :
    m.judgePll n false = m.counted (n + 1) (2 ^ 16 + 1) := by
  unfold M.judgePll
  rw [M.judgeRun_first _ _ hgood]
  have : ¬ n + 1 ≤ 1 := by omega
  dsimp only
  rw [if_neg (by simp [hst]), if_neg (by decide), if_neg (by simp [badRuns, this])]
  rfl

theorem M.judgePll_third (htwo : Tab.get m.dev.clocks.runs 0 (n + 1) = 2 ^ 16 + 2) (hst : m.pllState n = 2) :
    m.judgePll n false = ((m.counted (n + 1) (2 ^ 16 + 3)).setPll n 3).satObj 0x2010 n 31 24 1 := by
  unfold M.judgePll
  rw [M.judgeRun_bad _ _ 2 htwo (by decide)]
  have hbad : badRuns (n + 1) = 3 := if_neg (by omega)
  have hlose : ∀ m : M, m.pllState n = 2 → m.pllLose n false = (m.setPll n 3).satObj 0x2010 n 31 24 1 := by
    intro m h
    unfold M.pllLose
    simp [h, M.pllSafe_core hn]
  have hne : n ≠ mgmtPll := by unfold mgmtPll; omega
  dsimp only
  rw [if_neg (by simp [hst]), if_neg (by decide), if_pos (by simp [hbad, hst]), if_neg hne]
  exact hlose _ hst

end

theorem M.judgePll_off {n : Nat} (hst : m.pllState n = 0) (within : Bool) : m.judgePll n within = m := by
  unfold M.judgePll
  dsimp only
  rw [if_pos (by simp [hst])]

end

/-! ## Requested switches -/

section
variable {m : M} {n : Nat} {b : Bool}

theorem M.srcRequest_none (hn : 32 ≤ n) : m.srcRequest n 1 = none := by
  have : pllSwitches n = false := decide_eq_false (by omega)
  simp [M.srcRequest, this]

theorem M.srcRequest_switch (hn : n ≤ 31) {k : Nat} (hother : m.pllSrc n ≠ k) :
    m.srcRequest n k = if m.srcReady k then some ((m.setObjBit 0x2010 n 11 false).pllSwitch n k) else none := by
  have : pllSwitches n = true := decide_eq_true hn
  simp [M.srcRequest, this, Ne.symm hother]

theorem M.srcRequest_same (hn : n ≤ 31) : m.srcRequest n (m.pllSrc n) = some (m.setObjBit 0x2010 n 11 false) := by
  have : pllSwitches n = true := decide_eq_true hn
  simp [M.srcRequest, this]

/-- SYN100 and REF100 as the sources' object shows them. -/
theorem M.srcReady_toNat : m.srcReady b.toNat = m.objBit 0x2001 1 (if b then 2 else 4) := by cases b <;> rfl

theorem M.writePll_taken {put m' : M} {c : Nat} (h : put.srcRequest n (c.testBit 8).toNat = some m') : m.writePll put n c = (0, m') := by
  unfold M.writePll
  rw [h]

theorem M.writePll_refused {put : M} {c : Nat} (h : put.srcRequest n (c.testBit 8).toNat = none) :
    m.writePll put n c = (if c.testBit 8 && !pllSwitches n then 5 else 7, m.setObjBit 0x2010 n 11 true) := by
  unfold M.writePll
  rw [h]
  rfl

end

/-- A write that the object's own rule refuses, with a mark of its own. -/
theorem does_refused {c : Instr} {s : State} {p : Party} {idx sub : Nat} {v : M → Nat} {o : ObjSpec} {n : Nat} {g : M → M}
    (e : exec c s = s.run fun m => m.partyWrite p idx sub (v m)) (hserves : (M.of s).Serves p) (ho : objSpec idx sub = some o)
    (hup : (M.of s).unavailable idx false = false) (htakes : o.Takes (v (M.of s))) (hn : n ≠ 0)
    (hg : (M.of s).applyField p idx sub o (v (M.of s)) = (n, g (M.of s))) :
    Does c s fun m => (g m).reported idx sub (v (M.of s)) 2 n := by
  obtain ⟨hhears, hserved, howner⟩ := hserves
  obtain ⟨hw, hreserved, hcode, hclamp⟩ := htakes
  have hf : (M.of s).writeField p idx sub o.size (v (M.of s)) = (2, n, g (M.of s)) := by
    have hown : (o.o && ((M.of s).dev.led.owner ≠ some p : Bool)) = false := by rw [howner]; simp
    unfold M.writeField
    rw [ho]
    dsimp only
    rw [hown]
    simp [hserved, hup, hw, hreserved, hcode, hclamp, hg, hn]
  refine does_of e ?_
  unfold M.partyWrite M.reported
  simp [hhears, ho, hf]

/-- A word of a PLL that has no reserved bit set is taken with SRC_REQ as asked. -/
theorem pllSpec_takes {old : Nat} {b : Bool} (h : ∀ i, old.testBit i = true → i ∈ [0, 1, 2, 4, 5, 8, 10, 11] ∨ (24 ≤ i ∧ i < 32)) :
    pllSpec.Takes (setBit old 8 b) := by
  obtain ⟨hcode, hclamp⟩ := takesAny pllSpec.fields (judge_rw _ rfl) (setBit old 8 b)
  exact ⟨rfl, pllSpec_reserved _ (pll_legal old b h), hcode, hclamp⟩

/-- Settles O58: the management PLL does not run on REF100, so the loss of that leaves SYN100 ready for the PLLs that go over to it. -/
theorem clocksAreJudged : Obligations.ClocksAreJudged := by
  refine ⟨fun s hpow => ?osc, fun s hruns => ?edges, fun s hruns hup hheld => ?judged, fun p n b s hserves => ?requested⟩
  case osc =>
    have hstops : (M.of s).dev.oscLost = false → (M.of s).when (M.of s).dev.powered M.oscLoss =
        (({ M.of s with dev := { (M.of s).dev with oscLost := true } } : M).setObjBit 0x2001 1 5 false) := by
      intro h
      rw [hpow, M.when_true, M.oscLoss, h]
      rfl
    have hstays : (M.of s).dev.oscLost = true → (M.of s).when (M.of s).dev.powered M.oscLoss = M.of s := by
      intro h
      rw [hpow, M.when_true, M.oscLoss, if_pos h]
    exact ⟨fun h => ⟨does_of (exec_twpOscLoss s) (hstops h), does_of (exec_missingEdge s 2) (hstops h)⟩,
      fun h => ⟨does_of (exec_twpOscLoss s) (hstays h), does_of (exec_missingEdge s 2) (hstays h)⟩⟩
  case edges =>
    refine ⟨fun hthere hnone => does_missingEdge (by decide) hruns hthere ?_,
      fun hthere hsyn hnone => does_missingEdge (by decide) hruns hthere ?_, fun hthere hsyn hmgmt => ?_⟩
    · refine congrArg M.pcieStop (M.dropSource_none _ _ fun n h1 h2 => ?_)
      exact ((M.of s).pllSrc_edgeMissed 0 31 24 h2).trans_ne (hnone n h1 h2)
    · refine (congrArg M.loseSyn (M.dropSource_none ((M.of s).edgeMissed 1 23 16) 2 fun n h1 h2 => ?_)).trans (if_pos ?_)
      · exact ((M.of s).pllSrc_edgeMissed 1 23 16 h2).trans_ne (hnone n h1 h2)
      · rw [M.objBit_edgeMissed _ _ (by decide) (by decide)]
        exact hsyn
    · have hmgmt' : ((M.of s).edgeMissed 0 31 24).pllSrc 36 ≠ 1 := by rw [M.pllSrc_edgeMissed _ _ _ _ (le_refl _), hmgmt]; decide
      have hspared := ((M.of s).edgeMissed 0 31 24).spared_dropSource hmgmt'
      have hsrcs := hspared.obj 0x2001 1 (by decide) (by simp)
      have hbit : ∀ k, k < 24 → (((M.of s).edgeMissed 0 31 24).dropSource 1).objBit 0x2001 1 k =
          if k = 0 then false else if k = 2 then false else (M.of s).objBit 0x2001 1 k := fun k hk => by
        rw [M.objBit, hsrcs]
        exact (M.of s).objBit_edgeMissed k (by decide) hk
      have hobj : ∀ {i j}, j < 256 → (i, j) ≠ (0x2001, 1) → (i = 0x2010 → 1 ≤ j → j ≤ 36 → (M.of s).pllSrc j ≠ 1) →
          (((M.of s).edgeMissed 0 31 24).dropSource 1).obj i j = (M.of s).obj i j := fun hj hne hoff =>
        (hspared.obj _ _ hj fun h1 h2 h3 => by rw [M.pllSrc_edgeMissed _ _ _ _ h3]; exact hoff h1 h2 h3).trans
          (M.obj_edgeMissed _ _ _ _ hj hne)
      refine ends_quiet (r := (((M.of s).edgeMissed 0 31 24).dropSource 1).pcieStop) (exec_missingEdge s 0) ?_ hspared.fuse hspared.ops
        fun m' hlike hmem => ?_
      · rw [if_neg (by decide), hruns, show (M.of s).srcPresent (0 : Fin 3) = true from hthere]
        rfl
      refine ⟨?_, ?_, ?_, ?_, fun n h1 h2 hon hstarted hlost hauto => ?_, fun n h1 h2 hoff => ?_, hmem, fun i j hj hi => ?_⟩
      · rw [LikeViews.objBit hlike]; exact hbit 0 (by decide)
      · rw [LikeViews.objBit hlike]; exact hbit 2 (by decide)
      · rw [LikeViews.objFld hlike]
        exact (congrArg (fld · 31 24) hsrcs).trans ((M.of s).objFld_edgeMissed (by decide))
      · rw [hlike.dev]; rfl
      · have hstate : ∀ hi lo, ((M.of s).edgeMissed 0 31 24).objFld 0x2010 n hi lo = (M.of s).objFld 0x2010 n hi lo := fun hi lo =>
          congrArg (fld · hi lo) (M.obj_edgeMissed _ _ _ _ (by omega) (by simp))
        obtain ⟨h4, h0⟩ := M.dropSource_auto ⟨h1, h2⟩ hmgmt' ((hstate 5 4).trans hon) ((hstate 2 0).trans_ne hstarted)
          ((hstate 2 0).trans_ne hlost)
          (by rw [M.objBit, M.obj_edgeMissed _ _ _ _ (by omega) (by simp)]; exact hauto)
          (by rw [M.objBit_edgeMissed _ _ (by decide) (by decide)]; exact hsyn)
        unfold M.pllState M.pllSrc
        rw [LikeViews.objFld hlike, LikeViews.objFld hlike]
        exact ⟨h4, h0⟩
      · rw [LikeViews.obj hlike]
        exact hobj (by omega) (by simp) fun _ _ _ => hoff
      · rw [LikeViews.obj hlike]
        simp only [List.mem_cons, List.not_mem_nil, or_false, not_or] at hi
        exact hobj hj (fun e => hi.1 (congrArg Prod.fst e)) fun e => absurd e hi.2
  case judged =>
    have hdoes : ∀ {clock : Fin 38} {within : Bool} {g : M → M}, (M.of s).judgeClock clock within = g (M.of s) →
        (g (M.of s)).dev.host.held = [] → Does (.clockJudgeWindow clock within) s g := fun h hh => does_judge hruns hup h hh
    refine ⟨fun hfew => hdoes ((if_pos rfl).trans (M.judgeSource_few (by decide) hfew)) hheld,
      fun hthree hunstable hidle => hdoes ((if_pos rfl).trans ?_) hheld,
      fun hfew hthere => hdoes ((M.judgeClock_ref hthere true).trans (M.judgeSource_few (by decide) hfew)) hheld,
      fun hone hthere hstable hnone => hdoes ((M.judgeClock_ref hthere false).trans ?_) hheld,
      fun habsent => hdoes (M.judgeClock_absent (by decide) habsent true) hheld,
      fun n hthere => ?_⟩
    · refine (M.judgeSource_fourth (by decide) hthree hunstable).trans (M.sourceStable_first ?_)
      unfold M.pllState M.objFld
      rw [M.obj_setObjBit_ne _ _ _ _ _ _ _ (by decide) (by decide) (by decide)]
      exact hidle
    · refine (M.judgeSource_bad (by decide) hone hstable).trans (congrArg M.pcieStop (M.dropSource_none _ _ fun n h1 h2 => ?_))
      refine (M.pllSrc_congr (M.of s) _ (fun j hj => ?_) n h2).trans_ne (hnone n h1 h2)
      rw [M.obj_modClocks, if_pos rfl, M.obj_satObj_ne _ _ _ _ _ _ _ _ hj (by decide) (by simp),
        if_neg (by decide), M.obj_setObjBit_ne _ _ _ _ _ _ _ hj (by decide) (by simp)]
      rfl
    · have hn : 1 ≤ n.val + 1 ∧ n.val + 1 ≤ 24 := ⟨by omega, by omega⟩
      have hpll := M.judgeClock_pll (m := M.of s) (n := n.val + 1) (by omega) hthere
      exact ⟨fun hseven hst => hdoes ((hpll true).trans (M.judgePll_eighth hn hseven hst)) hheld,
        fun hgood hst => hdoes ((hpll false).trans (M.judgePll_first hn hgood hst)) hheld,
        fun htwo hst => hdoes ((hpll false).trans (M.judgePll_third hn htwo hst)) hheld,
        fun hst => hdoes ((hpll true).trans (M.judgePll_off hst true)) hheld⟩
  case requested =>
    intro old v from_ hlegal
    have htakes : pllSpec.Takes v := pllSpec_takes hlegal
    have hbit : v.testBit 8 = b := by rw [testBit_setBit, if_pos rfl]
    have hput : pllSpec.store old v = v := pllSpec_store old v hlegal b rfl
    have hfield : (M.of s).applyField p 0x2010 (n.val + 1) pllSpec v =
        (M.of s).writePll ((M.of s).setObj 0x2010 (n.val + 1) v) (n.val + 1) v := by
      refine Eq.trans ?_ (congrArg (fun w => (M.of s).writePll ((M.of s).setObj 0x2010 (n.val + 1) w) (n.val + 1) v) hput)
      rfl
    have hsrc : ((M.of s).setObj 0x2010 (n.val + 1) v).pllSrc (n.val + 1) = from_ := by
      rw [M.pllSrc, M.objFld, M.obj_setObj_same]
      exact fld_setBit_ne _ _ _ _ _ (.inr (by decide))
    have hready : ((M.of s).setObj 0x2010 (n.val + 1) v).srcReady b.toNat = (M.of s).objBit 0x2001 1 (if b then 2 else 4) := by
      rw [M.srcReady_toNat, M.objBit, M.obj_setObj_ne _ _ _ _ _ _ (by decide) (by omega) (by simp)]
      rfl
    have hrefused := fun {k : Nat} (hk : k ≠ 0) (h : (M.of s).applyField p 0x2010 (n.val + 1) pllSpec v =
        (k, (M.of s).setObjBit 0x2010 (n.val + 1) 11 true)) =>
      does_refused (v := fun m => m.withBit 0x2010 (n.val + 1) 8 b) (g := fun m => m.setObjBit 0x2010 (n.val + 1) 11 true)
        (exec_srcReq s p n b) hserves (objSpec_pll n) rfl htakes hk h
    obtain ⟨hhears, hserved, howner⟩ := hserves
    obtain ⟨hw, hreserved, hcode, hclamp⟩ := htakes
    have happlies := fun {g : M → M} (h : (M.of s).applyField p 0x2010 (n.val + 1) pllSpec v = (0, g (M.of s))) =>
      applies_of (v := fun m => m.withBit 0x2010 (n.val + 1) 8 b) (exec_srcReq s p n b) hhears hserved (fun _ => howner)
        (objSpec_pll n) rfl hw hreserved hcode hclamp h
    refine ⟨fun hb hn => hrefused (by decide) (hfield.trans ?_), fun hn hne hr => happlies (hfield.trans (M.writePll_taken ?_)),
      fun hn hne hr => hrefused (by decide) (hfield.trans ?_), fun hn heq => happlies (hfield.trans (M.writePll_taken ?_))⟩
    · subst hb
      rw [M.writePll_refused (by rw [hbit]; exact M.srcRequest_none (by omega)), hbit]
      have : pllSwitches (n.val + 1) = false := decide_eq_false (by omega)
      simp [this]
    · rw [hbit, M.srcRequest_switch (by omega) (by rw [hsrc]; exact hne), if_pos (hready.trans hr)]
      rfl
    · rw [M.writePll_refused, hbit]
      · have : pllSwitches (n.val + 1) = true := decide_eq_true (by omega)
        simp [this]
      · rw [hbit, M.srcRequest_switch (by omega) (by rw [hsrc]; exact hne), if_neg (by rw [hready, hr]; decide)]
    · rw [hbit, show b.toNat = ((M.of s).setObj 0x2010 (n.val + 1) v).pllSrc (n.val + 1) by rw [hsrc, ← heq]]
      exact M.srcRequest_same (by omega)

end Sys2Proof.Machine
end

section
/-! Fences and switched domains (17_power.md R391, R392; 20_faults_fencing.md R455 to R457). -/

namespace Sys2Proof.Machine

/-! ## What each command runs -/

section
variable (p : Party) (i : Fin 24) (d : Fin 38) (s : State)

theorem exec_fence : exec (.fence p i) s = s.run fun m => m.partyWrite p 0x7001 (i.val + 1) 2 := rfl

theorem exec_unfence : exec (.unfence p i) s = s.run fun m => m.partyWrite p 0x7001 (i.val + 1) 4 := rfl

theorem exec_domainOn : exec (.domainOn p d) s = s.run fun m => m.partyWrite p 0x3100 (d.val + 1) 0 := rfl

theorem exec_domainOff : exec (.domainOff p d) s = s.run fun m => m.partyWrite p 0x3100 (d.val + 1) 1 := rfl

theorem exec_domainTransitionDone :
    exec (.domainTransitionDone d) s = s.run fun m => m.when m.live fun m => m.domDone d := rfl

end

/-! ## Fences -/

/-- Core `i` is DISABLING for a fence: it fetches no further manifest and its Outrider stands idle. -/
def M.drainsToFence (m : M) (i : Nat) : M :=
  (m.modCore i fun c => { c with disabling := some .fence, fetch := none, wait := none }).discardStaged i

section
variable {m : M} {i : Nat}

theorem M.core_drainsToFence : (m.drainsToFence i).core i =
    { m.core i with disabling := some .fence, fetch := none, wait := none, outrider := Outrider.idle } := by
  rw [M.drainsToFence, M.discardStaged, M.core_modCore_same, M.core_modCore_same]

theorem M.disable_fence (hidle : (m.core i).disabling = none) : m.disable i .fence = (m.drainsToFence i).afterDrain i := by
  unfold M.disable
  rw [M.modCore_congr m i _ (fun c => { c with disabling := some .fence, fetch := none, wait := none }) (by rw [hidle]; rfl)]
  rfl

/-- A core with a manifest in its slots drains first. -/
theorem M.disable_fence_busy (hidle : (m.core i).disabling = none) (hbusy : (m.core i).run ≠ none ∨ (m.core i).ready ≠ none) :
    m.disable i .fence = m.drainsToFence i := by
  rw [M.disable_fence hidle, M.afterDrain, if_pos]
  rw [M.core_drainsToFence]
  simpa [Option.isSome_iff_ne_none] using hbusy

/-- A core with empty slots and idle chains is fenced at once. -/
theorem M.disable_fence_idle (hidle : (m.core i).disabling = none) (hrun : (m.core i).run = none) (hready : (m.core i).ready = none)
    (hactive : (m.core i).active = 0) (hpark : ∀ x, x < 16 → (m.ctx i x).parkedRun = none) :
    m.disable i .fence = (m.drainsToFence i).fenceDone i := by
  have hchains : (m.drainsToFence i).endIdleChains i = m.drainsToFence i := by
    refine M.endIdleChains_eq_self _ _ (by rw [M.core_drainsToFence]; exact hactive) fun x hx => ?_
    rw [M.ctx, M.core_drainsToFence]
    exact hpark x hx
  rw [M.disable_fence hidle, M.afterDrain, M.core_drainsToFence, hchains]
  simp [hrun, hready]

theorem M.fenceDone_lit {cause : Nat} (hcause : m.objFld 0x7001 (i + 1) 15 8 = cause) (hlit : m.domState i ≠ 4) (hi : i < 255) :
    m.fenceDone i = ((((m.setObjBit 0x7001 (i + 1) 0 true).setObjFld 0x3100 (i + 1) 7 4 2).clearCore i).logFault
      0x7001 i cause 0 clkMgmt).judgeBarriers := by
  have hdom : (m.setObjBit 0x7001 (i + 1) 0 true).domState i ≠ 4 := by
    unfold M.domState M.objFld
    rw [M.obj_setObjBit_ne _ _ _ _ _ _ _ (by omega) (by omega) (by simp)]
    exact hlit
  unfold M.fenceDone
  dsimp only
  rw [if_neg hdom, hcause]

theorem M.writeFence_fused (hfused : m.fusedOff i = true) (c : Nat) : m.writeFence i c = (7, m) := if_pos hfused

section
variable (hthere : m.fusedOff i = false)
include hthere

theorem M.writeFence_fence : m.writeFence i 2 =
    (0, if m.fenced i || (m.core i).disabling = some .fence then m else m.fence i 1) := by
  unfold M.writeFence
  rw [if_neg (by simp [hthere])]
  rfl

theorem M.writeFence_unfence : m.writeFence i 4 = if m.mayUnfence i then (0, m.unfence i) else (7, m) := by
  unfold M.writeFence
  rw [if_neg (by simp [hthere])]
  rfl

theorem M.writeFence_again (hfenced : m.fenced i = true) : m.writeFence i 2 = (0, m) := by
  simp [M.writeFence_fence hthere, hfenced]

theorem M.writeFence_begins (hfree : m.fenced i = false) (hidle : (m.core i).disabling = none) :
    m.writeFence i 2 = (0, (m.setObjFld 0x7001 (i + 1) 15 8 1).disable i .fence) := by
  simp [M.writeFence_fence hthere, M.fence, hthere, hfree, hidle]

end

theorem M.mayUnfence_free (hfree : m.fenced i = false) : m.mayUnfence i = false := by simp [M.mayUnfence, hfree]

theorem M.mayUnfence_dark (hcause : m.objFld 0x7001 (i + 1) 15 8 = 3 ∨ m.objFld 0x7001 (i + 1) 15 8 = 4) : m.mayUnfence i = false := by
  rcases hcause with h | h <;> simp [M.mayUnfence, h]

theorem M.mayUnfence_mended (hfenced : m.fenced i = true) (hcause : m.objFld 0x7001 (i + 1) 15 8 = 1 ∨
    (m.objFld 0x7001 (i + 1) 15 8 = 2 ∧ i ∉ m.dev.faults.trunkBad)) : m.mayUnfence i = true := by
  rcases hcause with h | ⟨h, htrunk⟩
  · simp [M.mayUnfence, hfenced, h]
  · simp [M.mayUnfence, hfenced, h, htrunk]

/-! ## Domains -/

section
variable {d : Nat}

theorem M.domRequest_held (hst : m.domState d = 1 ∨ m.domState d = 3) (off : Bool) :
    m.domRequest d off = m.modPower fun q => { q with heldReq := Tab.put q.heldReq d off.toNat } := by
  rcases hst with h | h <;> simp [M.domRequest, h]

theorem M.domRequest_on (hst : m.domState d = 2) (hfree : 24 ≤ d ∨ m.fenced d = false) : m.domRequest d false = m.setDom d 3 := by
  have : ¬ (d < 24 ∧ m.fenced d = true) := by rintro ⟨h, hf⟩; rcases hfree with k | k <;> [omega; simp [k] at hf]
  simp [M.domRequest, hst, M.domBegin, this]

theorem M.domRequest_stays (hst : m.domState d = 0) : m.domRequest d false = m := by
  simp [M.domRequest, hst]

theorem M.domRequest_off (hst : m.domState d = 0) (hfree : 24 ≤ d ∨ m.fenced d = false) : m.domRequest d true = m.domBegin d false := by
  have : ¬ (d < 24 ∧ m.fenced d = true) := by rintro ⟨h, hf⟩; rcases hfree with k | k <;> [omega; simp [k] at hf]
  simp [M.domRequest, hst, this]

theorem M.domBegin_core (hd : d < 24) : m.domBegin d false = ((m.setDom d 1).disable d .switchOff).judgeBarriers := by
  simp [M.domBegin, hd]

theorem M.domBegin_links (hd : 30 ≤ d ∧ d < 34) :
    m.domBegin d false = (quadLinks (d - 30)).foldl (fun (m : M) l => m.linkDrain l) (m.setDom d 1) := by
  have : ¬ d < 24 := by omega
  simp [M.domBegin, hd, this]

theorem M.domBegin_plain (hd : 24 ≤ d) (hplain : d < 30 ∨ d = 34 ∨ d = 35 ∨ d = 37) : m.domBegin d false = m.setDom d 1 := by
  have h1 : ¬ d < 24 := by omega
  have h2 : ¬ (30 ≤ d ∧ d < 34) := by omega
  have h3 : d ≠ 36 := by omega
  simp [M.domBegin, h1, h2, h3]

/-- The security block's session ends with its power. -/
theorem M.domBegin_security (hd : d = 36) : m.domBegin d false = (m.setDom d 1).cancelSession := by subst hd; rfl

variable {p : Party} {put : M}

theorem M.writeDomain_dark (hst : m.domState d = 4 ∨ m.domState d = 5) (c : Nat) : m.writeDomain put p d c = (7, m) := by
  rcases hst with h | h <;> simp [M.writeDomain, h, rnState]

theorem M.writeDomain_mailbox (hd : d = 34) : m.writeDomain put .mailbox d 1 = (7, m) := by
  subst hd
  simp [M.writeDomain, rnState]

theorem M.writeDomain_fenced (hlit : m.domState d ≠ 4 ∧ m.domState d ≠ 5) (hd : d < 24) (hfenced : m.fenced d = true) :
    m.writeDomain put p d 0 = (7, m) ∧ m.writeDomain put p d 1 = (0, m) := by
  have : d ≠ 34 := by omega
  simp [M.writeDomain, hlit, hd, hfenced, this, rnState]

section
variable (hlit : m.domState d ≠ 4 ∧ m.domState d ≠ 5) (hfree : 24 ≤ d ∨ m.fenced d = false)
include hlit hfree

theorem M.writeDomain_on : m.writeDomain put p d 0 = (0, put.domRequest d false) := by
  have : ¬ (d < 24 ∧ m.fenced d = true) := by rintro ⟨h, hf⟩; rcases hfree with k | k <;> [omega; simp [k] at hf]
  simp [M.writeDomain, hlit, this]

theorem M.writeDomain_off (hport : ¬ (d = 34 ∧ p = .mailbox)) : m.writeDomain put p d 1 = (0, put.domRequest d true) := by
  have : ¬ (d < 24 ∧ m.fenced d = true) := by rintro ⟨h, hf⟩; rcases hfree with k | k <;> [omega; simp [k] at hf]
  simp [M.writeDomain, hlit, this, hport]

end

/-! ### The end of a transition -/

theorem M.domDone_off (hheld : Tab.find? m.dev.power.heldReq d = none) (hst : m.domState d = 1) : m.domDone d = m.domOff d := by
  rw [M.domDone_eq m d hheld, if_pos hst]

theorem M.domDone_on (hheld : Tab.find? m.dev.power.heldReq d = none) (hst : m.domState d = 3) : m.domDone d = m.domNowOn d := by
  rw [M.domDone_eq m d hheld, if_neg (by omega), if_pos hst]

theorem M.domOff_core (hd : d < 24) (hrun : (m.core d).run = none) (hready : (m.core d).ready = none) :
    m.domOff d = ((m.clearCore d).setDom d 2).judgeBarriers := by
  simp [M.domOff, hd, hrun, hready]

theorem M.domOff_busy (hd : d < 24) (hrun : (m.core d).run ≠ none) : m.domOff d = m := by
  simp [M.domOff, hd, hrun]

theorem M.domOff_tier (hd : 24 ≤ d ∧ d < 30) : m.domOff d =
    ((tierLqs (d - 24)).foldl (fun (m : M) n => (m.serveAll n).clearLq n) (m.stopTouching (d - 24))).setDom d 2 := by
  unfold M.domOff
  rw [if_neg (by omega), if_pos hd.2]

theorem M.domOff_links (hd : 30 ≤ d ∧ d < 34) :
    m.domOff d = ((quadLinks (d - 30)).foldl (fun (m : M) l => m.linkOff l) m).setDom d 2 := by
  unfold M.domOff
  rw [if_neg (by omega), if_neg (by omega), if_pos hd.2]

theorem M.domOff_port (hd : d = 34) : m.domOff d = (m.setDom d 2).pcieStop := by subst hd; rfl

theorem M.domOff_plain (hd : 35 ≤ d) : m.domOff d = m.setDom d 2 := by
  unfold M.domOff
  rw [if_neg (by omega), if_neg (by omega), if_neg (by omega), if_neg (by omega)]

theorem M.domNowOn_core (hd : d < 24) : m.domNowOn d = (((m.setDom d 0).clearCore d).clearCis d).judgeBarriers := if_pos hd

theorem M.domNowOn_links (hd : 30 ≤ d ∧ d < 34) :
    m.domNowOn d = (quadLinks (d - 30)).foldl (fun (m : M) l => m.linkWake l) (m.setDom d 0) := by
  unfold M.domNowOn
  dsimp only
  rw [if_neg (by omega), if_pos (by simp [hd])]

theorem M.domNowOn_port (hd : d = 34) : m.domNowOn d = (m.setDom d 0).pcieStart := by subst hd; rfl

theorem M.domNowOn_plain (hd : (24 ≤ d ∧ d < 30) ∨ 35 ≤ d) : m.domNowOn d = m.setDom d 0 := by
  unfold M.domNowOn
  dsimp only
  rw [if_neg (by omega), if_neg (by simp; omega), if_neg (by omega)]

end
end

/-! ## A domain's word with a request stored -/

theorem domainSpec_takes : ∀ c : Fin 2, domainSpec.Takes c.val := by decide

theorem fld_domainWord : ∀ (st : Fin 16) (c : Fin 2), fld (16 * st.val + c.val) 7 4 = st := by decide

section
variable (m : M) (d : Fin 38)

theorem M.domState_requested (c : Fin 2) : (m.setObj 0x3100 (d.val + 1) (16 * m.domState d + c.val)).domState d = m.domState d := by
  have hlt : m.domState d < 16 := fld_lt _ 7 4
  rw [M.domState, M.objFld, M.obj_setObj_same]
  exact fld_domainWord ⟨_, hlt⟩ c

theorem M.fenced_requested {d : Nat} (hd : d < 255) (v : Nat) : (m.setObj 0x3100 (d + 1) v).fenced d = m.fenced d := by
  unfold M.fenced M.objBit
  rw [M.obj_setObj_ne _ _ _ _ _ _ (by omega) (by omega) (by simp)]

theorem M.applyField_domain (p : Party) (c : Fin 2) : m.applyField p 0x3100 (d.val + 1) domainSpec c.val =
    m.writeDomain (m.setObj 0x3100 (d.val + 1) (16 * m.domState d + c.val)) p d c.val := by
  refine Eq.trans ?_ (congrArg (fun w => m.writeDomain (m.setObj 0x3100 (d.val + 1) w) p d c.val) (M.store_domain m d c))
  rfl

end

/-- The fence is cleared and logged, and the core's domain turns on. -/
theorem M.unfence_off {m : M} {i : Nat} (hi : i < 24) (hoff : m.domState i = 2) : m.unfence i =
    (((m.setObjFld 0x7001 (i + 1) 15 8 0).setObjBit 0x7001 (i + 1) 0 false).logFault 0x7002 i 0 0 clkMgmt).setObjFld
      0x3100 (i + 1) 7 4 3 := by
  refine M.domRequest_on ?_ (.inr ?_)
  · unfold M.domState M.objFld
    rw [M.obj_logFault _ _ _ _ _ _ _ _ (by decide) (by omega), M.obj_setObjBit_ne _ _ _ _ _ _ _ (by omega) (by omega) (by simp),
      M.obj_setObjFld_ne _ _ _ _ _ _ _ _ (by omega) (by omega) (by simp)]
    exact hoff
  · unfold M.fenced M.objBit
    rw [M.obj_logFault _ _ _ _ _ _ _ _ (by decide) (by omega), ← M.objBit, M.objBit_setObjBit, if_pos rfl]

/-- Settles O57: a busy core is left DISABLING, an idle one fenced within the write; a domain's request is stored with its STATE as it
was, and judged on that. -/
theorem fencesAndDomainsSwitch : Obligations.FencesAndDomainsSwitch := by
  refine ⟨fun p i s hserves => ?fences, fun p d s hserves => ?requests, fun d s hlive hheld => ?ends⟩
  case fences =>
    obtain ⟨hhears, hserved, howner⟩ := hserves
    have hi := i.isLt
    have hrejects := fun (c : Fin 8) (hc : fenceSpec.Takes c.val) {x : Instr}
        (e : exec x s = s.run fun m => m.partyWrite p 0x7001 (i.val + 1) c.val) (h : (M.of s).writeFence i c.val = (7, M.of s)) =>
      rejects_taken e hhears hserved (fun _ => howner) (objSpec_fence i) rfl hc (by decide : 7 ≠ 0) h
    have happlies := fun (c : Fin 8) (hc : fenceSpec.Takes c.val) {x : Instr}
        (e : exec x s = s.run fun m => m.partyWrite p 0x7001 (i.val + 1) c.val) {g : M → M} (h : (M.of s).writeFence i c.val = (0, g (M.of s))) =>
      applies_taken (g := g) e hhears hserved (fun _ => howner) (objSpec_fence i) rfl hc h
    have htwo : fenceSpec.Takes (2 : Fin 8).val := by decide
    have hfour : fenceSpec.Takes (4 : Fin 8).val := by decide
    intro parked
    refine ⟨fun hfused => ⟨hrejects 2 htwo (exec_fence p i s) (M.writeFence_fused hfused 2),
      hrejects 4 hfour (exec_unfence p i s) (M.writeFence_fused hfused 4)⟩, fun hthere => ⟨fun hfenced => ?again, fun hfree => ?free,
        fun hfree hidle hbusy => ?busy, fun hfree hidle hrun hready hactive hpark hlit => ?idle, fun hfenced => ⟨fun hcause => ?dark,
          fun hcause hoff => ?ended⟩⟩⟩
    case again => exact happlies 2 htwo (exec_fence p i s) (g := id) (M.writeFence_again hthere hfenced)
    case free =>
      exact hrejects 4 hfour (exec_unfence p i s) ((M.writeFence_unfence hthere).trans (by rw [M.mayUnfence_free hfree]; rfl))
    case busy =>
      exact happlies 2 htwo (exec_fence p i s) ((M.writeFence_begins hthere hfree hidle).trans
        (congrArg (Prod.mk 0) (M.disable_fence_busy (m := (M.of s).setObjFld 0x7001 (i.val + 1) 15 8 1) hidle hbusy)))
    case idle =>
      refine happlies 2 htwo (exec_fence p i s) ((M.writeFence_begins hthere hfree hidle).trans (congrArg (Prod.mk 0) ?_))
      refine (M.disable_fence_idle (m := (M.of s).setObjFld 0x7001 (i.val + 1) 15 8 1) hidle hrun hready hactive hpark).trans
        (M.fenceDone_lit ?_ ?_ (by omega))
      · exact M.objFld_setObjFld_same _ _ _ _ _ _
      · have : ((M.of s).setObjFld 0x7001 (i.val + 1) 15 8 1).domState i = (M.of s).domState i :=
          M.objFld_setObjFld_ne (by omega) (by omega) (by simp)
        exact this.trans_ne hlit
    case dark =>
      exact hrejects 4 hfour (exec_unfence p i s) ((M.writeFence_unfence hthere).trans (by rw [M.mayUnfence_dark hcause]; rfl))
    case ended =>
      exact happlies 4 hfour (exec_unfence p i s) ((M.writeFence_unfence hthere).trans
        (by rw [M.mayUnfence_mended hfenced hcause, M.unfence_off hi hoff]; rfl))
  case requests =>
    obtain ⟨hhears, hserved, howner⟩ := hserves
    have hd := d.isLt
    intro st put state free
    have hrejects := fun (c : Fin 2) {x : Instr} (e : exec x s = s.run fun m => m.partyWrite p 0x3100 (d.val + 1) c.val)
        (h : ∀ put : M, (M.of s).writeDomain put p d c.val = (7, M.of s)) =>
      rejects_taken e hhears hserved (fun _ => howner) (objSpec_domain d) rfl (domainSpec_takes c) (by decide : 7 ≠ 0)
        (((M.of s).applyField_domain d p c).trans (h _))
    have happlies := fun (c : Fin 2) {x : Instr} (e : exec x s = s.run fun m => m.partyWrite p 0x3100 (d.val + 1) c.val) {g : M → M}
        (h : (M.of s).writeDomain (put c.val (M.of s)) p d c.val = (0, g (M.of s))) =>
      applies_taken (g := g) e hhears hserved (fun _ => howner) (objSpec_domain d) rfl (domainSpec_takes c)
        (((M.of s).applyField_domain d p c).trans h)
    have hst : ∀ c : Fin 2, (put c.val (M.of s)).domState d = st := fun c => (M.of s).domState_requested d c
    have hfree : ∀ c : Nat, free → 24 ≤ d.val ∨ (put c (M.of s)).fenced d = false := fun c h =>
      h.imp_right fun h => ((M.of s).fenced_requested (by omega) _).trans h
    refine ⟨fun hdark => ?dark, fun hon hp hport => ?mailbox, fun h4 h5 hcore hfenced => ?fenced, fun hoff hf => ?turnsOn, fun hon hf => ?stays,
      fun hmoving hf hport => ?held, fun hon hport => ?turnsOff⟩
    case dark =>
      exact ⟨hrejects 0 (exec_domainOn p d s) fun _ => M.writeDomain_dark hdark 0,
        hrejects 1 (exec_domainOff p d s) fun _ => M.writeDomain_dark hdark 1⟩
    case mailbox =>
      refine hrejects 1 (exec_domainOff p d s) fun _ => ?_
      rw [hp]
      exact M.writeDomain_mailbox hport
    case fenced =>
      exact ⟨hrejects 0 (exec_domainOn p d s) fun _ => (M.writeDomain_fenced ⟨h4, h5⟩ hcore hfenced).1,
        happlies 1 (exec_domainOff p d s) (g := id) (M.writeDomain_fenced ⟨h4, h5⟩ hcore hfenced).2⟩
    case turnsOn =>
      have hlit : (M.of s).domState d ≠ 4 ∧ (M.of s).domState d ≠ 5 := ⟨by omega, by omega⟩
      exact happlies 0 (exec_domainOn p d s) ((M.writeDomain_on hlit hf).trans
        (congrArg (Prod.mk 0) (M.domRequest_on ((hst 0).trans hoff) (hfree 0 hf))))
    case stays =>
      have hlit : (M.of s).domState d ≠ 4 ∧ (M.of s).domState d ≠ 5 := ⟨by omega, by omega⟩
      exact happlies 0 (exec_domainOn p d s) ((M.writeDomain_on hlit hf).trans
        (congrArg (Prod.mk 0) (M.domRequest_stays ((hst 0).trans hon))))
    case held =>
      have hlit : (M.of s).domState d ≠ 4 ∧ (M.of s).domState d ≠ 5 := ⟨by omega, by omega⟩
      have hmoves := fun c : Fin 2 => M.domRequest_held (m := put c.val (M.of s)) (d := d) (by rw [hst c]; exact hmoving)
      exact ⟨happlies 0 (exec_domainOn p d s) ((M.writeDomain_on hlit hf).trans (congrArg (Prod.mk 0) (hmoves 0 false))),
        happlies 1 (exec_domainOff p d s) ((M.writeDomain_off hlit hf hport).trans (congrArg (Prod.mk 0) (hmoves 1 true)))⟩
    case turnsOff =>
      have hlit : (M.of s).domState d ≠ 4 ∧ (M.of s).domState d ≠ 5 := ⟨by omega, by omega⟩
      have hbegins := fun (hf : free) {r : M} (h : (put 1 (M.of s)).domBegin d false = r) =>
        (M.writeDomain_off (put := put 1 (M.of s)) hlit hf hport).trans
          (congrArg (Prod.mk 0) ((M.domRequest_off ((hst 1).trans hon) (hfree 1 hf)).trans h))
      refine ⟨fun hcore hfree' => ?_, fun hlow hplain => ?_, fun hlow hhigh => ?_, fun h36 => ?_⟩
      · exact happlies 1 (exec_domainOff p d s) (hbegins (.inr hfree') (M.domBegin_core hcore))
      · exact happlies 1 (exec_domainOff p d s) (hbegins (.inl hlow) (M.domBegin_plain hlow hplain))
      · exact happlies 1 (exec_domainOff p d s) (hbegins (.inl (by omega)) (M.domBegin_links ⟨hlow, hhigh⟩))
      · exact happlies 1 (exec_domainOff p d s) (hbegins (.inl (by omega)) (M.domBegin_security h36))
  case ends =>
    have hdoes : ∀ {g : M → M}, (M.of s).domDone d = g (M.of s) → Does (.domainTransitionDone d) s g := fun h =>
      does_of (exec_domainTransitionDone d s) (by rw [hlive]; exact h)
    intro state links
    refine ⟨fun hst => ?off, fun hst => ?on⟩
    case off =>
      have hoff := M.domDone_off hheld hst
      exact ⟨fun hd hrun hready => hdoes (hoff.trans (M.domOff_core hd hrun hready)),
        fun hd hrun => hdoes (hoff.trans (M.domOff_busy hd hrun)), fun hlow hhigh => hdoes (hoff.trans (M.domOff_tier ⟨hlow, hhigh⟩)),
        fun hlow hhigh => hdoes (hoff.trans (M.domOff_links ⟨hlow, hhigh⟩)), fun hd => hdoes (hoff.trans (M.domOff_port hd)),
        fun hd => hdoes (hoff.trans (M.domOff_plain hd))⟩
    case on =>
      have hon := M.domDone_on hheld hst
      exact ⟨fun hd => hdoes (hon.trans (M.domNowOn_core hd)), fun hlow hhigh => hdoes (hon.trans (M.domNowOn_links ⟨hlow, hhigh⟩)),
        fun hd => hdoes (hon.trans (M.domNowOn_port hd)), fun hd => hdoes (hon.trans (M.domNowOn_plain hd))⟩

end Sys2Proof.Machine
end

section
/-! Power (17_power.md R382 to R387, R393, R395, R397 to R400, R404): the capping controller, feeds, the alert wire, regulator
clusters, the Toll meter. -/

namespace Sys2Proof.Machine

/-! ## What each command runs -/

section
variable (s : State)

theorem exec_capPeriod (power next : BitVec 16) :
    exec (.capPeriod power next) s = s.run fun m => m.when m.live fun m => m.capPeriod power.toNat next.toNat := rfl

theorem exec_pstateChangeDone (unit : Fin 30) :
    exec (.pstateChangeDone unit) s = s.run fun m => m.when (m.live && m.pllRuns (unit.val + 1)) fun m => m.pstateDone unit := rfl

theorem exec_feedOutOfRange (feed : Fin 2) :
    exec (.feedOutOfRange feed) s = s.run fun m => m.when m.dev.powered fun m => m.feedLost feed := rfl

theorem exec_feedRestore (feed : Fin 2) :
    exec (.feedRestore feed) s = s.run fun m => m.when (m.dev.powered && !m.feedOk feed) fun m => m.feedChange feed true := rfl

theorem exec_holdUpExpiry :
    exec .holdUpExpiry s = s.run fun m => m.when (m.dev.powered && !m.feedOk 0 && !m.feedOk 1) fun m =>
      { m with dev := { m.dev with powered := false } } := rfl

theorem exec_pwrAlertAssert (causes : BitVec 5) :
    exec (.pwrAlertAssert causes) s = s.run fun m => m.when m.watchRuns fun m => m.alertAssert causes.toNat := rfl

theorem exec_pwrAlertRelease :
    exec .pwrAlertRelease s = s.run fun m => m.when (m.watchRuns && m.dev.power.alertLow) fun m =>
      (((m.setObjBit 0x3010 1 2 false).modPower fun p => { p with alertLow := false, alertHold := true }).modMgmt fun g =>
        { g with powerAsked := false }).settle := rfl

theorem exec_pwrAlertLong :
    exec .pwrAlertLong s = s.run fun m => m.when (m.watchRuns && m.dev.power.alertLow) fun m =>
      (m.modMgmt fun g => { g with powerAsked := true }).askFailsafe := rfl

theorem exec_floorHoldEnd :
    exec .floorHoldEnd s = s.run fun m => m.when (m.watchRuns && m.dev.power.alertHold) fun m =>
      (m.modPower fun p => { p with alertHold := false }).settle := rfl

theorem exec_phaseFault (pos : Fin 31) (k : Fin 70) :
    exec (.phaseFault pos k) s = s.run fun m => m.when m.live fun m => m.regulatorFail pos k := rfl

theorem exec_currentLimitTrip (pos : Fin 31) (k : Fin 70) (phase : Fin 9) :
    exec (.currentLimitTrip pos k phase) s = s.run fun m => m.when (m.live && k.val < clusterCount pos) fun m =>
      let r := m.bucketEvent 6 ((256 * pos.val + k.val) * 16 + phase.val)
      if r.1 then r.2.regulatorFail pos k else r.2 := rfl

theorem exec_senseEvent (pos : Fin 31) (k : Fin 70) :
    exec (.senseEvent pos k) s = s.run fun m => m.when (m.live && k.val < clusterCount pos) fun m =>
      let r := (m.satObj (0x3200 + pos.val) (k.val + 1) 31 16 1).bucketEvent 5 (256 * pos.val + k.val)
      if r.1 then r.2.regulatorFail pos k else r.2 := rfl

theorem exec_tollIntegrate (es : List W64) (un : W64) :
    exec (.tollIntegrate es un) s = s.run fun m => m.when m.live fun m => m.toll (es.map (·.toNat)) un.toNat := rfl

end

/-! ## Capping -/

/-- The period's power among the last twenty, with their mean, and the applied cap, as the objects show them. -/
def M.showPower (m : M) (power : Nat) : M :=
  let ps := (power :: m.dev.power.powers).take 20
  ((m.modPower fun p => { p with powers := ps }).setObj 0x3020 3 (ps.sum / ps.length)).setObj 0x3020 2 m.appliedCap

/-- The controller's state at the end of a period that chose `r`: nothing runs faster than the fastest permitted. -/
def M.bounded (r : M × Bool) : M :=
  let m := (r.1.setCommon (max r.1.common r.1.fastest)).modPower fun p => { p with tierCommon := max p.tierCommon r.1.fastest }
  (m.setObjFld 0x3020 4 7 4 (m.limiter r.2)).settle

/-- What a period at or below the cap chooses. -/
def M.underCap (m : M) (fits : Prop) [Decidable fits] : M :=
  let m := m.modPower fun p => { p with overPeriods := 0, lowering := false, okPeriods := min 1800 (p.okPeriods + 1) }
  if fits then m.faster else m

section
variable {m : M} {power next : Nat}

theorem M.aside_showPower : M.Aside m (m.showPower power) :=
  ((m.aside_modPower _).trans (M.aside_setObj _ _ _ _)).trans (M.aside_setObj _ _ _ _)

theorem M.obj_showPower {i j : Nat} (hj : j < 256) (hcap : (i, j) ≠ (0x3020, 2)) (hmean : (i, j) ≠ (0x3020, 3)) :
    (m.showPower power).obj i j = m.obj i j :=
  (M.obj_setObj_ne _ _ _ _ _ _ hj (by decide) hcap).trans (M.obj_setObj_ne _ _ _ _ _ _ hj (by decide) hmean)

theorem M.appliedCap_showPower : (m.showPower power).appliedCap = m.appliedCap := by
  unfold M.appliedCap M.objFld
  rw [M.obj_showPower (by decide) (by decide) (by decide), M.obj_showPower (by decide) (by decide) (by decide),
    M.obj_showPower (by decide) (by decide) (by decide)]

theorem M.fastest_showPower : (m.showPower power).fastest = m.fastest := by
  unfold M.fastest M.pinned M.objBit M.objFld
  rw [M.obj_showPower (by decide) (by decide) (by decide), M.obj_showPower (by decide) (by decide) (by decide)]

theorem M.common_showPower : (m.showPower power).common = m.common := by
  unfold M.common M.objFld
  rw [M.obj_showPower (by decide) (by decide) (by decide)]

theorem M.noExcursion_showPower : (m.showPower power).noExcursion = m.noExcursion := by
  unfold M.noExcursion M.pinned M.objBit M.objFld
  rw [M.appliedCap_showPower, M.obj_showPower (by decide) (by decide) (by decide), M.obj_showPower (by decide) (by decide) (by decide)]

theorem M.shownCap : (m.showPower power).obj 0x3020 2 = m.appliedCap := M.obj_setObj_same _ _ _ _

theorem M.shownMean : (m.showPower power).obj 0x3020 3 =
    (let ps := (power :: m.dev.power.powers).take 20; ps.sum / ps.length) :=
  (M.obj_setObj_ne _ _ _ _ _ _ (by decide) (by decide) (by decide)).trans (M.obj_setObj_same _ _ _ _)

theorem M.capPeriod_floor (hfloor : m.floorHeld = true) : m.capPeriod power next = m.showPower power := by
  rw [M.capPeriod_eq]
  exact if_pos hfloor

theorem M.capPeriod_over (hfree : m.floorHeld = false) (hover : m.appliedCap < power) :
    m.capPeriod power next = M.bounded ((m.showPower power).overCap power) := by
  rw [M.capPeriod_eq]
  refine (if_neg (Bool.eq_false_iff.mp hfree)).trans (congrArg M.bounded ?_)
  exact if_pos ((M.appliedCap_showPower (m := m)).symm ▸ hover)

theorem M.capPeriod_under (hfree : m.floorHeld = false) (hunder : power ≤ m.appliedCap) :
    m.capPeriod power next =
      M.bounded ((m.showPower power).underCap (100 * next ≤ 97 * (m.showPower power).appliedCap), false) := by
  rw [M.capPeriod_eq]
  refine (if_neg (Bool.eq_false_iff.mp hfree)).trans (congrArg M.bounded ?_)
  exact if_neg (not_lt.mpr ((M.appliedCap_showPower (m := m)).symm ▸ hunder))

end

/-! ### The end of a period -/

section
variable {a : M} {r : M × Bool} (h : CapStep a r.1)
include h

theorem M.aside_bounded : M.Aside a (M.bounded r) :=
  ((h.aside.trans (M.aside_setObj _ _ _ _)).trans (M.aside_modPower _ _)).trans
    ((M.aside_setObj _ _ _ _).trans (M.objsOnly_settle _).aside)

theorem M.common_bounded : (M.bounded r).objFld 0x3020 4 3 0 = max r.1.common a.fastest := by
  have hcommon := r.1.common_lt
  have hfastest := a.fastest_lt
  unfold M.bounded
  dsimp only
  rw [M.common_settle, M.objFld, M.obj_setObjFld_same, fld_setFld_below _ _ _ _ _ _ (by decide) (by decide), h.fastest]
  exact M.common_setCommon _ _ (by omega)

theorem M.obj_bounded {i j : Nat} (hj : j < 256) (hi : i ∉ settled ∨ (i = 0x3020 ∧ j ≠ 4)) : (M.bounded r).obj i j = a.obj i j := by
  have hne : (i, j) ≠ (0x3020, 4) := by
    rintro ⟨⟩
    rcases hi with h | h
    · exact h (by decide)
    · exact h.2 rfl
  have hsettle : ∀ m : M, m.settle.obj i j = m.obj i j := by
    intro m
    rcases hi with h | ⟨rfl, h⟩
    · exact m.obj_settle _ _ hj h
    · exact m.obj_settle_limits _ hj h
  unfold M.bounded
  dsimp only
  rw [hsettle, M.obj_setObjFld_ne _ _ _ _ _ _ _ _ hj (by decide) hne, M.obj_modPower, M.setCommon,
    M.obj_setObjFld_ne _ _ _ _ _ _ _ _ hj (by decide) hne]
  exact h.obj i j hj hne

end

theorem M.ObjsOnly.power {a b : M} (h : M.ObjsOnly a b) : b.dev.power = a.dev.power := by
  obtain ⟨_, _, _, _, hdev⟩ := h
  rw [hdev]

theorem M.overPeriods_bounded (r : M × Bool) : (M.bounded r).dev.power.overPeriods = r.1.dev.power.overPeriods := by
  unfold M.bounded
  dsimp only
  rw [(M.objsOnly_settle _).power]
  rfl

/-! ### What a period chooses -/

section
variable {a : M}

theorem CapStep.underCap (a : M) (fits : Prop) [Decidable fits] : CapStep a (a.underCap fits) := by
  unfold M.underCap
  dsimp only
  split
  · exact (CapStep.modPower _ _).trans (CapStep.faster _)
  · exact CapStep.modPower _ _

theorem M.common_faster : a.faster.common = if a.fastest < a.common then a.common - 1 else a.common := by
  unfold M.faster
  dsimp only
  rw [M.common_modPower]
  split
  · exact M.common_setCommon _ _ (by have := a.common_lt; omega)
  · rfl

theorem M.common_slower : a.slower.common = min 7 (a.common + 1) := by
  unfold M.slower
  rw [M.common_modPower]
  exact M.common_setCommon _ _ (by omega)

/-- Where the next state fits, the state is raised; the fastest permitted bounds it. -/
theorem M.common_underCap_fits {fits : Prop} [Decidable fits] (h : fits) :
    max (a.underCap fits).common a.fastest = max a.fastest (a.common - 1) := by
  have hf : (a.modPower fun p => { p with overPeriods := 0, lowering := false, okPeriods := min 1800 (p.okPeriods + 1) }).fastest =
      a.fastest := (CapStep.modPower a _).fastest
  unfold M.underCap
  rw [if_pos h, M.common_faster, hf, M.common_modPower]
  split <;> omega

theorem M.common_underCap_not {fits : Prop} [Decidable fits] (h : ¬ fits) : (a.underCap fits).common = a.common := by
  unfold M.underCap
  rw [if_neg h]
  rfl

variable {power : Nat}

theorem M.common_overCap (hno : a.noExcursion = true) : (a.overCap power).1.common = min 7 (a.common + 1) := by
  unfold M.overCap
  dsimp only
  rw [hno, if_neg (by simp), M.common_slower]
  rfl

/-- An excursion begins. -/
theorem M.overCap_begins (hmay : a.noExcursion = false) (hlow : a.dev.power.lowering = false) (hnew : a.dev.power.overPeriods = 0)
    (hok : 1800 ≤ a.dev.power.okPeriods) (hpower : power ≤ 7200) :
    (a.overCap power).1.common = a.common ∧ (a.overCap power).1.dev.power.overPeriods = 1 := by
  unfold M.overCap
  dsimp only
  rw [if_pos (by simp [hmay, hlow, hnew, hok, hpower])]
  refine ⟨rfl, ?_⟩
  simp [M.modPower, hmay, hlow, hnew, hok]

end

/-- A period of the capping controller with no floor in force. -/
theorem capPeriod_ends {s : State} {power next : BitVec 16} {r : M × Bool} {P : M → Prop} (hlive : (M.of s).live = true)
    (hr : (M.of s).capPeriod power.toNat next.toNat = M.bounded r) (h : CapStep ((M.of s).showPower power.toNat) r.1)
    (hP : ∀ m : M, m.obj 0x3020 2 = (M.of s).appliedCap →
      (let ps := (power.toNat :: (M.of s).dev.power.powers).take 20; m.obj 0x3020 3 = ps.sum / ps.length) →
      m.objFld 0x3020 4 3 0 = max r.1.common (M.of s).fastest → m.dev.power.overPeriods = r.1.dev.power.overPeriods →
      (M.of s).SameWork m → (M.of s).SameIndices m settled → P m) : Ends (.capPeriod power next) s P := by
  have haside := M.aside_showPower.trans (M.aside_bounded h)
  refine ends_quiet (r := M.bounded r) (exec_capPeriod s power next) (by rw [hlive]; exact hr) haside.fuse haside.ops
    fun m' hlike hmem => hP m' ?_ ?_ ?_ ?_ (haside.sameWork hlike hmem) fun i j hj hi => ?_
  · rw [LikeViews.obj hlike, M.obj_bounded h (by decide) (.inr ⟨rfl, by decide⟩), M.shownCap]
  · rw [LikeViews.obj hlike, M.obj_bounded h (by decide) (.inr ⟨rfl, by decide⟩), M.shownMean]
  · rw [LikeViews.objFld hlike, M.common_bounded h, M.fastest_showPower]
  · rw [hlike.dev, M.overPeriods_bounded]
  · rw [LikeViews.obj hlike, M.obj_bounded h hj (.inl hi)]
    exact M.obj_showPower hj (by rintro ⟨⟩; exact hi (by decide)) (by rintro ⟨⟩; exact hi (by decide))

/-! ## Feeds -/

section
variable {m : M} {f : Nat}

/-- The fault-log entry and the interrupt of a change of a feed. -/
def M.tellFeed (m : M) : M := (m.logFault 0x3001 (m.obj 0x3010 1) 0 0 clkWatch).raise 387

theorem M.feedOk_tellFeed : m.tellFeed.feedOk f = m.feedOk f := by
  unfold M.feedOk M.objBit M.tellFeed
  rw [M.obj_raise, M.obj_logFault _ _ _ _ _ _ _ _ (by decide) (by decide)]

theorem M.feedChange_lost : m.feedChange f false = M.tellFeed
    (if m.feedOk (1 - f) then ((m.setObjBit 0x3010 1 f false).setObjBit 0x3010 1 3 false).satObj 0x3010 1 23 16 1
      else (m.setObjBit 0x3010 1 f false).setObjBit 0x3010 1 3 false) := rfl

theorem M.feedLost_one (hf : f < 2) (hok : m.feedOk f = true) (hother : m.feedOk (1 - f) = true) :
    m.feedLost f = (((m.setObjBit 0x3010 1 f false).setObjBit 0x3010 1 3 false).satObj 0x3010 1 23 16 1).tellFeed := by
  have hleft : (((m.setObjBit 0x3010 1 f false).setObjBit 0x3010 1 3 false).satObj 0x3010 1 23 16 1).tellFeed.feedOk (1 - f) = true := by
    rw [M.feedOk_tellFeed, M.feedOk, M.objBit, M.obj_satObj_same, satFld, testBit_setFld_outside _ _ _ _ _ (by omega) (by decide),
      ← M.objBit, M.objBit_setObjBit, M.objBit_setObjBit, if_neg (by omega), if_neg (by omega)]
    exact hother
  have hsome : (((m.setObjBit 0x3010 1 f false).setObjBit 0x3010 1 3 false).satObj 0x3010 1 23 16 1).tellFeed.feedOk 0 = true ∨
      (((m.setObjBit 0x3010 1 f false).setObjBit 0x3010 1 3 false).satObj 0x3010 1 23 16 1).tellFeed.feedOk 1 = true := by
    interval_cases f
    · exact .inr hleft
    · exact .inl hleft
  have hchange := (M.feedChange_lost (m := m) (f := f)).trans (congrArg M.tellFeed (if_pos hother))
  unfold M.feedLost
  rw [hok, hchange]
  dsimp only
  rw [if_neg (by decide), if_pos (by simpa using hsome)]

theorem M.feedLost_both (hf : f < 2) (hok : m.feedOk f = true) (hother : m.feedOk (1 - f) = false) :
    m.feedLost f = ((((m.setObjBit 0x3010 1 f false).setObjBit 0x3010 1 3 false).tellFeed).modMgmt fun g =>
      { g with powerAsked := true }).askFailsafe := by
  have hgone : ∀ k, k < 2 → ((m.setObjBit 0x3010 1 f false).setObjBit 0x3010 1 3 false).tellFeed.feedOk k = false := by
    intro k hk
    rw [M.feedOk_tellFeed, M.feedOk, M.objBit_setObjBit, M.objBit_setObjBit, if_neg (by omega)]
    split
    · rfl
    · rw [← hother, show 1 - f = k by omega]
      rfl
  have hchange := (M.feedChange_lost (m := m) (f := f)).trans (congrArg M.tellFeed (if_neg (Bool.eq_false_iff.mp hother)))
  unfold M.feedLost
  rw [hok, hchange]
  dsimp only
  rw [if_neg (by decide), hgone 0 (by decide), hgone 1 (by decide)]
  rfl

end

/-! ## The alert wire -/

/-- The converters' causes and their count, and the wire, as an assertion leaves them. -/
def M.alerted (m : M) (causes : Nat) : M :=
  (((m.setObjBit 0x3010 1 2 true).setObjFld 0x3400 1 4 0 (if causes % 32 = 0 then 1 else causes)).satObj 0x3400 1 31 16 1).modPower
    fun p => { p with alertLow := true, alertHold := false }

section
variable (m : M) (causes : Nat)

theorem M.alertAssert_eq (hnew : m.dev.power.alertLow = false) :
    m.alertAssert causes = ((m.alerted causes).toFloor.logFault 0x3002 ((m.alerted causes).obj 0x3400 1) 0 0 clkWatch).raise 387 :=
  if_neg (Bool.eq_false_iff.mp hnew)

theorem M.aside_alerted : M.Aside m (m.alerted causes) := ⟨rfl, rfl, rfl, rfl, rfl, rfl⟩

theorem M.obj_alerted {i j : Nat} (hj : j < 256) (h1 : (i, j) ≠ (0x3010, 1)) (h2 : (i, j) ≠ (0x3400, 1)) :
    (m.alerted causes).obj i j = m.obj i j :=
  ((M.obj_satObj_ne _ _ _ _ _ _ _ _ hj (by decide) h2).trans (M.obj_setObjFld_ne _ _ _ _ _ _ _ _ hj (by decide) h2)).trans
    (M.obj_setObjBit_ne _ _ _ _ _ _ _ hj (by decide) h1)

theorem M.wire_alerted : (m.alerted causes).objBit 0x3010 1 2 = true := by
  unfold M.alerted
  rw [M.objBit_modPower, M.objBit, M.obj_satObj_ne _ _ _ _ _ _ _ _ (by decide) (by decide) (by decide),
    M.obj_setObjFld_ne _ _ _ _ _ _ _ _ (by decide) (by decide) (by decide), ← M.objBit, M.objBit_setObjBit, if_pos rfl]

theorem M.causes_alerted (h : causes < 32) : (m.alerted causes).objFld 0x3400 1 4 0 = if causes = 0 then 1 else causes := by
  unfold M.alerted
  rw [M.objFld_modPower, M.objFld, M.obj_satObj_same, satFld, fld_setFld_below _ _ _ _ _ _ (by decide) (by decide),
    M.obj_setObjFld_same, fld_setFld_same, Nat.mod_eq_of_lt h]
  split
  · rfl
  · exact Nat.mod_eq_of_lt h

theorem M.count_alerted : (m.alerted causes).objFld 0x3400 1 31 16 = min (m.objFld 0x3400 1 31 16 + 1) 0xFFFF := by
  unfold M.alerted
  rw [M.objFld_modPower, M.objFld, M.obj_satObj_same, fld_satFld, M.obj_setObjFld_same,
    fld_setFld_above _ _ _ _ _ _ (by decide) (by decide), M.obj_setObjBit_ne _ _ _ _ _ _ _ (by decide) (by decide) (by decide)]
  rfl

end

theorem M.power_toFloor (m : M) : m.toFloor.dev.power = { m.dev.power with tierCommon := 7, overPeriods := 0, lowering := false } :=
  (M.objsOnly_settle _).power

/-- While a forced floor holds, LIMITER says which. -/
theorem M.limiter_toFloor {m : M} (hfloor : m.floorHeld = true) : m.toFloor.objFld 0x3020 4 7 4 = m.floorLimiter % 16 := by
  have hset : ∀ a : M, M.ObjsOnly ((m.setCommon 7).modPower fun p => { p with tierCommon := 7, overPeriods := 0, lowering := false }) a →
      a.settleLimiter.objFld 0x3020 4 7 4 = m.floorLimiter % 16 := by
    intro a ha
    have hlim : a.floorLimiter = m.floorLimiter := by
      unfold M.floorLimiter
      rw [ha.power, ha.heat, show a.dev.tripped = m.dev.tripped by obtain ⟨_, _, _, _, hdev⟩ := ha; rw [hdev]; rfl]
      rfl
    unfold M.settleLimiter
    rw [if_pos (ha.floorHeld.trans hfloor), M.objFld_setObjFld_same, hlim]
    rfl
  unfold M.toFloor M.settle M.objFld
  rw [M.obj_settlePin _ _ _ (by decide) (by decide)]
  exact hset _ ((M.objsOnly_settleCores _).trans (M.objsOnly_settleTiers _))

theorem M.Kept.power {a b : M} (h : M.Kept a b) : b.dev.power = a.dev.power := by
  obtain ⟨_, _, _, _, _, _, _, _, _, _, hdev⟩ := h
  rw [hdev]

/-- PWR_ALERT_N asserted: the floor at once, the causes, the count and the log. -/
theorem alertAssert_ends {s : State} {causes : BitVec 5} (hruns : (M.of s).watchRuns = true) (hnew : (M.of s).dev.power.alertLow = false) :
    Ends (.pwrAlertAssert causes) s fun m =>
      m.AtFloor ∧ m.objFld 0x3020 4 7 4 = 5 ∧ m.dev.power.alertLow = true ∧ m.objBit 0x3010 1 2 = true ∧
      m.objFld 0x3400 1 4 0 = (if causes = 0 then 1 else causes.toNat) ∧
      m.objFld 0x3400 1 31 16 = min ((M.of s).objFld 0x3400 1 31 16 + 1) 0xFFFF ∧
      m.newestFault = (0x3002, m.obj 0x3400 1 % 2 ^ 32, 0) ∧
      (M.of s).SameWork m ∧ (M.of s).SameIndices m [0x3010, 0x3020, 0x3030, 0x3051, 0x3052, 0x3141, 0x3400, 0x7100] := by
  have hfloor : ((M.of s).alerted causes.toNat).floorHeld = true := rfl
  have heq := (M.of s).alertAssert_eq causes.toNat hnew
  have haside : M.Aside (M.of s) ((M.of s).alertAssert causes.toNat) := by
    rw [heq]
    exact (((M.of s).aside_alerted causes.toNat).trans (M.aside_toFloor _)).trans
      ((M.kept_logFault _ _ _ _ _ _).aside.trans (M.kept_raise _ _).aside)
  have hpower : ((M.of s).alertAssert causes.toNat).dev.power = ((M.of s).alerted causes.toNat).toFloor.dev.power := by
    rw [heq, (M.kept_raise _ _).power, (M.kept_logFault _ _ _ _ _ _).power]
  have hobj : ∀ {i j}, j < 256 → i ≠ 0x7100 →
      ((M.of s).alertAssert causes.toNat).obj i j = ((M.of s).alerted causes.toNat).toFloor.obj i j := fun hj hi => by
    rw [heq, M.obj_raise, M.obj_logFault _ _ _ _ _ _ _ _ hi hj]
  have hkeeps : ∀ {i j}, j < 256 → i ≠ 0x7100 → i ∉ settled →
      ((M.of s).alertAssert causes.toNat).obj i j = ((M.of s).alerted causes.toNat).obj i j := fun hj hi hn =>
    (hobj hj hi).trans (M.obj_toFloor _ _ _ hj hn)
  refine ends_quiet (exec_pwrAlertAssert s causes) (by rw [hruns]; rfl) haside.fuse haside.ops fun m hlike hmem =>
    ⟨?_, ?_, ?_, ?_, ?_, ?_, ?_, haside.sameWork hlike hmem, fun i j hj hi => ?_⟩
  · exact (M.atFloor_toFloor _ hfloor).same fun i j hj hi => by
      rw [LikeViews.obj hlike]
      exact hobj hj (by rintro rfl; exact absurd hi (by decide))
  · rw [LikeViews.objFld hlike]
    exact (congrArg (fld · 7 4) (hobj (by decide) (by decide))).trans (M.limiter_toFloor hfloor)
  · rw [hlike.dev, hpower, M.power_toFloor]
    rfl
  · rw [LikeViews.objBit hlike]
    exact (congrArg (Nat.testBit · 2) (hkeeps (by decide) (by decide) (by decide))).trans ((M.of s).wire_alerted causes.toNat)
  · rw [LikeViews.objFld hlike]
    refine (congrArg (fld · 4 0) (hkeeps (by decide) (by decide) (by decide))).trans
      (((M.of s).causes_alerted causes.toNat causes.isLt).trans ?_)
    simp only [← BitVec.toNat_inj]
    rfl
  · rw [LikeViews.objFld hlike]
    exact (congrArg (fld · 31 16) (hkeeps (by decide) (by decide) (by decide))).trans ((M.of s).count_alerted causes.toNat)
  · rw [M.newestFault_same fun i j => LikeViews.obj hlike i j, LikeViews.obj hlike, hkeeps (by decide) (by decide) (by decide), heq,
      M.newestFault_same fun i j => M.obj_raise _ _ _ _, M.newestFault_logFault _ _ _ _ _ _ (by decide) (by decide)]
    rfl
  · simp only [List.mem_cons, List.not_mem_nil, or_false, not_or] at hi
    obtain ⟨h1, h2, h3, h4, h5, h6, h7, h8⟩ := hi
    rw [LikeViews.obj hlike, hkeeps hj h8 (by simp [settled, h2, h3, h4, h5, h6])]
    exact (M.of s).obj_alerted _ hj (fun e => h1 (congrArg Prod.fst e)) fun e => h7 (congrArg Prod.fst e)

/-! ## Regulator clusters -/

section
variable {m : M} {p k : Nat}

/-- `n` phases of a cluster have failed: its status says so, and the log. -/
def M.phasesFailed (m : M) (p k n : Nat) : M :=
  ((m.setObjFld (0x3200 + p) (k + 1) 3 2 n).setObjFld (0x3200 + p) (k + 1) 1 0 n).logFault 0x3003 (256 * p + k) n 0 clkMgmt

theorem M.regulatorFail_lit (hk : k < clusterCount p) (hlit : m.objFld (0x3200 + p) (k + 1) 1 0 ≠ 3) {n : Nat}
    (hn : m.objFld (0x3200 + p) (k + 1) 3 2 = n) :
    m.regulatorFail p k = (if n + 1 = 2 then (m.phasesFailed p k (n + 1)).derate p k
      else if n + 1 = 3 then (m.phasesFailed p k (n + 1)).goDark p k else m.phasesFailed p k (n + 1)).settle := by
  unfold M.regulatorFail M.clusterDark
  rw [if_neg (by simp [hlit, hk]), hn]
  rfl

theorem M.regulatorFail_first (hk : k < clusterCount p) (hlit : m.objFld (0x3200 + p) (k + 1) 1 0 ≠ 3)
    (hn : m.objFld (0x3200 + p) (k + 1) 3 2 = 0) : m.regulatorFail p k = (m.phasesFailed p k 1).settle := by
  rw [M.regulatorFail_lit hk hlit hn, if_neg (by decide), if_neg (by decide)]

theorem M.regulatorFail_second (hk : k < clusterCount p) (hlit : m.objFld (0x3200 + p) (k + 1) 1 0 ≠ 3)
    (hn : m.objFld (0x3200 + p) (k + 1) 3 2 = 1) : m.regulatorFail p k = ((m.phasesFailed p k 2).derate p k).settle := by
  rw [M.regulatorFail_lit hk hlit hn, if_pos rfl]

theorem M.regulatorFail_third (hk : k < clusterCount p) (hlit : m.objFld (0x3200 + p) (k + 1) 1 0 ≠ 3)
    (hn : m.objFld (0x3200 + p) (k + 1) 3 2 = 2) : m.regulatorFail p k = ((m.phasesFailed p k 3).goDark p k).settle := by
  rw [M.regulatorFail_lit hk hlit hn, if_neg (by decide), if_pos rfl]

/-- A core's cluster that is dark turns its domain dark and fences it (R385, R455). -/
theorem M.goDark_core (hp : p < 31) (hpos : isComputePos p = true) (hk : k < 64) :
    m.goDark p k = (m.setDom (4 * (p / 5) + k / 16) 4).fence (4 * (p / 5) + k / 16) 3 := by
  have hzero : p ≠ 0 := by rintro rfl; exact absurd hpos (by decide)
  have hspine : spinePair p = 68 := by
    rw [spinePair, if_neg hzero, clusterCount_compute ⟨p, hp⟩ hpos]
  unfold M.goDark
  dsimp only
  rw [hspine, if_neg (by simp; omega), if_neg hzero, if_pos hpos, if_pos hk]

/-- The bucket that a third event empties, and its fault (R461). -/
def M.bucketSpilt (m : M) (cls inst : Nat) : M :=
  (m.modBuckets fun b => Tab.erase b (bucketKey cls inst)).logFault 0x7004 (cls * 2 ^ 24 + inst) 0 0 clkMgmt

theorem M.objFld_bucketSpilt {cls inst i j hi lo : Nat} (hi' : i ≠ 0x7100) (hj : j < 256) :
    (m.bucketSpilt cls inst).objFld i j hi lo = m.objFld i j hi lo := by
  unfold M.objFld M.bucketSpilt
  rw [M.obj_logFault _ _ _ _ _ _ _ _ hi' hj, M.obj_modBuckets]

end

/-- An event of a cluster's bucket of class `cls`, and the failure of a phase that it spills into. -/
def M.clusterEvent (m : M) (cls inst p k : Nat) : M :=
  let r := m.bucketEvent cls inst
  if r.1 then r.2.regulatorFail p k else r.2

section
variable {m : M} {cls inst p k : Nat}

theorem M.clusterEvent_low (h : Tab.get m.dev.buckets 0 (bucketKey cls inst) + 1 < m.objFld 0x7030 cls 31 0) :
    m.clusterEvent cls inst p k =
      m.modBuckets fun b => Tab.put b (bucketKey cls inst) (Tab.get m.dev.buckets 0 (bucketKey cls inst) + 1) := by
  unfold M.clusterEvent
  rw [M.bucketEvent_low _ _ _ h]
  rfl

theorem M.clusterEvent_spills (h : m.objFld 0x7030 cls 31 0 ≤ Tab.get m.dev.buckets 0 (bucketKey cls inst) + 1) (hp : p < 31)
    (hk : k < clusterCount p) (hk' : k < 70) (hlit : m.objFld (0x3200 + p) (k + 1) 1 0 ≠ 3) (hn : m.objFld (0x3200 + p) (k + 1) 3 2 = 0) :
    m.clusterEvent cls inst p k = ((m.bucketSpilt cls inst).phasesFailed p k 1).settle := by
  have hsame : ∀ hi lo, (m.bucketSpilt cls inst).objFld (0x3200 + p) (k + 1) hi lo = m.objFld (0x3200 + p) (k + 1) hi lo := fun _ _ =>
    M.objFld_bucketSpilt (by omega) (by omega)
  unfold M.clusterEvent
  rw [M.bucketEvent_high _ _ _ h]
  dsimp only
  rw [if_pos rfl]
  exact M.regulatorFail_first (m := m.bucketSpilt cls inst) hk ((hsame 1 0).trans_ne hlit) ((hsame 3 2).trans hn)

end

/-! ## The Toll meter -/

/-- An interval of at most sixteen contexts. -/
theorem M.toll_eq (m : M) {es : List Nat} (h : es.length ≤ 16) (un : Nat) :
    m.toll es un = ((es.zipIdx.foldl (fun (m : M) e => m.addEnergy 0xA011 (e.2 + 1) e.1) m).addEnergy 0xA010 2 un).addEnergy 0xA010 1
      (es.sum + un) := by
  unfold M.toll
  dsimp only
  rw [List.take_of_length_le h, foldl_add_eq_sum]

theorem M.aside_addEnergy (m : M) (i j n : Nat) : M.Aside m (m.addEnergy i j n) := m.aside_setObj _ _ _

/-- TOLL_INTEGRATE adds an interval of the contexts there are. -/
theorem toll_ends {s : State} {es : List W64} {un : W64} (hlive : (M.of s).live = true) (hlen : es.length ≤ 16) :
    Ends (.tollIntegrate es un) s fun m =>
      (∀ k, k < 16 → m.obj 0xA011 (k + 1) = if k < es.length then ((M.of s).obj 0xA011 (k + 1) + (es.getD k 0).toNat) % 2 ^ 64
        else (M.of s).obj 0xA011 (k + 1)) ∧
      m.obj 0xA010 2 = ((M.of s).obj 0xA010 2 + un.toNat) % 2 ^ 64 ∧
      m.obj 0xA010 1 = ((M.of s).obj 0xA010 1 + ((es.map (·.toNat)).sum + un.toNat)) % 2 ^ 64 ∧
      (M.of s).SameWork m ∧ (M.of s).SameIndices m [0xA010, 0xA011] := by
  have hlen' : (es.map (·.toNat)).length ≤ 16 := by rw [List.length_map]; exact hlen
  obtain ⟨honly, hother, hentries⟩ := M.obj_addEnergies (es.map (·.toNat)) 0 (M.of s) (by omega)
  have haside := (honly.aside.trans (M.aside_addEnergy _ 0xA010 2 un.toNat)).trans
    (M.aside_addEnergy _ 0xA010 1 ((es.map (·.toNat)).sum + un.toNat))
  refine ends_quiet (exec_tollIntegrate s es un) (by rw [hlive]; exact (M.of s).toll_eq hlen' un.toNat) haside.fuse haside.ops
    fun m hlike hmem => ⟨fun k hk => ?_, ?_, ?_, haside.sameWork hlike hmem, fun i j hj hi => ?_⟩
  · rw [LikeViews.obj hlike, M.obj_addEnergy _ _ _ _ _ _ (by omega) (by decide), if_neg (by simp),
      M.obj_addEnergy _ _ _ _ _ _ (by omega) (by decide), if_neg (by simp), hentries k hk]
    simp only [Nat.zero_le, true_and, Nat.zero_add, List.length_map, Nat.sub_zero]
    split
    · exact congrArg (fun n => ((M.of s).obj 0xA011 (k + 1) + n) % 2 ^ 64) (List.getD_map es (0 : W64) BitVec.toNat)
    · rfl
  · rw [LikeViews.obj hlike, M.obj_addEnergy _ _ _ _ _ _ (by decide) (by decide), if_neg (by decide),
      M.obj_addEnergy _ _ _ _ _ _ (by decide) (by decide), if_pos rfl, hother _ _ (by decide) (by decide)]
  · rw [LikeViews.obj hlike, M.obj_addEnergy _ _ _ _ _ _ (by decide) (by decide), if_pos rfl,
      M.obj_addEnergy _ _ _ _ _ _ (by decide) (by decide), if_neg (by decide), hother _ _ (by decide) (by decide)]
  · simp only [List.mem_cons, List.not_mem_nil, or_false, not_or] at hi
    rw [LikeViews.obj hlike, M.obj_addEnergy _ _ _ _ _ _ hj (by decide), if_neg (by simp [hi.1]),
      M.obj_addEnergy _ _ _ _ _ _ hj (by decide), if_neg (by simp [hi.1]), hother _ _ hj hi.2]

/-- Settles O55: a period with no floor in force is judged by the cap, then bounded and settled, which leaves COMMON and the power shown. -/
theorem powerIsCappedAndMetered : Obligations.PowerIsCappedAndMetered := by
  refine ⟨fun power next s hlive hfree => ?capped, fun power next s hlive hfloor => ?floored, fun unit s hlive hclock => ?changed,
    fun feed s hpow => ?feeds, fun s hruns => ?alerts, fun pos k phase s hlive hk => ?clusters, fun es un s hlive hlen => ?metered⟩
  case capped =>
    intro cap now top
    have hunder : power.toNat ≤ cap → (M.of s).capPeriod power.toNat next.toNat =
        M.bounded (((M.of s).showPower power.toNat).underCap (100 * next.toNat ≤ 97 * ((M.of s).showPower power.toNat).appliedCap), false) :=
      M.capPeriod_under hfree
    have hcap : ((M.of s).showPower power.toNat).appliedCap = cap := M.appliedCap_showPower
    have htop : ((M.of s).showPower power.toNat).fastest = top := M.fastest_showPower
    have hnow : ((M.of s).showPower power.toNat).common = now := M.common_showPower
    rcases Nat.lt_or_ge cap power.toNat with hover | hunder'
    · refine capPeriod_ends hlive (M.capPeriod_over hfree hover) (CapStep.overCap _ _) fun m h2 h3 hcommon hperiods hwork hindices =>
        ⟨h2, h3, fun h => absurd h (by omega), fun h => absurd h (by omega), fun _ hno => ?_, fun _ hmay hlow hnew hok hpower => ?_,
          hwork, hindices⟩
      · rw [hcommon, M.common_overCap (M.noExcursion_showPower.trans hno), hnow, max_comm]
      · obtain ⟨hsame, hone⟩ := M.overCap_begins (a := (M.of s).showPower power.toNat) (M.noExcursion_showPower.trans hmay) hlow hnew hok hpower
        rw [hcommon, hperiods, hsame, hone, hnow, max_comm]
        exact ⟨rfl, rfl⟩
    · refine capPeriod_ends hlive (hunder hunder') (CapStep.underCap _ _) fun m h2 h3 hcommon hperiods hwork hindices =>
        ⟨h2, h3, fun _ hfits => ?_, fun _ hnot => ?_, fun h => absurd h (by omega), fun h => absurd h (by omega), hwork, hindices⟩
      · rw [hcommon, ← M.fastest_showPower (m := M.of s) (power := power.toNat), M.common_underCap_fits (by rw [hcap]; exact hfits), hnow, htop]
      · rw [hcommon, M.common_underCap_not (by rw [hcap]; omega), hnow, max_comm]
  case floored => exact does_of (exec_capPeriod s power next) (by rw [hlive]; exact M.capPeriod_floor hfloor)
  case changed =>
    have hdone : (M.of s).when ((M.of s).live && (M.of s).pllRuns (unit.val + 1)) (fun m => m.pstateDone unit) = (M.of s).pstateDone unit := by
      rw [hlive, hclock]
      rfl
    exact ⟨fun h => does_of (exec_pstateChangeDone s unit) (hdone.trans (if_pos h)),
      fun h => does_of (exec_pstateChangeDone s unit) (hdone.trans (if_neg (by omega)))⟩
  case feeds =>
    refine ⟨fun hok hother => ?_, fun hok hother => ?_, fun hgone => ?_, fun h0 h1 => ?_⟩
    · exact does_of (exec_feedOutOfRange s feed) (by rw [hpow]; exact M.feedLost_one feed.isLt hok hother)
    · exact does_of (exec_feedOutOfRange s feed) (by rw [hpow]; exact M.feedLost_both feed.isLt hok hother)
    · refine does_of (exec_feedRestore s feed) ?_
      rw [hpow, show (M.of s).feedOk feed = false from hgone]
      simp [M.feedChange, M.feedOk]
    · refine does_of (exec_holdUpExpiry s) ?_
      rw [hpow, show (M.of s).feedOk 0 = false from h0, show (M.of s).feedOk 1 = false from h1]
      rfl
  case alerts =>
    refine ⟨fun causes hnew => ?asserted, fun hlow => ⟨?released, ?long⟩, fun hhold => ?held⟩
    case released => exact does_of (exec_pwrAlertRelease s) (by rw [hruns, hlow]; rfl)
    case long => exact does_of (exec_pwrAlertLong s) (by rw [hruns, hlow]; rfl)
    case held => exact does_of (exec_floorHoldEnd s) (by rw [hruns, hhold]; rfl)
    case asserted =>
      exact alertAssert_ends hruns hnew
  case clusters =>
    intro idx steps after one lvl hlit
    have hk70 := k.isLt
    have hpos := pos.isLt
    have hphase : ∀ {g : M → M}, (M.of s).regulatorFail pos k = g (M.of s) → Does (.phaseFault pos k) s g := fun h =>
      does_of (exec_phaseFault s pos k) (by rw [hlive]; exact h)
    have htrip : ∀ {g : M → M}, (M.of s).clusterEvent 6 one pos k = g (M.of s) → Does (.currentLimitTrip pos k phase) s g := fun h =>
      does_of (exec_currentLimitTrip s pos k phase) (by rw [hlive, decide_eq_true hk]; exact h)
    have hsense : ∀ {g : M → M}, ((M.of s).satObj idx (k.val + 1) 31 16 1).clusterEvent 5 (256 * pos.val + k.val) pos k = g (M.of s) →
        Does (.senseEvent pos k) s g := fun h =>
      does_of (exec_senseEvent s pos k) (by rw [hlive, decide_eq_true hk]; exact h)
    have hlimit : ((M.of s).satObj idx (k.val + 1) 31 16 1).objFld 0x7030 5 31 0 = (M.of s).objFld 0x7030 5 31 0 := by
      rw [M.objFld, M.obj_satObj_ne _ _ _ _ _ _ _ _ (by decide) (by omega) (by simp [idx]; omega)]
      rfl
    have hcount : ∀ hi lo, hi < 16 → lo ≤ hi →
        ((M.of s).satObj idx (k.val + 1) 31 16 1).objFld idx (k.val + 1) hi lo = (M.of s).objFld idx (k.val + 1) hi lo := fun hi lo h h' => by
      rw [M.objFld, M.obj_satObj_same, satFld, fld_setFld_below _ _ _ _ _ _ h h']
      rfl
    refine ⟨fun hn => hphase (M.regulatorFail_first hk hlit hn), fun hn => hphase (M.regulatorFail_second hk hlit hn), fun hn hcompute hcore => hphase ?_,
      fun hlow => htrip (M.clusterEvent_low hlow), fun hhigh hn => htrip (M.clusterEvent_spills hhigh hpos hk hk70 hlit hn),
      fun hlow => hsense (M.clusterEvent_low (by rw [hlimit]; exact hlow)), fun hhigh hn => hsense (M.clusterEvent_spills
        (by rw [hlimit]; exact hhigh) hpos hk hk70 ((hcount 1 0 (by decide) (by decide)).trans_ne hlit)
        ((hcount 3 2 (by decide) (by decide)).trans hn))⟩
    exact (M.regulatorFail_third hk hlit hn).trans (congrArg M.settle (M.goDark_core hpos hcompute hcore))
  case metered =>
    exact toll_ends hlive hlen

end Sys2Proof.Machine
end

section
/-! Attestation and firmware update (22_security_firmware.md R486, R487, R489, R494 to R497): the update session's word, the
processors' slots, and the commands that act on them. -/

namespace Sys2Proof.Machine

/-! ## What each command runs -/

section
variable (p : Party) (s : State)

theorem exec_attestRequest : exec (.attestRequest p) s = s.run fun m => m.partyWrite p 0x9010 2 1 := rfl

theorem exec_beginUpdate (n : Fin 4) : exec (.beginUpdate p n) s = s.run fun m => m.partyWrite p 0x9020 1 (256 * n.val + 1) := rfl

theorem exec_applyPackage : exec (.applyPackage p) s = s.run fun m => m.partyWrite p 0x9020 1 2 := rfl

theorem exec_activate : exec (.activate p) s = s.run fun m => m.partyWrite p 0x9020 1 3 := rfl

theorem exec_confirm : exec (.confirm p) s = s.run fun m => m.partyWrite p 0x9020 1 4 := rfl

theorem exec_revert : exec (.revert p) s = s.run fun m => m.partyWrite p 0x9020 1 5 := rfl

theorem exec_cancel : exec (.cancel p) s = s.run fun m => m.partyWrite p 0x9020 1 6 := rfl

theorem exec_chunk (data : BitVec 512) : exec (.chunk p data) s = s.run fun m => m.partyWrite p 0x9020 7 data.toNat := rfl

theorem exec_attestReportReady : exec .attestReportReady s = s.run fun m => m.when (m.live && m.domOn 36) M.attestReady := rfl

theorem exec_applyDone (sig tag digest : Bool) :
    exec (.applyDone sig tag digest) s = s.run fun m => m.when (m.live && m.domOn 36) fun m => m.sessApplied sig tag digest := rfl

theorem exec_confirmLimitExpiry :
    exec .confirmLimitExpiry s = s.run fun m => m.when m.watchRuns fun m =>
      match m.pendingProc with
      | some p => m.revertProc p 11
      | none => m := rfl

theorem exec_startFailTimeout :
    exec .startFailTimeout s = s.run fun m => m.when m.watchRuns fun m =>
      match m.pendingProc with
      | some p => if p = 1 && !m.dev.faults.mcDown then m else m.revertProc p 10
      | none => m := rfl

end

/-! ## Specs of the objects -/

def requestSpec : ObjSpec := oTrig [⟨0, 0, .trig⟩]

def sessionSpec : ObjSpec := oTrig [⟨9, 8, .trig⟩, ⟨3, 0, .trig⟩]

def chunkSpec : ObjSpec := oRW tyBytes 64 0 false [⟨511, 0, .rw⟩]

theorem objSpec_request : objSpec 0x9010 2 = some requestSpec := by decide

theorem objSpec_session : objSpec 0x9020 1 = some sessionSpec := by decide

theorem objSpec_chunk : objSpec 0x9020 7 = some chunkSpec := by decide

theorem sessionSpec_takes : ∀ (n : Fin 4) (cmd : Fin 7), sessionSpec.Takes (256 * n.val + cmd.val) := by decide

theorem chunkSpec_takes (v : Nat) : chunkSpec.Takes v := by
  obtain ⟨hcode, hclamp⟩ := takesAny chunkSpec.fields (judge_rw _ rfl) v
  refine ⟨rfl, reserved_none _ _ fun i hi hcov => ?_, hcode, hclamp⟩
  have hi : i < 512 := hi
  have : chunkSpec.covered i = true := by simp [ObjSpec.covered, chunkSpec, oRW]; omega
  rw [this] at hcov
  exact absurd hcov (by decide)

/-- The security block serves its objects while its domain is on (R484). -/
theorem M.available_security {m : M} {idx : Nat} (hon : m.domState 36 = 0) : m.unavailable idx false = false := by
  simp [M.unavailable, M.domOn, hon]

/-! ## The session's word -/

section
variable (m : M) (st err : Nat)

theorem M.obj_endSession {i j : Nat} (hj : j < 256) (h : (i, j) ≠ (0x9020, 2)) : (m.endSession st err).obj i j = m.obj i j :=
  (M.obj_setObjFld_ne _ _ _ _ _ _ _ _ hj (by decide) h).trans (M.obj_setObjFld_ne _ _ _ _ _ _ _ _ hj (by decide) h)

theorem M.word_endSession : (m.endSession st err).obj 0x9020 2 = setFld (setFld (m.obj 0x9020 2) 3 0 st) 23 16 err := by
  refine (M.obj_setObjFld_same _ _ _ _ _ _).trans ?_
  rw [M.obj_setObjFld_same]

/-- The session's state and error as a party reads them. -/
abbrev M.SessionAt (m : M) (st err : Nat) : Prop := m.sessState = st ∧ m.objFld 0x9020 2 23 16 = err

variable {st err} in
theorem M.sessionAt_endSession (hst : st < 16) (herr : err < 256) : (m.endSession st err).SessionAt st err := by
  unfold M.SessionAt M.sessState M.objFld
  rw [M.word_endSession, fld_setFld_below _ _ _ _ _ _ (by decide) (by decide), fld_setFld_same, fld_setFld_same]
  exact ⟨Nat.mod_eq_of_lt hst, Nat.mod_eq_of_lt herr⟩

theorem M.sessProc_endSession : (m.endSession st err).sessProc = m.sessProc := by
  unfold M.sessProc M.objFld
  rw [M.word_endSession, fld_setFld_below _ _ _ _ _ _ (by decide) (by decide), fld_setFld_above _ _ _ _ _ _ (by decide) (by decide)]

theorem M.sec_endSession : (m.endSession st err).dev.sec =
    { m.dev.sec with owner := if st = 0 then none else m.dev.sec.owner, applying := none } := rfl

@[simp] theorem M.proc_endSession (q : Nat) : (m.endSession st err).proc q = m.proc q := rfl

end

/-! ## Processors -/

/-- A processor whose inactive slot holds no verified image. -/
def Proc.emptied (q : Proc) : Proc := { q with other := none }

/-- A processor whose active image is confirmed: its floor rises to the image's security version. -/
def Proc.confirmed (q : Proc) : Proc := { q with pending := false, fellBack := false, floor := min 64 (max q.floor q.active.svn) }

/-- A processor that runs from its other slot, which holds `g`. -/
def Proc.swapped (q : Proc) (g : Image) : Proc := { q with active := g, other := some q.active, slotB := !q.slotB }

/-- A processor whose active image awaits confirmation. -/
def Proc.awaiting (q : Proc) : Proc := { q with pending := true }

/-- A processor that has gone back to the slot it ran from before. -/
def Proc.fallen (q : Proc) : Proc := { q with pending := false, fellBack := true }

section
variable (m : M) (p : Nat) (f : Proc → Proc)

@[simp] theorem M.proc_modProc : (m.modProc p f).proc p = f (m.proc p) := by
  unfold M.proc M.modProc
  by_cases h1 : p = 1
  · subst h1; rfl
  · by_cases h2 : p = 2
    · subst h2; rfl
    · simp [h1, h2, M.modSec]

theorem M.sec_setObj (i j v : Nat) : (m.setObj i j v).dev.sec = m.dev.sec := rfl

theorem M.sec_modSec (g : Security → Security) : (m.modSec g).dev.sec = g m.dev.sec := rfl

theorem M.proc_applying (x : Option (Nat ⊕ Image)) (q : Nat) : (m.modSec fun k => { k with applying := x }).proc q = m.proc q := rfl

theorem M.proc_oldArea (x : Option (Tab Nat × Tab (List Nat) × Tab (List Nat))) (q : Nat) :
    (m.modSec fun k => { k with oldArea := x }).proc q = m.proc q := rfl

theorem M.proc_revoked (r q : Nat) : (m.modSec fun k => { k with revoked := k.revoked ||| r, oldArea := none }).proc q = m.proc q := rfl

theorem M.revoked_modProc : (m.modProc p f).dev.sec.revoked = m.dev.sec.revoked := by
  unfold M.modProc
  rw [M.sec_modSec]
  split
  · rfl
  · split <;> rfl

theorem M.obj_modProc (i j : Nat) : (m.modProc p f).obj i j = m.obj i j := rfl

variable {p f} in
theorem M.modProc_congr {f' : Proc → Proc} (h : f (m.proc p) = f' (m.proc p)) : m.modProc p f = m.modProc p f' := by
  unfold M.proc at h
  unfold M.modProc M.modSec
  by_cases h1 : p = 1
  · rw [if_pos h1] at h
    simp only [if_pos h1, h]
  · by_cases h2 : p = 2
    · rw [if_neg h1, if_pos h2] at h
      simp only [if_neg h1, if_pos h2, h]
    · rw [if_neg h1, if_neg h2] at h
      simp only [if_neg h1, if_neg h2, h]

theorem M.swapSlots_some {g : Image} (h : (m.proc p).other = some g) : m.swapSlots p = m.modProc p fun q => q.swapped g := by
  unfold M.swapSlots
  rw [h]
  rfl

end

/-! ## What a session leaves alone -/

/-- Beside the security block's own state, objects at 0x9020 alone differ. -/
structure M.Session (a b : M) : Prop where
  fuse : b.fuse = a.fuse
  base : b.base = a.base
  ops : b.ops = a.ops
  dev : ∃ o k, b.dev = { a.dev with objs := o, sec := k }
  obj : ∀ i j, j < 256 → i ≠ 0x9020 → b.obj i j = a.obj i j

section
variable {a b c : M}

theorem M.Session.refl (a : M) : M.Session a a := ⟨rfl, rfl, rfl, ⟨_, _, rfl⟩, fun _ _ _ _ => rfl⟩

theorem M.Session.trans (h : M.Session a b) (k : M.Session b c) : M.Session a c := by
  obtain ⟨h1, h2, h3, ⟨o, x, h4⟩, h5⟩ := h
  obtain ⟨k1, k2, k3, ⟨p, y, k4⟩, k5⟩ := k
  exact ⟨k1.trans h1, k2.trans h2, k3.trans h3, ⟨p, y, by rw [k4, h4]⟩, fun i j hj hi => (k5 i j hj hi).trans (h5 i j hj hi)⟩

theorem M.Session.aside (h : M.Session a b) : M.Aside a b := by
  obtain ⟨h1, h2, h3, ⟨o, x, h4⟩, _⟩ := h
  exact ⟨h1, h2, h3, by rw [h4], by rw [h4], by rw [h4]⟩

theorem M.session_modSec (a : M) (f : Security → Security) : M.Session a (a.modSec f) := ⟨rfl, rfl, rfl, ⟨_, _, rfl⟩, fun _ _ _ _ => rfl⟩

theorem M.session_modProc (a : M) (p : Nat) (f : Proc → Proc) : M.Session a (a.modProc p f) := M.session_modSec a _

theorem M.session_setObj (a : M) {j : Nat} (v : Nat) (hj : j < 256) : M.Session a (a.setObj 0x9020 j v) :=
  ⟨rfl, rfl, rfl, ⟨_, _, rfl⟩, fun _ _ hj' hi => a.obj_setObj_ne _ _ _ _ _ hj' hj fun e => hi (congrArg Prod.fst e)⟩

theorem M.session_endSession (a : M) (st err : Nat) : M.Session a (a.endSession st err) :=
  ((a.session_setObj _ (by decide)).trans (M.session_setObj _ _ (by decide))).trans (M.session_modSec _ _)

end

/-! ## What a restart leaves alone -/

/-- Beside what `Session` lets differ, the links, and what a restarting processor and its settings area are. -/
structure M.Restarts (a b : M) : Prop where
  fuse : b.fuse = a.fuse
  ops : b.ops = a.ops
  cores : b.dev.cores = a.dev.cores
  obj : ∀ i j, b.obj i j = a.obj i j
  proc : ∀ q, b.proc q = a.proc q

section
variable {a b c : M}

theorem M.Restarts.refl (a : M) : M.Restarts a a := ⟨rfl, rfl, rfl, fun _ _ => rfl, fun _ => rfl⟩

theorem M.Restarts.trans (h : M.Restarts a b) (k : M.Restarts b c) : M.Restarts a c :=
  ⟨k.fuse.trans h.fuse, k.ops.trans h.ops, k.cores.trans h.cores, fun i j => (k.obj i j).trans (h.obj i j),
    fun q => (k.proc q).trans (h.proc q)⟩

theorem M.restarts_foldl {α : Type} {f : M → α → M} (hf : ∀ m x, M.Restarts m (f m x)) (l : List α) (m : M) : M.Restarts m (l.foldl f m) :=
  List.foldlRecOn (motive := fun m' => M.Restarts m m') l f (M.Restarts.refl m) fun m' h x _ => h.trans (hf m' x)

theorem M.restarts_modLink (a : M) (l : Nat) (f : Link → Link) : M.Restarts a (a.modLink l f) := ⟨rfl, rfl, rfl, fun _ _ => rfl, fun _ => rfl⟩

theorem M.restarts_retrainAll (a : M) : M.Restarts a a.retrainAll := by
  refine M.restarts_foldl (fun m l => ?_) _ a
  unfold M.wantRetrain
  split
  · exact m.restarts_modLink _ _
  · exact M.Restarts.refl m

theorem M.restarts_restartProc (a : M) (p : Nat) : M.Restarts a (a.restartProc p) := by
  unfold M.restartProc
  split
  · exact ⟨rfl, rfl, rfl, fun _ _ => rfl, fun _ => rfl⟩
  · split
    · exact a.restarts_retrainAll
    · exact ⟨rfl, rfl, rfl, fun _ _ => rfl, fun _ => rfl⟩

theorem M.restarts_area (a : M) (saved : List (Nat × Nat)) (tiers : Tab (List Nat)) :
    M.Restarts a ((a.modLed fun d => { d with saved := saved }).modFaults fun f => { f with tierSaved := tiers }) :=
  ⟨rfl, rfl, rfl, fun _ _ => rfl, fun _ => rfl⟩

theorem M.restarts_dropArea (a : M) : M.Restarts a (a.modSec fun q => { q with oldArea := none }) :=
  ⟨rfl, rfl, rfl, fun _ _ => rfl, fun _ => rfl⟩

theorem M.restarts_restoreArea (a : M) : M.Restarts a a.restoreArea := by
  unfold M.restoreArea
  split
  · exact M.Restarts.refl a
  · next area _ =>
    exact ((M.restarts_area a area.1 area.2.2).trans (M.restarts_foldl
      (fun m l => m.restarts_modLink l fun k => { k with saved := Tab.find? area.2.1 l }) _ _)).trans (M.restarts_dropArea _)

end

/-! ## Commands to the session -/

theorem sessionWord_fields : ∀ (n : Fin 4) (cmd : Fin 7),
    fld (256 * n.val + cmd.val) 3 0 = cmd ∧ fld (256 * n.val + cmd.val) 9 8 = n := by decide

/-- A command is taken, or rejected with STATE. -/
theorem M.writeSession_eq (m : M) (p : Party) {cmd : Fin 7} {n : Fin 4} (hcmd : cmd ≠ 0) (hn : cmd = 1 → n ≠ 0) :
    m.writeSession p (256 * n.val + cmd.val) = if m.sessTakes cmd then (0, m.sessCommand p cmd n) else (7, m) := by
  obtain ⟨h1, h2⟩ := sessionWord_fields n cmd
  have hcode : (decide (cmd.val = 0) || decide (6 < cmd.val) || (decide (cmd.val = 1) && decide (n.val = 0))) = false := by
    revert hcmd hn
    clear h1 h2
    revert cmd n
    decide
  unfold M.writeSession
  rw [h1, h2]
  dsimp only
  rw [if_neg (Bool.eq_false_iff.mp hcode)]
  cases m.sessTakes cmd <;> rfl

section
variable {c : Instr} {s : State} {p : Party} (hserves : (M.of s).Serves p) (hon : (M.of s).domState 36 = 0)
include hserves hon

theorem session_applies {cmd : Fin 7} {n : Fin 4} (e : exec c s = s.run fun m => m.partyWrite p 0x9020 1 (256 * n.val + cmd.val))
    (hcmd : cmd ≠ 0) (hn : cmd = 1 → n ≠ 0) (htakes : (M.of s).sessTakes cmd = true) :
    Applies c s 0x9020 1 (256 * n.val + cmd.val) fun m => m.sessCommand p cmd n := by
  obtain ⟨hhears, hserved, howner⟩ := hserves
  exact applies_taken e hhears hserved (fun _ => howner) objSpec_session (M.available_security hon) (sessionSpec_takes n cmd)
    (((M.of s).writeSession_eq p hcmd hn).trans (if_pos htakes))

theorem session_rejects {cmd : Fin 7} {n : Fin 4} (e : exec c s = s.run fun m => m.partyWrite p 0x9020 1 (256 * n.val + cmd.val))
    (hcmd : cmd ≠ 0) (hn : cmd = 1 → n ≠ 0) (htakes : (M.of s).sessTakes cmd = false) :
    Rejects c s 0x9020 1 (256 * n.val + cmd.val) 7 := by
  obtain ⟨hhears, hserved, howner⟩ := hserves
  exact rejects_taken e hhears hserved (fun _ => howner) objSpec_session (M.available_security hon) (sessionSpec_takes n cmd) (by decide)
    (((M.of s).writeSession_eq p hcmd hn).trans (if_neg (Bool.eq_false_iff.mp htakes)))

end

/-- An applied write to a session's object ends as its effect does, but for the report of the write. -/
theorem ends_applied {c : Instr} {s : State} {sub v : Nat} {g : M → M} {P : M → Prop} (h : Applies c s 0x9020 sub v g)
    (hf : (g (M.of s)).fuse = s.fuse) (ho : (g (M.of s)).ops = [])
    (hP : ∀ m' d, M.Like m' ((g (M.of s)).modLed fun _ => d) → (M.of s).SameMem m' → P m') : Ends c s P := by
  obtain ⟨d, hd⟩ := M.reported_led (g (M.of s)) 0x9020 sub v 0 0 fun _ => rfl
  have hops : ((g (M.of s)).reported 0x9020 sub v 0 0).ops = [] := by rw [hd]; exact ho
  refine ⟨_, h, hP _ d ⟨hf.symm, ?_⟩ ?_⟩
  · show ((g (M.of s)).reported 0x9020 sub v 0 0).dev = _
    rw [hd]
  · unfold State.after
    rw [hops]
    exact ⟨fun _ => rfl, fun _ => rfl⟩

theorem M.SessionAt.same {a b : M} {st err : Nat} (k : a.SessionAt st err) (h : ∀ i j, b.obj i j = a.obj i j) : b.SessionAt st err := by
  unfold M.SessionAt M.sessState M.objFld at k ⊢
  rwa [h]

theorem M.proc_same {a b : M} (h : b.dev.sec = a.dev.sec) (q : Nat) : b.proc q = a.proc q := by
  unfold M.proc
  rw [h]

/-- The same, where the session and the security block alone differ. -/
theorem session_ends {c : Instr} {s : State} {sub v : Nat} {g : M → M} {P : M → Prop} (h : Applies c s 0x9020 sub v g)
    (hs : M.Session (M.of s) (g (M.of s)))
    (hP : ∀ m' : M, (∀ i j, m'.obj i j = (g (M.of s)).obj i j) → m'.dev.sec = (g (M.of s)).dev.sec → (M.of s).SameWork m' →
      (M.of s).SameIndices m' [0x9020] → P m') : Ends c s P := by
  refine ends_applied h hs.fuse hs.ops fun m' d hlike hmem => hP m' (fun i j => LikeViews.obj hlike i j) ?_
    (M.Aside.sameWork (hs.aside.trans (c := (g (M.of s)).modLed fun _ => d) ⟨rfl, rfl, rfl, rfl, rfl, rfl⟩) hlike hmem) fun i j hj hi => ?_
  · rw [hlike.dev]
    rfl
  · rw [LikeViews.obj hlike]
    exact hs.obj i j hj (by simpa using hi)

/-! ### What each does -/

section
variable (m : M)

theorem M.sessTakes_begin : m.sessTakes 1 = (m.sessState == 0 && !m.anyPending) := rfl
theorem M.sessTakes_cancel : m.sessTakes 6 = (m.sessState == 1 || m.sessState == 3 || m.sessState == 5) := rfl

theorem M.session_sessBegin (p : Party) (n : Nat) : M.Session m (m.sessBegin p n) :=
  ((m.session_setObj _ (by decide)).trans (M.session_endSession _ _ _)).trans (M.session_modSec _ _)

theorem M.sessionAt_sessBegin (p : Party) (n : Nat) : (m.sessBegin p n).SessionAt 1 0 :=
  (M.sessionAt_endSession _ (by decide) (by decide)).same fun _ _ => rfl

theorem M.sessProc_sessBegin (p : Party) {n : Nat} (hn : n < 4) : (m.sessBegin p n).sessProc = n := by
  refine (M.sessProc_endSession (m.setObjFld 0x9020 2 9 8 n) 1 0).trans ?_
  unfold M.sessProc
  rw [M.objFld_setObjFld_same]
  exact Nat.mod_eq_of_lt hn

theorem M.sessApply_eq : m.sessApply = ((m.modProc m.sessProc Proc.emptied).endSession 2 0).modSec fun q =>
    { q with applying := some m.pkgChecks } := rfl

theorem M.session_sessApply : M.Session m m.sessApply := by
  rw [M.sessApply_eq]
  exact ((m.session_modProc _ _).trans (M.session_endSession _ _ _)).trans (M.session_modSec _ _)

theorem M.sessionAt_sessApply : m.sessApply.SessionAt 2 0 := by
  rw [M.sessApply_eq]
  exact (M.sessionAt_endSession _ (by decide) (by decide)).same fun _ _ => rfl

theorem M.proc_sessApply : m.sessApply.proc m.sessProc = (m.proc m.sessProc).emptied := by
  rw [M.sessApply_eq, M.proc_applying, M.proc_endSession, M.proc_modProc]

theorem M.applying_sessApply : m.sessApply.dev.sec.applying = some m.pkgChecks := by
  rw [M.sessApply_eq]
  rfl

theorem M.sessConfirm_eq : m.sessConfirm = ((m.modProc m.sessProc Proc.confirmed).modSec fun q =>
    { q with revoked := q.revoked ||| (m.proc m.sessProc).active.revoke, oldArea := none }).endSession 0 0 := by
  have h : m.modProc m.sessProc (fun q => { q with
      pending := false, fellBack := false, floor := min 64 (max q.floor (m.proc m.sessProc).active.svn) }) =
      m.modProc m.sessProc Proc.confirmed := m.modProc_congr rfl
  unfold M.sessConfirm
  dsimp only
  rw [h]

theorem M.session_sessConfirm : M.Session m m.sessConfirm := by
  rw [M.sessConfirm_eq]
  exact ((m.session_modProc _ _).trans (M.session_modSec _ _)).trans (M.session_endSession _ _ _)

theorem M.sessionAt_sessConfirm : m.sessConfirm.SessionAt 0 0 := M.sessionAt_endSession _ (by decide) (by decide)

theorem M.proc_sessConfirm : m.sessConfirm.proc m.sessProc = (m.proc m.sessProc).confirmed := by
  rw [M.sessConfirm_eq, M.proc_endSession, M.proc_revoked, M.proc_modProc]

theorem M.revoked_sessConfirm :
    m.sessConfirm.dev.sec.revoked = m.dev.sec.revoked ||| (m.proc m.sessProc).active.revoke := by
  rw [M.sessConfirm_eq, M.sec_endSession, M.sec_modSec]
  dsimp only
  rw [M.revoked_modProc]

variable {m} in
theorem M.cancelSession_open (hst : m.sessState ≠ 0 ∧ m.sessState ≠ 4) :
    m.cancelSession = (m.modProc m.sessProc Proc.emptied).endSession 0 0 :=
  if_neg (by simpa [M.sessState] using hst)

end

/-! ### A processor that restarts -/

/-- From `a`, processor `p` restarts as `q`, the session's word at `st` and `err`: memory, cores and objects elsewhere stand. -/
structure M.RestartsAs (a b : M) (p : Nat) (q : Proc) (st err : Nat) : Prop where
  fuse : b.fuse = a.fuse
  ops : b.ops = a.ops
  cores : b.dev.cores = a.dev.cores
  obj : ∀ i j, j < 256 → i ≠ 0x9020 → b.obj i j = a.obj i j
  word : b.SessionAt st err
  proc : b.proc p = q

section
variable {a b : M} {p st err : Nat} {q : Proc}

theorem M.RestartsAs.of_session (h : M.Session a b) (hword : b.SessionAt st err) (hproc : b.proc p = q) : M.RestartsAs a b p q st err :=
  ⟨h.fuse, h.ops, h.aside.cores, h.obj, hword, hproc⟩

theorem M.RestartsAs.restart (h : M.RestartsAs a b p q st err) (k : Nat) : M.RestartsAs a (b.restartProc k) p q st err := by
  have r := b.restarts_restartProc k
  exact ⟨r.fuse.trans h.fuse, r.ops.trans h.ops, r.cores.trans h.cores, fun i j hj hi => (r.obj i j).trans (h.obj i j hj hi),
    h.word.same r.obj, (r.proc p).trans h.proc⟩

/-- What is read of a state that differs from `b` in nothing that is spoken of. -/
theorem M.RestartsAs.views (h : M.RestartsAs a b p q st err) {m : M} (hobj : ∀ i j, m.obj i j = b.obj i j) (hsec : m.dev.sec = b.dev.sec)
    (hcores : m.dev.cores = b.dev.cores) :
    m.SessionAt st err ∧ m.proc p = q ∧ a.SameCores m [] ∧ a.SameIndices m [0x9020] := by
  refine ⟨h.word.same hobj, (M.proc_same hsec p).trans h.proc, fun i _ => ?_, fun i j hj hi => ?_⟩
  · unfold M.core
    rw [hcores, h.cores]
  · exact (hobj i j).trans (h.obj i j hj (by simpa using hi))

end

section
variable {m : M} {g : Image}

/-- ACTIVATE: what the processor restarts from. -/
theorem M.sessActivate_eq (hother : (m.proc m.sessProc).other = some g) :
    ∃ b, m.sessActivate = b.restartProc m.sessProc ∧ M.RestartsAs m b m.sessProc ((m.proc m.sessProc).swapped g).awaiting 4 0 := by
  have hswap := m.swapSlots_some m.sessProc hother
  have hproc : ((m.swapSlots m.sessProc).modProc m.sessProc Proc.awaiting).proc m.sessProc = ((m.proc m.sessProc).swapped g).awaiting := by
    rw [hswap, M.proc_modProc, M.proc_modProc]
  have hses : M.Session m ((m.swapSlots m.sessProc).modProc m.sessProc Proc.awaiting) := by
    rw [hswap]
    exact (m.session_modProc _ _).trans (M.session_modProc _ _ _)
  have key : ∀ b : M, M.Session m b → b.proc m.sessProc = ((m.proc m.sessProc).swapped g).awaiting →
      M.RestartsAs m (b.endSession 4 0) m.sessProc ((m.proc m.sessProc).swapped g).awaiting 4 0 := fun b hb hp =>
    .of_session (hb.trans (b.session_endSession 4 0)) (b.sessionAt_endSession (by decide) (by decide)) hp
  unfold M.sessActivate
  dsimp only
  change ∃ b : M, ((if (((m.swapSlots m.sessProc).modProc m.sessProc Proc.awaiting).proc m.sessProc).active.fmt = (m.proc m.sessProc).active.fmt
      then (m.swapSlots m.sessProc).modProc m.sessProc Proc.awaiting
      else ((m.swapSlots m.sessProc).modProc m.sessProc Proc.awaiting).modSec fun q => { q with
        oldArea := some ((m.swapSlots m.sessProc).modProc m.sessProc Proc.awaiting).settingsArea }).endSession 4 0).restartProc m.sessProc =
      b.restartProc m.sessProc ∧ _
  refine ⟨_, rfl, key _ ?_ ?_⟩
  · split
    · exact hses
    · exact hses.trans (M.session_modSec _ _)
  · split
    · exact hproc
    · rw [M.proc_oldArea]
      exact hproc

/-- The processor goes back to its old slot. -/
theorem M.revertProc_back {p err : Nat} (hpending : (m.proc p).pending = true) (hother : (m.proc p).other = some g) (herr : err < 256) :
    M.RestartsAs m (m.revertProc p err) p ((m.proc p).swapped g).fallen 0 err := by
  have heq : m.revertProc p err =
      ((((m.modProc p fun q => q.swapped g).modProc p Proc.fallen).restoreArea).endSession 0 err).restartProc p := by
    unfold M.revertProc
    rw [hpending, m.swapSlots_some p hother]
    rfl
  have hses := (m.session_modProc p fun q => q.swapped g).trans (M.session_modProc _ p Proc.fallen)
  have harea := ((m.modProc p fun q => q.swapped g).modProc p Proc.fallen).restarts_restoreArea
  have hend := ((m.modProc p fun q => q.swapped g).modProc p Proc.fallen).restoreArea.session_endSession 0 err
  rw [heq]
  refine M.RestartsAs.restart ⟨?_, ?_, ?_, fun i j hj hi => ?_, M.sessionAt_endSession _ (by decide) herr, ?_⟩ p
  · exact hend.fuse.trans (harea.fuse.trans hses.fuse)
  · exact hend.ops.trans (harea.ops.trans hses.ops)
  · exact hend.aside.cores.trans (harea.cores.trans hses.aside.cores)
  · exact (hend.obj i j hj hi).trans ((harea.obj i j).trans (hses.obj i j hj hi))
  · rw [M.proc_endSession, harea.proc, M.proc_modProc, M.proc_modProc]

theorem M.pending_of_pendingProc {p : Nat} (h : m.pendingProc = some p) : (m.proc p).pending = true :=
  List.find?_some (p := fun p => (m.proc p).pending) h

end

/-! ### Chunks -/

theorem getD_bytesOf (v n k : Nat) (hk : k < n) : (bytesOf v n).getD k 0 = BitVec.ofNat 8 (v / 2 ^ (8 * k)) := by
  induction n generalizing v k with
  | zero => omega
  | succ n ih =>
    cases k with
    | zero => simp [bytesOf]
    | succ k =>
      rw [bytesOf, List.getD_cons_succ, ih _ _ (by omega), Nat.div_div_eq_div_mul, show 256 * 2 ^ (8 * k) = 2 ^ (8 * (k + 1)) by
        rw [Nat.mul_succ, Nat.pow_add, Nat.mul_comm]]

/-- Bytes put from offset `o + n` on, the rest as it was. -/
theorem get_staged (bs : List Byte) (o n : Nat) (t : Tab Byte) (a : Nat) :
    Tab.get ((bs.zipIdx n).foldl (fun t b => Tab.put t (o + b.2) b.1) t) 0 a =
      if o + n ≤ a ∧ a < o + n + bs.length then bs.getD (a - (o + n)) 0 else Tab.get t 0 a := by
  induction bs generalizing n t with
  | nil => rw [if_neg (by simp)]; rfl
  | cons b r ih =>
    rw [List.zipIdx_cons, List.foldl_cons, ih]
    simp only [List.length_cons]
    by_cases h : a = o + n
    · rw [if_neg (by omega), if_pos (by omega), h, Tab.get_put_same, Nat.sub_self]
      rfl
    · rw [Tab.get_put_ne _ _ _ _ _ h]
      by_cases h' : o + (n + 1) ≤ a ∧ a < o + (n + 1) + r.length
      · rw [if_pos h', if_pos (by omega), show a - (o + n) = (a - (o + (n + 1))) + 1 by omega, List.getD_cons_succ]
      · rw [if_neg h', if_neg (by omega)]

section
variable (m : M) (o v : Nat)

/-- The 64 bytes of `v` stand in flash staging from offset `o` on, and the offset has moved on. -/
def M.chunkStored : M := (m.modSec fun q => { q with
  staging := (bytesOf v 64).zipIdx.foldl (fun t b => Tab.put t (o + b.2) b.1) q.staging }).setObj 0x9020 6 (o + 64)

variable {m o} in
/-- A chunk stored below the end of flash staging. -/
theorem M.putChunk_eq (ho : m.obj 0x9020 6 = o) (hroom : o + 64 ≤ 0x3000000) : m.putChunk v = m.chunkStored o v := by
  unfold M.putChunk
  rw [ho]
  dsimp only
  rw [if_neg (by omega), Nat.mod_eq_of_lt (by omega)]
  rfl

theorem M.session_chunkStored : M.Session m (m.chunkStored o v) := (m.session_modSec _).trans (M.session_setObj _ _ (by decide))

theorem M.offset_chunkStored : (m.chunkStored o v).obj 0x9020 6 = o + 64 := M.obj_setObj_same _ _ _ _

theorem M.staging_chunkStored (a : Nat) : Tab.get (m.chunkStored o v).dev.sec.staging 0 a =
    if o ≤ a ∧ a < o + 64 then (bytesOf v 64).getD (a - o) 0 else Tab.get m.dev.sec.staging 0 a := by
  have h := get_staged (bytesOf v 64) o 0 m.dev.sec.staging a
  have hstaging : (m.chunkStored o v).dev.sec.staging =
      (bytesOf v 64).zipIdx.foldl (fun t b => Tab.put t (o + b.2) b.1) m.dev.sec.staging := by
    rw [M.chunkStored, M.sec_setObj, M.sec_modSec]
  rw [bytesOf_length, Nat.add_zero] at h
  rw [hstaging, h]

end

/-! ## The end of an APPLY -/

section
variable {m : M} {sig tag digest : Bool}

/-- What APPLY has found is taken up. -/
def M.applyTaken (m : M) : M := m.modSec fun q => { q with applying := none }

theorem M.sessApplied_idle (hst : m.sessState ≠ 2) : m.sessApplied sig tag digest = m := if_pos hst

theorem M.sessApplied_image (hst : m.sessState = 2) {g : Image} (hfound : m.dev.sec.applying = some (.inr g)) :
    m.sessApplied sig tag digest = if sig && tag && digest then (m.applyTaken.modProc m.sessProc fun p => { p with other := some g }).endSession 3 0
      else m.applyTaken.endSession 5 (if !sig then 1 else if !tag then 5 else 6) := by
  unfold M.sessApplied
  rw [if_neg (not_not.mpr hst), hfound]
  cases sig
  · rfl
  · cases tag
    · rfl
    · cases digest <;> rfl

theorem M.sessApplied_error (hst : m.sessState = 2) {e : Nat} (hfound : m.dev.sec.applying = some (.inl e)) :
    m.sessApplied sig tag digest = m.applyTaken.endSession 5 (if e = 9 || sig then e else 1) := by
  unfold M.sessApplied
  rw [if_neg (not_not.mpr hst), hfound]
  dsimp only
  split
  · next h => cases h; rfl
  · next e' hne h =>
    cases h
    have : e ≠ 9 := fun h => hne (by rw [h])
    simp [this, M.applyTaken]
  · next h => cases h

theorem M.session_applyTaken (m : M) : M.Session m m.applyTaken := m.session_modSec _

end

/-! ## The commands' ends -/

section
variable {s : State} {p : Party} (hserves : (M.of s).Serves p) (hon : (M.of s).domState 36 = 0)
include hserves hon

theorem beginUpdate_ends {n : Fin 4} (hn : n ≠ 0) (hidle : (M.of s).sessState = 0) (hnone : (M.of s).anyPending = false) :
    Ends (.beginUpdate p n) s fun m => m.SessionAt 1 0 ∧ m.sessProc = n.val ∧ m.dev.sec.owner = some p ∧
      m.dev.sec.sessions = (M.of s).dev.sec.sessions + 1 ∧ (M.of s).SameWork m ∧ (M.of s).SameIndices m [0x9020] := by
  refine session_ends (session_applies (cmd := 1) hserves hon (exec_beginUpdate p s n) (by decide) (fun _ => hn)
    (by show M.sessTakes _ 1 = true; rw [M.sessTakes_begin, hidle, hnone]; rfl)) ((M.of s).session_sessBegin p n)
    fun m' hobj hsec hwork hindices => ⟨((M.of s).sessionAt_sessBegin p n).same hobj, ?_, ?_, ?_, hwork, hindices⟩
  · refine Eq.trans ?_ ((M.of s).sessProc_sessBegin p n.isLt)
    exact congrArg (fld · 9 8) (hobj _ _)
  · rw [hsec]; rfl
  · rw [hsec]; rfl

theorem applyPackage_ends (hopen : (M.of s).sessState = 1) :
    Ends (.applyPackage p) s fun m => m.SessionAt 2 0 ∧ m.proc (M.of s).sessProc = ((M.of s).proc (M.of s).sessProc).emptied ∧
      m.dev.sec.applying = some (M.of s).pkgChecks ∧ (M.of s).SameWork m ∧ (M.of s).SameIndices m [0x9020] := by
  refine session_ends (session_applies (cmd := 2) (n := 0) hserves hon (exec_applyPackage p s) (by decide) (by decide)
    (by show ((M.of s).sessState == 1) = true; rw [hopen]; rfl)) (M.of s).session_sessApply
    fun m' hobj hsec hwork hindices => ⟨(M.of s).sessionAt_sessApply.same hobj, ?_, ?_, hwork, hindices⟩
  · exact (M.proc_same hsec _).trans (M.of s).proc_sessApply
  · rw [hsec]
    exact (M.of s).applying_sessApply

theorem activate_ends {g : Image} (hready : (M.of s).sessState = 3) (hother : ((M.of s).proc (M.of s).sessProc).other = some g) :
    Ends (.activate p) s fun m => m.SessionAt 4 0 ∧
      m.proc (M.of s).sessProc = (((M.of s).proc (M.of s).sessProc).swapped g).awaiting ∧
      ((M.of s).sessProc = 1 → m.responder = true ∧ m.dev.faults.mcDown = true) ∧
      ((M.of s).sessProc = 3 → m.dev.reset = some ⟨4, 0, false, false, false⟩) ∧
      (M.of s).SameMem m ∧ (M.of s).SameCores m [] ∧ (M.of s).SameIndices m [0x9020] := by
  obtain ⟨b, heq, hb⟩ := M.sessActivate_eq hother
  have hr := hb.restart (M.of s).sessProc
  have happlies : Applies (.activate p) s 0x9020 1 3 M.sessActivate := session_applies (cmd := 3) (n := 0) hserves hon
    (exec_activate p s) (by decide) (by decide) (by show ((M.of s).sessState == 3) = true; rw [hready]; rfl)
  refine ends_applied happlies (heq ▸ hr.fuse) (heq ▸ hr.ops) fun m' d hlike hmem => ?_
  replace hlike : M.Like m' ((b.restartProc (M.of s).sessProc).modLed fun _ => d) := heq ▸ hlike
  obtain ⟨hword, hproc, hcores, hindices⟩ := hr.views (m := m') (fun i j => LikeViews.obj hlike i j) (by rw [hlike.dev]; rfl)
    (by rw [hlike.dev]; rfl)
  refine ⟨hword, hproc, fun h1 => ?_, fun h3 => ?_, hmem, hcores, hindices⟩
  · rw [M.responder, hlike.dev, h1]
    exact ⟨rfl, rfl⟩
  · rw [hlike.dev, h3]
    rfl

theorem confirm_ends (hpending : (M.of s).sessState = 4) :
    Ends (.confirm p) s fun m => m.SessionAt 0 0 ∧ m.proc (M.of s).sessProc = ((M.of s).proc (M.of s).sessProc).confirmed ∧
      m.dev.sec.revoked = (M.of s).dev.sec.revoked ||| ((M.of s).proc (M.of s).sessProc).active.revoke ∧
      (M.of s).SameWork m ∧ (M.of s).SameIndices m [0x9020] := by
  refine session_ends (session_applies (cmd := 4) (n := 0) hserves hon (exec_confirm p s) (by decide) (by decide)
    (by show ((M.of s).sessState == 4) = true; rw [hpending]; rfl)) (M.of s).session_sessConfirm
    fun m' hobj hsec hwork hindices => ⟨(M.of s).sessionAt_sessConfirm.same hobj, ?_, ?_, hwork, hindices⟩
  · exact (M.proc_same hsec _).trans (M.of s).proc_sessConfirm
  · rw [hsec]
    exact (M.of s).revoked_sessConfirm

theorem revert_ends {g : Image} (hst : (M.of s).sessState = 4) (hpending : ((M.of s).proc (M.of s).sessProc).pending = true)
    (hother : ((M.of s).proc (M.of s).sessProc).other = some g) :
    Ends (.revert p) s fun m => m.SessionAt 0 0 ∧ m.proc (M.of s).sessProc = (((M.of s).proc (M.of s).sessProc).swapped g).fallen ∧
      (M.of s).SameMem m ∧ (M.of s).SameCores m [] ∧ (M.of s).SameIndices m [0x9020] := by
  have hr := M.revertProc_back (err := 0) hpending hother (by decide)
  refine ends_applied (g := fun m => m.sessCommand p 5 0) (session_applies (cmd := 5) (n := 0) hserves hon (exec_revert p s) (by decide)
    (by decide) (by show ((M.of s).sessState == 4) = true; rw [hst]; rfl)) hr.fuse hr.ops fun m' d hlike hmem => ?_
  obtain ⟨hword, hproc, hcores, hindices⟩ := hr.views (m := m') (fun i j => LikeViews.obj hlike i j) (by rw [hlike.dev]; rfl)
    (by rw [hlike.dev]; rfl)
  exact ⟨hword, hproc, hmem, hcores, hindices⟩

theorem cancel_ends (hst : (M.of s).sessState = 1 ∨ (M.of s).sessState = 3 ∨ (M.of s).sessState = 5) :
    Ends (.cancel p) s fun m => m.SessionAt 0 0 ∧ m.dev.sec.owner = none ∧
      m.proc (M.of s).sessProc = ((M.of s).proc (M.of s).sessProc).emptied ∧ (M.of s).SameWork m ∧ (M.of s).SameIndices m [0x9020] := by
  have hcancel := M.cancelSession_open (m := M.of s) ⟨by omega, by omega⟩
  have hses := ((M.of s).session_modProc (M.of s).sessProc Proc.emptied).trans (M.session_endSession _ 0 0)
  have happlies := session_applies (cmd := 6) (n := 0) hserves hon (exec_cancel p s) (by decide) (by decide)
    (by show M.sessTakes _ 6 = true; rw [M.sessTakes_cancel]; rcases hst with h | h | h <;> rw [h] <;> rfl)
  refine session_ends happlies (show M.Session (M.of s) (M.of s).cancelSession from hcancel ▸ hses) fun m' hobj hsec hwork hindices => ?_
  replace hobj : ∀ i j, m'.obj i j = (((M.of s).modProc (M.of s).sessProc Proc.emptied).endSession 0 0).obj i j := hcancel ▸ hobj
  replace hsec : m'.dev.sec = (((M.of s).modProc (M.of s).sessProc Proc.emptied).endSession 0 0).dev.sec := hcancel ▸ hsec
  refine ⟨(M.sessionAt_endSession _ (by decide) (by decide)).same hobj, ?_, ?_, hwork, hindices⟩
  · rw [hsec]
    rfl
  · rw [M.proc_same hsec, M.proc_endSession, M.proc_modProc]

theorem chunk_ends {data : BitVec 512} (hroom : (M.of s).obj 0x9020 6 + 64 ≤ 0x3000000) :
    Ends (.chunk p data) s fun m => m.obj 0x9020 6 = (M.of s).obj 0x9020 6 + 64 ∧
      (∀ k, k < 64 → Tab.get m.dev.sec.staging 0 ((M.of s).obj 0x9020 6 + k) = BitVec.ofNat 8 (data.toNat / 2 ^ (8 * k))) ∧
      (∀ a, a < (M.of s).obj 0x9020 6 ∨ (M.of s).obj 0x9020 6 + 64 ≤ a →
        Tab.get m.dev.sec.staging 0 a = Tab.get (M.of s).dev.sec.staging 0 a) ∧
      (M.of s).SameWork m ∧ (M.of s).SameIndices m [0x9020] := by
  obtain ⟨hhears, hserved, howner⟩ := hserves
  have hput := M.putChunk_eq data.toNat (m := (M.of s).setObj 0x9020 7 (chunkSpec.store ((M.of s).obj 0x9020 7) data.toNat))
    (M.obj_setObj_ne _ _ _ _ _ _ (by decide) (by decide) (by decide)) hroom
  have happlies : Applies (.chunk p data) s 0x9020 7 data.toNat fun m =>
      (m.setObj 0x9020 7 (chunkSpec.store (m.obj 0x9020 7) data.toNat)).chunkStored (m.obj 0x9020 6) data.toNat :=
    applies_taken (exec_chunk p s data) hhears hserved (fun _ => howner) objSpec_chunk (M.available_security hon) (chunkSpec_takes _)
      (congrArg (Prod.mk 0) hput)
  refine session_ends happlies (((M.of s).session_setObj _ (by decide)).trans (M.session_chunkStored _ _ _))
    fun m' hobj hsec hwork hindices => ⟨?_, fun k hk => ?_, fun a ha => ?_, hwork, hindices⟩
  · rw [hobj, M.offset_chunkStored]
  · rw [hsec, M.staging_chunkStored, if_pos (by omega), Nat.add_sub_cancel_left, getD_bytesOf _ _ _ hk]
  · rw [hsec, M.staging_chunkStored, if_neg (by omega)]
    rfl

end

/-! ### Reports -/

/-- A report stands complete, and none is being formed. -/
def M.reportShown (m : M) (report : List Byte) : M :=
  ((((m.modSec fun k => { k with forming := none, report := report }).setObjBit 0x9010 3 0 false).setObjBit 0x9010 3 1 true).satObj
    0x9010 3 31 16 1)

/-- A report's body with its signature (R487). -/
def M.signed (m : M) (body : List Byte) : List Byte :=
  body ++ bytesFrom 3309 (Config.signByte m.fuse.serial 0 body) ++ List.replicate 19 0

section
variable (m : M) (report : List Byte)

variable {m} in
theorem M.attestReady_formed {body : List Byte} (h : m.dev.sec.forming = some body) : m.attestReady = m.reportShown (m.signed body) := by
  unfold M.attestReady
  rw [h]
  rfl

theorem M.word_reportShown : (m.reportShown report).obj 0x9010 3 = satFld (setBit (setBit (m.obj 0x9010 3) 0 false) 1 true) 31 16 1 := by
  have hbit : ∀ (a : M) (k : Nat) (b : Bool), (a.setObjBit 0x9010 3 k b).obj 0x9010 3 = setBit (a.obj 0x9010 3) k b :=
    fun a k b => a.obj_setObjFld_same _ _ _ _ _
  unfold M.reportShown
  rw [M.obj_satObj_same, hbit, hbit]
  rfl

theorem M.sec_reportShown : (m.reportShown report).dev.sec = { m.dev.sec with forming := none, report := report } := rfl

theorem M.aside_reportShown : M.Aside m (m.reportShown report) :=
  (((m.session_modSec _).aside.trans (M.aside_setObj _ _ _ _)).trans (M.aside_setObj _ _ _ _)).trans (M.aside_setObj _ _ _ _)

theorem M.obj_reportShown {i j : Nat} (hj : j < 256) (hi : i ≠ 0x9010) : (m.reportShown report).obj i j = m.obj i j := by
  have hne : (i, j) ≠ (0x9010, 3) := fun e => hi (congrArg Prod.fst e)
  unfold M.reportShown
  rw [M.obj_satObj_ne _ _ _ _ _ _ _ _ hj (by decide) hne, M.obj_setObjBit_ne _ _ _ _ _ _ _ hj (by decide) hne,
    M.obj_setObjBit_ne _ _ _ _ _ _ _ hj (by decide) hne]
  rfl

end

section
variable {s : State} (hlive : (M.of s).live = true) (hon : (M.of s).domState 36 = 0)
include hlive hon

/-- What needs the security block's domain runs. -/
theorem M.when_security (f : M → M) : (M.of s).when ((M.of s).live && (M.of s).domOn 36) f = f (M.of s) := by
  rw [hlive, show (M.of s).domOn 36 = true by simp [M.domOn, hon]]
  rfl

theorem attestReportReady_ends {body : List Byte} (hforming : (M.of s).dev.sec.forming = some body) :
    Ends .attestReportReady s fun m =>
      m.dev.sec.report = body ++ bytesFrom 3309 (Config.signByte s.fuse.serial 0 body) ++ List.replicate 19 0 ∧ m.dev.sec.forming = none ∧
      m.objBit 0x9010 3 0 = false ∧ m.objBit 0x9010 3 1 = true ∧
      m.objFld 0x9010 3 31 16 = min ((M.of s).objFld 0x9010 3 31 16 + 1) 0xFFFF ∧ (M.of s).SameWork m ∧ (M.of s).SameIndices m [0x9010] := by
  have hbit : ∀ k, k < 16 → ((M.of s).reportShown ((M.of s).signed body)).objBit 0x9010 3 k =
      if k = 1 then true else if k = 0 then false else (M.of s).objBit 0x9010 3 k := fun k hk => by
    rw [M.objBit, M.word_reportShown, satFld, testBit_setFld_outside _ _ _ _ _ (.inl hk) (by decide), testBit_setBit, testBit_setBit]
    rfl
  refine ends_quiet (r := (M.of s).reportShown ((M.of s).signed body)) (exec_attestReportReady s)
    ((M.when_security hlive hon M.attestReady).trans (M.attestReady_formed hforming))
    ((M.of s).aside_reportShown _).fuse ((M.of s).aside_reportShown _).ops fun m' hlike hmem =>
    ⟨?_, ?_, ?_, ?_, ?_, ((M.of s).aside_reportShown _).sameWork hlike hmem, fun i j hj hi => ?_⟩
  · rw [hlike.dev, M.sec_reportShown]
    rfl
  · rw [hlike.dev, M.sec_reportShown]
  · rw [LikeViews.objBit hlike]; exact hbit 0 (by decide)
  · rw [LikeViews.objBit hlike]; exact hbit 1 (by decide)
  · rw [LikeViews.objFld hlike, M.objFld, M.word_reportShown, fld_satFld, fld_setBit_ne _ _ _ _ _ (.inl (by decide)),
      fld_setBit_ne _ _ _ _ _ (.inl (by decide))]
    rfl
  · rw [LikeViews.obj hlike]
    exact M.obj_reportShown _ _ hj (by simpa using hi)

/-- APPLY_DONE ends as the session's end does. -/
theorem applyDone_ends {sig tag digest : Bool} {r : M} {P : M → Prop} (hr : (M.of s).sessApplied sig tag digest = r)
    (hs : M.Session (M.of s) r) (hP : ∀ m' : M, (∀ i j, m'.obj i j = r.obj i j) → m'.dev.sec = r.dev.sec → (M.of s).SameWork m' →
      (M.of s).SameIndices m' [0x9020] → P m') : Ends (.applyDone sig tag digest) s P := by
  refine ends_quiet (exec_applyDone s sig tag digest) ((M.when_security hlive hon _).trans hr) hs.fuse hs.ops fun m' hlike hmem =>
    hP m' (fun i j => LikeViews.obj hlike i j) ?_ (hs.aside.sameWork hlike hmem) fun i j hj hi => ?_
  · rw [hlike.dev]
  · rw [LikeViews.obj hlike]
    exact hs.obj i j hj (by simpa using hi)

theorem applyDone_image {sig tag digest : Bool} (hst : (M.of s).sessState = 2) {g : Image}
    (hfound : (M.of s).dev.sec.applying = some (.inr g)) :
    Ends (.applyDone sig tag digest) s fun m =>
      (if sig && tag && digest then m.SessionAt 3 0 ∧ (m.proc (M.of s).sessProc).other = some g
        else m.SessionAt 5 (if !sig then 1 else if !tag then 5 else 6) ∧
          (m.proc (M.of s).sessProc).other = ((M.of s).proc (M.of s).sessProc).other) ∧
      (m.proc (M.of s).sessProc).active = ((M.of s).proc (M.of s).sessProc).active ∧ m.dev.sec.applying = none ∧
      (M.of s).SameWork m ∧ (M.of s).SameIndices m [0x9020] := by
  have hr := M.sessApplied_image (sig := sig) (tag := tag) (digest := digest) hst hfound
  by_cases hok : (sig && tag && digest) = true
  · rw [if_pos hok] at hr
    refine applyDone_ends hlive hon hr (((M.of s).session_applyTaken.trans (M.session_modProc _ _ _)).trans (M.session_endSession _ _ _))
      fun m' hobj hsec hwork hindices => ?_
    have hproc := M.proc_same hsec (M.of s).sessProc
    rw [M.proc_endSession, M.proc_modProc, M.applyTaken, M.proc_applying] at hproc
    rw [if_pos hok, hproc, hsec]
    exact ⟨⟨(M.sessionAt_endSession _ (by decide) (by decide)).same hobj, rfl⟩, rfl, rfl, hwork, hindices⟩
  · rw [if_neg hok] at hr
    refine applyDone_ends hlive hon hr ((M.of s).session_applyTaken.trans (M.session_endSession _ _ _)) fun m' hobj hsec hwork hindices => ?_
    have hproc := M.proc_same hsec (M.of s).sessProc
    rw [M.proc_endSession, M.applyTaken, M.proc_applying] at hproc
    rw [if_neg hok, hproc, hsec]
    exact ⟨⟨(M.sessionAt_endSession _ (by decide) (by split <;> [decide; split <;> decide])).same hobj, rfl⟩, rfl, rfl, hwork, hindices⟩

theorem applyDone_error {sig tag digest : Bool} (hst : (M.of s).sessState = 2) {e : Nat}
    (hfound : (M.of s).dev.sec.applying = some (.inl e)) (he : e < 256) :
    Ends (.applyDone sig tag digest) s fun m => m.SessionAt 5 (if e = 9 || sig then e else 1) ∧
      (m.proc (M.of s).sessProc).active = ((M.of s).proc (M.of s).sessProc).active ∧ (M.of s).SameWork m ∧
      (M.of s).SameIndices m [0x9020] := by
  refine applyDone_ends hlive hon (M.sessApplied_error hst hfound) ((M.of s).session_applyTaken.trans (M.session_endSession _ _ _))
    fun m' hobj hsec hwork hindices => ⟨(M.sessionAt_endSession _ (by decide) (by split <;> omega)).same hobj, ?_, hwork, hindices⟩
  have hproc := M.proc_same hsec (M.of s).sessProc
  rw [M.proc_endSession, M.applyTaken, M.proc_applying] at hproc
  rw [hproc]

end

/-! ### A pending image that is not confirmed -/

/-- A command that reverts processor `p`. -/
theorem revertProc_ends {c : Instr} {s : State} {f : M → M} {p err : Nat} {g : Image} (e : exec c s = s.run f)
    (hf : f (M.of s) = (M.of s).revertProc p err) (hpending : ((M.of s).proc p).pending = true) (hother : ((M.of s).proc p).other = some g)
    (herr : err < 256) : Ends c s fun m => m.SessionAt 0 err ∧ m.proc p = (((M.of s).proc p).swapped g).fallen ∧
      (M.of s).SameMem m ∧ (M.of s).SameCores m [] ∧ (M.of s).SameIndices m [0x9020] := by
  have hr := M.revertProc_back hpending hother herr
  refine ends_quiet e hf hr.fuse hr.ops fun m' hlike hmem => ?_
  obtain ⟨hword, hproc, hcores, hindices⟩ := hr.views (m := m') (fun i j => LikeViews.obj hlike i j) (by rw [hlike.dev]) (by rw [hlike.dev])
  exact ⟨hword, hproc, hmem, hcores, hindices⟩

/-- What a property says of the state, another that it implies does. -/
theorem Ends.mono {c : Instr} {s : State} {P Q : M → Prop} (h : Ends c s P) (k : ∀ m, P m → Q m) : Ends c s Q := by
  obtain ⟨t, ht, hP⟩ := h
  exact ⟨t, ht, k _ hP⟩

/-- The first of the checks of R495 that fail. -/
theorem M.pkgChecks_poisoned {m : M} (h : m.pkgPoisoned = true) : m.pkgChecks = .inl 9 := if_pos h

section
variable {m : M} (hclean : m.pkgPoisoned = false) (hlayout : m.pkgNum 0 2 = 1) (hkey : m.pkgNum 3 1 ≤ 3)
include hclean hlayout hkey

theorem M.pkgChecks_revoked (hrevoked : m.dev.sec.revoked.testBit (m.pkgNum 3 1) = true) : m.pkgChecks = .inl 2 := by
  unfold M.pkgChecks
  dsimp only
  rw [if_neg (Bool.eq_false_iff.mp hclean), show m.pkgImage.key = m.pkgNum 3 1 from rfl, if_neg (by simp [hlayout, hkey]), if_pos hrevoked]

theorem M.pkgChecks_old (hgood : m.dev.sec.revoked.testBit (m.pkgNum 3 1) = false) (hold : m.pkgNum 8 1 < (m.proc m.sessProc).floor) :
    m.pkgChecks = .inl 3 := by
  unfold M.pkgChecks
  dsimp only
  rw [if_neg (Bool.eq_false_iff.mp hclean), show m.pkgImage.key = m.pkgNum 3 1 from rfl, show m.pkgImage.svn = m.pkgNum 8 1 from rfl,
    if_neg (by simp [hlayout, hkey]), if_neg (Bool.eq_false_iff.mp hgood), if_pos hold]

end

/-- Settles O60: each command is what the session's state takes, and then ends as the session's word and the processor it names say. -/
theorem reportsAndUpdatesRun : Obligations.ReportsAndUpdatesRun := by
  refine ⟨fun p n data s hserves hon => ?commands, fun sig tag digest s hlive hon => ?ready, fun s hruns => ?limits⟩
  case commands =>
    have hserves' := hserves
    obtain ⟨hhears, hserved, howner⟩ := hserves'
    have hsecurity : ∀ idx, (M.of s).unavailable idx false = false := fun _ => M.available_security hon
    intro st q old at_
    refine ⟨fun hbusy => ?busy, fun hfree => ?request, fun h0 => ?noProc, fun hn hst => ?taken, fun hn hst hnone => ?begins, fun hst => ?notOpen,
      fun hst => ?applies, fun hst => ?notReady, fun g hst _ hother => ?activates, fun hst => ?notPending, fun hst => ?confirms,
      fun g hst hpending hother => ?reverts, fun h1 h3 h5 => ?notCancel, fun hst => ?cancels, fun hroom => ?chunk⟩
    case busy =>
      exact rejects_taken (exec_attestRequest p s) hhears hserved (fun _ => howner) objSpec_request (hsecurity _) (by decide) (by decide)
        (if_pos hbusy)
    case request =>
      exact applies_taken (exec_attestRequest p s) hhears hserved (fun _ => howner) objSpec_request (hsecurity _) (by decide)
        (if_neg (Bool.eq_false_iff.mp hfree))
    case noProc =>
      have hn : n = 0 := Fin.ext h0
      subst hn
      exact rejects_taken (exec_beginUpdate p s 0) hhears hserved (fun _ => howner) objSpec_session (hsecurity _) (by decide) (by decide) rfl
    case taken =>
      refine session_rejects (cmd := 1) hserves hon (exec_beginUpdate p s n) (by decide) (fun _ h => hn (congrArg Fin.val h)) ?_
      show M.sessTakes _ 1 = false
      rw [M.sessTakes_begin]
      rcases hst with h | h
      · rw [show ((M.of s).sessState == 0) = false from beq_false_of_ne h]; rfl
      · rw [h]; simp
    case begins =>
      refine (beginUpdate_ends hserves hon (fun h => hn (congrArg Fin.val h)) hst hnone).mono fun m h => ?_
      exact h
    case notOpen => exact session_rejects (cmd := 2) (n := 0) hserves hon (exec_applyPackage p s) (by decide) (by decide) (beq_false_of_ne hst)
    case applies =>
      refine (applyPackage_ends hserves hon hst).mono fun m ⟨hword, hproc, hfound, hwork, hindices⟩ => ⟨hword, ?_, ?_, fun hp => ?_,
        fun hclean hlayout hkey => ⟨fun hrevoked => ?_, fun hgood hold => ?_⟩, hwork, hindices⟩
      · exact (congrArg Proc.other hproc).trans rfl
      · exact (congrArg Proc.active hproc).trans rfl
      · rw [hfound, M.pkgChecks_poisoned hp]
      · rw [hfound, M.pkgChecks_revoked hclean hlayout hkey hrevoked]
      · rw [hfound, M.pkgChecks_old hclean hlayout hkey hgood hold]
    case notReady => exact session_rejects (cmd := 3) (n := 0) hserves hon (exec_activate p s) (by decide) (by decide) (beq_false_of_ne hst)
    case activates =>
      exact (activate_ends hserves hon hst hother).mono fun m ⟨hword, hproc, hmc, htwp, hmem, hcores, hindices⟩ =>
        ⟨hword, (congrArg Proc.active hproc).trans rfl, (congrArg Proc.other hproc).trans rfl, (congrArg Proc.slotB hproc).trans rfl, (congrArg Proc.pending hproc).trans rfl, hmc, htwp, hmem,
          hcores, hindices⟩
    case notPending =>
      exact ⟨session_rejects (cmd := 4) (n := 0) hserves hon (exec_confirm p s) (by decide) (by decide) (beq_false_of_ne hst),
        session_rejects (cmd := 5) (n := 0) hserves hon (exec_revert p s) (by decide) (by decide) (beq_false_of_ne hst)⟩
    case confirms =>
      exact (confirm_ends hserves hon hst).mono fun m ⟨hword, hproc, hrevoked, hwork, hindices⟩ =>
        ⟨hword, (congrArg Proc.active hproc).trans rfl, (congrArg Proc.pending hproc).trans rfl, (congrArg Proc.fellBack hproc).trans rfl, (congrArg Proc.floor hproc).trans rfl, hrevoked,
          hwork, hindices⟩
    case reverts =>
      exact (revert_ends hserves hon hst hpending hother).mono fun m ⟨hword, hproc, hmem, hcores, hindices⟩ =>
        ⟨hword, (congrArg Proc.active hproc).trans rfl, (congrArg Proc.pending hproc).trans rfl, (congrArg Proc.fellBack hproc).trans rfl, hmem, hcores, hindices⟩
    case notCancel =>
      refine session_rejects (cmd := 6) (n := 0) hserves hon (exec_cancel p s) (by decide) (by decide) ?_
      show M.sessTakes _ 6 = false
      rw [M.sessTakes_cancel, beq_false_of_ne h1, beq_false_of_ne h3, beq_false_of_ne h5]
      rfl
    case cancels =>
      exact (cancel_ends hserves hon hst).mono fun m ⟨hword, hnone, hproc, hwork, hindices⟩ =>
        ⟨hword, hnone, (congrArg Proc.active hproc).trans rfl, (congrArg Proc.other hproc).trans rfl, hwork, hindices⟩
    case chunk => exact chunk_ends hserves hon hroom
  case ready =>
    intro q at_
    refine ⟨fun hnone => does_of (exec_attestReportReady s) ((M.when_security hlive hon _).trans ?_),
      fun body hforming => attestReportReady_ends hlive hon hforming,
      fun hst => does_of (exec_applyDone s sig tag digest) ((M.when_security hlive hon _).trans (M.sessApplied_idle hst)),
      fun hst => ⟨fun g hfound => applyDone_image hlive hon hst hfound, fun e hfound he => applyDone_error hlive hon hst hfound he⟩⟩
    unfold M.attestReady
    rw [hnone]
    rfl
  case limits =>
    refine ⟨fun hnone => ⟨does_of (exec_confirmLimitExpiry s) ?_, does_of (exec_startFailTimeout s) ?_⟩, fun p g hpending hother => ?_⟩
    · rw [hruns, M.when_true, hnone]; rfl
    · rw [hruns, M.when_true, hnone]; rfl
    · have hproc := M.pending_of_pendingProc hpending
      intro back
      have hback : ∀ {m : M} {err : Nat}, m.SessionAt 0 err ∧ m.proc p = (((M.of s).proc p).swapped g).fallen ∧
          (M.of s).SameMem m ∧ (M.of s).SameCores m [] ∧ (M.of s).SameIndices m [0x9020] → back err m :=
        fun ⟨⟨hidle, herr⟩, h, hmem, hcores, hindices⟩ =>
          ⟨hidle, herr, (congrArg Proc.active h).trans rfl, (congrArg Proc.pending h).trans rfl, (congrArg Proc.fellBack h).trans rfl, hmem, hcores, hindices⟩
      refine ⟨(revertProc_ends (exec_confirmLimitExpiry s) ?_ hproc hother (by decide)).mono fun m h => hback h,
        fun hdown => (revertProc_ends (exec_startFailTimeout s) ?_ hproc hother (by decide)).mono fun m h => hback h,
        fun hp hup => does_of (exec_startFailTimeout s) ?_⟩
      · rw [hruns, M.when_true, hpending]
      · rw [hruns, M.when_true, hpending]
        refine if_neg ?_
        rcases hdown with h | h
        · simp [h]
        · rw [h]; simp
      · rw [hruns, M.when_true, hpending]
        exact if_pos (by rw [hp, hup]; rfl)

end Sys2Proof.Machine
end

section
/-! Resets, bring-up and tests (19_clocks_reset_bringup.md R438 to R446; 20_faults_fencing.md R449 to R460): requests, their progress,
the device reset, the stages, the watchdog, the bond test. -/

namespace Sys2Proof.Machine

/-! ## What each command runs -/

section
variable (p : Party) (x : BitVec 8) (s : State)

theorem exec_resetCore : exec (.resetCore p x) s = s.run fun m => m.partyWrite p 0x2100 1 (x.toNat * 256 + 1) := rfl

theorem exec_resetTier (full : Bool) :
    exec (.resetTier p x full) s = s.run fun m => m.partyWrite p 0x2100 1 (x.toNat * 256 + full.toNat * 16 + 2) := rfl

theorem exec_resetPartition : exec (.resetPartition p x) s = s.run fun m => m.partyWrite p 0x2100 1 (x.toNat * 256 + 3) := rfl

theorem exec_resetDevice : exec (.resetDevice p) s = s.run fun m => m.partyWrite p 0x2100 1 4 := rfl

theorem exec_resetBegin : exec .resetBegin s = s.run fun m => m.when m.live M.beginReset := rfl

theorem exec_spineQuiesceEnd (n : BitVec 32) :
    exec (.spineQuiesceEnd n) s = s.run fun m => m.when m.live fun m => m.quiesceEnd n.toNat := rfl

theorem exec_resetRelease : exec .resetRelease s = s.run fun m => m.when m.live M.releaseReset := rfl

theorem exec_powerOn :
    exec .powerOn s = s.run fun m => m.when (!m.dev.powered || m.dev.tripped || m.dev.oscLost) M.coldBoot := rfl

theorem exec_bringupStageEnd (ok : Bool) (bad : BitVec 24) (cold : BitVec 6) :
    exec (.bringupStageEnd ok bad cold) s = s.run fun m => m.when m.live fun m => m.stageEnd ok bad.toNat cold.toNat := rfl

end

/-! ## Requests -/

/-- The word of a request: a target over FULL_LAYER and the level. -/
theorem resetWord_fields {x level : Nat} (hx : x < 256) (hl : level < 8) (full : Bool) :
    fld (x * 256 + full.toNat * 16 + level) 2 0 = level ∧ fld (x * 256 + full.toNat * 16 + level) 15 8 = x ∧
      (x * 256 + full.toNat * 16 + level).testBit 4 = full := by
  rw [Nat.testBit_eq_decide_div_mod_eq]
  unfold fld bitsAt
  cases full <;> simp <;> omega

theorem resetSpec_takes {x level : Nat} (hx : x < 256) (hl : level < 8) (full : Bool) :
    resetSpec.Takes (x * 256 + full.toNat * 16 + level) := by
  obtain ⟨hcode, hclamp⟩ := trig_any [⟨15, 8, .trig⟩, ⟨4, 4, .trig⟩, ⟨2, 0, .trig⟩] (by decide) (x * 256 + full.toNat * 16 + level)
  refine ⟨rfl, reserved_none _ _ fun i hi hcov => ?_, hcode, hclamp⟩
  have hi : i < 32 := hi
  have hword : x * 256 + full.toNat * 16 + level = 2 ^ 8 * x + (2 ^ 4 * full.toNat + level) := by omega
  have hfull : full.toNat < 2 := by cases full <;> decide
  rw [hword, Nat.testBit_two_pow_mul_add _ (by omega), Nat.testBit_two_pow_mul_add _ (by omega)]
  have hgap : i = 3 ∨ (4 < i ∧ i < 8) ∨ 16 ≤ i := by
    by_contra h
    have hin : i ≤ 2 ∨ i = 4 ∨ (8 ≤ i ∧ i ≤ 15) := by omega
    refine absurd hcov (Bool.eq_false_iff.not.mpr (not_not.mpr ?_))
    clear hword hcov h
    rcases hin with h | h | ⟨h, h'⟩
    · interval_cases i <;> decide
    · subst h; decide
    · interval_cases i <;> decide
  rcases hgap with h | h | h
  · subst h
    exact Nat.testBit_lt_two_pow (by omega)
  · rw [if_pos h.2, if_neg (by omega)]
    exact Nat.testBit_lt_two_pow (lt_of_lt_of_le (show full.toNat < 2 ^ 1 from hfull)
      (Nat.pow_le_pow_right (by decide : 0 < 2) (show 1 ≤ i - 4 by omega)))
  · rw [if_neg (by omega)]
    exact Nat.testBit_lt_two_pow (lt_of_lt_of_le (show x < 2 ^ 8 from hx) (Nat.pow_le_pow_right (by decide : 0 < 2) (show 8 ≤ i - 8 by omega)))

theorem M.writeReset_eq (m : M) {x level : Nat} (hx : x < 256) (hl : level < 8) (full : Bool) :
    m.writeReset (x * 256 + full.toNat * 16 + level) = if !resetExists level x full then (5, m)
      else if !m.mayReset level x then (7, m) else (0, m.askReset level x full) := by
  obtain ⟨hlevel, htarget, hfull⟩ := resetWord_fields hx hl full
  unfold M.writeReset
  rw [hlevel, htarget, hfull]
  rfl

section
variable {c : Instr} {s : State} {p : Party} {v x level : Nat} {full : Bool} (hserves : (M.of s).Serves p)
  (e : exec c s = s.run fun m => m.partyWrite p 0x2100 1 v) (hv : v = x * 256 + full.toNat * 16 + level) (hx : x < 256) (hl : level < 8)
include hserves e hv hx hl

theorem reset_rejectsRange (hnone : resetExists level x full = false) : Rejects c s 0x2100 1 v 5 := by
  subst hv
  obtain ⟨hhears, hserved, howner⟩ := hserves
  exact rejects_taken e hhears hserved (fun _ => howner) objSpec_reset rfl (resetSpec_takes hx hl full) (by decide)
    (((M.of s).writeReset_eq hx hl full).trans (by rw [hnone]; rfl))

theorem reset_rejectsState (hexists : resetExists level x full = true) (hmay : (M.of s).mayReset level x = false) :
    Rejects c s 0x2100 1 v 7 := by
  subst hv
  obtain ⟨hhears, hserved, howner⟩ := hserves
  exact rejects_taken e hhears hserved (fun _ => howner) objSpec_reset rfl (resetSpec_takes hx hl full) (by decide)
    (((M.of s).writeReset_eq hx hl full).trans (by rw [hexists, hmay]; rfl))

theorem reset_applies (hexists : resetExists level x full = true) (hmay : (M.of s).mayReset level x = true) :
    Applies c s 0x2100 1 v fun m => m.askReset level x full := by
  subst hv
  obtain ⟨hhears, hserved, howner⟩ := hserves
  exact applies_taken e hhears hserved (fun _ => howner) objSpec_reset rfl (resetSpec_takes hx hl full)
    (((M.of s).writeReset_eq hx hl full).trans (by rw [hexists, hmay]; rfl))

end

theorem M.mayReset_busy {m : M} (h : m.dev.reset ≠ none) (level target : Nat) : m.mayReset level target = false := by
  simp [M.mayReset, h]

theorem M.mayReset_fused {m : M} {target : Nat} (h : m.fusedOff target = true) : m.mayReset 1 target = false := by
  simp [M.mayReset, h]

theorem M.mayReset_free {m : M} (h : m.dev.reset = none) {level target : Nat} (hf : level = 1 → m.fusedOff target = false) :
    m.mayReset level target = true := by
  by_cases h1 : level = 1
  · simp [M.mayReset, h, hf h1]
  · simp [M.mayReset, h, h1]

/-! ## Progress of a reset -/

section
variable {m : M} {r : ResetReq} (hr : m.dev.reset = some r)
include hr

theorem M.beginReset_eq (hnew : r.begun = false) : m.beginReset =
    (let m' := (m.resetCores r).foldl (fun (m : M) i => m.disable i .reset)
      ({ m with dev := { m.dev with reset := some { r with begun := true } } } : M)
    if r.level = 4 then ((List.range 32).foldl (fun (m : M) l => m.linkDrain l) m').pcieStop else m') := by
  unfold M.beginReset
  rw [hr]
  dsimp only
  rw [hnew, if_neg (by decide)]
  rfl

theorem M.quiesceEnd_idle {n : Nat} (hruns : m.resetDrained r = false) : m.quiesceEnd n = m := by
  unfold M.quiesceEnd
  rw [hr]
  dsimp only
  rw [hruns, if_pos (by simp)]

theorem M.quiesceEnd_asserts {n : Nat} (hbegun : r.begun = true) (hnew : r.asserted = false) (hspine : r.spine = true)
    (hdrained : m.resetDrained r = true) : m.quiesceEnd n =
      (let m' := (m.endDrain r).wrapObj 0x2100 2 63 32 n
      { m' with dev := { m'.dev with reset := some { r with asserted := true } } }) := by
  unfold M.quiesceEnd
  rw [hr]
  dsimp only
  rw [hbegun, hnew, hspine, hdrained, if_neg (by decide)]

theorem M.releaseReset_idle (hruns : m.resetDrained r = false) : m.releaseReset = m := by
  unfold M.releaseReset
  rw [hr]
  dsimp only
  rw [hruns, if_pos (by simp)]

theorem M.releaseReset_device (hlevel : r.level = 4) (hbegun : r.begun = true) (hasserted : r.asserted = true)
    (hdrained : m.resetDrained r = true) : m.releaseReset = m.deviceReset := by
  unfold M.releaseReset
  rw [hr]
  dsimp only
  rw [hbegun, hasserted, hdrained, if_neg (by simp), if_pos hlevel]

omit hr in
theorem M.resetCores_core (hlevel : r.level = 1) (hthere : m.fusedOff r.target = false) : m.resetCores r = [r.target] := by
  unfold M.resetCores
  rw [hlevel]
  simp [hthere]

/-- A core comes out of reset: no column and no tier of its own is reset with it. -/
theorem M.releaseReset_core (hlevel : r.level = 1) (hbegun : r.begun = true) (hthere : m.fusedOff r.target = false)
    (hdrained : m.resetDrained r = true) : m.releaseReset =
      (let m' := (m.resetCore r.target).countReset r
      ({ m' with dev := { m'.dev with reset := none } } : M).judgeBarriers) := by
  have hspine : r.spine = false := by simp [ResetReq.spine, hlevel]
  have htiers : r.tiers = [] := by unfold ResetReq.tiers; rw [hlevel]; rfl
  have hdrain : m.endDrain r = m := by unfold M.endDrain; rw [htiers]; rfl
  unfold M.releaseReset
  rw [hr]
  dsimp only
  rw [hbegun, hdrained, hspine, if_neg (by simp), if_neg (by omega), hdrain, ite_self, M.resetCores_core hlevel hthere, htiers]
  rfl

end

theorem M.resetDrained_iff {m : M} {r : ResetReq} :
    m.resetDrained r = true ↔ ∀ i ∈ m.resetCores r, (m.core i).run = none ∧ (m.core i).ready = none := by
  simp [M.resetDrained]

theorem M.resetDrained_runs {m : M} {r : ResetReq} (h : ∃ i ∈ m.resetCores r, (m.core i).run ≠ none) : m.resetDrained r = false := by
  obtain ⟨i, hi, hrun⟩ := h
  refine Bool.eq_false_iff.mpr fun hd => hrun ?_
  exact (M.resetDrained_iff.mp hd i hi).1

/-! ## The device reset -/

/-- What the last steps of a device reset leave as the wipe has made it. -/
structure M.Booted (a b : M) : Prop where
  fuse : b.fuse = a.fuse
  ops : b.ops = a.ops
  stage : b.obj 0x1010 1 = a.obj 0x1010 1
  powered : b.dev.powered = a.dev.powered
  tripped : b.dev.tripped = a.dev.tripped
  oscLost : b.dev.oscLost = a.dev.oscLost
  reset : b.dev.reset = a.dev.reset
  owner : b.dev.led.owner = a.dev.led.owner

section
variable {a b c : M}

theorem M.Booted.refl (a : M) : M.Booted a a := ⟨rfl, rfl, rfl, rfl, rfl, rfl, rfl, rfl⟩

theorem M.Booted.trans (h : M.Booted a b) (k : M.Booted b c) : M.Booted a c :=
  ⟨k.1.trans h.1, k.2.trans h.2, k.3.trans h.3, k.4.trans h.4, k.5.trans h.5, k.6.trans h.6, k.7.trans h.7, k.8.trans h.8⟩

theorem M.booted_setObj (a : M) {i : Nat} (j v : Nat) (hi : 0x1010 < i) : M.Booted a (a.setObj i j v) := by
  refine ⟨rfl, rfl, ?_, rfl, rfl, rfl, rfl, rfl⟩
  rw [M.obj_setObj, if_neg (by unfold objKey; omega)]

theorem M.booted_ite (a : M) {p : Prop} [Decidable p] {x y : M} (hx : M.Booted a x) (hy : M.Booted a y) : M.Booted a (if p then x else y) := by
  split
  · exact hx
  · exact hy

theorem M.booted_foldl {α : Type} {f : M → α → M} (hf : ∀ m x, M.Booted m (f m x)) (l : List α) (m : M) : M.Booted m (l.foldl f m) :=
  List.foldlRecOn (motive := fun m' => M.Booted m m') l f (M.Booted.refl m) fun m' h x _ => h.trans (hf m' x)

theorem M.booted_modSec (a : M) (f : Security → Security) : M.Booted a (a.modSec f) := ⟨rfl, rfl, rfl, rfl, rfl, rfl, rfl, rfl⟩

theorem M.booted_setPll (a : M) (n st : Nat) : M.Booted a (a.setPll n st) :=
  (a.booted_setObj n _ (by decide)).trans ⟨rfl, rfl, rfl, rfl, rfl, rfl, rfl, rfl⟩

theorem M.booted_sessionAfterReset (a : M) : M.Booted a a.sessionAfterReset := by
  unfold M.sessionAfterReset
  dsimp only
  split
  · exact ((a.booted_modSec _).trans (M.booted_setObj _ _ _ (by decide))).trans (M.booted_setObj _ _ _ (by decide))
  · exact a.booted_modSec _

theorem M.booted_settle (a : M) : M.Booted a a.settle := by
  have h := a.objsOnly_settle
  obtain ⟨_, _, _, _, hdev⟩ := a.objsOnly_settle
  exact ⟨h.fuse, h.ops, a.obj_settle _ _ (by decide) (by decide), by rw [hdev], by rw [hdev], by rw [hdev], by rw [hdev], by rw [hdev]⟩

theorem M.booted_modPower (a : M) (f : Power → Power) : M.Booted a (a.modPower f) := ⟨rfl, rfl, rfl, rfl, rfl, rfl, rfl, rfl⟩

theorem M.booted_toFloor (a : M) : M.Booted a a.toFloor := by
  unfold M.toFloor
  exact ((a.booted_setObj 4 _ (by decide : 0x1010 < 0x3020)).trans (M.booted_modPower _ _)).trans (M.booted_settle _)

theorem M.booted_raise (a : M) (v : Nat) : M.Booted a (a.raise v) := by
  have h := a.kept_raise v
  obtain ⟨_, _, _, _, _, _, _, _, _, _, hdev⟩ := a.kept_raise v
  exact ⟨h.fuse, h.ops, M.obj_raise _ _ _ _, by rw [hdev], by rw [hdev], by rw [hdev], by rw [hdev], by rw [hdev]⟩

theorem M.booted_pcieStart (a : M) : M.Booted a a.pcieStart := ⟨rfl, rfl, rfl, rfl, rfl, rfl, rfl, rfl⟩

end

theorem Tab.get_filterMap_none {α β : Type} {f : Nat × α → Option (Nat × β)} {t : Tab α} {k : Nat} (d : β)
    (h : ∀ e y, f e = some y → y.1 ≠ k) : Tab.get (t.filterMap f) d k = d := by
  have hfind : Tab.find? (t.filterMap f) k = none := by
    induction t with
    | nil => rfl
    | cons e r ih =>
      rw [List.filterMap_cons]
      split
      · exact ih
      · next y hy =>
        obtain ⟨k', v⟩ := y
        rw [Tab.find?, if_neg (h e _ hy)]
        exact ih
  rw [Tab.get, hfind]
  rfl

/-- STAGE is not among what a device reset keeps. -/
theorem keptValue_stage (v : Nat) : keptValue (objKey 0x1010 1) v = none := by
  simp [keptValue, objKey]

/-- The device with everything cleared that a device reset clears, and memory too. -/
def M.blank (m : M) : M := ({ m with dev := m.wiped } : M).zero 0 (2 ^ 48 - 1)

theorem M.stage_blank (m : M) : m.blank.obj 0x1010 1 = 0 := by
  refine Tab.get_filterMap_none _ fun e y hy => ?_
  intro hk
  obtain ⟨v, hv, hy⟩ := Option.bind_eq_some_iff.mp hy
  split at hy
  · cases hy
  · cases hy
    rw [show e.1 = objKey 0x1010 1 from hk, keptValue_stage] at hv
    cases hv

theorem M.dev_blank (m : M) : m.blank.dev = m.wiped := rfl

theorem M.reset_blank (m : M) : m.blank.dev.reset = none ∧ m.blank.dev.led.owner = none := by
  rw [M.dev_blank]
  exact ⟨rfl, rfl⟩

/-- The wipe leaves power, a trip and the loss of the oscillator as they are. -/
theorem M.power_blank (m : M) : m.blank.dev.powered = m.dev.powered ∧ m.blank.dev.tripped = m.dev.tripped ∧
    m.blank.dev.oscLost = m.dev.oscLost := by
  rw [M.dev_blank]
  simp only [M.wiped, and_self]

/-- After the wipe the reset writes objects, the session and the clocks, and nothing of memory. -/
theorem M.booted_deviceReset (m : M) : M.Booted m.blank m.deviceReset := by
  unfold M.deviceReset
  extract_lets doms groups maps ready blank domains lanes spares session clocked tripped powered
  have hdomains : M.Booted blank domains := M.booted_foldl (fun a d => a.booted_ite (.refl a) (a.booted_setObj _ _ (by decide))) _ _
  have hlanes : M.Booted domains lanes := M.booted_foldl (fun a g => a.booted_ite (.refl a) (a.booted_setObj _ _ (by decide))) _ _
  have hspares : M.Booted lanes spares := M.booted_foldl (fun a g => a.booted_ite (.refl a)
    ((a.booted_setObj _ _ (by decide)).trans (M.booted_setObj _ _ _ (by decide)))) _ _
  have hsession : M.Booted spares session := (spares.booted_setObj _ _ (by decide)).trans (M.booted_sessionAfterReset _)
  have hclocked : M.Booted session clocked := session.booted_ite (session.booted_setPll _ _) (.refl _)
  have htripped : M.Booted clocked tripped := clocked.booted_ite (clocked.booted_setObj _ _ (by decide)) (.refl _)
  have hpowered : M.Booted tripped powered := (tripped.booted_ite tripped.booted_toFloor tripped.booted_settle).trans (M.booted_pcieStart _)
  have hall := (((((hdomains.trans hlanes).trans hspares).trans hsession).trans hclocked).trans htripped).trans hpowered
  exact hall.trans (powered.booted_ite (powered.booted_raise _) (.refl _))

/-- A device reset ends with STAGE 0x00, no owner, no reset under way, and memory cleared last. -/
theorem M.deviceReset_spec (m : M) : m.deviceReset.fuse = m.fuse ∧ m.deviceReset.ops = .zero 0 (2 ^ 48 - 1) :: m.ops ∧
    m.deviceReset.obj 0x1010 1 = 0 ∧ m.deviceReset.dev.reset = none ∧ m.deviceReset.dev.led.owner = none ∧
    m.deviceReset.dev.powered = m.dev.powered ∧ m.deviceReset.dev.tripped = m.dev.tripped ∧ m.deviceReset.dev.oscLost = m.dev.oscLost := by
  have h := m.booted_deviceReset
  obtain ⟨hreset, howner⟩ := m.reset_blank
  obtain ⟨hpowered, htripped, hosc⟩ := m.power_blank
  exact ⟨h.fuse, h.ops, h.stage.trans m.stage_blank, h.reset.trans hreset, h.owner.trans howner, h.powered.trans hpowered,
    h.tripped.trans htripped, h.oscLost.trans hosc⟩

/-- Where the last effect on memory clears it, every byte reads zero. -/
theorem byte_cleared {s : State} (hs : s.sound) {ops rest : List MemOp} {hi : Nat} (ho : ops = .zero 0 hi :: rest) (d : Dev) {a : Nat}
    (ha : a ≤ hi) : (M.of { s with mem := s.mem.applyAll ops, dev := d }).byte a = 0 := by
  have hin : (decide (0 ≤ a) && decide (a ≤ hi)) = true := by simp [ha]
  show (none : Option Byte).getD (cellGet a (s.mem.applyAll ops).cells) = 0
  rw [Option.getD_none, applyAll_byte _ _ hs, ho, opsByte, if_pos hin, Option.getD_some]

/-- A command whose last effect on memory clears it. -/
theorem cleared_ends {c : Instr} {s : State} {f : M → M} {r : M} {rest : List MemOp} {P : M → Prop} (e : exec c s = s.run f)
    (hs : s.sound) (hf : f (M.of s) = r) (hfuse : r.fuse = s.fuse) (ho : r.ops = .zero 0 (2 ^ 48 - 1) :: rest)
    (hP : ∀ m : M, M.Like m r → (∀ x, x < 2 ^ 48 → m.byte x = 0) → P m) : Ends c s P := by
  subst hf
  exact ⟨_, e, hP _ ⟨hfuse.symm, rfl⟩ fun x hx => byte_cleared hs ho _ (Nat.le_sub_one_of_lt hx)⟩

theorem resetRelease_device_ends {s : State} {r : ResetReq} (hlive : (M.of s).live = true) (hr : (M.of s).dev.reset = some r)
    (hlevel : r.level = 4) (hbegun : r.begun = true) (hasserted : r.asserted = true) (hs : s.sound)
    (hdrained : ∀ i ∈ (M.of s).resetCores r, ((M.of s).core i).run = none ∧ ((M.of s).core i).ready = none) :
    Ends .resetRelease s fun m => m.obj 0x1010 1 = 0 ∧ m.dev.reset = none ∧ (∀ a, a < 2 ^ 48 → m.byte a = 0) ∧ m.dev.led.owner = none := by
  obtain ⟨hfuse, hops, hstage, hreset, howner, _⟩ := (M.of s).deviceReset_spec
  refine cleared_ends (exec_resetRelease s) hs
    ((M.when_of hlive).trans (M.releaseReset_device hr hlevel hbegun hasserted (M.resetDrained_iff.mpr hdrained))) hfuse hops
    fun m hlike hbytes => ?_
  exact ⟨(LikeViews.obj hlike _ _).trans hstage, hlike.dev ▸ hreset, hbytes, hlike.dev ▸ howner⟩

/-! ## Power-on (R442) -/

/-- What a cold boot hands to the device reset: power is there, no trip and no loss of the oscillator. -/
def M.repowered (m : M) : M :=
  let keep (k : Nat) : Bool := let i := k / 256
    i != 0x2001 && i != 0x3010 && !(0x4010 ≤ i && i ≤ 0x405E)
  { m with dev := { m.dev with
    powered := true, tripped := false, oscLost := false
    objs := m.dev.objs.filter fun e => keep e.1
    mgmt := Mgmt.zero, heat := Heat.zero, clocks := Clocks.zero
    power := { m.dev.power with alertLow := false, alertHold := false } } }

theorem M.coldBoot_eq (m : M) : m.coldBoot = m.dropUnsaved.repowered.deviceReset.setObj 0x4020 4 (m.obj 0x4020 4) := rfl

theorem M.fuse_repowered (m : M) : m.repowered.fuse = m.fuse := rfl

theorem M.fuse_dropUnsaved (m : M) : m.dropUnsaved.fuse = m.fuse :=
  List.foldlRecOn (motive := fun m' : M => m'.fuse = m.fuse) m.dev.faults.unsaved _ rfl fun _ h _ _ => h

theorem powerOn_ends {s : State} (hs : s.sound) (hdue : (!(M.of s).dev.powered || (M.of s).dev.tripped || (M.of s).dev.oscLost) = true) :
    Ends .powerOn s fun m => m.dev.powered = true ∧ m.dev.tripped = false ∧ m.dev.oscLost = false ∧ m.obj 0x1010 1 = 0 ∧
      m.obj 0x4020 4 = (M.of s).obj 0x4020 4 ∧ (∀ a, a < 2 ^ 48 → m.byte a = 0) := by
  obtain ⟨hfuse, hops, hstage, _, _, hpowered, htripped, hosc⟩ := (M.of s).dropUnsaved.repowered.deviceReset_spec
  have hboot : (M.of s).when (!(M.of s).dev.powered || (M.of s).dev.tripped || (M.of s).dev.oscLost) M.coldBoot =
      (M.of s).dropUnsaved.repowered.deviceReset.setObj 0x4020 4 ((M.of s).obj 0x4020 4) :=
    (M.when_of hdue).trans (M.of s).coldBoot_eq
  generalize hX : (M.of s).dropUnsaved.repowered.deviceReset = X at *
  refine cleared_ends (exec_powerOn s) hs hboot ((hfuse.trans (M.fuse_repowered _)).trans (M.fuse_dropUnsaved _)) hops
    fun m hlike hbytes => ⟨hlike.dev ▸ hpowered, hlike.dev ▸ htripped, hlike.dev ▸ hosc, ?_, ?_, hbytes⟩
  · exact ((LikeViews.obj hlike _ _).trans (M.obj_setObj_ne _ _ _ _ _ _ (by decide) (by decide) (by decide))).trans hstage
  · exact (LikeViews.obj hlike _ _).trans (M.obj_setObj_same _ _ _ _)

/-! ## Bring-up (R443 to R446) -/

section
variable {m : M} {bad cold : Nat}

theorem M.stageEnd_rom (hstage : m.obj 0x1010 1 = 0) (ok : Bool) : m.stageEnd ok bad cold =
    if !ok then m.bringupStop.modMgmt fun g => { g with responder := true }
    else if m.srcStable 1 && m.objBit 0x2001 1 4 then m.setStage 1 else m := by
  unfold M.stageEnd
  rw [hstage]
  rfl

theorem M.stageEnd_images (hstage : m.obj 0x1010 1 = 1) (hpass : m.verifyImages bad = (true, m)) :
    m.stageEnd true bad cold = (m.restoreSaved.setObjBit 0x7060 3 0 true).setStage 2 := by
  unfold M.stageEnd
  rw [hstage, hpass]
  rfl

theorem M.stageEnd_fails (hstage : m.obj 0x1010 1 = 2 ∨ m.obj 0x1010 1 = 3) : m.stageEnd false bad cold = m.bringupStop := by
  unfold M.stageEnd
  rcases hstage with h | h <;> rw [h] <;> rfl

/-- Where no trunk fails beyond its spares, no core is fenced. -/
theorem M.stageEnd_bond (hstage : m.obj 0x1010 1 = 2) : m.stageEnd true 0 cold =
    (List.range 32).foldl (fun (m : M) l => m.linkWake l)
      (((((m.modFaults fun f => { f with trunkBad := f.trunkNow, trunkNow := [] }).setObjBit 0x7060 3 0 false).satObj 0x7060 3 31 16
        1).startPlls).setStage 3) := by
  have hfences : (List.range 24).foldl (fun (m : M) i => if (0 : Nat).testBit i then m.fence i 2 else m) m = m := by
    simp only [Nat.zero_testBit, Bool.false_eq_true, if_false]
    exact List.foldl_fixed _
  have hnone : bitsSet 0 24 = [] := by decide
  unfold M.stageEnd
  rw [hstage, hfences, hnone]
  simp only [List.filter_nil, List.append_nil]
  rfl

theorem M.stageEnd_clocks (hstage : m.obj 0x1010 1 = 3) :
    m.stageEnd true bad cold = if m.stage3Ready then m.becomeReady bad cold else m := by
  unfold M.stageEnd
  rw [hstage]
  rfl

end

theorem M.objs_raise (m : M) (v : Nat) : (m.raise v).dev.objs = m.dev.objs := by
  unfold M.raise
  split <;> rfl

theorem M.ops_setStage (m : M) (n : Nat) : (m.setStage n).ops = m.ops := (M.kept_raise _ _).ops

/-- STAGE is what was written to it, whatever the fuses. -/
theorem M.stage_setStage {a b : M} {n : Nat} (h : b.dev = (a.setStage n).dev) : b.obj 0x1010 1 = n := by
  unfold M.obj
  rw [h, M.setStage, M.objs_raise]
  exact Tab.get_put_same _ _ _ _

/-- The device is ready: memory has been cleared, and the domains are written after that. -/
theorem M.becomeReady_spec (m : M) (bad cold : Nat) :
    ∃ a : M, m.becomeReady bad cold = a.setStage 4 ∧ ∃ rest, a.ops = .zero 0 (2 ^ 48 - 1) :: rest := by
  unfold M.becomeReady
  extract_lets trained cleared domains
  refine ⟨domains, rfl, trained.ops, ?_⟩
  exact List.foldlRecOn (motive := fun m' : M => m'.ops = cleared.ops) _ _ rfl fun _ h _ _ => h

theorem bringupStageEnd_ready_ends {bad : BitVec 24} {cold : BitVec 6} {s : State} (hlive : (M.of s).live = true)
    (hstage : (M.of s).obj 0x1010 1 = 3) (hready : (M.of s).stage3Ready = true) (hs : s.sound) :
    Ends (.bringupStageEnd true bad cold) s fun m => m.obj 0x1010 1 = 4 ∧ (∀ a, a < 2 ^ 48 → m.byte a = 0) := by
  obtain ⟨a, hready', rest, hops⟩ := (M.of s).becomeReady_spec bad.toNat cold.toNat
  have hends : (M.of s).when (M.of s).live (fun m => m.stageEnd true bad.toNat cold.toNat) = a.setStage 4 := by
    rw [M.when_of hlive, M.stageEnd_clocks hstage, hready, if_pos rfl, hready']
  refine ⟨_, exec_bringupStageEnd s true bad cold, M.stage_setStage (a := a) ?_,
    fun x hx => byte_cleared (rest := rest) hs ?_ _ (Nat.le_sub_one_of_lt hx)⟩
  · exact (congrArg M.dev hends :)
  · exact (congrArg M.ops hends).trans ((M.ops_setStage _ _).trans hops)

/-! ## The watchdog (R459, R460) -/

section
variable (s : State)

theorem exec_mcHeartbeat : exec .mcHeartbeat s = s.run fun m => m.when (m.live && m.pllRuns mgmtPll) M.mcBeat := rfl

theorem exec_mcTimeout : exec .mcTimeout s = s.run fun m => m.when (m.live && !m.dev.faults.mcDown) M.mcLost := rfl

theorem exec_ltcTimeout : exec .ltcTimeout s = s.run fun m => m.when (m.live && !m.dev.faults.mcDown) M.ltcLost := rfl

theorem exec_restartLimit : exec .restartLimit s = s.run fun m =>
    m.when (m.live && m.dev.faults.mcDown && m.dev.faults.mcRestarted && m.mcAction == 2) M.watchdog := rfl

end

theorem M.when_not {m : M} {c : Bool} {f : M → M} (hc : c = false) : m.when c f = m := by
  rw [hc, M.when_false]

theorem M.tripped_of_live {m : M} (h : m.live = true) : m.dev.tripped = false := by
  simp only [M.live, Bool.and_eq_true, Bool.not_eq_true'] at h
  exact h.1.2

theorem M.mcBeat_live {m : M} (hlive : m.live = true) : m.mcBeat =
    (m.modFaults fun f => { f with mcDown := false, mcRestarted := false }).modMgmt fun g => { g with responder := false } := by
  unfold M.mcBeat
  rw [M.tripped_of_live hlive]

theorem M.Kept.sec {a b : M} (h : M.Kept a b) : b.dev.sec = a.dev.sec := by
  obtain ⟨_, _, _, _, _, _, _, _, _, _, e⟩ := h
  rw [e]

theorem M.revertProc_stays {m : M} (h : m.dev.sec.mc.pending = false) (err : Nat) : m.revertProc 1 err = m := by
  unfold M.revertProc
  rw [show (m.proc 1).pending = false from h]
  rfl

theorem M.mcLost_confirmed {m : M} (h : m.dev.sec.mc.pending = false) : m.mcLost =
    ((m.modFaults fun f => { f with mcDown := true, mcRestarted := m.mcAction != 0 }).modMgmt fun g =>
      { g with responder := true }).logFault 0x7005 m.mcAction 0 0 clkWatch :=
  M.revertProc_stays (by rw [(M.kept_logFault _ _ _ _ _ _).sec]; exact h) 10

theorem M.watchdog_confirmed {m : M} (h : m.dev.sec.mc.pending = false) : m.watchdog = (m.logFault 0x7005 2 0 0 clkWatch).deviceReset := by
  rw [M.watchdog, h, if_neg (by decide)]

theorem M.ltcLost_confirmed {m : M} (h : m.dev.sec.ltc.pending = false) : m.ltcLost = m.retrainAll := by
  rw [M.ltcLost, h, if_neg (by decide)]

theorem restartLimit_ends {s : State} (hlive : (M.of s).live = true) (hdown : (M.of s).dev.faults.mcDown = true)
    (hrestarted : (M.of s).dev.faults.mcRestarted = true) (hconfirmed : (M.of s).dev.sec.mc.pending = false)
    (haction : (M.of s).mcAction = 2) (hs : s.sound) :
    Ends .restartLimit s fun m => m.obj 0x1010 1 = 0 ∧ ∀ a, a < 2 ^ 48 → m.byte a = 0 := by
  obtain ⟨hfuse, hops, hstage, _⟩ := ((M.of s).logFault 0x7005 2 0 0 clkWatch).deviceReset_spec
  have hdue : ((M.of s).live && (M.of s).dev.faults.mcDown && (M.of s).dev.faults.mcRestarted && (M.of s).mcAction == 2) = true := by
    rw [hlive, hdown, hrestarted, haction]
    rfl
  have hlogged : ((M.of s).logFault 0x7005 2 0 0 clkWatch).fuse = (M.of s).fuse := ((M.of s).kept_logFault _ _ _ _ _).fuse
  have hruns := (M.when_of (f := M.watchdog) hdue).trans (M.watchdog_confirmed hconfirmed)
  generalize ((M.of s).logFault 0x7005 2 0 0 clkWatch).deviceReset = r at *
  exact cleared_ends (exec_restartLimit s) hs hruns (hfuse.trans hlogged) hops
    fun m hlike hbytes => ⟨(LikeViews.obj hlike _ _).trans hstage, hbytes⟩

/-! ## The bond test's pass (R450) -/

theorem exec_bondTestPeriod (s : State) :
    exec .bondTestPeriod s = s.run fun m => m.when (m.live && m.ready && !m.objBit 0x7060 3 0) M.beginPass := rfl

theorem exec_runTest (p : Party) (s : State) : exec (.runTest p) s = s.run fun m => m.partyWrite p 0x7060 2 1 := rfl

theorem testSpec_takes : testSpec.Takes 1 := by decide

theorem M.applyField_test (m : M) (p : Party) :
    m.applyField p 0x7060 2 testSpec 1 = if m.objBit 0x7060 3 0 then (7, m) else (0, m.beginPass) := rfl

/-- A pass is marked under way. -/
def M.passMarked (m : M) : M := (m.setObjBit 0x7060 3 0 true).modFaults fun f => { f with trunkNow := [] }

theorem M.sparesLeft_passMarked (m : M) (i seg : Nat) : m.passMarked.sparesLeft i seg = m.sparesLeft i seg := rfl

/-- With spares left everywhere no segment is skipped. -/
theorem M.beginPass_spared {m : M} (h : ∀ i seg, i < 24 → seg < 6 → m.sparesLeft i seg ≠ 0) : m.beginPass = m.passMarked := by
  refine foldl_eq_self _ _ _ fun i hi => foldl_eq_self _ _ _ fun seg hseg => if_neg ?_
  exact (m.sparesLeft_passMarked i seg).trans_ne (h i seg (List.mem_range.mp hi) (List.mem_range.mp hseg))

/-! ## A lane's test (R450, R452 to R454) -/

theorem exec_laneTestDone (i : Fin 24) (seg : Fin 6) (x : Fin 28) (lane : BitVec 12) (ok last : Bool) (s : State) :
    exec (.laneTestDone i seg x lane ok last) s = s.run fun m => m.when m.live fun m => m.laneDone i seg x lane.toNat ok last := rfl

section
variable {m : M} {i seg cross lane : Nat} (hpass : m.objBit 0x7060 3 0 = true) (hcross : cross < segCrossings i seg) (hlane : lane < segData seg)
include hpass hcross hlane

theorem M.laneDone_reached (ok last : Bool) : m.laneDone i seg cross lane ok last =
    (let m' := if ok then m
      else if m.sparesUsed i seg cross < segSpares seg then m.useSpare i seg cross lane
      else m.noSpare i seg lane
    if last && m'.ready then
      ((m'.setObjBit 0x7060 3 0 false).satObj 0x7060 3 31 16 1).modFaults fun f => { f with trunkBad := f.trunkNow, trunkNow := [] }
    else m') := by
  have hthere : (!m.objBit 0x7060 3 0 || decide (segCrossings i seg ≤ cross) || decide (segData seg + segSpares seg ≤ lane)) = false := by
    simp only [hpass, Bool.not_true, Bool.false_or, Bool.or_eq_false_iff, decide_eq_false_iff_not]
    omega
  unfold M.laneDone
  rw [hthere, if_neg (by decide), if_pos hlane]

theorem M.laneDone_good {last : Bool} (hlast : last = false ∨ m.ready = false) : m.laneDone i seg cross lane true last = m := by
  have hopen : (last && m.ready) = false := by rcases hlast with h | h <;> simp [h]
  rw [M.laneDone_reached hpass hcross hlane]
  dsimp only
  rw [if_pos rfl, hopen, if_neg (by decide)]

theorem M.laneDone_last (hready : m.ready = true) : m.laneDone i seg cross lane true true =
    ((m.setObjBit 0x7060 3 0 false).satObj 0x7060 3 31 16 1).modFaults fun f => { f with trunkBad := f.trunkNow, trunkNow := [] } := by
  rw [M.laneDone_reached hpass hcross hlane]
  dsimp only
  rw [if_pos rfl, hready, if_pos (by decide)]

theorem M.laneDone_spare (hspare : m.sparesUsed i seg cross < segSpares seg) :
    m.laneDone i seg cross lane false false = m.useSpare i seg cross lane := by
  rw [M.laneDone_reached hpass hcross hlane]
  exact if_pos hspare

theorem M.laneDone_noSpare (hnone : m.sparesUsed i seg cross = segSpares seg) :
    m.laneDone i seg cross lane false false = m.noSpare i seg lane := by
  rw [M.laneDone_reached hpass hcross hlane]
  exact if_neg hnone.not_lt

end

theorem M.noSpare_port {m : M} {i : Nat} (lane : Nat) (hopen : i ∉ m.dev.portClosed) (hfree : m.fenced i = false) (hthere : m.fusedOff i = false) :
    m.noSpare i 5 lane = { m with dev := { m.dev with portClosed := m.dev.portClosed ++ [i] } } := by
  have hnone : m.dev.portClosed.contains i = false := by simpa using hopen
  have hreached : (m.fenced i || m.fusedOff i) = false := by rw [hfree, hthere]; rfl
  show m.closePort i = _
  unfold M.closePort
  rw [hnone, if_neg (by decide)]
  exact if_neg (Bool.eq_false_iff.mp hreached)

/-! ### A spare is used -/

theorem M.faults_raise (m : M) (v : Nat) : (m.raise v).dev.faults = m.dev.faults := by
  unfold M.raise
  split <;> rfl

theorem M.faults_sendEvents (m : M) (sub seq : Nat) : (m.sendEvents sub seq).dev.faults = m.dev.faults := by
  unfold M.sendEvents
  refine List.foldlRecOn (motive := fun m' : M => m'.dev.faults = m.dev.faults) _ _ rfl fun m' h k _ => ?_
  dsimp only
  split
  · exact h
  · exact h

theorem M.spares_logFault (m : M) (code subject data reason clk : Nat) :
    (m.logFault code subject data reason clk).dev.faults.spares = m.dev.faults.spares := by
  unfold M.logFault
  dsimp only
  rw [M.faults_sendEvents, M.faults_raise]
  split <;> rfl

theorem M.sparesUsed_useSpare (m : M) (i seg cross lane : Nat) :
    (m.useSpare i seg cross lane).sparesUsed i seg cross = m.sparesUsed i seg cross + 1 := by
  unfold M.useSpare M.sparesUsed
  rw [M.spares_logFault]
  exact Tab.get_put_same _ _ _ _

theorem M.kept_useSpare (m : M) (i seg cross lane : Nat) : M.Kept m (m.useSpare i seg cross lane) :=
  ((m.kept_modFaults _).trans (M.kept_setObjFld _ _ _ _ _ _)).trans (M.kept_logFault _ _ _ _ _ _)

theorem M.obj_useSpare (m : M) {i : Nat} (seg cross lane : Nat) (hi : i < 24) : M.SameIndices m (m.useSpare i seg cross lane) [0x7061, 0x7100] := by
  intro k j hj hk
  simp only [List.mem_cons, List.not_mem_nil, or_false, not_or] at hk
  obtain ⟨hspares, hlog⟩ := hk
  unfold M.useSpare
  rw [M.obj_logFault _ _ _ _ _ _ _ _ hlog hj]
  exact M.obj_setObj_ne _ _ _ _ _ _ hj (by omega) (by simp [hspares])

theorem laneTestDone_spare_ends {i : Fin 24} {seg : Fin 6} {x : Fin 28} {lane : BitVec 12} {s : State} (hlive : (M.of s).live = true)
    (hdone : (M.of s).laneDone i seg x lane.toNat false false = (M.of s).useSpare i seg x lane.toNat) :
    Ends (.laneTestDone i seg x lane false false) s fun m =>
      m.sparesUsed i.val seg.val x.val = (M.of s).sparesUsed i.val seg.val x.val + 1 ∧
      m.newestFault = (0x7003, i.val * 256 + seg.val, lane.toNat) ∧ (M.of s).SameWork m ∧ (M.of s).SameIndices m [0x7061, 0x7100] := by
  have hkept := (M.of s).kept_useSpare i seg x lane.toNat
  have hused := (M.of s).sparesUsed_useSpare i seg x lane.toNat
  have hobjs := (M.of s).obj_useSpare seg x lane.toNat i.isLt
  have hfault : ((M.of s).useSpare i seg x lane.toNat).newestFault = (0x7003, i.val * 256 + seg.val, lane.toNat) := by
    unfold M.useSpare
    rw [M.newestFault_logFault _ _ _ _ _ _ (by decide) (by decide), Nat.mod_eq_of_lt (show i.val * 256 + seg.val < 2 ^ 32 by omega),
      Nat.mod_eq_of_lt (lane.isLt.trans (by decide))]
  refine ends_quiet (exec_laneTestDone i seg x lane false false s) ((M.when_of hlive).trans hdone) hkept.fuse hkept.ops
    fun m hlike hmem => ⟨?_, ?_, hkept.aside.sameWork hlike hmem, fun k j hj hk => (LikeViews.obj hlike k j).trans (hobjs k j hj hk)⟩
  · unfold M.sparesUsed
    rw [hlike.dev]
    exact hused
  · exact (M.newestFault_same fun k j => (LikeViews.obj hlike k j).symm).symm.trans hfault

/-! ### A lane group is mapped out -/

/-- Bank group `g` of layer quadrant `l` of core `i` is out. -/
def M.bankOut (i l : Nat) (m : M) (g : Nat) : M :=
  if m.dev.outGroups.contains (128 * (4 * i + l) + g) then m
  else
    let m : M := { m with dev := { m.dev with outGroups := m.dev.outGroups ++ [128 * (4 * i + l) + g] } }
    (m.setObjBit 0x7040 (i + 1) (128 * l + g) true).setObj 0x7041 (i + 1) (m.obj 0x7041 (i + 1) - 16)

/-- Both bank groups of lane group `j` are out, of a layer quadrant. -/
def M.pairOut (i j : Nat) (m : M) (l : Nat) : M := [2 * j, 2 * j + 1].foldl (M.bankOut i l) m

theorem M.mapOut_fresh {m : M} {i seg j : Nat} (h : (i * 4 + seg) * 64 + j ∉ m.dev.faults.groupsOut) : m.mapOut i seg j =
    ((segOrdinals seg).foldl (M.pairOut i j)
      ((m.modFaults fun f => { f with groupsOut := f.groupsOut ++ [(i * 4 + seg) * 64 + j] }).satObj 0x7061 (i + 1) 55 48 1)).logFault
      0x5002 (i * 256 + seg) (j * 2 ^ 58 + (segOrdinals seg).foldl (fun v l => v + 2 ^ l) 0) 0 clkMgmt := by
  have hnew : m.dev.faults.groupsOut.contains ((i * 4 + seg) * 64 + j) = false := by simpa using h
  unfold M.mapOut
  dsimp only
  rw [hnew, if_neg (by decide)]
  rfl

theorem M.aside_bankOut (i l : Nat) (m : M) (g : Nat) : M.Aside m (m.bankOut i l g) := by
  unfold M.bankOut
  split
  · exact .refl m
  · exact ⟨rfl, rfl, rfl, rfl, rfl, rfl⟩

theorem M.obj_bankOut {i : Nat} (hi : i < 24) (l : Nat) (m : M) (g k j : Nat) (hj : j < 256) (hk : k ≠ 0x7040 ∧ k ≠ 0x7041) :
    (m.bankOut i l g).obj k j = m.obj k j := by
  unfold M.bankOut
  split
  · rfl
  · exact (M.obj_setObj_ne _ _ _ _ _ _ hj (by omega) (by simp [hk.2])).trans (M.obj_setObj_ne _ _ _ _ _ _ hj (by omega) (by simp [hk.1]))

theorem M.mem_bankOut (i l : Nat) (m : M) (g : Nat) : 128 * (4 * i + l) + g ∈ (m.bankOut i l g).dev.outGroups := by
  unfold M.bankOut
  split
  · next h => simpa using h
  · exact List.mem_append_right _ (List.mem_singleton.mpr rfl)

theorem M.outGroups_bankOut {n : Nat} (i l : Nat) {m : M} (g : Nat) (h : n ∈ m.dev.outGroups) : n ∈ (m.bankOut i l g).dev.outGroups := by
  unfold M.bankOut
  split
  · exact h
  · exact List.mem_append_left _ h

/-- What every step keeps and one step brings about holds after a fold with that step. -/
theorem foldl_holds {α β : Type} {f : β → α → β} {P : β → Prop} (hkeep : ∀ b a, P b → P (f b a)) {a : α} (hmake : ∀ b, P (f b a)) :
    ∀ (l : List α) (b : β), a ∈ l → P (l.foldl f b)
  | c :: r, b, h => by
    rcases List.mem_cons.mp h with rfl | h
    · exact List.foldlRecOn (motive := P) r f (hmake b) fun b' hb' c _ => hkeep b' c hb'
    · exact foldl_holds hkeep hmake r (f b c) h

theorem M.outGroups_pairOut {n : Nat} (i j : Nat) {m : M} (l : Nat) (h : n ∈ m.dev.outGroups) : n ∈ (m.pairOut i j l).dev.outGroups :=
  List.foldlRecOn (motive := fun m' : M => n ∈ m'.dev.outGroups) _ _ h fun _ h' g _ => M.outGroups_bankOut i l g h'

theorem M.mem_pairOut (i j : Nat) (m : M) (l : Nat) {g : Nat} (hg : g ∈ [2 * j, 2 * j + 1]) :
    128 * (4 * i + l) + g ∈ (m.pairOut i j l).dev.outGroups :=
  foldl_holds (P := fun m' : M => 128 * (4 * i + l) + g ∈ m'.dev.outGroups) (fun _ g' h => M.outGroups_bankOut i l g' h)
    (fun m' => m'.mem_bankOut i l g) _ m hg

theorem M.outGroups_logFault (m : M) (code subject data reason clk : Nat) :
    (m.logFault code subject data reason clk).dev.outGroups = m.dev.outGroups := by
  obtain ⟨_, _, _, _, _, _, _, _, _, _, e⟩ := m.kept_logFault code subject data reason clk
  rw [e]

section
variable {m : M} {i seg j : Nat} (hfresh : (i * 4 + seg) * 64 + j ∉ m.dev.faults.groupsOut)
include hfresh

theorem M.aside_mapOut : M.Aside m (m.mapOut i seg j) := by
  rw [M.mapOut_fresh hfresh]
  refine M.Aside.trans ?_ (M.kept_logFault _ _ _ _ _ _).aside
  refine M.Aside.trans ?_ (M.aside_foldl _ (fun m' l => M.aside_foldl _ (M.aside_bankOut i l) _ m') _ _)
  exact ((m.kept_modFaults _).trans (M.kept_satObj _ _ _ _ _ _)).aside

theorem M.obj_mapOut (hi : i < 24) : M.SameIndices m (m.mapOut i seg j) [0x7061, 0x7040, 0x7041, 0x7100] := by
  intro k n hn hk
  simp only [List.mem_cons, List.not_mem_nil, or_false, not_or] at hk
  obtain ⟨hcount, hmap, hleft, hlog⟩ := hk
  rw [M.mapOut_fresh hfresh, M.obj_logFault _ _ _ _ _ _ _ _ hlog hn]
  refine (M.obj_foldl _ _ _ _ (fun m' l => M.obj_foldl _ _ _ _ (fun m'' g => M.obj_bankOut hi l m'' g k n hn ⟨hmap, hleft⟩) _) _).trans ?_
  exact M.obj_setObj_ne _ _ _ _ _ _ hn (by omega) (by simp [hcount])

theorem M.mem_mapOut {l g : Nat} (hl : l ∈ segOrdinals seg) (hg : g ∈ [2 * j, 2 * j + 1]) :
    128 * (4 * i + l) + g ∈ (m.mapOut i seg j).dev.outGroups := by
  rw [M.mapOut_fresh hfresh, M.outGroups_logFault]
  exact foldl_holds (P := fun m' : M => 128 * (4 * i + l) + g ∈ m'.dev.outGroups) (fun _ l' h => M.outGroups_pairOut i j l' h)
    (fun m' => m'.mem_pairOut i j l hg) _ _ hl

end

/-- A channel segment's layer quadrants, as a set of four bits. -/
theorem segOrdinals_bits (seg : Nat) : (segOrdinals seg).foldl (fun v l => v + 2 ^ l) 0 < 16 := by
  unfold segOrdinals
  split <;> decide

theorem M.newestFault_mapOut {m : M} {i seg j : Nat} (hfresh : (i * 4 + seg) * 64 + j ∉ m.dev.faults.groupsOut) (hi : i < 24) (hseg : seg < 4)
    (hj : j < 64) : (m.mapOut i seg j).newestFault =
      (0x5002, i * 256 + seg, j * 2 ^ 58 + (segOrdinals seg).foldl (fun v l => v + 2 ^ l) 0) := by
  have hbits := segOrdinals_bits seg
  rw [M.mapOut_fresh hfresh, M.newestFault_logFault _ _ _ _ _ _ (by decide) (by decide),
    Nat.mod_eq_of_lt (show i * 256 + seg < 2 ^ 32 by omega), Nat.mod_eq_of_lt (by omega)]

theorem laneTestDone_mapOut_ends {i : Fin 24} {seg : Fin 6} {x : Fin 28} {lane : BitVec 12} {s : State} (hlive : (M.of s).live = true)
    (hseg : seg.val < 4) (hlane : lane.toNat < segData seg.val)
    (hfresh : (i.val * 4 + seg.val) * 64 + lane.toNat / 16 ∉ (M.of s).dev.faults.groupsOut)
    (hdone : (M.of s).laneDone i seg x lane.toNat false false = (M.of s).noSpare i seg lane.toNat) :
    Ends (.laneTestDone i seg x lane false false) s fun m =>
      (∀ l ∈ segOrdinals seg.val, ∀ g ∈ [2 * (lane.toNat / 16), 2 * (lane.toNat / 16) + 1],
        128 * (4 * i.val + l) + g ∈ m.dev.outGroups) ∧
      m.newestFault = (0x5002, i.val * 256 + seg.val, lane.toNat / 16 * 2 ^ 58 + (segOrdinals seg.val).foldl (fun v l => v + 2 ^ l) 0) ∧
      (M.of s).SameWork m ∧ (M.of s).SameIndices m [0x7061, 0x7040, 0x7041, 0x7100] := by
  have hmapped : (M.of s).noSpare i seg lane.toNat = (M.of s).mapOut i seg (lane.toNat / 16) := if_pos hseg
  have hgroup : lane.toNat / 16 < 64 := by
    rw [segData, if_pos hseg] at hlane
    omega
  have haside := M.aside_mapOut hfresh
  have hobjs := M.obj_mapOut hfresh i.isLt
  have hfault := M.newestFault_mapOut hfresh i.isLt hseg hgroup
  refine ends_quiet (exec_laneTestDone i seg x lane false false s) ((M.when_of hlive).trans (hdone.trans hmapped)) haside.fuse haside.ops
    fun m hlike hmem => ⟨fun l hl g hg => ?_, ?_, haside.sameWork hlike hmem, fun k j hj hk => (LikeViews.obj hlike k j).trans (hobjs k j hj hk)⟩
  · rw [hlike.dev]
    exact M.mem_mapOut hfresh hl hg
  · exact (M.newestFault_same fun k j => (LikeViews.obj hlike k j).symm).symm.trans hfault

/-! ## The statement -/

/-- Settles O59, by what each request asks for, and by what each step of a reset, a bring-up stage, a timer of the watchdog and a
lane's test make of the device. -/
theorem resetsBringUpAndTests : Obligations.ResetsBringUpAndTests := by
  refine ⟨fun p x full s hserves => ?requests, fun r n s hlive hr => ?progress, fun s hs hdown => ?power, fun bad cold s hlive => ?stages,
    fun s hlive => ?watchdog, fun p s hlive => ?passes, fun i seg x lane ok last s hlive hpass hcross hlane => ?lanes⟩
  case requests =>
    have hx : x.toNat < 256 := x.isLt
    have hplain : ∀ level, x.toNat * 256 + level = x.toNat * 256 + false.toNat * 16 + level := fun _ => by simp
    have ecore := exec_resetCore p x s
    have etier := exec_resetTier p x s full
    have epart := exec_resetPartition p x s
    have edevice := exec_resetDevice p s
    have hcores : x.toNat < 24 → resetExists 1 x.toNat false = true := fun h => by simp [resetExists, h]
    have htiers : 1 ≤ x.toNat → x.toNat ≤ 6 → resetExists 2 x.toNat full = true := fun h1 h6 => by simp [resetExists, h1, h6]
    have hparts : x.toNat < 2 → resetExists 3 x.toNat false = true := fun h => by simp [resetExists, h]
    intro ask vTier
    refine ⟨fun h => ?_, fun h => ?_, fun h => ?_, fun hbusy => ⟨fun h => ?_, fun h1 h6 => ?_, fun h => ?_, ?_⟩,
      fun hfree => ⟨fun h hf => ?_, fun h hf => ?_, fun h1 h6 => ?_, fun h => ?_, ?_⟩⟩
    · exact reset_rejectsRange (full := false) hserves ecore (hplain 1) hx (by decide) (by simp [resetExists]; omega)
    · exact reset_rejectsRange hserves etier rfl hx (by decide) (by simp [resetExists]; omega)
    · exact reset_rejectsRange (full := false) hserves epart (hplain 3) hx (by decide) (by simp [resetExists]; omega)
    · exact reset_rejectsState (full := false) hserves ecore (hplain 1) hx (by decide) (hcores h) (M.mayReset_busy hbusy _ _)
    · exact reset_rejectsState hserves etier rfl hx (by decide) (htiers h1 h6) (M.mayReset_busy hbusy _ _)
    · exact reset_rejectsState (full := false) hserves epart (hplain 3) hx (by decide) (hparts h) (M.mayReset_busy hbusy _ _)
    · exact reset_rejectsState (x := 0) (level := 4) (full := false) hserves edevice rfl (by decide) (by decide) rfl (M.mayReset_busy hbusy _ _)
    · exact reset_rejectsState (full := false) hserves ecore (hplain 1) hx (by decide) (hcores h) (M.mayReset_fused hf)
    · exact reset_applies (full := false) hserves ecore (hplain 1) hx (by decide) (hcores h) (M.mayReset_free hfree fun _ => hf)
    · exact reset_applies hserves etier rfl hx (by decide) (htiers h1 h6) (M.mayReset_free hfree fun h => absurd h (by decide))
    · exact reset_applies (full := false) hserves epart (hplain 3) hx (by decide) (hparts h) (M.mayReset_free hfree fun h => absurd h (by decide))
    · exact reset_applies (x := 0) (level := 4) (full := false) hserves edevice rfl (by decide) (by decide) rfl
        (M.mayReset_free hfree fun h => absurd h (by decide))
  case progress =>
    have hbegin : ∀ {g : M → M}, (M.of s).beginReset = g (M.of s) → Does .resetBegin s g := fun h =>
      does_of (exec_resetBegin s) ((M.when_of hlive).trans h)
    have hquiesce : ∀ {g : M → M}, (M.of s).quiesceEnd n.toNat = g (M.of s) → Does (.spineQuiesceEnd n) s g := fun h =>
      does_of (exec_spineQuiesceEnd s n) ((M.when_of hlive).trans h)
    have hrelease : ∀ {g : M → M}, (M.of s).releaseReset = g (M.of s) → Does .resetRelease s g := fun h =>
      does_of (exec_resetRelease s) ((M.when_of hlive).trans h)
    intro mark clear
    refine ⟨fun hnew hlevel => ?_, fun hnew hlevel => ?_, fun hbegun hnew hspine hdrained => ?_, fun hruns => ⟨?_, ?_⟩,
      fun hlevel hbegun hthere hrun hready => ?_, fun hlevel hbegun hasserted hs hdrained =>
        resetRelease_device_ends hlive hr hlevel hbegun hasserted hs hdrained⟩
    · exact hbegin ((M.beginReset_eq hr hnew).trans (if_neg hlevel))
    · exact hbegin ((M.beginReset_eq hr hnew).trans (if_pos hlevel))
    · exact hquiesce (M.quiesceEnd_asserts hr hbegun hnew hspine (M.resetDrained_iff.mpr hdrained))
    · exact hrelease (M.releaseReset_idle hr (M.resetDrained_runs hruns))
    · exact hquiesce (M.quiesceEnd_idle hr (M.resetDrained_runs hruns))
    · have hdrained : (M.of s).resetDrained r = true := M.resetDrained_iff.mpr fun i hi => by
        rw [M.resetCores_core hlevel hthere, List.mem_singleton] at hi
        exact hi ▸ ⟨hrun, hready⟩
      refine hrelease ((M.releaseReset_core hr hlevel hbegun hthere hdrained).trans ?_)
      unfold M.countReset
      rw [hlevel]
      rfl
  case power =>
    exact powerOn_ends hs (by rcases hdown with h | h | h <;> simp only [h, Bool.not_false, Bool.true_or, Bool.or_true])
  case stages =>
    have hend : ∀ {ok : Bool} {g : M → M}, (M.of s).stageEnd ok bad.toNat cold.toNat = g (M.of s) → Does (.bringupStageEnd ok bad cold) s g :=
      fun h => does_of (exec_bringupStageEnd s _ bad cold) ((M.when_of hlive).trans h)
    intro stage stop
    refine ⟨fun hstage => ?_, fun hstage => ?_, fun hstage hstable hready => ?_, fun hstage hpass => ?_, fun hstage hbad => ?_,
      fun hstage hwaits => ?_, fun hstage hready hs => bringupStageEnd_ready_ends hlive hstage hready hs⟩
    · exact hend (M.stageEnd_rom hstage false)
    · exact hend (M.stageEnd_fails hstage)
    · refine hend ((M.stageEnd_rom hstage true).trans ?_)
      rw [hstable, hready]
      rfl
    · exact hend (M.stageEnd_images hstage hpass)
    · subst hbad
      exact hend (M.stageEnd_bond hstage)
    · refine hend ((M.stageEnd_clocks hstage).trans ?_)
      rw [hwaits]
      rfl
  case watchdog =>
    intro action
    refine ⟨fun hclock => ?_, fun hup hconfirmed => ?_, fun hup hconfirmed => ?_, fun hdown hrestarted hconfirmed =>
      ⟨fun haction hs => restartLimit_ends hlive hdown hrestarted hconfirmed haction hs, fun haction => ?_⟩⟩
    · refine does_of (exec_mcHeartbeat s) ((M.when_of ?_).trans (M.mcBeat_live hlive))
      rw [hlive]
      exact beq_iff_eq.mpr hclock
    · refine does_of (exec_mcTimeout s) ((M.when_of ?_).trans (M.mcLost_confirmed hconfirmed))
      rw [hlive, hup]
      rfl
    · refine does_of (exec_ltcTimeout s) ((M.when_of ?_).trans (M.ltcLost_confirmed hconfirmed))
      rw [hlive, hup]
      rfl
    · have hother : ((M.of s).mcAction == 2) = false := beq_eq_false_iff_ne.mpr haction
      refine does_of (exec_restartLimit s) (M.when_not ?_)
      rw [hother, Bool.and_false]
  case passes =>
    intro begins
    refine ⟨fun hbusy => ⟨?_, fun hserves => ?_⟩, fun hidle hspares => ⟨fun hready => ?_, fun hserves => ?_⟩⟩
    · exact does_of (exec_bondTestPeriod s) (M.when_not (by rw [hbusy, Bool.not_true, Bool.and_false]))
    · obtain ⟨hhears, hserved, howner⟩ := hserves
      exact rejects_taken (exec_runTest p s) hhears hserved (fun _ => howner) objSpec_test rfl testSpec_takes (by decide)
        (((M.of s).applyField_test p).trans (if_pos hbusy))
    · exact does_of (exec_bondTestPeriod s) ((M.when_of (by rw [hlive, hready, hidle]; rfl)).trans (M.beginPass_spared hspares))
    · obtain ⟨hhears, hserved, howner⟩ := hserves
      exact applies_taken (exec_runTest p s) hhears hserved (fun _ => howner) objSpec_test rfl testSpec_takes
        (((M.of s).applyField_test p).trans ((if_neg (Bool.eq_false_iff.mp hidle)).trans (congrArg (Prod.mk 0) (M.beginPass_spared hspares))))
  case lanes =>
    have hdone : ∀ {g : M → M}, (M.of s).laneDone i seg x lane.toNat ok last = g (M.of s) → Does (.laneTestDone i seg x lane ok last) s g :=
      fun h => does_of (exec_laneTestDone i seg x lane ok last s) ((M.when_of hlive).trans h)
    refine ⟨fun hlast hok => ?good, fun hlast hready hok => ?last, fun hlast hok hspare => ?spare, fun hlast hok hnone =>
      ⟨fun hseg hopen hfree hthere => ?port, fun hseg hfresh => ?group⟩⟩
    case good =>
      subst hok
      exact hdone (M.laneDone_good hpass hcross hlane hlast)
    case last =>
      subst hlast hok
      exact hdone (M.laneDone_last hpass hcross hlane hready)
    case spare =>
      subst hlast hok
      exact laneTestDone_spare_ends hlive (M.laneDone_spare hpass hcross hlane hspare)
    case port =>
      subst hlast hok
      refine hdone ((M.laneDone_noSpare hpass hcross hlane hnone).trans ?_)
      rw [hseg]
      exact M.noSpare_port _ hopen hfree hthere
    case group =>
      subst hlast hok
      exact laneTestDone_mapOut_ends hlive hseg hlane hfresh (M.laneDone_noSpare hpass hcross hlane hnone)

end Sys2Proof.Machine
end
